-- ==== Sys2Proof/Word.lean ====
section
/-! DEFINITION. The word types of the Swetar and their plainest arithmetic (00_scope R6, R12). -/

namespace Sys2Proof

/-- A register, a group register, a CSR: 64 bits (R6). -/
abbrev W64 := BitVec 64

/-- An instruction word is always 32 bits (R12). -/
abbrev W32 := BitVec 32

/-- One byte of memory. -/
abbrev Byte := BitVec 8

/-- A signed field read as an integer (R14, `sext`). -/
abbrev sx {n : Nat} (x : BitVec n) : Int := x.toInt

/-- An exact integer narrowed to 64 bits. -/
abbrev w64 (i : Int) : W64 := BitVec.ofInt 64 i

end Sys2Proof
end

