-- ==== Sys2Proof/Syntax.lean ====
section
/-! DEFINITION. The instructions of the Swetar: one constructor of `Instr` per row of the opcode
table. The fields follow 02_described_code R37–R58; register numbers and operation codes become
constructors here, so that the machine never sees raw encodings. -/

namespace Sys2Proof

/-- The integer element types of R39. -/
inductive IntTy | i8 | i16 | i32 | i64
  deriving DecidableEq, Repr

/-- The floating-point element types of R39 that the floating-point opcodes accept. -/
inductive FpTy | f16 | bf16 | f32
  deriving DecidableEq, Repr

/-- All eight type codes of R39, which `cvt` accepts at both ends. -/
inductive ElTy | i8 | i16 | i32 | i64 | f16 | bf16 | f32 | f8
  deriving DecidableEq, Repr

/-- A 7-bit lane field as a source or an address register (R38). -/
inductive LSrc
  | v (n : Fin 96)
  | vx (k : Fin 4)
  | vz
  | tid
  deriving DecidableEq, Repr

/-- A 7-bit lane field as a destination (R38). -/
inductive LDst
  | v (n : Fin 96)
  | vx (k : Fin 4)
  | vz
  deriving DecidableEq, Repr

/-- Operand b of an LA word: a lane source, or with U = 1 a group register g0–g127 (R37). -/
inductive LOpB
  | lane (s : LSrc)
  | group (g : Fin 128)
  deriving DecidableEq, Repr

/-- An 8-bit group field as a source (R49). -/
inductive GSrc
  | g (n : Fin 192)
  | gz
  | gwid
  | glive
  | gtick
  deriving DecidableEq, Repr

/-- An 8-bit group field as a destination (R49). -/
inductive GDst
  | g (n : Fin 192)
  | gz
  deriving DecidableEq, Repr

/-- The five address spaces of R7: `.d`, `.b`, `.s`, `.n`, `.g`. -/
inductive Space | d | b | s | n | g
  deriving DecidableEq, Repr

/-- The spaces a `waita` can name (R43). -/
inductive WSpace | d | b | s | n
  deriving DecidableEq, Repr

/-- The eight scopes of R8, from the narrowest up. -/
inductive Scope | thr | gng | cor | clu | nbr | dev | sys | fab
  deriving DecidableEq, Repr

/-- The eight access sizes of R40. -/
inductive LSize | u8 | u16 | u32 | dw | s8 | s16 | s32 | qw
  deriving DecidableEq, Repr

/-- The two sizes of an `atom` (R42). -/
inductive ASize | w32 | w64
  deriving DecidableEq, Repr

/-- The operations of `atom` (R42). -/
inductive Aop
  | add | fadd | mins | minu | maxs | maxu | and | or | xor | exch | cas | incw
  deriving DecidableEq, Repr

/-- The orders of `atom` (R42). -/
inductive Order | rlx | acq | rel | acqrel
  deriving DecidableEq, Repr

/-- The second word of an `atom` (R42). `vb` and `vc` are kept raw: the unused one is never read
(R243), so only a used one is checked as a register selector. -/
structure AtomFields where
  aop : Aop
  order : Order
  scope : Scope
  promote : Bool
  vb : BitVec 7
  vc : BitVec 7
  deriving DecidableEq, Repr

/-- A 12-bit route spec (R45), with its parameter. -/
inductive RouteSpec
  | none
  | rot (p : BitVec 9)
  | bcast (p : BitVec 9)
  | bfly (p : BitVec 9)
  | perm (p : Fin 96)
  | shup (p : BitVec 9)
  | shdn (p : BitVec 9)
  deriving DecidableEq, Repr

/-- The rounding field of `cvt` (R41): 00 FRM, 01 RNE, 10 RTZ, 11 RDN. -/
inductive CvtMode | frm | rne | rtz | rdn
  deriving DecidableEq, Repr

/-- The kind field of `fence` (R43). Code 0 is no fence: `zero` gives 0x02. -/
inductive FenceKind | zero | acq | rel | acqrel
  deriving DecidableEq, Repr

/-- Something that issues instructions: lane thread t of gang g, the conductor of gang g, thread t
of Steppe core c, Saddle core c. Gangs are numbered 192 × core + 12 × partition + gang slot. -/
inductive Agent
  | lane (g t : Nat)
  | cond (g : Nat)
  | steppe (c t : Nat)
  | saddle (c : Nat)
  deriving DecidableEq, Repr

/-- A retry of a flit (R300): its clocks, and the core whose copy engine's granule it carried, where that is one of the
part's. -/
structure Retry where
  clk : Nat
  core : Nat
  deriving DecidableEq, Repr

/-- The instructions and events of the opcode table, in its order. -/
inductive Instr
  -- lane set (R41)
  /-- Lane integer add, per element modulo 2^w (R159). -/
  | add (t : IntTy) (d : LDst) (a : LSrc) (b : LOpB)
  /-- Lane integer subtract, per element modulo 2^w (R159). -/
  | sub (t : IntTy) (d : LDst) (a : LSrc) (b : LOpB)
  /-- Lane integer multiply, keeping the low w bits of each element product (R159). -/
  | mul (t : IntTy) (d : LDst) (a : LSrc) (b : LOpB)
  /-- Lane signed multiply, keeping the high w bits of each element product (R159). -/
  | mulhs (t : IntTy) (d : LDst) (a : LSrc) (b : LOpB)
  /-- Lane unsigned multiply, keeping the high w bits of each element product (R159). -/
  | mulhu (t : IntTy) (d : LDst) (a : LSrc) (b : LOpB)
  /-- Lane integer multiply-add into the old destination element (R159). -/
  | mad (t : IntTy) (d : LDst) (a : LSrc) (b : LOpB)
  /-- Lane signed minimum per element (R159). -/
  | mins (t : IntTy) (d : LDst) (a : LSrc) (b : LOpB)
  /-- Lane unsigned minimum per element (R159). -/
  | minu (t : IntTy) (d : LDst) (a : LSrc) (b : LOpB)
  /-- Lane signed maximum per element (R159). -/
  | maxs (t : IntTy) (d : LDst) (a : LSrc) (b : LOpB)
  /-- Lane unsigned maximum per element (R159). -/
  | maxu (t : IntTy) (d : LDst) (a : LSrc) (b : LOpB)
  /-- Lane bitwise AND (R159). -/
  | and (t : IntTy) (d : LDst) (a : LSrc) (b : LOpB)
  /-- Lane bitwise OR (R159). -/
  | or (t : IntTy) (d : LDst) (a : LSrc) (b : LOpB)
  /-- Lane bitwise XOR (R159). -/
  | xor (t : IntTy) (d : LDst) (a : LSrc) (b : LOpB)
  /-- Lane shift left by the low log2(w) bits of each vb element (R159). -/
  | shl (t : IntTy) (d : LDst) (a : LSrc) (b : LOpB)
  /-- Lane logical shift right per element (R159). -/
  | shru (t : IntTy) (d : LDst) (a : LSrc) (b : LOpB)
  /-- Lane arithmetic shift right per element (R159). -/
  | shrs (t : IntTy) (d : LDst) (a : LSrc) (b : LOpB)
  /-- Lane signed saturating add (R159). -/
  | addss (t : IntTy) (d : LDst) (a : LSrc) (b : LOpB)
  /-- Lane unsigned saturating add (R159). -/
  | addus (t : IntTy) (d : LDst) (a : LSrc) (b : LOpB)
  /-- Lane signed saturating subtract (R159). -/
  | subss (t : IntTy) (d : LDst) (a : LSrc) (b : LOpB)
  /-- Lane unsigned saturating subtract (R159). -/
  | subus (t : IntTy) (d : LDst) (a : LSrc) (b : LOpB)
  /-- Lane compare equal, all ones or zero per element (R159). -/
  | ceq (t : IntTy) (d : LDst) (a : LSrc) (b : LOpB)
  /-- Lane compare not equal (R159). -/
  | cne (t : IntTy) (d : LDst) (a : LSrc) (b : LOpB)
  /-- Lane compare less than, signed (R159). -/
  | clts (t : IntTy) (d : LDst) (a : LSrc) (b : LOpB)
  /-- Lane compare less than, unsigned (R159). -/
  | cltu (t : IntTy) (d : LDst) (a : LSrc) (b : LOpB)
  /-- Lane compare less or equal, signed (R159). -/
  | cles (t : IntTy) (d : LDst) (a : LSrc) (b : LOpB)
  /-- Lane compare less or equal, unsigned (R159). -/
  | cleu (t : IntTy) (d : LDst) (a : LSrc) (b : LOpB)
  /-- Lane bitwise select under the old destination as mask (R159). -/
  | bsel (t : IntTy) (d : LDst) (a : LSrc) (b : LOpB)
  /-- Lane bitwise complement (R160). -/
  | not (t : IntTy) (d : LDst) (a : LSrc)
  /-- Lane integer negate modulo 2^w (R160). -/
  | neg (t : IntTy) (d : LDst) (a : LSrc)
  /-- Lane integer absolute value modulo 2^w (R160). -/
  | abs (t : IntTy) (d : LDst) (a : LSrc)
  /-- Lane population count per element (R160). -/
  | popc (t : IntTy) (d : LDst) (a : LSrc)
  /-- Lane count of leading zeros per element (R160). -/
  | clz (t : IntTy) (d : LDst) (a : LSrc)
  /-- Lane count of trailing zeros per element (R160). -/
  | ctz (t : IntTy) (d : LDst) (a : LSrc)
  /-- Lane bit reversal within each element (R160). -/
  | brev (t : IntTy) (d : LDst) (a : LSrc)
  /-- Lane byte reversal within each element (R160). -/
  | bswap (t : IntTy) (d : LDst) (a : LSrc)
  /-- Lane add of a signed 8-bit immediate per element (R161). -/
  | addi (t : IntTy) (d : LDst) (a : LSrc) (i : BitVec 8)
  /-- Lane AND with an immediate (R161). -/
  | andi (t : IntTy) (d : LDst) (a : LSrc) (i : BitVec 8)
  /-- Lane OR with an immediate (R161). -/
  | ori (t : IntTy) (d : LDst) (a : LSrc) (i : BitVec 8)
  /-- Lane XOR with an immediate (R161). -/
  | xori (t : IntTy) (d : LDst) (a : LSrc) (i : BitVec 8)
  /-- Lane shift left by an immediate (R161). -/
  | shli (t : IntTy) (d : LDst) (a : LSrc) (i : BitVec 8)
  /-- Lane logical shift right by an immediate (R161). -/
  | shrui (t : IntTy) (d : LDst) (a : LSrc) (i : BitVec 8)
  /-- Lane arithmetic shift right by an immediate (R161). -/
  | shrsi (t : IntTy) (d : LDst) (a : LSrc) (i : BitVec 8)
  /-- Lane write of a sign-extended 15-bit constant to every enabled element (R162). -/
  | movi (t : IntTy) (d : LDst) (i : BitVec 15)
  /-- Lane floating-point add, rounded once in FRM (R167). -/
  | fadd (t : FpTy) (d : LDst) (a : LSrc) (b : LOpB)
  /-- Lane floating-point subtract (R167). -/
  | fsub (t : FpTy) (d : LDst) (a : LSrc) (b : LOpB)
  /-- Lane floating-point multiply (R167). -/
  | fmul (t : FpTy) (d : LDst) (a : LSrc) (b : LOpB)
  /-- Lane fused multiply-add into the old destination, rounded once (R167). -/
  | ffma (t : FpTy) (d : LDst) (a : LSrc) (b : LOpB)
  /-- Lane minimumNumber of two floating-point elements (R167). -/
  | fmin (t : FpTy) (d : LDst) (a : LSrc) (b : LOpB)
  /-- Lane maximumNumber of two floating-point elements (R167). -/
  | fmax (t : FpTy) (d : LDst) (a : LSrc) (b : LOpB)
  /-- Lane floating-point compare equal (R168). -/
  | fceq (t : FpTy) (d : LDst) (a : LSrc) (b : LOpB)
  /-- Lane floating-point compare less than (R168). -/
  | fclt (t : FpTy) (d : LDst) (a : LSrc) (b : LOpB)
  /-- Lane floating-point compare less or equal (R168). -/
  | fcle (t : FpTy) (d : LDst) (a : LSrc) (b : LOpB)
  /-- Lane floating-point unordered test (R168). -/
  | fcun (t : FpTy) (d : LDst) (a : LSrc) (b : LOpB)
  /-- Lane floating-point negate (R169). -/
  | fneg (t : FpTy) (d : LDst) (a : LSrc)
  /-- Lane floating-point absolute value (R169). -/
  | fabs (t : FpTy) (d : LDst) (a : LSrc)
  /-- Lane correctly rounded square root (R169). -/
  | fsqrt (t : FpTy) (d : LDst) (a : LSrc)
  /-- Lane correctly rounded reciprocal (R169). -/
  | frcp (t : FpTy) (d : LDst) (a : LSrc)
  /-- Lane correctly rounded reciprocal square root (R169). -/
  | frsq (t : FpTy) (d : LDst) (a : LSrc)
  /-- Lane correctly rounded 2^a (R169). -/
  | fexp2 (t : FpTy) (d : LDst) (a : LSrc)
  /-- Lane correctly rounded log2 a (R169). -/
  | flog2 (t : FpTy) (d : LDst) (a : LSrc)
  /-- Lane correctly rounded sin(pi a) (R169). -/
  | fsinpi (t : FpTy) (d : LDst) (a : LSrc)
  /-- Lane correctly rounded cos(pi a) (R169). -/
  | fcospi (t : FpTy) (d : LDst) (a : LSrc)
  /-- Lane correctly rounded tanh a (R169). -/
  | ftanh (t : FpTy) (d : LDst) (a : LSrc)
  /-- Lane round toward minus infinity to an integral value (R169). -/
  | ffloor (t : FpTy) (d : LDst) (a : LSrc)
  /-- Lane round toward plus infinity to an integral value (R169). -/
  | fceil (t : FpTy) (d : LDst) (a : LSrc)
  /-- Lane round toward zero to an integral value (R169). -/
  | ftrunc (t : FpTy) (d : LDst) (a : LSrc)
  /-- Lane round to an integral value in FRM (R169). -/
  | frint (t : FpTy) (d : LDst) (a : LSrc)
  /-- Lane floating-point class mask (R169). -/
  | fclass (t : FpTy) (d : LDst) (a : LSrc)
  /-- Lane conversion between any two of the eight element types (R171). -/
  | cvt (dt : ElTy) (d : LDst) (a : LSrc) (st : ElTy) (ssgn : Bool) (r : CvtMode) (dsgn : Bool)
  /-- Lane pack of gang elements into block floating point after a format-word vote (R180). -/
  | bfpk (t : FpTy) (d : LDst) (a : LSrc) (b : LSrc)
  /-- Lane unpack of a block back to floating point (R181). -/
  | bfpu (t : FpTy) (d : LDst) (a : LSrc) (b : LSrc)
  /-- Prefix routing operands a and b of the next instruction through the Defile (R146). -/
  | route (x y : RouteSpec) (own : Bool)
  /-- Prefix replacing an operand of the next instruction with an accumulator fragment (R147). -/
  | accsrc (tile : BitVec 4) (frag : BitVec 6) (onB : Bool) (sup : Bool)
  /-- Lane load from a named space with per-thread checks (R209). -/
  | ld (z : LSize) (d : LDst) (a : LSrc) (sp : Space) (o : BitVec 5)
  /-- Lane store to a named space, higher thread winning on a shared byte (R209). -/
  | st (z : LSize) (v : LSrc) (a : LSrc) (sp : Space) (o : BitVec 5)
  /-- Lane acquire load at a scope (R247). -/
  | ldacq (z : LSize) (d : LDst) (a : LSrc) (sp : Space) (c : Scope)
  /-- Lane release store at a scope after earlier stores are performed (R247). -/
  | strel (z : LSize) (v : LSrc) (a : LSrc) (sp : Space) (c : Scope)
  /-- Lane two-word atomic read-modify-write sent to the home service gang (R244). -/
  | atom (z : ASize) (d : LDst) (a : LSrc) (sp : Space) (f : AtomFields)
  /-- Set an index register's base, count and cur (R142). -/
  | xset (k : Fin 4) (base count : BitVec 7) (cur : BitVec 6)
  /-- Add a signed immediate to an index register's cur modulo 128 (R142). -/
  | xadd (k : Fin 4) (i : BitVec 7)
  /-- Lane pop of the thread's next down-queue entry (R150). -/
  | qpop (d : LDst)
  /-- Lane push of a value into the thread's next up-queue entry (R151). -/
  | qpush (a : LSrc)
  /-- Lane read of how many down-queue entries can be popped without stalling (R154). -/
  | qlen (d : LDst)
  /-- Lane unconditional branch (R125). -/
  | br (o : BitVec 24)
  /-- Lane direct call pushing return address and index state (R131). -/
  | call (o : BitVec 24)
  /-- Lane branch if the register is zero (R125). -/
  | brz (a : LSrc) (o : BitVec 17)
  /-- Lane branch if the register is nonzero (R125). -/
  | brnz (a : LSrc) (o : BitVec 17)
  /-- Lane indirect call to a function entry held in a register, splitting by target (R131). -/
  | calli (a : LSrc)
  /-- Lane return, popping the call stack or exiting at depth 0 (R131). -/
  | ret
  /-- Lane thread exit once its outstanding loads and stores are zero (R120). -/
  | exit
  /-- Enrol the issuing threads in a lane mask (R127). -/
  | join (m : Fin 12)
  /-- Remove the issuing threads from a lane mask (R127). -/
  | leave (m : Fin 12)
  /-- Enrol and park the issuing threads on a lane mask (R127). -/
  | wait (m : Fin 12)
  /-- Lane two-word hardware loop over a following body (R133). -/
  | loop (c : LSrc) (len : BitVec 8) (bound : W32)
  /-- Lane guarded unconditional backward branch (R135). -/
  | bbr (k : Fin 4) (o : BitVec 11)
  /-- Lane guarded backward branch if the register is zero (R135). -/
  | bbrz (k : Fin 4) (a : LSrc) (o : BitVec 11)
  /-- Lane guarded backward branch if the register is nonzero (R135). -/
  | bbrnz (k : Fin 4) (a : LSrc) (o : BitVec 11)
  /-- Lane preset of a guard counter (R135). -/
  | guard (k : Fin 4) (bound : BitVec 18)
  /-- Lane two-word wait on an aligned word until a test holds or a timeout ends (R249). -/
  | waita (a : LSrc) (b : LDst) (c : Scope) (sp : WSpace) (eq : Bool) (timeout : W32)
  /-- Lane wait until outstanding load and store counters fall to the immediates (R212). -/
  | waitc (l s : BitVec 4)
  /-- Lane fence of kind acq, rel or acqrel at a scope (R248). -/
  | fence (k : FenceKind) (c : Scope)
  /-- Lane user trap with an 8-bit code (R280). -/
  | trap (code : BitVec 8)
  /-- Lane read of one WID level field (R136). -/
  | getwid (d : LDst) (l : Fin 6)
  /-- Lane read of a CSR (R136). -/
  | csrr (d : LDst) (c : BitVec 12)
  /-- Lane write of a CSR without behaviour of its own (R136). -/
  | csrw (a : LSrc) (c : BitVec 12)
  /-- Lane no-operation (R136). -/
  | nop
  -- group set (R50)
  /-- Group 64- or 32-bit add (R173). -/
  | groupAdd (d : GDst) (a b : GSrc) (w : Bool)
  /-- Group subtract (R173). -/
  | groupSub (d : GDst) (a b : GSrc) (w : Bool)
  /-- Group multiply, low bits (R173). -/
  | groupMul (d : GDst) (a b : GSrc) (w : Bool)
  /-- Group signed multiply, high bits (R173). -/
  | groupMulhs (d : GDst) (a b : GSrc) (w : Bool)
  /-- Group unsigned multiply, high bits (R173). -/
  | groupMulhu (d : GDst) (a b : GSrc) (w : Bool)
  /-- Group signed divide, never trapping (R173). -/
  | divs (d : GDst) (a b : GSrc) (w : Bool)
  /-- Group unsigned divide (R173). -/
  | divu (d : GDst) (a b : GSrc) (w : Bool)
  /-- Group signed remainder (R173). -/
  | rems (d : GDst) (a b : GSrc) (w : Bool)
  /-- Group unsigned remainder (R173). -/
  | remu (d : GDst) (a b : GSrc) (w : Bool)
  /-- Group signed minimum (R173). -/
  | groupMins (d : GDst) (a b : GSrc) (w : Bool)
  /-- Group unsigned minimum (R173). -/
  | groupMinu (d : GDst) (a b : GSrc) (w : Bool)
  /-- Group signed maximum (R173). -/
  | groupMaxs (d : GDst) (a b : GSrc) (w : Bool)
  /-- Group unsigned maximum (R173). -/
  | groupMaxu (d : GDst) (a b : GSrc) (w : Bool)
  /-- Group bitwise AND (R173). -/
  | groupAnd (d : GDst) (a b : GSrc) (w : Bool)
  /-- Group bitwise OR (R173). -/
  | groupOr (d : GDst) (a b : GSrc) (w : Bool)
  /-- Group bitwise XOR (R173). -/
  | groupXor (d : GDst) (a b : GSrc) (w : Bool)
  /-- Group shift left (R173). -/
  | groupShl (d : GDst) (a b : GSrc) (w : Bool)
  /-- Group logical shift right (R173). -/
  | groupShru (d : GDst) (a b : GSrc) (w : Bool)
  /-- Group arithmetic shift right (R173). -/
  | groupShrs (d : GDst) (a b : GSrc) (w : Bool)
  /-- Group compare equal giving 1 or 0 (R173). -/
  | groupCeq (d : GDst) (a b : GSrc) (w : Bool)
  /-- Group compare not equal (R173). -/
  | groupCne (d : GDst) (a b : GSrc) (w : Bool)
  /-- Group compare less than, signed (R173). -/
  | groupClts (d : GDst) (a b : GSrc) (w : Bool)
  /-- Group compare less than, unsigned (R173). -/
  | groupCltu (d : GDst) (a b : GSrc) (w : Bool)
  /-- Group select of ga or gb by the old gd (R173). -/
  | sel (d : GDst) (a b : GSrc)
  /-- Group add of a signed 9-bit immediate (R174). -/
  | groupAddi (d : GDst) (a : GSrc) (i : BitVec 9)
  /-- Group AND with an immediate (R174). -/
  | groupAndi (d : GDst) (a : GSrc) (i : BitVec 9)
  /-- Group OR with an immediate (R174). -/
  | groupOri (d : GDst) (a : GSrc) (i : BitVec 9)
  /-- Group XOR with an immediate (R174). -/
  | groupXori (d : GDst) (a : GSrc) (i : BitVec 9)
  /-- Group shift left by an immediate (R174). -/
  | groupShli (d : GDst) (a : GSrc) (i : BitVec 6)
  /-- Group logical shift right by an immediate (R174). -/
  | groupShrui (d : GDst) (a : GSrc) (i : BitVec 6)
  /-- Group arithmetic shift right by an immediate (R174). -/
  | groupShrsi (d : GDst) (a : GSrc) (i : BitVec 6)
  /-- Group write of a sign-extended 17-bit constant (R156). -/
  | movw (d : GDst) (i : BitVec 17)
  /-- Group two-word load of a sign-extended 32-bit constant (R156). -/
  | lim (d : GDst) (i : W32)
  /-- Group two-word write of the upper 32 bits of a register (R156). -/
  | limh (d : GDst) (i : W32)
  /-- Group 8-byte load (R210). -/
  | groupLd (d : GDst) (a : GSrc) (sp : Space) (o : BitVec 6)
  /-- Group 8-byte store (R210). -/
  | groupSt (v : GSrc) (a : GSrc) (sp : Space) (o : BitVec 6)
  /-- Group acquire load at a scope (R247). -/
  | groupLdacq (d : GDst) (a : GSrc) (sp : Space) (c : Scope)
  /-- Group release store at a scope (R247). -/
  | groupStrel (v : GSrc) (a : GSrc) (sp : Space) (c : Scope)
  /-- Group two-word atomic read-modify-write (R244). -/
  | groupAtom (z : ASize) (d : GDst) (a : GSrc) (sp : Space) (f : AtomFields)
  /-- Group unconditional branch (R125). -/
  | b (o : BitVec 25)
  /-- Group direct call (R131). -/
  | groupCall (o : BitVec 25)
  /-- Group branch if the register is zero (R125). -/
  | bz (a : GSrc) (o : BitVec 17)
  /-- Group branch if the register is nonzero (R125). -/
  | bnz (a : GSrc) (o : BitVec 17)
  /-- Group indirect call (R131). -/
  | groupCalli (a : GSrc)
  /-- Group return (R131). -/
  | groupRet
  /-- Conductor exit once outstanding loads, stores, copies and tile operations are zero (R120). -/
  | groupExit
  /-- Group two-word hardware loop (R133). -/
  | groupLoop (c : GSrc) (len : BitVec 8) (bound : W32)
  /-- Group guarded unconditional backward branch (R135). -/
  | groupBbr (k : Fin 4) (o : BitVec 10)
  /-- Group guarded backward branch if zero (R135). -/
  | groupBbrz (k : Fin 4) (a : GSrc) (o : BitVec 10)
  /-- Group guarded backward branch if nonzero (R135). -/
  | groupBbrnz (k : Fin 4) (a : GSrc) (o : BitVec 10)
  /-- Group preset of a guard counter (R135). -/
  | groupGuard (k : Fin 4) (bound : BitVec 18)
  /-- Group wait on load, store, copy and tile-operation counters (R212). -/
  | groupWaitc (l s c t : BitVec 4)
  /-- Group two-word wait on an address (R249). -/
  | groupWaita (a b : Fin 128) (c : Scope) (sp : WSpace) (eq : Bool) (timeout : W32)
  /-- Group fence (R248). -/
  | groupFence (k : FenceKind) (c : Scope)
  /-- Group user trap (R280). -/
  | groupTrap (code : BitVec 8)
  /-- Group read of a CSR (R136). -/
  | groupCsrr (d : GDst) (c : BitVec 12)
  /-- Group write of a CSR without behaviour of its own (R136). -/
  | groupCsrw (a : GSrc) (c : BitVec 12)
  /-- Return from a handler to SEPC at the saved level (R279). -/
  | eret
  /-- Return from a handler, resuming the reported lane threads in the SSTAT mode (R279). -/
  | eretLanes
  /-- Group no-operation (R136). -/
  | groupNop
  /-- Issue nothing until the core kind's wake condition holds (R136). -/
  | idle
  /-- Reconfigure the down or up queue from a configuration word (R155). -/
  | qcfg (up : Bool) (a : GSrc)
  /-- Conductor push of a value into the down queue (R150). -/
  | groupQpush (a : GSrc)
  /-- Conductor pop of the next up-queue slot or entry (R151). -/
  | groupQpop (d : GDst)
  /-- Conductor read of free dq room or poppable uq count (R155). -/
  | groupQlen (up : Bool) (d : GDst)
  /-- Two-word load of a stream descriptor (R217). -/
  | strm (k : Fin 4) (p : Fin 192) (z : BitVec 2) (sp : Space)
  /-- Start a stream descriptor filling the down queue (R218). -/
  | strmgo (k : Fin 4)
  /-- Issue one matrix-engine operation from an eight-register block (R184). -/
  | mxq (p : Fin 192) (d : GDst)
  /-- Request the core's matrix baton (R182). -/
  | mxctlTake
  /-- Release the matrix baton (R182). -/
  | mxctlPass
  /-- Hold the conductor until a tile is not pending (R193). -/
  | mxctlTilewait (t : Fin 18)
  /-- Load the non-current code-table bank and make it current (R192). -/
  | mxctlCtab (p : Fin 192)
  /-- Save the engine's user state to the slice (R198). -/
  | mxsave (a : GSrc)
  /-- Restore the engine's user state from the slice (R198). -/
  | mxrest (a : GSrc)
  /-- Command the copy engine from an eight-register block (R213). -/
  | cpy (p : Fin 192) (d : GDst)
  /-- Initialise and claim a named barrier or semaphore (R251). -/
  | barInit (b : Fin 96) (a : GSrc)
  /-- Arrive at a barrier, flipping its phase at the expected count (R251). -/
  | barArrive (b : Fin 96)
  /-- Wait for the barrier phase to flip or time out (R251). -/
  | barWait (b : Fin 96) (d : GDst)
  /-- Arrive then wait as one instruction (R251). -/
  | barSync (b : Fin 96) (d : GDst)
  /-- Add to a semaphore's value (R251). -/
  | barPost (b : Fin 96) (a : GSrc)
  /-- Wait for a semaphore value of at least 1 and decrement it (R251). -/
  | barTake (b : Fin 96) (d : GDst)
  /-- Read the barrier word and status word (R251). -/
  | barStat (b : Fin 96) (d : GDst)
  /-- Arm a watch entry on a slice range under a standing quotation (R257). -/
  | watchArm (d : GDst) (p : Fin 192)
  /-- Free a watch entry, discarding unjoined triggers (R258). -/
  | watchDisarm (d : GDst) (a : GSrc)
  /-- Read a watch entry's state and counts (R259). -/
  | watchQuery (d : GDst) (a : GSrc)
  /-- Enqueue child gangs as ready tasks in the spawning partition (R114). -/
  | spawn (p : Fin 192) (d : GDst)
  /-- Join a cluster sharing group, taking its lowest free slot (R112). -/
  | shareJoin (d : GDst) (a : GSrc)
  /-- Leave the block's sharing group (R112). -/
  | shareLeave (d : GDst)
  /-- Read a sharing group's slot mask and own slot (R112). -/
  | shareQuery (d : GDst) (a : GSrc)
  /-- End a Watershed communication step (R252). -/
  | phaseComp
  /-- End a Watershed computation step (R252). -/
  | phaseComm
  /-- Two-word schedule of a transfer at a clock of the next communication step (R253). -/
  | phaseXfer (p : Fin 192) (t : W32)
  /-- Request a quotation and queue its walk (R95). -/
  | quoteReq (d : GDst) (p : Fin 192)
  /-- Accept a quotation, pinning its pin set (R96). -/
  | quoteAcc (d : GDst) (a : GSrc)
  /-- Decline a quotation and release what it holds (R97). -/
  | quoteDec (d : GDst) (a : GSrc)
  /-- Read a quotation's actual time and energy (R98). -/
  | quoteActual (d : GDst) (a : GSrc)
  /-- Announce a new write index for a queue, posting a wake event (R68). -/
  | submit (q w : GSrc)
  /-- Set a signal's value and act on its descriptor (R76). -/
  | sigSet (a b : GSrc)
  /-- Add to a signal's value and act on its descriptor (R76). -/
  | sigAdd (a b : GSrc)
  /-- Drop translations by page, ASID or all, on every unit (R287). -/
  | sysTlbinv (a b : GSrc) (f : BitVec 2)
  /-- Set the running ASID (R288). -/
  | sysAsid (a : GSrc)
  /-- Act on a fault record: resume, restart or end (R286). -/
  | sysEresume (a : GSrc)
  /-- Take the next valid fault record (R285). -/
  | sysFqpop (d : GDst)
  /-- Post a vector to a Steppe core's interrupt file (R282). -/
  | sysMsi (a b : GSrc)
  /-- Pop the oldest deliverable event, granting its ordering lock (R72). -/
  | sysEvqpop (d : GDst)
  /-- Acquire an ordering lock, stalling until free (R72). -/
  | sysQlk (a : GSrc)
  /-- Free an ordering lock (R72). -/
  | sysQulk (a : GSrc)
  /-- Record the heartbeat, restart the watchdog and confirm a pending switch (R78). -/
  | sysHbeat
  /-- Begin a switch of the Saddle pool to the other image slot (R78). -/
  | sysSlot (a : GSrc)
  -- operations and events of the device that no instruction word names (spec/95)
  /-- Conductor write of MASK0-MASK11, releasing cleared or satisfied waiters (R128). -/
  | maskWrite (gang : Nat) (k : Fin 12) (v : W64)
  /-- Write of FSLOT clearing failed or rolled-back bits and setting service mode (R79). -/
  | fslotWrite (v : W64)
  /-- Write of the heartbeat period, restarting the watchdog count (R79). -/
  | fwdtWrite (v : W64)
  /-- SECCMD 1: SHAKE256 digest of the other slot's image (R302). -/
  | secDigest (core : Nat)
  /-- SECCMD 2: verify the Falcon-1024 signature over SECDIG (R302). -/
  | secVerify (core : Nat)
  /-- SECCMD 3: extend measurement FMEAS with SECDIG (R302). -/
  | secExtend (core : Nat)
  /-- SECCMD 4: reset the second SHAKE256 sponge (R302). -/
  | secResetSponge (core : Nat)
  /-- SECCMD 5: absorb SECDATA into the second sponge (R302). -/
  | secAbsorb (core : Nat)
  /-- SECCMD 6: squeeze 8 bytes into SECDATA (R302). -/
  | secSqueeze (core : Nat)
  /-- A security command completes, placing its results and logging verify or extend (R321). -/
  | secCommandDone
  /-- Packet of kind 0 or reserved completes malformed and stops the queue (R65). -/
  | invalid (q : Nat)
  /-- QUOTE packet requests a quotation, optionally auto-accepting (R66). -/
  | quote (q : Nat)
  /-- ACCEPT packet performs quote.acc under the owner ASID (R96). -/
  | accept (q : Nat)
  /-- DECLINE packet performs quote.dec (R97). -/
  | decline (q : Nat)
  /-- LAUNCH packet tests ceilings and launches an accepted quotation (R66). -/
  | launch (q : Nat)
  /-- COPY packet runs on the Saddle pool's copy channel (R66). -/
  | copy (q : Nat)
  /-- SIGNAL packet sets or adds to a signal (R66). -/
  | signal (q : Nat)
  /-- BARRIER packet waits for an AND or OR of up to four signals (R66). -/
  | barrier (q : Nat)
  /-- WATCH packet arms a watch and writes the id or code (R260). -/
  | watch (q : Nat)
  /-- Aligned 8-byte store to a wake register posts a wake, or is dropped in normal service (R70). -/
  | wakeRegisterStore (q : Nat) (idx : W64)
  /-- Service of a wake event updating the write index or stopping the queue (R69). -/
  | wakeEvent (core : Nat)
  /-- Service of a coalesced signal-changed event, re-evaluating barrier packets (R71). -/
  | signalChanged (core : Nat)
  /-- The device posts a periodic-tick event when its interval expires (R71). -/
  | periodicTick
  /-- A thread in idle resumes when its wake condition becomes true (R136). -/
  | idleWake (who : Agent)
  /-- A free walk engine takes the oldest request and validates the object (R81). -/
  | quoteWalkStart
  /-- The walk ends, writing figures, state and tentative reservation as a release (R88). -/
  | quoteWalkEnd (qid : Nat)
  /-- The operating system finishes or refuses pinning, moving the quotation on or back to 1 (R96). -/
  | pinDone (qid : Nat) (ok : Bool)
  /-- A quotation's deadline passes before launch and it expires (R90). -/
  | validityDeadline (qid : Nat)
  /-- The first gangs are placed, code loaded and scratch zero-filled; state becomes 4 (R107). -/
  | launchStart (qid : Nat)
  /-- A freed block slot takes the lowest-numbered unstarted block (R107). -/
  | blockStart (launch : Nat)
  /-- A freed gang slot takes the first ready task by the dispatch order (R115). -/
  | readyTaskDispatch (core part : Nat)
  /-- A finished launch releases its resources and is settled (R293). -/
  | retirement (launch : Nat)
  /-- A stopped elastic launch's gangs are saved to the device save area (R291). -/
  | preemptionSave (launch : Nat)
  /-- A pre-empted launch resumes when partitions of its slot shape free (R292). -/
  | preemptionResume (launch : Nat)
  /-- A destination is written when its producer's latency ends (R137). -/
  | registerWriteback (who : Agent)
  /-- A load's value arrives and is written to its register (R212). -/
  | loadReturn (id : Nat) (ecc : Bool)
  /-- A store is performed at its memory and leaves the counter (R212). -/
  | storePerformed (id : Nat)
  /-- Every 2 clk a service gang applies the head request of each stream (R241). -/
  | serviceGangStep (cluster : Nat)
  /-- An atomic's reply reaches the return slot and destination register (R241). -/
  | atomicReply (id : Nat)
  /-- An on-demand code fetch fills a line of the unlocked cache part (R117). -/
  | instructionFetchFill (who : Agent)
  /-- End-of-clock report of a conductor or lane fault enters the handler at S (R277). -/
  | trapEntry (gang : Nat)
  /-- A Steppe thread takes its lowest pending vector (R281). -/
  | steppeInterrupt (core thr : Nat)
  /-- A posted vector reaches the target's interrupt file (R282). -/
  | msiDelivery (n : Nat)
  /-- A poster claims a fault-queue slot, waits for room and writes its record (R283). -/
  | faultRecordPost (n : Nat)
  /-- A waiting thread re-reads its word on a change or every 64 clk (R249). -/
  | waitaReread (who : Agent)
  /-- A waita deadline passes; a final read ends the wait (R249). -/
  | waitaTimeout (who : Agent)
  /-- A parked barrier wait, sync or take reaches its deadline and returns 1 (R251). -/
  | barWaitTimeout (gang : Nat)
  /-- The freed baton passes to the head of the request order (R182). -/
  | batonGrant (core : Nat)
  /-- After its pending .g accesses perform, a leaving block's slot is revoked (R112). -/
  | shareLeaveRevoke (gang : Nat)
  /-- The copy engine starts a command once earlier commands of its launch finish (R215). -/
  | copyStart (core launch : Nat)
  /-- A copy finishes its payload, makes its completion write and releases its locks (R216). -/
  | copyCompletion (core launch : Nat)
  /-- A copy stops cleanly on a fault and posts a record (R223). -/
  | copyStop (core launch : Nat) (ecc : Option Nat)
  /-- A scheduled Watershed transfer enters the copy engine at its clock (R253). -/
  | xferStart (core : Nat)
  /-- A stream's data for an entry arrives and the entry is claimed in dq (R218). -/
  | streamEntryClaim (gang : Nat) (k : Fin 4)
  /-- A stream stops before the entry holding a failing element (R223). -/
  | streamStop (gang : Nat) (k : Fin 4) (ecc : Option Nat)
  /-- The Watershed tree starts the next step 32 clk after the last core ends (R252). -/
  | phaseStepStart (launch : Nat)
  /-- The matrix engine starts the next queued operation (R183). -/
  | matrixOpStart (core : Nat)
  /-- One native step updates all outputs of its tile at its end (R188). -/
  | matrixNativeStep (core : Nat)
  /-- An operation ends, writing its status word and arriving at its barrier (R194). -/
  | matrixOpComplete (core : Nat)
  /-- An uncorrectable or residue error stops the operation and invalidates tiles (R195). -/
  | matrixErrorStop (core : Nat) (bit : Fin 4)
  /-- A drain or load through a revoked .g slot stops restartably and posts a record (R196). -/
  | matrixWindowFault (core : Nat)
  /-- An empty sparsity queue after 1 ms stops the operation (R191). -/
  | sparsityQueueTimeout (core : Nat)
  /-- A pending trigger joins its quotation's forming gang, creating a thread (R265). -/
  | triggerJoin (core : Nat)
  /-- A forming gang is declared ready 2,200 clk after its first join (R265). -/
  | formingGangReady (core qid : Nat)
  /-- With other cores idle, the pool is reset into the new slot and the window opens (R78). -/
  | slotSwitch
  /-- The switch window closes unconfirmed and the pool returns to the old slot (R78). -/
  | rollBack
  /-- An FWDT period passes without hbeat: firmware fault and pool reset (R78). -/
  | watchdogExpiry
  /-- A core's error counters in the information block are updated (R296). -/
  | errorCounterUpdate (core : Nat)
  /-- A host access to device physical memory through BAR 4 (R299). -/
  | hostBar4Access (addr size : Nat) (wr : Option W64)
  /-- A host PCIe AtomicOp completed by the device (R299). -/
  | hostAtomicop (addr : Nat) (z : ASize) (op : Aop) (b c : W64)
  /-- A peer's flit-carried access to device memory or wake registers (R300). -/
  | peerAccess (peer addr size : Nat) (wr : Option W64)
  /-- A write to a firmware slot clears FSLOT[7] (R79). -/
  | slotImageWrite (slotB : Bool) (off : Nat) (bytes : List Byte)
  /-- Power-on starts boot through its stages (R303). -/
  | powerOn
  /-- A main-side reset by command, thermal or power freezes the black box and reboots (R303). -/
  | mainSideReset (cause : Fin 3)
  /-- Die reaches 105 C: new quotations refused, entry 0x08 written (R304). -/
  | thermalTrip (temp : BitVec 16)
  /-- Die falls below 95 C and quotations are admitted again (R304). -/
  | thermalRecovery (temp : BitVec 16)
  /-- Die reaches 115 C: main side reset and running quotations breached (R304). -/
  | thermalEmergency (temp : BitVec 16)
  /-- Side-band setting of the power envelope (R304). -/
  | setEnvelope (watts : Nat)
  /-- SPDM GET_VERSION request (R301). -/
  | getVersion
  /-- SPDM GET_CAPABILITIES request (R301). -/
  | getCapabilities
  /-- SPDM NEGOTIATE_ALGORITHMS request (R301). -/
  | negotiateAlgorithms
  /-- SPDM GET_DIGESTS request (R301). -/
  | getDigests
  /-- SPDM GET_CERTIFICATE request (R301). -/
  | getCertificate
  /-- SPDM CHALLENGE request (R301). -/
  | challenge
  /-- SPDM GET_MEASUREMENTS request over indices 0-15 (R301). -/
  | getMeasurements (idx : Fin 16)
  /-- Side-band read of the information block, temperature or rail power (R301). -/
  | telemetryRead
  /-- Side-band read of the black-box ring, unfreezing it (R298). -/
  | blackBoxRead
  /-- Management halt request taken as debug 0x1F by a gang's conductors (R275). -/
  | debugHalt (gang : Nat)
  /-- A management request event (kind 5) is posted to the Saddle event queue from the management side (R71). -/
  | managementRequest (arg : BitVec 48)
  /-- A write that makes SFQB nonzero posts the held fault records in the order they arose (R274). -/
  | sfqbWrite (v : W64)
  /-- A mesh or peer-link flit fails its CRC and is retried, charged against the retry allowance A, with a device breach once A is exceeded (R300). -/
  | meshOrLinkRetry (launch : Nat) (retry : Retry)
  /-- A lazy-binding resolution runs past its 2,200 clk allowance from the stub's trap, and the operating system is recorded at fault (R101). -/
  | lazyBindingAllowanceExpiry (gang : Nat)
  /-- A boot stage finishes (rails up, image verified, GDDR7 trained, mesh built, OS loaded), and the next stage begins and is logged (R303). -/
  | bootStageReached (lostPairs : BitVec 12) (lostClusters : BitVec 48)
  deriving DecidableEq, Repr

end Sys2Proof
end

