-- ==== Sys2Proof/Config.lean ====
section
/-! DEFINITION. What an implementation fixes and the manual leaves open: free values, constants with
no body. No statement rests on the value of any of them. -/

namespace Sys2Proof.Config

/-- Free values (log 4): one for each count of `State.free`. -/
opaque freeValue : Nat → W64

/-- Whether a Falcon-1024 signature over a digest verifies against the fused key (R302; log 16). -/
opaque falcon : List Byte → List Byte → Bool

/-- The address at which an image body enters (R78, R303; log 17), for slot A and slot B. -/
opaque imageEntry : Bool → W64

/-- Bytes of the trailer that follows an image body (R302; log 16). -/
opaque trailerBytes : Nat

/-- FTVB as the Saddle ROM writes it before boot stage 7 (R274; log 17). -/
opaque romVector : W64

/-- The address at which Steppe cores start (R303 stage 7; log 17). -/
opaque steppeEntry : W64

/-- What of the Steppe operating system flash or the fabric brings at boot stage 6 (R303; log 21): addresses and bytes;
nothing where the host loads it through BAR 4. -/
opaque steppeImage : List (Nat × List Byte)

/-- Answers of the management controller to SPDM requests (R301; log 18). -/
opaque spdmAnswer : Nat → Nat → List W64

/-- Die temperature and power per rail as telemetry reads them (R301; log 18). -/
opaque telemetry : Nat → List W64

/-- Bytes of a gang's save beyond its registers (R291; log 55), for a number of its lane threads. -/
opaque savedContext : Nat → Nat

end Sys2Proof.Config
end

