-- ==== Sys2Proof/Decode.lean ====
section
/-! DEFINITION. Decoding of instruction words (02_described_code R35–R58), total on any words and
any bytes, and the encoder written from the same tables. -/

namespace Sys2Proof

/-- Why a word does not decode: row 1 of R36 (0x01), row 3 of R36 (0x02), or bytes that end early. -/
inductive DecodeError
  /-- Reserved opcode, subop or aop: illegal instruction (0x01). -/
  | illegal
  /-- Reserved code, nonzero zero field, value outside its range: illegal operand (0x02). -/
  | operand
  /-- Fewer bytes than the instruction has. -/
  | short
  deriving DecidableEq, Repr

abbrev Dec := Except DecodeError

/-- Field [lo + n − 1 : lo] of a word (R12). -/
def fld (w : W32) (lo n : Nat) : BitVec n := w.extractLsb' lo n

/-- A one-bit field. -/
def bit (w : W32) (lo : Nat) : Bool := w.getLsbD lo

/-- A code that must be defined: else illegal operand. -/
def need {α : Type} : Option α → Dec α
  | some a => .ok a
  | none => .error .operand

/-- A field that must be zero (R36 row 3). -/
def mbz (w : W32) (lo n : Nat) : Dec Unit :=
  if fld w lo n = 0 then .ok () else .error .operand

/-! ## Codes of the fields -/

/-- R39, codes 000–011. -/
def IntTy.code : IntTy → BitVec 3 | .i8 => 0 | .i16 => 1 | .i32 => 2 | .i64 => 3

def IntTy.ofCode (c : BitVec 3) : Option IntTy :=
  match c.toNat with
  | 0 => some .i8 | 1 => some .i16 | 2 => some .i32 | 3 => some .i64 | _ => none

/-- R39, codes 100–110. -/
def FpTy.code : FpTy → BitVec 3 | .f16 => 4 | .bf16 => 5 | .f32 => 6

def FpTy.ofCode (c : BitVec 3) : Option FpTy :=
  match c.toNat with
  | 4 => some .f16 | 5 => some .bf16 | 6 => some .f32 | _ => none

/-- R39, all eight codes. -/
def ElTy.code : ElTy → BitVec 3
  | .i8 => 0 | .i16 => 1 | .i32 => 2 | .i64 => 3 | .f16 => 4 | .bf16 => 5 | .f32 => 6 | .f8 => 7

def ElTy.ofCode (c : BitVec 3) : ElTy :=
  match c.toNat with
  | 0 => .i8 | 1 => .i16 | 2 => .i32 | 3 => .i64 | 4 => .f16 | 5 => .bf16 | 6 => .f32 | _ => .f8

/-- The lane selectors of R38, as a source. -/
def LSrc.code : LSrc → BitVec 7
  | .v n => BitVec.ofNat 7 n.val
  | .vx k => BitVec.ofNat 7 (0x60 + k.val)
  | .vz => 0x64
  | .tid => 0x65

def LSrc.ofCode (c : BitVec 7) : Option LSrc :=
  if h : c.toNat < 96 then some (.v ⟨c.toNat, h⟩)
  else if h : c.toNat - 96 < 4 then some (.vx ⟨c.toNat - 96, h⟩)
  else if c.toNat = 0x64 then some .vz
  else if c.toNat = 0x65 then some .tid
  else none

/-- The lane selectors of R38, as a destination. -/
def LDst.code : LDst → BitVec 7
  | .v n => BitVec.ofNat 7 n.val
  | .vx k => BitVec.ofNat 7 (0x60 + k.val)
  | .vz => 0x64

def LDst.ofCode (c : BitVec 7) : Option LDst :=
  if h : c.toNat < 96 then some (.v ⟨c.toNat, h⟩)
  else if h : c.toNat - 96 < 4 then some (.vx ⟨c.toNat - 96, h⟩)
  else if c.toNat = 0x64 then some .vz
  else none

/-- The vb field and U of an LA word (R37). -/
def LOpB.code : LOpB → BitVec 7
  | .lane s => s.code
  | .group g => BitVec.ofNat 7 g.val

def LOpB.u : LOpB → Bool
  | .lane _ => false
  | .group _ => true

def LOpB.ofCode (c : BitVec 7) (u : Bool) : Option LOpB :=
  if u then some (.group ⟨c.toNat, by omega⟩) else (LSrc.ofCode c).map .lane

/-- The group selectors of R49, as a source. -/
def GSrc.code : GSrc → BitVec 8
  | .g n => BitVec.ofNat 8 n.val
  | .gz => 0xC0 | .gwid => 0xC1 | .glive => 0xC2 | .gtick => 0xC3

def GSrc.ofCode (c : BitVec 8) : Option GSrc :=
  if h : c.toNat < 192 then some (.g ⟨c.toNat, h⟩)
  else match c.toNat - 192 with
    | 0 => some .gz | 1 => some .gwid | 2 => some .glive | 3 => some .gtick | _ => none

/-- The group selectors of R49, as a destination. -/
def GDst.code : GDst → BitVec 8
  | .g n => BitVec.ofNat 8 n.val
  | .gz => 0xC0

def GDst.ofCode (c : BitVec 8) : Option GDst :=
  if h : c.toNat < 192 then some (.g ⟨c.toNat, h⟩)
  else if c.toNat = 192 then some .gz else none

/-- The first register of a parameter block (R48): a register selector. -/
def gpOfCode (c : BitVec 8) : Option (Fin 192) :=
  if h : c.toNat < 192 then some ⟨c.toNat, h⟩ else none

def gpCode (p : Fin 192) : BitVec 8 := BitVec.ofNat 8 p.val

/-- R7. -/
def Space.code : Space → BitVec 3 | .d => 0 | .b => 1 | .s => 2 | .n => 3 | .g => 4

def Space.ofCode (c : BitVec 3) : Option Space :=
  match c.toNat with
  | 0 => some .d | 1 => some .b | 2 => some .s | 3 => some .n | 4 => some .g | _ => none

/-- R43, `waita`. -/
def WSpace.code : WSpace → BitVec 2 | .d => 0 | .b => 1 | .s => 2 | .n => 3

def WSpace.ofCode (c : BitVec 2) : WSpace :=
  match c.toNat with
  | 0 => .d | 1 => .b | 2 => .s | _ => .n

/-- R8. -/
def Scope.code : Scope → BitVec 3
  | .thr => 0 | .gng => 1 | .cor => 2 | .clu => 3 | .nbr => 4 | .dev => 5 | .sys => 6 | .fab => 7

def Scope.ofCode (c : BitVec 3) : Scope :=
  match c.toNat with
  | 0 => .thr | 1 => .gng | 2 => .cor | 3 => .clu | 4 => .nbr | 5 => .dev | 6 => .sys | _ => .fab

/-- R40. -/
def LSize.code : LSize → BitVec 3
  | .u8 => 0 | .u16 => 1 | .u32 => 2 | .dw => 3 | .s8 => 4 | .s16 => 5 | .s32 => 6 | .qw => 7

def LSize.ofCode (c : BitVec 3) : LSize :=
  match c.toNat with
  | 0 => .u8 | 1 => .u16 | 2 => .u32 | 3 => .dw | 4 => .s8 | 5 => .s16 | 6 => .s32 | _ => .qw

/-- R42. -/
def ASize.code : ASize → BitVec 3 | .w32 => 2 | .w64 => 3

def ASize.ofCode (c : BitVec 3) : Option ASize :=
  match c.toNat with
  | 2 => some .w32 | 3 => some .w64 | _ => none

def Aop.code : Aop → BitVec 4
  | .add => 0 | .fadd => 1 | .mins => 2 | .minu => 3 | .maxs => 4 | .maxu => 5
  | .and => 6 | .or => 7 | .xor => 8 | .exch => 9 | .cas => 10 | .incw => 11

def Aop.ofCode (c : BitVec 4) : Option Aop :=
  match c.toNat with
  | 0 => some .add | 1 => some .fadd | 2 => some .mins | 3 => some .minu | 4 => some .maxs
  | 5 => some .maxu | 6 => some .and | 7 => some .or | 8 => some .xor | 9 => some .exch
  | 10 => some .cas | 11 => some .incw | _ => none

def Order.code : Order → BitVec 2 | .rlx => 0 | .acq => 1 | .rel => 2 | .acqrel => 3

def Order.ofCode (c : BitVec 2) : Order :=
  match c.toNat with
  | 0 => .rlx | 1 => .acq | 2 => .rel | _ => .acqrel

def FenceKind.code : FenceKind → BitVec 2 | .zero => 0 | .acq => 1 | .rel => 2 | .acqrel => 3

def FenceKind.ofCode (c : BitVec 2) : FenceKind :=
  match c.toNat with
  | 0 => .zero | 1 => .acq | 2 => .rel | _ => .acqrel

def CvtMode.code : CvtMode → BitVec 2 | .frm => 0 | .rne => 1 | .rtz => 2 | .rdn => 3

def CvtMode.ofCode (c : BitVec 2) : CvtMode :=
  match c.toNat with
  | 0 => .frm | 1 => .rne | 2 => .rtz | _ => .rdn

/-- R45. -/
def RouteSpec.code : RouteSpec → BitVec 12
  | .none => 0
  | .rot p => 1#3 ++ p
  | .bcast p => 2#3 ++ p
  | .bfly p => 3#3 ++ p
  | .perm p => 4#3 ++ BitVec.ofNat 9 p.val
  | .shup p => 5#3 ++ p
  | .shdn p => 6#3 ++ p

def RouteSpec.ofCode (c : BitVec 12) : Option RouteSpec :=
  let p := c.extractLsb' 0 9
  match (c.extractLsb' 9 3).toNat with
  | 0 => if p = 0 then some .none else Option.none
  | 1 => some (.rot p)
  | 2 => some (.bcast p)
  | 3 => some (.bfly p)
  | 4 => if h : p.toNat < 96 then some (.perm ⟨p.toNat, h⟩) else Option.none
  | 5 => some (.shup p)
  | 6 => some (.shdn p)
  | _ => Option.none

/-- A mask register field (R43): 12–15 give 0x02. -/
def maskOfCode (c : BitVec 4) : Option (Fin 12) :=
  if h : c.toNat < 12 then some ⟨c.toNat, h⟩ else none

/-- A barrier field (R55): 96–127 give 0x02. -/
def barOfCode (c : BitVec 7) : Option (Fin 96) :=
  if h : c.toNat < 96 then some ⟨c.toNat, h⟩ else none

/-- A tile field (R54): 18–31 give 0x02. -/
def tileOfCode (c : BitVec 5) : Option (Fin 18) :=
  if h : c.toNat < 18 then some ⟨c.toNat, h⟩ else none

/-- A WID level field (R20): 6 and 7 give 0x02. -/
def levelOfCode (c : BitVec 3) : Option (Fin 6) :=
  if h : c.toNat < 6 then some ⟨c.toNat, h⟩ else none

def fin4 (c : BitVec 2) : Fin 4 := ⟨c.toNat, by omega⟩

def fin128 (c : BitVec 7) : Fin 128 := ⟨c.toNat, by omega⟩

def flag (b : Bool) : BitVec 1 := BitVec.ofBool b

/-! ## Shapes of words, decoding -/

/-- LA with an integer type (R37, R39). -/
def deLaI (k : IntTy → LDst → LSrc → LOpB → Instr) (w : W32) : Dec Instr := do
  let t ← need (IntTy.ofCode (fld w 22 3))
  let d ← need (LDst.ofCode (fld w 15 7))
  let a ← need (LSrc.ofCode (fld w 8 7))
  let b ← need (LOpB.ofCode (fld w 1 7) (bit w 0))
  return k t d a b

/-- LA with a floating-point type. -/
def deLaF (k : FpTy → LDst → LSrc → LOpB → Instr) (w : W32) : Dec Instr := do
  let t ← need (FpTy.ofCode (fld w 22 3))
  let d ← need (LDst.ofCode (fld w 15 7))
  let a ← need (LSrc.ofCode (fld w 8 7))
  let b ← need (LOpB.ofCode (fld w 1 7) (bit w 0))
  return k t d a b

/-- Unary LA, integer (opcode 0x1C): U = 1 gives 0x02. -/
def deUnI (k : IntTy → LDst → LSrc → Instr) (w : W32) : Dec Instr := do
  let t ← need (IntTy.ofCode (fld w 22 3))
  let d ← need (LDst.ofCode (fld w 15 7))
  let a ← need (LSrc.ofCode (fld w 8 7))
  mbz w 0 1
  return k t d a

/-- Unary LA, floating point (opcode 0x2F). -/
def deUnF (k : FpTy → LDst → LSrc → Instr) (w : W32) : Dec Instr := do
  let t ← need (FpTy.ofCode (fld w 22 3))
  let d ← need (LDst.ofCode (fld w 15 7))
  let a ← need (LSrc.ofCode (fld w 8 7))
  mbz w 0 1
  return k t d a

/-- `bfpk` and `bfpu`: U must be 0. -/
def deBfp (k : FpTy → LDst → LSrc → LSrc → Instr) (w : W32) : Dec Instr := do
  let t ← need (FpTy.ofCode (fld w 22 3))
  let d ← need (LDst.ofCode (fld w 15 7))
  let a ← need (LSrc.ofCode (fld w 8 7))
  let b ← need (LSrc.ofCode (fld w 1 7))
  mbz w 0 1
  return k t d a b

/-- LI. -/
def deLi (k : IntTy → LDst → LSrc → BitVec 8 → Instr) (w : W32) : Dec Instr := do
  let t ← need (IntTy.ofCode (fld w 22 3))
  let d ← need (LDst.ofCode (fld w 15 7))
  let a ← need (LSrc.ofCode (fld w 8 7))
  return k t d a (fld w 0 8)

/-- The unary integer subops (R41, 0x1C). -/
def deIun (w : W32) : Dec Instr :=
  match (fld w 1 7).toNat with
  | 0 => deUnI .not w | 1 => deUnI .neg w | 2 => deUnI .abs w | 3 => deUnI .popc w
  | 4 => deUnI .clz w | 5 => deUnI .ctz w | 6 => deUnI .brev w | 7 => deUnI .bswap w
  | _ => .error .illegal

/-- The unary floating-point subops (R41, 0x2F). -/
def deFun (w : W32) : Dec Instr :=
  match (fld w 1 7).toNat with
  | 0 => deUnF .fneg w | 1 => deUnF .fabs w | 2 => deUnF .fsqrt w | 3 => deUnF .frcp w
  | 4 => deUnF .frsq w | 5 => deUnF .fexp2 w | 6 => deUnF .flog2 w | 7 => deUnF .fsinpi w
  | 8 => deUnF .fcospi w | 9 => deUnF .ftanh w | 10 => deUnF .ffloor w | 11 => deUnF .fceil w
  | 12 => deUnF .ftrunc w | 13 => deUnF .frint w | 14 => deUnF .fclass w
  | _ => .error .illegal

/-- `cvt` (R41): the conversion field is [7:0]. -/
def deCvt (w : W32) : Dec Instr := do
  let d ← need (LDst.ofCode (fld w 15 7))
  let a ← need (LSrc.ofCode (fld w 8 7))
  mbz w 1 1
  return .cvt (ElTy.ofCode (fld w 22 3)) d a (ElTy.ofCode (fld w 5 3)) (bit w 4)
    (CvtMode.ofCode (fld w 2 2)) (bit w 0)

/-- `atom`, second word (R42): reserved aops 12–15 give 0x01. -/
def deAtomFields (x : W32) : Dec AtomFields :=
  match Aop.ofCode (fld x 28 4) with
  | none => .error .illegal
  | some op => do
    mbz x 0 8
    return { aop := op, order := Order.ofCode (fld x 26 2), scope := Scope.ofCode (fld x 23 3),
             promote := bit x 22, vb := fld x 15 7, vc := fld x 8 7 }

/-- The lane opcode map (R41–R46); `x` is the second word. -/
def decodeLane (w x : W32) : Dec Instr :=
  match (fld w 25 6).toNat with
  | 0x01 => deLaI .add w | 0x02 => deLaI .sub w | 0x03 => deLaI .mul w
  | 0x04 => deLaI .mulhs w | 0x05 => deLaI .mulhu w | 0x06 => deLaI .mad w
  | 0x07 => deLaI .mins w | 0x08 => deLaI .minu w | 0x09 => deLaI .maxs w | 0x0A => deLaI .maxu w
  | 0x0B => deLaI .and w | 0x0C => deLaI .or w | 0x0D => deLaI .xor w
  | 0x0E => deLaI .shl w | 0x0F => deLaI .shru w | 0x10 => deLaI .shrs w
  | 0x11 => deLaI .addss w | 0x12 => deLaI .addus w | 0x13 => deLaI .subss w | 0x14 => deLaI .subus w
  | 0x15 => deLaI .ceq w | 0x16 => deLaI .cne w | 0x17 => deLaI .clts w | 0x18 => deLaI .cltu w
  | 0x19 => deLaI .cles w | 0x1A => deLaI .cleu w
  | 0x1B => deLaI .bsel w
  | 0x1C => deIun w
  | 0x1D => deLi .addi w | 0x1E => deLi .andi w | 0x1F => deLi .ori w | 0x20 => deLi .xori w
  | 0x21 => deLi .shli w | 0x22 => deLi .shrui w | 0x23 => deLi .shrsi w
  | 0x24 => do
    let t ← need (IntTy.ofCode (fld w 22 3))
    let d ← need (LDst.ofCode (fld w 15 7))
    return .movi t d (fld w 0 15)
  | 0x25 => deLaF .fadd w | 0x26 => deLaF .fsub w | 0x27 => deLaF .fmul w | 0x28 => deLaF .ffma w
  | 0x29 => deLaF .fmin w | 0x2A => deLaF .fmax w
  | 0x2B => deLaF .fceq w | 0x2C => deLaF .fclt w | 0x2D => deLaF .fcle w | 0x2E => deLaF .fcun w
  | 0x2F => deFun w
  | 0x30 => deCvt w
  | 0x31 => deBfp .bfpk w | 0x32 => deBfp .bfpu w
  | 0x33 => do
    let p ← need (RouteSpec.ofCode (fld w 13 12))
    let q ← need (RouteSpec.ofCode (fld w 1 12))
    return .route p q (bit w 0)
  | 0x34 => do
    mbz w 0 13
    return .accsrc (fld w 21 4) (fld w 15 6) (bit w 14) (bit w 13)
  | 0x35 => do
    let d ← need (LDst.ofCode (fld w 15 7))
    let a ← need (LSrc.ofCode (fld w 8 7))
    let sp ← need (Space.ofCode (fld w 5 3))
    return .ld (LSize.ofCode (fld w 22 3)) d a sp (fld w 0 5)
  | 0x36 => do
    let v ← need (LSrc.ofCode (fld w 15 7))
    let a ← need (LSrc.ofCode (fld w 8 7))
    let sp ← need (Space.ofCode (fld w 5 3))
    return .st (LSize.ofCode (fld w 22 3)) v a sp (fld w 0 5)
  | 0x37 => do
    let d ← need (LDst.ofCode (fld w 15 7))
    let a ← need (LSrc.ofCode (fld w 8 7))
    let sp ← need (Space.ofCode (fld w 5 3))
    mbz w 0 2
    return .ldacq (LSize.ofCode (fld w 22 3)) d a sp (Scope.ofCode (fld w 2 3))
  | 0x38 => do
    let v ← need (LSrc.ofCode (fld w 15 7))
    let a ← need (LSrc.ofCode (fld w 8 7))
    let sp ← need (Space.ofCode (fld w 5 3))
    mbz w 0 2
    return .strel (LSize.ofCode (fld w 22 3)) v a sp (Scope.ofCode (fld w 2 3))
  | 0x39 => do
    let f ← deAtomFields x
    let z ← need (ASize.ofCode (fld w 22 3))
    let d ← need (LDst.ofCode (fld w 15 7))
    let a ← need (LSrc.ofCode (fld w 8 7))
    let sp ← need (Space.ofCode (fld w 5 3))
    mbz w 0 5
    return .atom z d a sp f
  | 0x3A => do
    mbz w 22 3
    return .xset (fin4 (fld w 20 2)) (fld w 13 7) (fld w 6 7) (fld w 0 6)
  | 0x3B => do
    mbz w 22 3
    mbz w 7 13
    return .xadd (fin4 (fld w 20 2)) (fld w 0 7)
  | 0x3C =>
    match (fld w 22 3).toNat with
    | 0 => do
      let d ← need (LDst.ofCode (fld w 15 7))
      mbz w 0 15
      return .qpop d
    | 1 => do
      mbz w 15 7
      let a ← need (LSrc.ofCode (fld w 8 7))
      mbz w 0 8
      return .qpush a
    | 2 => do
      let d ← need (LDst.ofCode (fld w 15 7))
      mbz w 0 15
      return .qlen d
    | _ => .error .illegal
  | 0x3D => if bit w 24 then .ok (.call (fld w 0 24)) else .ok (.br (fld w 0 24))
  | 0x3E => do
    let a ← need (LSrc.ofCode (fld w 17 7))
    return if bit w 24 then .brnz a (fld w 0 17) else .brz a (fld w 0 17)
  | 0x3F =>
    match (fld w 20 5).toNat with
    | 0 => do
      let a ← need (LSrc.ofCode (fld w 13 7))
      mbz w 0 13
      return .calli a
    | 1 => do mbz w 0 20; return .ret
    | 2 => do mbz w 0 20; return .exit
    | 3 => do let m ← need (maskOfCode (fld w 16 4)); mbz w 0 16; return .join m
    | 4 => do let m ← need (maskOfCode (fld w 16 4)); mbz w 0 16; return .leave m
    | 5 => do let m ← need (maskOfCode (fld w 16 4)); mbz w 0 16; return .wait m
    | 6 => do
      let c ← need (LSrc.ofCode (fld w 13 7))
      mbz w 0 5
      return .loop c (fld w 5 8) x
    | 7 => do mbz w 11 7; return .bbr (fin4 (fld w 18 2)) (fld w 0 11)
    | 8 => do
      let a ← need (LSrc.ofCode (fld w 11 7))
      return .bbrz (fin4 (fld w 18 2)) a (fld w 0 11)
    | 9 => do
      let a ← need (LSrc.ofCode (fld w 11 7))
      return .bbrnz (fin4 (fld w 18 2)) a (fld w 0 11)
    | 10 => .ok (.guard (fin4 (fld w 18 2)) (fld w 0 18))
    | 11 => do
      let a ← need (LSrc.ofCode (fld w 13 7))
      let b ← need (LDst.ofCode (fld w 6 7))
      return .waita a b (Scope.ofCode (fld w 3 3)) (WSpace.ofCode (fld w 1 2)) (bit w 0) x
    | 12 => do mbz w 0 12; return .waitc (fld w 16 4) (fld w 12 4)
    | 13 => do
      mbz w 0 15
      return .fence (FenceKind.ofCode (fld w 18 2)) (Scope.ofCode (fld w 15 3))
    | 14 => do mbz w 8 12; return .trap (fld w 0 8)
    | 15 => do
      let d ← need (LDst.ofCode (fld w 13 7))
      mbz w 3 10
      let l ← need (levelOfCode (fld w 0 3))
      return .getwid d l
    | 16 => do
      let d ← need (LDst.ofCode (fld w 13 7))
      mbz w 12 1
      return .csrr d (fld w 0 12)
    | 17 => do
      let a ← need (LSrc.ofCode (fld w 13 7))
      mbz w 12 1
      return .csrw a (fld w 0 12)
    | 18 => do mbz w 0 20; return .nop
    | _ => .error .illegal
  | _ => .error .illegal

/-- GA (R48). -/
def deGa (k : GDst → GSrc → GSrc → Bool → Instr) (w : W32) : Dec Instr := do
  let d ← need (GDst.ofCode (fld w 17 8))
  let a ← need (GSrc.ofCode (fld w 9 8))
  let b ← need (GSrc.ofCode (fld w 1 8))
  return k d a b (bit w 0)

/-- GI (R48). -/
def deGi (k : GDst → GSrc → BitVec 9 → Instr) (w : W32) : Dec Instr := do
  let d ← need (GDst.ofCode (fld w 17 8))
  let a ← need (GSrc.ofCode (fld w 9 8))
  return k d a (fld w 0 9)

/-- A group shift by an immediate of 0–63 (R174). -/
def deGsh (k : GDst → GSrc → BitVec 6 → Instr) (w : W32) : Dec Instr := do
  let d ← need (GDst.ofCode (fld w 17 8))
  let a ← need (GSrc.ofCode (fld w 9 8))
  mbz w 6 3
  return k d a (fld w 0 6)

/-- GP: parameter block and result (R48). -/
def deGp (k : Fin 192 → GDst → Instr) (w : W32) : Dec Instr := do
  let p ← need (gpOfCode (fld w 17 8))
  let d ← need (GDst.ofCode (fld w 9 8))
  mbz w 0 9
  return k p d

/-- The `gctl` subops (R52). -/
def deGctl (w x : W32) : Dec Instr :=
  match (fld w 20 5).toNat with
  | 0 => do let a ← need (GSrc.ofCode (fld w 12 8)); mbz w 0 12; return .groupCalli a
  | 1 => do mbz w 0 20; return .groupRet
  | 2 => do mbz w 0 20; return .groupExit
  | 3 => do
    let c ← need (GSrc.ofCode (fld w 12 8))
    mbz w 0 4
    return .groupLoop c (fld w 4 8) x
  | 4 => do mbz w 10 8; return .groupBbr (fin4 (fld w 18 2)) (fld w 0 10)
  | 5 => do
    let a ← need (GSrc.ofCode (fld w 10 8))
    return .groupBbrz (fin4 (fld w 18 2)) a (fld w 0 10)
  | 6 => do
    let a ← need (GSrc.ofCode (fld w 10 8))
    return .groupBbrnz (fin4 (fld w 18 2)) a (fld w 0 10)
  | 7 => .ok (.groupGuard (fin4 (fld w 18 2)) (fld w 0 18))
  | 8 => do mbz w 0 4; return .groupWaitc (fld w 16 4) (fld w 12 4) (fld w 8 4) (fld w 4 4)
  | 9 => .ok (.groupWaita (fin128 (fld w 13 7)) (fin128 (fld w 6 7)) (Scope.ofCode (fld w 3 3))
      (WSpace.ofCode (fld w 1 2)) (bit w 0) x)
  | 10 => do
    mbz w 0 15
    return .groupFence (FenceKind.ofCode (fld w 18 2)) (Scope.ofCode (fld w 15 3))
  | 11 => do mbz w 8 12; return .groupTrap (fld w 0 8)
  | 12 => do let d ← need (GDst.ofCode (fld w 12 8)); return .groupCsrr d (fld w 0 12)
  | 13 => do let a ← need (GSrc.ofCode (fld w 12 8)); return .groupCsrw a (fld w 0 12)
  | 14 => do mbz w 1 19; return if bit w 0 then .eretLanes else .eret
  | 15 => do mbz w 0 20; return .groupNop
  | 16 => do mbz w 0 20; return .idle
  | _ => .error .illegal

/-- `qctl` (R53). -/
def deQctl (w : W32) : Dec Instr :=
  match (fld w 20 5).toNat with
  | 0 => do let a ← need (GSrc.ofCode (fld w 11 8)); mbz w 0 11; return .qcfg (bit w 19) a
  | 1 => do
    mbz w 19 1
    let a ← need (GSrc.ofCode (fld w 11 8))
    mbz w 0 11
    return .groupQpush a
  | 2 => do
    mbz w 19 1
    let d ← need (GDst.ofCode (fld w 11 8))
    mbz w 0 11
    return .groupQpop d
  | 3 => do let d ← need (GDst.ofCode (fld w 11 8)); mbz w 0 11; return .groupQlen (bit w 19) d
  | _ => .error .illegal

/-- `mxctl` (R54). -/
def deMxctl (w : W32) : Dec Instr :=
  match (fld w 20 5).toNat with
  | 0 => do mbz w 0 20; return .mxctlTake
  | 1 => do mbz w 0 20; return .mxctlPass
  | 2 => do let t ← need (tileOfCode (fld w 15 5)); mbz w 0 15; return .mxctlTilewait t
  | 3 => do let p ← need (gpOfCode (fld w 12 8)); mbz w 0 12; return .mxctlCtab p
  | 4 => do let a ← need (GSrc.ofCode (fld w 12 8)); mbz w 0 12; return .mxsave a
  | 5 => do let a ← need (GSrc.ofCode (fld w 12 8)); mbz w 0 12; return .mxrest a
  | _ => .error .illegal

/-- `bar` with a source register. -/
def deBarS (k : Fin 96 → GSrc → Instr) (w : W32) : Dec Instr := do
  let b ← need (barOfCode (fld w 13 7))
  let a ← need (GSrc.ofCode (fld w 5 8))
  mbz w 0 5
  return k b a

/-- `bar` with a destination register. -/
def deBarD (k : Fin 96 → GDst → Instr) (w : W32) : Dec Instr := do
  let b ← need (barOfCode (fld w 13 7))
  let d ← need (GDst.ofCode (fld w 5 8))
  mbz w 0 5
  return k b d

/-- `bar` (R55). -/
def deBar (w : W32) : Dec Instr :=
  match (fld w 20 5).toNat with
  | 0 => deBarS .barInit w
  | 1 => do let b ← need (barOfCode (fld w 13 7)); mbz w 0 13; return .barArrive b
  | 2 => deBarD .barWait w
  | 3 => deBarD .barSync w
  | 4 => deBarS .barPost w
  | 5 => deBarD .barTake w
  | 6 => deBarD .barStat w
  | _ => .error .illegal

/-- gd, ga of `watch`, `share` and `quote` (R56). -/
def deDA (k : GDst → GSrc → Instr) (w : W32) : Dec Instr := do
  let d ← need (GDst.ofCode (fld w 12 8))
  let a ← need (GSrc.ofCode (fld w 4 8))
  mbz w 0 4
  return k d a

/-- gd, gp of `watch.arm` and `quote.req` (R56). -/
def deDP (k : GDst → Fin 192 → Instr) (w : W32) : Dec Instr := do
  let d ← need (GDst.ofCode (fld w 12 8))
  let p ← need (gpOfCode (fld w 4 8))
  mbz w 0 4
  return k d p

def deWatch (w : W32) : Dec Instr :=
  match (fld w 20 5).toNat with
  | 0 => deDP .watchArm w | 1 => deDA .watchDisarm w | 2 => deDA .watchQuery w
  | _ => .error .illegal

def deShare (w : W32) : Dec Instr :=
  match (fld w 20 5).toNat with
  | 0 => deDA .shareJoin w
  | 1 => do let d ← need (GDst.ofCode (fld w 12 8)); mbz w 0 12; return .shareLeave d
  | 2 => deDA .shareQuery w
  | _ => .error .illegal

def deQuote (w : W32) : Dec Instr :=
  match (fld w 20 5).toNat with
  | 0 => deDP .quoteReq w | 1 => deDA .quoteAcc w | 2 => deDA .quoteDec w | 3 => deDA .quoteActual w
  | _ => .error .illegal

/-- `phase` (R57). -/
def dePhase (w x : W32) : Dec Instr :=
  match (fld w 20 5).toNat with
  | 0 => do mbz w 0 20; return .phaseComp
  | 1 => do mbz w 0 20; return .phaseComm
  | 2 => do let p ← need (gpOfCode (fld w 12 8)); mbz w 0 12; return .phaseXfer p x
  | _ => .error .illegal

/-- Two source registers and a zero nibble: `sig`, `sys.msi`. -/
def deAB (k : GSrc → GSrc → Instr) (w : W32) : Dec Instr := do
  let a ← need (GSrc.ofCode (fld w 12 8))
  let b ← need (GSrc.ofCode (fld w 4 8))
  mbz w 0 4
  return k a b

def deSig (w : W32) : Dec Instr :=
  match (fld w 20 5).toNat with
  | 0 => deAB .sigSet w | 1 => deAB .sigAdd w | _ => .error .illegal

/-- A `sys` subop of one source register. -/
def deSysA (k : GSrc → Instr) (w : W32) : Dec Instr := do
  let a ← need (GSrc.ofCode (fld w 12 8))
  mbz w 0 12
  return k a

/-- A `sys` subop of one destination register. -/
def deSysD (k : GDst → Instr) (w : W32) : Dec Instr := do
  let d ← need (GDst.ofCode (fld w 12 8))
  mbz w 0 12
  return k d

/-- `sys` (R58). -/
def deSys (w : W32) : Dec Instr :=
  match (fld w 20 5).toNat with
  | 0 => do
    let a ← need (GSrc.ofCode (fld w 12 8))
    let b ← need (GSrc.ofCode (fld w 4 8))
    mbz w 2 2
    return .sysTlbinv a b (fld w 0 2)
  | 1 => deSysA .sysAsid w | 2 => deSysA .sysEresume w | 3 => deSysD .sysFqpop w
  | 4 => deAB .sysMsi w
  | 5 => deSysD .sysEvqpop w | 6 => deSysA .sysQlk w | 7 => deSysA .sysQulk w
  | 8 => do mbz w 0 20; return .sysHbeat
  | 9 => deSysA .sysSlot w
  | _ => .error .illegal

/-- The group opcode map (R50–R58). -/
def decodeGroup (w x : W32) : Dec Instr :=
  match (fld w 25 6).toNat with
  | 0x01 => deGa .groupAdd w | 0x02 => deGa .groupSub w | 0x03 => deGa .groupMul w
  | 0x04 => deGa .groupMulhs w | 0x05 => deGa .groupMulhu w
  | 0x06 => deGa .divs w | 0x07 => deGa .divu w | 0x08 => deGa .rems w | 0x09 => deGa .remu w
  | 0x0A => deGa .groupMins w | 0x0B => deGa .groupMinu w
  | 0x0C => deGa .groupMaxs w | 0x0D => deGa .groupMaxu w
  | 0x0E => deGa .groupAnd w | 0x0F => deGa .groupOr w | 0x10 => deGa .groupXor w
  | 0x11 => deGa .groupShl w | 0x12 => deGa .groupShru w | 0x13 => deGa .groupShrs w
  | 0x14 => deGa .groupCeq w | 0x15 => deGa .groupCne w
  | 0x16 => deGa .groupClts w | 0x17 => deGa .groupCltu w
  | 0x18 => do
    let d ← need (GDst.ofCode (fld w 17 8))
    let a ← need (GSrc.ofCode (fld w 9 8))
    let b ← need (GSrc.ofCode (fld w 1 8))
    mbz w 0 1
    return .sel d a b
  | 0x19 => deGi .groupAddi w | 0x1A => deGi .groupAndi w
  | 0x1B => deGi .groupOri w | 0x1C => deGi .groupXori w
  | 0x1D => deGsh .groupShli w | 0x1E => deGsh .groupShrui w | 0x1F => deGsh .groupShrsi w
  | 0x20 => do let d ← need (GDst.ofCode (fld w 17 8)); return .movw d (fld w 0 17)
  | 0x21 => do let d ← need (GDst.ofCode (fld w 17 8)); mbz w 0 17; return .lim d x
  | 0x22 => do let d ← need (GDst.ofCode (fld w 17 8)); mbz w 0 17; return .limh d x
  | 0x23 => do
    let d ← need (GDst.ofCode (fld w 17 8))
    let a ← need (GSrc.ofCode (fld w 9 8))
    let sp ← need (Space.ofCode (fld w 6 3))
    return .groupLd d a sp (fld w 0 6)
  | 0x24 => do
    let v ← need (GSrc.ofCode (fld w 17 8))
    let a ← need (GSrc.ofCode (fld w 9 8))
    let sp ← need (Space.ofCode (fld w 6 3))
    return .groupSt v a sp (fld w 0 6)
  | 0x25 => do
    let d ← need (GDst.ofCode (fld w 17 8))
    let a ← need (GSrc.ofCode (fld w 9 8))
    let sp ← need (Space.ofCode (fld w 6 3))
    mbz w 0 3
    return .groupLdacq d a sp (Scope.ofCode (fld w 3 3))
  | 0x26 => do
    let v ← need (GSrc.ofCode (fld w 17 8))
    let a ← need (GSrc.ofCode (fld w 9 8))
    let sp ← need (Space.ofCode (fld w 6 3))
    mbz w 0 3
    return .groupStrel v a sp (Scope.ofCode (fld w 3 3))
  | 0x27 => do
    let f ← deAtomFields x
    let d ← need (GDst.ofCode (fld w 17 8))
    let a ← need (GSrc.ofCode (fld w 9 8))
    let sp ← need (Space.ofCode (fld w 6 3))
    let z ← need (ASize.ofCode (fld w 3 3))
    mbz w 0 3
    return .groupAtom z d a sp f
  | 0x28 => .ok (.b (fld w 0 25))
  | 0x29 => .ok (.groupCall (fld w 0 25))
  | 0x2A => do let a ← need (GSrc.ofCode (fld w 17 8)); return .bz a (fld w 0 17)
  | 0x2B => do let a ← need (GSrc.ofCode (fld w 17 8)); return .bnz a (fld w 0 17)
  | 0x2C => deGctl w x
  | 0x2D => deQctl w
  | 0x2E => do
    mbz w 0 15
    mbz x 2 1
    mbz x 6 26
    let p ← need (gpOfCode (fld w 15 8))
    let sp ← need (Space.ofCode (fld x 3 3))
    return .strm (fin4 (fld w 23 2)) p (fld x 0 2) sp
  | 0x2F => do mbz w 0 23; return .strmgo (fin4 (fld w 23 2))
  | 0x30 => deGp .mxq w
  | 0x31 => deMxctl w
  | 0x32 => deGp .cpy w
  | 0x33 => deBar w
  | 0x34 => deWatch w
  | 0x35 => deGp .spawn w
  | 0x36 => deShare w
  | 0x37 => dePhase w x
  | 0x38 => deQuote w
  | 0x39 => do
    let q ← need (GSrc.ofCode (fld w 17 8))
    let v ← need (GSrc.ofCode (fld w 9 8))
    mbz w 0 9
    return .submit q v
  | 0x3A => deSig w
  | 0x3B => deSys w
  | _ => .error .illegal

/-- The instruction of a first word and, for a two-word instruction, the word after it (R35). -/
def decode (w x : W32) : Dec Instr :=
  if bit w 31 then decodeGroup w x else decodeLane w x

/-- Whether the first word opens a two-word instruction (R35). -/
def twoWords (w : W32) : Bool :=
  if bit w 31 then
    match (fld w 25 6).toNat with
    | 0x21 | 0x22 | 0x27 | 0x2E => true
    | 0x2C => fld w 20 5 = 3 || fld w 20 5 = 9
    | 0x37 => fld w 20 5 = 2
    | _ => false
  else
    match (fld w 25 6).toNat with
    | 0x39 => true
    | 0x3F => fld w 20 5 = 6 || fld w 20 5 = 11
    | _ => false

/-- One little-endian word from the front of a list of bytes (R12). -/
def takeWord : List Byte → Option (W32 × List Byte)
  | a :: b :: c :: d :: r => some (d ++ c ++ b ++ a, r)
  | _ => none

/-- The instruction at the front of a list of bytes, and the bytes after it. -/
def decodeBytes (bs : List Byte) : Dec (Instr × List Byte) :=
  match takeWord bs with
  | none => .error .short
  | some (w, r) =>
    if twoWords w then
      match takeWord r with
      | none => .error .short
      | some (x, r') => (decode w x).map (·, r')
    else (decode w 0).map (·, r)

/-- The `n` bytes of a number, the lowest first. -/
def bytesOfNat : Nat → Nat → List Byte
  | 0, _ => []
  | n + 1, v => BitVec.ofNat 8 v :: bytesOfNat n (v / 256)

/-- What the decoder reads from an instruction whose bits are numbered as the opcode table numbers
them; bits at and above `nbits` are zero. A row without words (an event) has no bits. -/
def decodeTableWord (nbits w : Nat) : Option Instr :=
  if nbits = 0 then none
  else
    match decodeBytes (bytesOfNat 8 (w % 2 ^ nbits)) with
    | .ok (i, _) => some i
    | .error _ => none

/-! ## Shapes of words, encoding -/

/-- Lane layouts: bit [31] is 0 (R37). -/
def enLa (op : BitVec 7) (t : BitVec 3) (d a b : BitVec 7) (u : BitVec 1) : W32 :=
  op ++ t ++ d ++ a ++ b ++ u

/-- A second operand field of 8 bits: LI, `cvt`, LM. -/
def enLi (op : BitVec 7) (t : BitVec 3) (d a : BitVec 7) (i : BitVec 8) : W32 := op ++ t ++ d ++ a ++ i

def enLm (op : BitVec 7) (z : BitVec 3) (d a : BitVec 7) (sp : BitVec 3) (o : BitVec 5) : W32 :=
  op ++ z ++ d ++ a ++ sp ++ o

/-- LS with the fields [19:13] and [12:0] (R43). -/
def enLs (sub : BitVec 5) (a : BitVec 7) (r : BitVec 13) : W32 := 0x3F#7 ++ sub ++ a ++ r

/-- LS with a mask in [19:16]. -/
def enLsM (sub : BitVec 5) (m : Fin 12) : W32 :=
  0x3F#7 ++ sub ++ BitVec.ofNat 4 m.val ++ 0#16

/-- The second word of `atom` (R42). -/
def AtomFields.code (f : AtomFields) : W32 :=
  f.aop.code ++ f.order.code ++ f.scope.code ++ flag f.promote ++ f.vb ++ f.vc ++ 0#8

/-- GA (R48): bit [31] is 1, so that the operation field is 0x40 + opcode. -/
def enGa (op : BitVec 7) (d a b : BitVec 8) (w : BitVec 1) : W32 := op ++ d ++ a ++ b ++ w

def enGi (op : BitVec 7) (d a : BitVec 8) (i : BitVec 9) : W32 := op ++ d ++ a ++ i

/-- GM (R48). -/
def enGm (op : BitVec 7) (d a : BitVec 8) (sp : BitVec 3) (o : BitVec 6) : W32 :=
  op ++ d ++ a ++ sp ++ o

def enGw (op : BitVec 7) (d : BitVec 8) (i : BitVec 17) : W32 := op ++ d ++ i

/-- GS with the fields [19:12], [11:4] and [3:0]. -/
def enGs (op : BitVec 7) (sub : BitVec 5) (x y : BitVec 8) (f : BitVec 4) : W32 :=
  op ++ sub ++ x ++ y ++ f

/-- `gctl` with [19:18], [17:10], [9:0]. -/
def enGk (sub : BitVec 5) (k : Fin 4) (a : BitVec 8) (o : BitVec 10) : W32 :=
  0x6C#7 ++ sub ++ BitVec.ofNat 2 k.val ++ a ++ o

/-- `qctl` (R53). -/
def enQ (sub : BitVec 5) (q : BitVec 1) (a : BitVec 8) : W32 := 0x6D#7 ++ sub ++ q ++ a ++ 0#11

/-- `bar` (R55). -/
def enBar (sub : BitVec 5) (b : Fin 96) (r : BitVec 8) : W32 :=
  0x73#7 ++ sub ++ BitVec.ofNat 7 b.val ++ r ++ 0#5

def k2 (k : Fin 4) : BitVec 2 := BitVec.ofNat 2 k.val

/-- The words of an instruction, written from the same tables; an event has none. -/
def encode : Instr → List W32
  | .add t d a b => [enLa 0x01 t.code d.code a.code b.code (flag b.u)]
  | .sub t d a b => [enLa 0x02 t.code d.code a.code b.code (flag b.u)]
  | .mul t d a b => [enLa 0x03 t.code d.code a.code b.code (flag b.u)]
  | .mulhs t d a b => [enLa 0x04 t.code d.code a.code b.code (flag b.u)]
  | .mulhu t d a b => [enLa 0x05 t.code d.code a.code b.code (flag b.u)]
  | .mad t d a b => [enLa 0x06 t.code d.code a.code b.code (flag b.u)]
  | .mins t d a b => [enLa 0x07 t.code d.code a.code b.code (flag b.u)]
  | .minu t d a b => [enLa 0x08 t.code d.code a.code b.code (flag b.u)]
  | .maxs t d a b => [enLa 0x09 t.code d.code a.code b.code (flag b.u)]
  | .maxu t d a b => [enLa 0x0A t.code d.code a.code b.code (flag b.u)]
  | .and t d a b => [enLa 0x0B t.code d.code a.code b.code (flag b.u)]
  | .or t d a b => [enLa 0x0C t.code d.code a.code b.code (flag b.u)]
  | .xor t d a b => [enLa 0x0D t.code d.code a.code b.code (flag b.u)]
  | .shl t d a b => [enLa 0x0E t.code d.code a.code b.code (flag b.u)]
  | .shru t d a b => [enLa 0x0F t.code d.code a.code b.code (flag b.u)]
  | .shrs t d a b => [enLa 0x10 t.code d.code a.code b.code (flag b.u)]
  | .addss t d a b => [enLa 0x11 t.code d.code a.code b.code (flag b.u)]
  | .addus t d a b => [enLa 0x12 t.code d.code a.code b.code (flag b.u)]
  | .subss t d a b => [enLa 0x13 t.code d.code a.code b.code (flag b.u)]
  | .subus t d a b => [enLa 0x14 t.code d.code a.code b.code (flag b.u)]
  | .ceq t d a b => [enLa 0x15 t.code d.code a.code b.code (flag b.u)]
  | .cne t d a b => [enLa 0x16 t.code d.code a.code b.code (flag b.u)]
  | .clts t d a b => [enLa 0x17 t.code d.code a.code b.code (flag b.u)]
  | .cltu t d a b => [enLa 0x18 t.code d.code a.code b.code (flag b.u)]
  | .cles t d a b => [enLa 0x19 t.code d.code a.code b.code (flag b.u)]
  | .cleu t d a b => [enLa 0x1A t.code d.code a.code b.code (flag b.u)]
  | .bsel t d a b => [enLa 0x1B t.code d.code a.code b.code (flag b.u)]
  | .not t d a => [enLa 0x1C t.code d.code a.code 0 0]
  | .neg t d a => [enLa 0x1C t.code d.code a.code 1 0]
  | .abs t d a => [enLa 0x1C t.code d.code a.code 2 0]
  | .popc t d a => [enLa 0x1C t.code d.code a.code 3 0]
  | .clz t d a => [enLa 0x1C t.code d.code a.code 4 0]
  | .ctz t d a => [enLa 0x1C t.code d.code a.code 5 0]
  | .brev t d a => [enLa 0x1C t.code d.code a.code 6 0]
  | .bswap t d a => [enLa 0x1C t.code d.code a.code 7 0]
  | .addi t d a i => [enLi 0x1D t.code d.code a.code i]
  | .andi t d a i => [enLi 0x1E t.code d.code a.code i]
  | .ori t d a i => [enLi 0x1F t.code d.code a.code i]
  | .xori t d a i => [enLi 0x20 t.code d.code a.code i]
  | .shli t d a i => [enLi 0x21 t.code d.code a.code i]
  | .shrui t d a i => [enLi 0x22 t.code d.code a.code i]
  | .shrsi t d a i => [enLi 0x23 t.code d.code a.code i]
  | .movi t d i => [0x24#7 ++ t.code ++ d.code ++ i]
  | .fadd t d a b => [enLa 0x25 t.code d.code a.code b.code (flag b.u)]
  | .fsub t d a b => [enLa 0x26 t.code d.code a.code b.code (flag b.u)]
  | .fmul t d a b => [enLa 0x27 t.code d.code a.code b.code (flag b.u)]
  | .ffma t d a b => [enLa 0x28 t.code d.code a.code b.code (flag b.u)]
  | .fmin t d a b => [enLa 0x29 t.code d.code a.code b.code (flag b.u)]
  | .fmax t d a b => [enLa 0x2A t.code d.code a.code b.code (flag b.u)]
  | .fceq t d a b => [enLa 0x2B t.code d.code a.code b.code (flag b.u)]
  | .fclt t d a b => [enLa 0x2C t.code d.code a.code b.code (flag b.u)]
  | .fcle t d a b => [enLa 0x2D t.code d.code a.code b.code (flag b.u)]
  | .fcun t d a b => [enLa 0x2E t.code d.code a.code b.code (flag b.u)]
  | .fneg t d a => [enLa 0x2F t.code d.code a.code 0 0]
  | .fabs t d a => [enLa 0x2F t.code d.code a.code 1 0]
  | .fsqrt t d a => [enLa 0x2F t.code d.code a.code 2 0]
  | .frcp t d a => [enLa 0x2F t.code d.code a.code 3 0]
  | .frsq t d a => [enLa 0x2F t.code d.code a.code 4 0]
  | .fexp2 t d a => [enLa 0x2F t.code d.code a.code 5 0]
  | .flog2 t d a => [enLa 0x2F t.code d.code a.code 6 0]
  | .fsinpi t d a => [enLa 0x2F t.code d.code a.code 7 0]
  | .fcospi t d a => [enLa 0x2F t.code d.code a.code 8 0]
  | .ftanh t d a => [enLa 0x2F t.code d.code a.code 9 0]
  | .ffloor t d a => [enLa 0x2F t.code d.code a.code 10 0]
  | .fceil t d a => [enLa 0x2F t.code d.code a.code 11 0]
  | .ftrunc t d a => [enLa 0x2F t.code d.code a.code 12 0]
  | .frint t d a => [enLa 0x2F t.code d.code a.code 13 0]
  | .fclass t d a => [enLa 0x2F t.code d.code a.code 14 0]
  | .cvt t d a st g r h => [enLi 0x30 t.code d.code a.code (st.code ++ flag g ++ r.code ++ 0#1 ++ flag h)]
  | .bfpk t d a b => [enLa 0x31 t.code d.code a.code b.code 0]
  | .bfpu t d a b => [enLa 0x32 t.code d.code a.code b.code 0]
  | .route p q f => [0x33#7 ++ p.code ++ q.code ++ flag f]
  | .accsrc tl f o u => [0x34#7 ++ tl ++ f ++ flag o ++ flag u ++ 0#13]
  | .ld z d a sp o => [enLm 0x35 z.code d.code a.code sp.code o]
  | .st z v a sp o => [enLm 0x36 z.code v.code a.code sp.code o]
  | .ldacq z d a sp c => [enLm 0x37 z.code d.code a.code sp.code (c.code ++ 0#2)]
  | .strel z v a sp c => [enLm 0x38 z.code v.code a.code sp.code (c.code ++ 0#2)]
  | .atom z d a sp f => [enLm 0x39 z.code d.code a.code sp.code 0, f.code]
  | .xset k b c u => [0x3A#7 ++ 0#3 ++ k2 k ++ b ++ c ++ u]
  | .xadd k i => [0x3B#7 ++ 0#3 ++ k2 k ++ 0#13 ++ i]
  | .qpop d => [0x3C#7 ++ 0#3 ++ d.code ++ 0#15]
  | .qpush a => [0x3C#7 ++ 1#3 ++ 0#7 ++ a.code ++ 0#8]
  | .qlen d => [0x3C#7 ++ 2#3 ++ d.code ++ 0#15]
  | .br o => [0x3D#7 ++ 0#1 ++ o]
  | .call o => [0x3D#7 ++ 1#1 ++ o]
  | .brz a o => [0x3E#7 ++ 0#1 ++ a.code ++ o]
  | .brnz a o => [0x3E#7 ++ 1#1 ++ a.code ++ o]
  | .calli a => [enLs 0 a.code 0]
  | .ret => [enLs 1 0 0]
  | .exit => [enLs 2 0 0]
  | .join m => [enLsM 3 m]
  | .leave m => [enLsM 4 m]
  | .wait m => [enLsM 5 m]
  | .loop c l bd => [enLs 6 c.code (l ++ 0#5), bd]
  | .bbr k o => [0x3F#7 ++ 7#5 ++ k2 k ++ 0#7 ++ o]
  | .bbrz k a o => [0x3F#7 ++ 8#5 ++ k2 k ++ a.code ++ o]
  | .bbrnz k a o => [0x3F#7 ++ 9#5 ++ k2 k ++ a.code ++ o]
  | .guard k b => [0x3F#7 ++ 10#5 ++ k2 k ++ b]
  | .waita a b c sp e tm => [0x3F#7 ++ 11#5 ++ a.code ++ b.code ++ c.code ++ sp.code ++ flag e, tm]
  | .waitc l s => [0x3F#7 ++ 12#5 ++ l ++ s ++ 0#12]
  | .fence k c => [0x3F#7 ++ 13#5 ++ k.code ++ c.code ++ 0#15]
  | .trap c => [0x3F#7 ++ 14#5 ++ 0#12 ++ c]
  | .getwid d l => [0x3F#7 ++ 15#5 ++ d.code ++ 0#10 ++ BitVec.ofNat 3 l.val]
  | .csrr d c => [enLs 16 d.code (0#1 ++ c)]
  | .csrw a c => [enLs 17 a.code (0#1 ++ c)]
  | .nop => [enLs 18 0 0]
  | .groupAdd d a b w => [enGa 0x41 d.code a.code b.code (flag w)]
  | .groupSub d a b w => [enGa 0x42 d.code a.code b.code (flag w)]
  | .groupMul d a b w => [enGa 0x43 d.code a.code b.code (flag w)]
  | .groupMulhs d a b w => [enGa 0x44 d.code a.code b.code (flag w)]
  | .groupMulhu d a b w => [enGa 0x45 d.code a.code b.code (flag w)]
  | .divs d a b w => [enGa 0x46 d.code a.code b.code (flag w)]
  | .divu d a b w => [enGa 0x47 d.code a.code b.code (flag w)]
  | .rems d a b w => [enGa 0x48 d.code a.code b.code (flag w)]
  | .remu d a b w => [enGa 0x49 d.code a.code b.code (flag w)]
  | .groupMins d a b w => [enGa 0x4A d.code a.code b.code (flag w)]
  | .groupMinu d a b w => [enGa 0x4B d.code a.code b.code (flag w)]
  | .groupMaxs d a b w => [enGa 0x4C d.code a.code b.code (flag w)]
  | .groupMaxu d a b w => [enGa 0x4D d.code a.code b.code (flag w)]
  | .groupAnd d a b w => [enGa 0x4E d.code a.code b.code (flag w)]
  | .groupOr d a b w => [enGa 0x4F d.code a.code b.code (flag w)]
  | .groupXor d a b w => [enGa 0x50 d.code a.code b.code (flag w)]
  | .groupShl d a b w => [enGa 0x51 d.code a.code b.code (flag w)]
  | .groupShru d a b w => [enGa 0x52 d.code a.code b.code (flag w)]
  | .groupShrs d a b w => [enGa 0x53 d.code a.code b.code (flag w)]
  | .groupCeq d a b w => [enGa 0x54 d.code a.code b.code (flag w)]
  | .groupCne d a b w => [enGa 0x55 d.code a.code b.code (flag w)]
  | .groupClts d a b w => [enGa 0x56 d.code a.code b.code (flag w)]
  | .groupCltu d a b w => [enGa 0x57 d.code a.code b.code (flag w)]
  | .sel d a b => [enGa 0x58 d.code a.code b.code 0]
  | .groupAddi d a i => [enGi 0x59 d.code a.code i]
  | .groupAndi d a i => [enGi 0x5A d.code a.code i]
  | .groupOri d a i => [enGi 0x5B d.code a.code i]
  | .groupXori d a i => [enGi 0x5C d.code a.code i]
  | .groupShli d a i => [enGi 0x5D d.code a.code (0#3 ++ i)]
  | .groupShrui d a i => [enGi 0x5E d.code a.code (0#3 ++ i)]
  | .groupShrsi d a i => [enGi 0x5F d.code a.code (0#3 ++ i)]
  | .movw d i => [enGw 0x60 d.code i]
  | .lim d i => [enGw 0x61 d.code 0, i]
  | .limh d i => [enGw 0x62 d.code 0, i]
  | .groupLd d a sp o => [enGm 0x63 d.code a.code sp.code o]
  | .groupSt v a sp o => [enGm 0x64 v.code a.code sp.code o]
  | .groupLdacq d a sp c => [enGm 0x65 d.code a.code sp.code (c.code ++ 0#3)]
  | .groupStrel v a sp c => [enGm 0x66 v.code a.code sp.code (c.code ++ 0#3)]
  | .groupAtom z d a sp f => [enGm 0x67 d.code a.code sp.code (z.code ++ 0#3), f.code]
  | .b o => [0x68#7 ++ o]
  | .groupCall o => [0x69#7 ++ o]
  | .bz a o => [enGw 0x6A a.code o]
  | .bnz a o => [enGw 0x6B a.code o]
  | .groupCalli a => [enGs 0x6C 0 a.code 0 0]
  | .groupRet => [enGs 0x6C 1 0 0 0]
  | .groupExit => [enGs 0x6C 2 0 0 0]
  | .groupLoop c l bd => [enGs 0x6C 3 c.code l 0, bd]
  | .groupBbr k o => [enGk 4 k 0 o]
  | .groupBbrz k a o => [enGk 5 k a.code o]
  | .groupBbrnz k a o => [enGk 6 k a.code o]
  | .groupGuard k b => [0x6C#7 ++ 7#5 ++ k2 k ++ b]
  | .groupWaitc l s c t => [0x6C#7 ++ 8#5 ++ l ++ s ++ c ++ t ++ 0#4]
  | .groupWaita a b c sp e tm => [0x6C#7 ++ 9#5 ++ BitVec.ofNat 7 a.val ++ BitVec.ofNat 7 b.val ++ c.code ++ sp.code ++ flag e, tm]
  | .groupFence k c => [0x6C#7 ++ 10#5 ++ k.code ++ c.code ++ 0#15]
  | .groupTrap c => [0x6C#7 ++ 11#5 ++ 0#12 ++ c]
  | .groupCsrr d c => [0x6C#7 ++ 12#5 ++ d.code ++ c]
  | .groupCsrw a c => [0x6C#7 ++ 13#5 ++ a.code ++ c]
  | .eret => [enGs 0x6C 14 0 0 0]
  | .eretLanes => [enGs 0x6C 14 0 0 1]
  | .groupNop => [enGs 0x6C 15 0 0 0]
  | .idle => [enGs 0x6C 16 0 0 0]
  | .qcfg up a => [enQ 0 (flag up) a.code]
  | .groupQpush a => [enQ 1 0 a.code]
  | .groupQpop d => [enQ 2 0 d.code]
  | .groupQlen up d => [enQ 3 (flag up) d.code]
  | .strm k p z sp => [0x6E#7 ++ k2 k ++ gpCode p ++ 0#15, 0#26 ++ sp.code ++ 0#1 ++ z]
  | .strmgo k => [0x6F#7 ++ k2 k ++ 0#23]
  | .mxq p d => [enGa 0x70 (gpCode p) d.code 0 0]
  | .mxctlTake => [enGs 0x71 0 0 0 0]
  | .mxctlPass => [enGs 0x71 1 0 0 0]
  | .mxctlTilewait t => [0x71#7 ++ 2#5 ++ BitVec.ofNat 5 t.val ++ 0#15]
  | .mxctlCtab p => [enGs 0x71 3 (gpCode p) 0 0]
  | .mxsave a => [enGs 0x71 4 a.code 0 0]
  | .mxrest a => [enGs 0x71 5 a.code 0 0]
  | .cpy p d => [enGa 0x72 (gpCode p) d.code 0 0]
  | .barInit b a => [enBar 0 b a.code]
  | .barArrive b => [enBar 1 b 0]
  | .barWait b d => [enBar 2 b d.code]
  | .barSync b d => [enBar 3 b d.code]
  | .barTake b d => [enBar 5 b d.code]
  | .barStat b d => [enBar 6 b d.code]
  | .barPost b a => [enBar 4 b a.code]
  | .watchArm d p => [enGs 0x74 0 d.code (gpCode p) 0]
  | .watchDisarm d a => [enGs 0x74 1 d.code a.code 0]
  | .watchQuery d a => [enGs 0x74 2 d.code a.code 0]
  | .spawn p d => [enGa 0x75 (gpCode p) d.code 0 0]
  | .shareJoin d a => [enGs 0x76 0 d.code a.code 0]
  | .shareLeave d => [enGs 0x76 1 d.code 0 0]
  | .shareQuery d a => [enGs 0x76 2 d.code a.code 0]
  | .phaseComp => [enGs 0x77 0 0 0 0]
  | .phaseComm => [enGs 0x77 1 0 0 0]
  | .phaseXfer p tm => [enGs 0x77 2 (gpCode p) 0 0, tm]
  | .quoteReq d p => [enGs 0x78 0 d.code (gpCode p) 0]
  | .quoteAcc d a => [enGs 0x78 1 d.code a.code 0]
  | .quoteDec d a => [enGs 0x78 2 d.code a.code 0]
  | .quoteActual d a => [enGs 0x78 3 d.code a.code 0]
  | .submit q v => [enGa 0x79 q.code v.code 0 0]
  | .sigSet a b => [enGs 0x7A 0 a.code b.code 0]
  | .sigAdd a b => [enGs 0x7A 1 a.code b.code 0]
  | .sysTlbinv a b f => [enGs 0x7B 0 a.code b.code (0#2 ++ f)]
  | .sysAsid a => [enGs 0x7B 1 a.code 0 0]
  | .sysEresume a => [enGs 0x7B 2 a.code 0 0]
  | .sysFqpop d => [enGs 0x7B 3 d.code 0 0]
  | .sysMsi a b => [enGs 0x7B 4 a.code b.code 0]
  | .sysEvqpop d => [enGs 0x7B 5 d.code 0 0]
  | .sysQlk a => [enGs 0x7B 6 a.code 0 0]
  | .sysQulk a => [enGs 0x7B 7 a.code 0 0]
  | .sysHbeat => [enGs 0x7B 8 0 0 0]
  | .sysSlot a => [enGs 0x7B 9 a.code 0 0]
  | .maskWrite _ _ _ => []
  | .fslotWrite _ => []
  | .fwdtWrite _ => []
  | .secDigest _ => []
  | .secVerify _ => []
  | .secExtend _ => []
  | .secResetSponge _ => []
  | .secAbsorb _ => []
  | .secSqueeze _ => []
  | .secCommandDone => []
  | .invalid _ => []
  | .quote _ => []
  | .accept _ => []
  | .decline _ => []
  | .launch _ => []
  | .copy _ => []
  | .signal _ => []
  | .barrier _ => []
  | .watch _ => []
  | .wakeRegisterStore _ _ => []
  | .wakeEvent _ => []
  | .signalChanged _ => []
  | .periodicTick => []
  | .idleWake _ => []
  | .quoteWalkStart => []
  | .quoteWalkEnd _ => []
  | .pinDone _ _ => []
  | .validityDeadline _ => []
  | .launchStart _ => []
  | .blockStart _ => []
  | .readyTaskDispatch _ _ => []
  | .retirement _ => []
  | .preemptionSave _ => []
  | .preemptionResume _ => []
  | .registerWriteback _ => []
  | .loadReturn _ _ => []
  | .storePerformed _ => []
  | .serviceGangStep _ => []
  | .atomicReply _ => []
  | .instructionFetchFill _ => []
  | .trapEntry _ => []
  | .steppeInterrupt _ _ => []
  | .msiDelivery _ => []
  | .faultRecordPost _ => []
  | .waitaReread _ => []
  | .waitaTimeout _ => []
  | .barWaitTimeout _ => []
  | .batonGrant _ => []
  | .shareLeaveRevoke _ => []
  | .copyStart _ _ => []
  | .copyCompletion _ _ => []
  | .copyStop _ _ _ => []
  | .xferStart _ => []
  | .streamEntryClaim _ _ => []
  | .streamStop _ _ _ => []
  | .phaseStepStart _ => []
  | .matrixOpStart _ => []
  | .matrixNativeStep _ => []
  | .matrixOpComplete _ => []
  | .matrixErrorStop _ _ => []
  | .matrixWindowFault _ => []
  | .sparsityQueueTimeout _ => []
  | .triggerJoin _ => []
  | .formingGangReady _ _ => []
  | .slotSwitch => []
  | .rollBack => []
  | .watchdogExpiry => []
  | .errorCounterUpdate _ => []
  | .hostBar4Access _ _ _ => []
  | .hostAtomicop _ _ _ _ _ => []
  | .peerAccess _ _ _ _ => []
  | .slotImageWrite _ _ _ => []
  | .powerOn => []
  | .mainSideReset _ => []
  | .thermalTrip _ => []
  | .thermalRecovery _ => []
  | .thermalEmergency _ => []
  | .setEnvelope _ => []
  | .getVersion => []
  | .getCapabilities => []
  | .negotiateAlgorithms => []
  | .getDigests => []
  | .getCertificate => []
  | .challenge => []
  | .getMeasurements _ => []
  | .telemetryRead => []
  | .blackBoxRead => []
  | .debugHalt _ => []
  | .managementRequest _ => []
  | .sfqbWrite _ => []
  | .meshOrLinkRetry _ _ => []
  | .lazyBindingAllowanceExpiry _ => []
  | .bootStageReached _ _ => []

end Sys2Proof
end

