-- ==== Sys2Proof/WellFormed.lean ====
section
/-! DEFINITION. The checks of R36 that the decoder leaves: on which core kinds a word is legal, at
which level, whether its field values lie in their ranges, and whether its registers lie below the
declared counts. -/

namespace Sys2Proof

/-- The kinds of core that execute instructions (R50, R270). -/
inductive CoreKind | lane | cond | steppe | saddle
  deriving DecidableEq, Repr

/-- The privilege levels of R9. -/
inductive Level | u | s | f
  deriving DecidableEq, Repr

/-- CSR LEVEL (R270): 0 for U, 1 for S, 2 for F. -/
def Level.num : Level → Nat | .u => 0 | .s => 1 | .f => 2

/-- Whether a word of the group set is legal on this core kind (R50, R282, R285–R288, R58). -/
def groupLegal (w : W32) (k : CoreKind) : Bool :=
  match (fld w 25 6).toNat with
  | 0x2D | 0x2E | 0x2F | 0x30 | 0x31 | 0x32 | 0x33 | 0x35 | 0x36 | 0x37 => k = .cond
  | 0x34 => k = .cond || k = .saddle
  | 0x39 => k = .cond || k = .steppe
  | 0x3B =>
    match (fld w 20 5).toNat with
    | 1 => k = .steppe || k = .saddle
    | 2 | 3 => k = .steppe
    | _ => true
  | _ => true

/-- Row 1 of R36: the word's set and opcode are legal on this core kind. -/
def legalOn (w : W32) (k : CoreKind) : Bool :=
  if bit w 31 then k ≠ .lane && groupLegal w k else k = .lane

/-- The level a CSR number asks for (R271); numbers outside the map ask for none. -/
def csrLevel (c : Nat) : Level :=
  if 0x100 ≤ c ∧ c ≤ 0x10D then .s
  else if (0x200 ≤ c ∧ c ≤ 0x203) ∨ (0x210 ≤ c ∧ c ≤ 0x21A) ∨ c = 0x220 then .f
  else .u

/-- Row 2 of R36: the level the word asks for (R43, R46, R52, R54, R58). -/
def levelOf (w : W32) : Level :=
  if bit w 31 then
    match (fld w 25 6).toNat with
    | 0x2C =>
      match (fld w 20 5).toNat with
      | 12 | 13 => csrLevel (fld w 0 12).toNat
      | 14 | 16 => .s
      | _ => .u
    | 0x31 =>
      match (fld w 20 5).toNat with
      | 2 => if fld w 15 5 = 16 || fld w 15 5 = 17 then .s else .u
      | 4 | 5 => .s
      | _ => .u
    | 0x3B =>
      match (fld w 20 5).toNat with
      | 5 | 6 | 7 | 8 | 9 => .f
      | _ => .s
    | _ => .u
  else
    match (fld w 25 6).toNat with
    | 0x34 => if bit w 13 then .s else .u
    | 0x3F =>
      match (fld w 20 5).toNat with
      | 16 | 17 => csrLevel (fld w 0 12).toNat
      | _ => .u
    | _ => .u

/-- The plain branches of R59, whose offset must be positive at U level. -/
def branchForward (w : W32) : Bool :=
  if bit w 31 then
    match (fld w 25 6).toNat with
    | 0x28 => (fld w 0 25).toInt > 0
    | 0x2A | 0x2B => (fld w 0 17).toInt > 0
    | _ => true
  else
    match (fld w 25 6).toNat with
    | 0x3D => bit w 24 || (fld w 0 24).toInt > 0
    | 0x3E => (fld w 0 17).toInt > 0
    | _ => true

/-- `exit` of the group set (R120: not in an S-level handler of a compute core). -/
def isGroupExit (w : W32) : Bool := fld w 20 12 = 0xD82

/-- Row 1 of R36 for a word that decodes or fails only with 0x02: core kind, R59 and R120. -/
def wordLegal (w : W32) (k : CoreKind) (l : Level) : Bool :=
  legalOn w k && (l ≠ .u || branchForward w) && !(isGroupExit w && k = .cond && l = .s)

/-- The integer type codes. -/
def ElTy.isInt : ElTy → Bool
  | .i8 | .i16 | .i32 | .i64 => true
  | _ => false

/-- The combinations R42 allows: no 64-bit `fadd`; promote only at device scope or wider, with an
acquire order. -/
def AtomFields.ok (f : AtomFields) (z : ASize) : Bool :=
  !(f.aop = .fadd && z = .w64) &&
  !(f.promote && (f.scope = .thr || f.scope = .gng || f.scope = .cor || f.scope = .clu || f.scope = .nbr)) &&
  !(f.promote && (f.order = .rlx || f.order = .rel))

/-- A `.qw` access names an even register (R40); `v[xk]` is checked when it is read (R141). -/
def pairEvenD (z : LSize) : LDst → Bool
  | .v n => z ≠ .qw || n.val % 2 = 0
  | .vx _ => true
  | .vz => z ≠ .qw

def pairEvenS (z : LSize) : LSrc → Bool
  | .v n => z ≠ .qw || n.val % 2 = 0
  | .vx _ => true
  | .vz | .tid => z ≠ .qw

/-- gd of an instruction that writes gd and gd + 1 (R98, R251). -/
def pairG : GDst → Bool
  | .g n => decide (n.val ≤ 0xBE)
  | .gz => false

/-- Field values in their stated ranges (R36 row 3), beyond what the types already say. -/
def wellFormed : Instr → Bool
  | .cvt dt _ _ st g _ h =>
    (dt.isInt || !h) && (st.isInt || !g) && (dt ≠ st || dt.isInt)
  | .accsrc t _ _ sup => !sup || t.toNat ≤ 1
  | .ld z d _ _ _ => pairEvenD z d
  | .st z v _ _ _ => pairEvenS z v && z ≠ .s8 && z ≠ .s16 && z ≠ .s32
  | .ldacq z _ _ _ _ => z ≠ .qw
  | .strel z _ _ _ _ => z = .u8 || z = .u16 || z = .u32 || z = .dw
  | .atom z _ _ _ f | .groupAtom z _ _ _ f => f.ok z
  | .loop _ l b | .groupLoop _ l b => l ≠ 0 && b ≠ 0
  | .bbr _ o | .bbrz _ _ o | .bbrnz _ _ o => o.msb
  | .groupBbr _ o | .groupBbrz _ _ o | .groupBbrnz _ _ o => o.msb
  | .waita _ _ _ _ _ t | .groupWaita _ _ _ _ _ t => t ≠ 0
  | .fence k _ | .groupFence k _ => k ≠ .zero
  | .sysTlbinv _ _ f => f ≠ 3
  | .barStat _ d | .quoteActual d _ => pairG d
  | _ => true

/-- Below the declared lane register count (R21); the other selectors name no fixed register. -/
def LSrc.below (n : Nat) : LSrc → Bool
  | .v r => r.val < n
  | _ => true

def LDst.below (n : Nat) : LDst → Bool
  | .v r => r.val < n
  | _ => true

/-- Below the declared group register count (R21, R49). -/
def GSrc.below (n : Nat) : GSrc → Bool
  | .g r => r.val < n
  | _ => true

def GDst.below (n : Nat) : GDst → Bool
  | .g r => r.val < n
  | _ => true

/-- gd and gd + 1 below the declared group register count (R98, R251). -/
def GDst.pairBelow (n : Nat) : GDst → Bool
  | .g r => decide (r.val + 1 < n)
  | .gz => true

def LOpB.below (lanes groups : Nat) : LOpB → Bool
  | .lane x => x.below lanes
  | .group g => g.val < groups

def RouteSpec.below (n : Nat) : RouteSpec → Bool
  | .perm p => p.val < n
  | _ => true

/-- Which of vb and vc an aop reads (R243): vb for all but `incw`, vc for `cas` and `incw`. -/
def Aop.readsB (a : Aop) : Bool := a ≠ .incw
def Aop.readsC (a : Aop) : Bool := a = .cas || a = .incw

def selBelow (c : BitVec 7) (lanes : Nat) : Bool :=
  match LSrc.ofCode c with
  | some x => x.below lanes
  | none => false

def AtomFields.belowLane (f : AtomFields) (lanes : Nat) : Bool :=
  (!f.aop.readsB || selBelow f.vb lanes) && (!f.aop.readsC || selBelow f.vc lanes)

def AtomFields.belowGroup (f : AtomFields) (groups : Nat) : Bool :=
  (!f.aop.readsB || f.vb.toNat < groups) && (!f.aop.readsC || f.vc.toNat < groups)

/-- The register number a selector names directly. -/
def LSrc.reg : LSrc → Option Nat
  | .v n => some n.val
  | _ => none

def LDst.reg : LDst → Option Nat
  | .v n => some n.val
  | _ => none

/-- The second register of a `.qw` pair lies below the declared count (R40). -/
def pairBelow (z : LSize) (r : Option Nat) (lanes : Nat) : Bool :=
  match r with
  | some n => z ≠ .qw || n + 1 < lanes
  | none => true

/-- Every directly named register lies below the declared counts (R21, R38, R48, R49). The blocks of
`cpy`, `mxq`, `mxctl.ctab` and `phase.xfer` are checked with their registers (R184, R192, R214). -/
def fitsCounts (lanes groups : Nat) : Instr → Bool
  | .add _ d a b | .sub _ d a b | .mul _ d a b | .mulhs _ d a b | .mulhu _ d a b | .mad _ d a b
  | .mins _ d a b | .minu _ d a b | .maxs _ d a b | .maxu _ d a b | .and _ d a b | .or _ d a b
  | .xor _ d a b | .shl _ d a b | .shru _ d a b | .shrs _ d a b | .addss _ d a b
  | .addus _ d a b | .subss _ d a b | .subus _ d a b | .ceq _ d a b | .cne _ d a b
  | .clts _ d a b | .cltu _ d a b | .cles _ d a b | .cleu _ d a b | .bsel _ d a b
  | .fadd _ d a b | .fsub _ d a b | .fmul _ d a b | .ffma _ d a b | .fmin _ d a b
  | .fmax _ d a b | .fceq _ d a b | .fclt _ d a b | .fcle _ d a b | .fcun _ d a b =>
    d.below lanes && a.below lanes && b.below lanes groups
  | .not _ d a | .neg _ d a | .abs _ d a | .popc _ d a | .clz _ d a | .ctz _ d a | .brev _ d a
  | .bswap _ d a | .addi _ d a _ | .andi _ d a _ | .ori _ d a _ | .xori _ d a _ | .shli _ d a _
  | .shrui _ d a _ | .shrsi _ d a _ | .fneg _ d a | .fabs _ d a | .fsqrt _ d a | .frcp _ d a
  | .frsq _ d a | .fexp2 _ d a | .flog2 _ d a | .fsinpi _ d a | .fcospi _ d a | .ftanh _ d a
  | .ffloor _ d a | .fceil _ d a | .ftrunc _ d a | .frint _ d a | .fclass _ d a
  | .cvt _ d a _ _ _ _ =>
    d.below lanes && a.below lanes
  | .movi _ d _ | .qpop d | .qlen d | .getwid d _ | .csrr d _ =>
    d.below lanes
  | .bfpk _ d a b | .bfpu _ d a b =>
    d.below lanes && a.below lanes && b.below lanes
  | .route x y _ =>
    x.below lanes && y.below lanes
  | .accsrc _ _ _ _ | .xset _ _ _ _ | .xadd _ _ | .br _ | .call _ | .ret | .exit | .join _
  | .leave _ | .wait _ | .bbr _ _ | .guard _ _ | .waitc _ _ | .fence _ _ | .trap _ | .nop | .b _
  | .groupCall _ | .groupRet | .groupExit | .groupBbr _ _ | .groupGuard _ _
  | .groupWaitc _ _ _ _ | .groupFence _ _ | .groupTrap _ | .eret | .eretLanes | .groupNop
  | .idle | .strmgo _ | .mxctlTake | .mxctlPass | .mxctlTilewait _ | .mxctlCtab _ | .barArrive _
  | .phaseComp | .phaseComm | .phaseXfer _ _ | .sysHbeat | .maskWrite _ _ _ | .fslotWrite _ | .fwdtWrite _ | .secDigest _
  | .secVerify _ | .secExtend _ | .secResetSponge _ | .secAbsorb _ | .secSqueeze _
  | .secCommandDone | .invalid _ | .quote _ | .accept _ | .decline _ | .launch _ | .copy _
  | .signal _ | .barrier _ | .watch _ | .wakeRegisterStore _ _ | .wakeEvent _ | .signalChanged _
  | .periodicTick | .idleWake _ | .quoteWalkStart | .quoteWalkEnd _ | .pinDone _ _
  | .validityDeadline _ | .launchStart _ | .blockStart _ | .readyTaskDispatch _ _
  | .retirement _ | .preemptionSave _ | .preemptionResume _ | .registerWriteback _
  | .loadReturn _ _ | .storePerformed _ | .serviceGangStep _ | .atomicReply _
  | .instructionFetchFill _ | .trapEntry _ | .steppeInterrupt _ _ | .msiDelivery _
  | .faultRecordPost _ | .waitaReread _ | .waitaTimeout _ | .barWaitTimeout _ | .batonGrant _
  | .shareLeaveRevoke _ | .copyStart _ _ | .copyCompletion _ _ | .copyStop _ _ _ | .xferStart _
  | .streamEntryClaim _ _ | .streamStop _ _ _ | .phaseStepStart _ | .matrixOpStart _
  | .matrixNativeStep _ | .matrixOpComplete _ | .matrixErrorStop _ _ | .matrixWindowFault _
  | .sparsityQueueTimeout _ | .triggerJoin _ | .formingGangReady _ _ | .slotSwitch | .rollBack
  | .watchdogExpiry | .errorCounterUpdate _ | .hostBar4Access _ _ _ | .hostAtomicop _ _ _ _ _
  | .peerAccess _ _ _ _ | .slotImageWrite _ _ _ | .powerOn | .mainSideReset _ | .thermalTrip _
  | .thermalRecovery _ | .thermalEmergency _ | .setEnvelope _ | .getVersion | .getCapabilities
  | .negotiateAlgorithms | .getDigests | .getCertificate | .challenge | .getMeasurements _
  | .telemetryRead | .blackBoxRead | .debugHalt _ | .managementRequest _ | .sfqbWrite _
  | .meshOrLinkRetry _ _ | .lazyBindingAllowanceExpiry _ | .bootStageReached _ _ =>
    true
  | .ld z d a _ _ | .ldacq z d a _ _ =>
    d.below lanes && a.below lanes && pairBelow z d.reg lanes
  | .st z v a _ _ =>
    v.below lanes && a.below lanes && pairBelow z v.reg lanes
  | .strel _ v a _ _ =>
    v.below lanes && a.below lanes
  | .atom _ d a _ f =>
    d.below lanes && a.below lanes && f.belowLane lanes
  | .qpush a | .brz a _ | .brnz a _ | .calli a | .bbrz _ a _ | .bbrnz _ a _ | .csrw a _ =>
    a.below lanes
  | .loop c _ _ =>
    c.below lanes
  | .waita a b _ _ _ _ =>
    a.below lanes && b.below lanes
  | .groupAdd d a b _ | .groupSub d a b _ | .groupMul d a b _ | .groupMulhs d a b _
  | .groupMulhu d a b _ | .divs d a b _ | .divu d a b _ | .rems d a b _ | .remu d a b _
  | .groupMins d a b _ | .groupMinu d a b _ | .groupMaxs d a b _ | .groupMaxu d a b _
  | .groupAnd d a b _ | .groupOr d a b _ | .groupXor d a b _ | .groupShl d a b _
  | .groupShru d a b _ | .groupShrs d a b _ | .groupCeq d a b _ | .groupCne d a b _
  | .groupClts d a b _ | .groupCltu d a b _ | .sel d a b =>
    d.below groups && a.below groups && b.below groups
  | .groupAddi d a _ | .groupAndi d a _ | .groupOri d a _ | .groupXori d a _ | .groupShli d a _
  | .groupShrui d a _ | .groupShrsi d a _ | .groupLd d a _ _ | .groupLdacq d a _ _
  | .watchDisarm d a | .watchQuery d a | .shareJoin d a | .shareQuery d a | .quoteAcc d a
  | .quoteDec d a =>
    d.below groups && a.below groups
  | .quoteActual d a =>
    d.pairBelow groups && a.below groups
  | .movw d _ | .lim d _ | .limh d _ | .groupCsrr d _ | .groupQpop d | .groupQlen _ d
  | .barWait _ d | .barSync _ d | .barTake _ d | .shareLeave d | .sysFqpop d
  | .sysEvqpop d =>
    d.below groups
  | .barStat _ d =>
    d.pairBelow groups
  | .groupSt v a _ _ | .groupStrel v a _ _ =>
    v.below groups && a.below groups
  | .groupAtom _ d a _ f =>
    d.below groups && a.below groups && f.belowGroup groups
  | .bz a _ | .bnz a _ | .groupCalli a | .groupBbrz _ a _ | .groupBbrnz _ a _ | .groupCsrw a _
  | .qcfg _ a | .groupQpush a | .mxsave a | .mxrest a | .barInit _ a | .barPost _ a | .sysAsid a
  | .sysEresume a | .sysQlk a | .sysQulk a | .sysSlot a =>
    a.below groups
  | .groupLoop c _ _ =>
    c.below groups
  | .groupWaita a b _ _ _ _ =>
    decide (a.val < groups) && decide (b.val < groups)
  | .strm _ p _ _ =>
    decide (p.val + 4 ≤ groups)
  | .mxq _ d | .cpy _ d =>
    d.below groups
  | .watchArm d p | .quoteReq d p =>
    d.below groups && decide (p.val + 4 ≤ groups)
  | .spawn p d =>
    decide (p.val + 4 ≤ groups) && d.below groups
  | .submit q w =>
    q.below groups && w.below groups
  | .sigSet a b | .sigAdd a b | .sysTlbinv a b _ | .sysMsi a b =>
    a.below groups && b.below groups

end Sys2Proof
end

