-- ==== Sys2Proof/Machine/State.lean ====
section
/-! DEFINITION. The state of the Swetar: plain data, holding every piece of state the manual names
(INVENTORY.md lists them with their rules), and the state right after reset. -/

namespace Sys2Proof.Machine

/-- What stops the model itself. No fault of the hardware stands here: taking a trap is a next
state. -/
inductive Fault
  /-- Raised by the meaning of an instruction word when the issue context names no agent that
  exists. Safe: no state the step builds has such a context. -/
  | noAgent
  deriving DecidableEq, Repr

/-- What the model refuses. -/
inductive Refusal
  /-- Raised by an arm of `exec` whose instruction has no meaning yet. Safe: nothing runs. -/
  | notModelled (mnemonic : String)
  deriving DecidableEq, Repr

/-! ## Places in memory -/

/-- A byte's place once an address is checked and translated (R199, R205, R206). -/
inductive Loc
  /-- A byte of device physical memory. -/
  | dev (pa : Nat)
  /-- A byte of the slice of a core. -/
  | slice (core off : Nat)
  /-- A byte behind the host port. -/
  | host (pa : Nat)
  /-- A byte of a peer's device physical memory. -/
  | peer (n pa : Nat)
  deriving DecidableEq, Repr

/-- A translation held by a TLB (R207): `asid` is none for a global leaf. -/
structure TlbEntry where
  asid : Option Nat
  /-- virtual base of the page and its size in bytes -/
  base : Nat
  bytes : Nat
  /-- the leaf as read (R205), and where it stands -/
  pte : W64
  at_ : Nat
  deriving DecidableEq, Repr

/-! ## Threads -/

/-- The states of a lane thread (R119). -/
inductive LaneSt
  | absent
  | live
  | parkedMask (k : Fin 12)
  | parkedFault
  | exited
  deriving DecidableEq, Repr

/-- An index register (R141). -/
structure XReg where
  base : BitVec 7
  count : BitVec 7
  cur : BitVec 7
  deriving DecidableEq, Repr

/-- An open hardware loop (R133): its counter lcd, its body [start, stop) as code addresses and the
call depth at which it was opened. -/
structure Loop where
  count : W64
  start : W64
  stop : W64
  depth : Nat
  deriving DecidableEq, Repr

/-- An entry of the call stack (R130, R324). -/
structure Frame where
  ret : W64
  x : Vector XReg 4
  deriving DecidableEq, Repr

/-- Where a result lands. -/
inductive Dst
  | reg (n : Nat)
  | x (k : Fin 4)
  | ffl
  | none
  deriving DecidableEq, Repr

/-- A result whose latency has not ended (R137): it is written at clock `due`, in the bits of
`mask`. A load's or an atomic's result has no due clock until its access `src` returns; `hi` marks
the second register of a `.qw` pair. -/
structure Pend where
  dst : Dst
  mask : W64
  val : W64
  due : Option Nat
  src : Option Nat
  hi : Bool
  deriving DecidableEq, Repr

/-- What a thread that has issued a waiting instruction waits for. -/
inductive WaitKind
  /-- `waita` (R249): the word, the value compared with, the register written, the sense, the address. -/
  | addr (loc : Loc) (dotD : Bool) (expected : W64) (dst : Dst) (eq : Bool) (scope : Scope) (va : W64)
  /-- `bar.wait` and `bar.sync` (R251): until the phase differs from the recorded one. -/
  | bar (b : Fin 96) (phase : Bool) (dst : Dst)
  /-- `bar.take` (R251). -/
  | take (b : Fin 96) (dst : Dst)
  /-- `mxctl.take` (R182). -/
  | baton
  /-- `sys.qlk` (R72). -/
  | lock (n : Nat)
  /-- `idle` (R136). -/
  | idle
  /-- A phase instruction (R252): until the next step starts. -/
  | phase
  /-- `share.leave` (R112): until accesses through the slot are performed. -/
  | leave (dst : Dst)
  /-- `sys.slot` (R78): until the other cores idle. -/
  | slot (n : Nat)
  deriving DecidableEq, Repr

/-- A wait in progress: the clock its instruction issued and the clock it times out. -/
structure Wait where
  kind : WaitKind
  since : Nat
  deadline : Nat
  deriving DecidableEq, Repr

/-- One lane thread (R6, R119, R276). Its results in flight and waits stand beside its registers. -/
structure Lane where
  st : LaneSt
  /-- word offset in the lane section (R17) -/
  pc : W32
  v : Vector W64 96
  x : Vector XReg 4
  /-- open loops, the innermost first; lc0–lc2 are their counters, outermost first -/
  loops : List Loop
  gc : Vector (BitVec 18) 4
  frm : BitVec 2
  ffl : BitVec 5
  emask : BitVec 8
  tsp : W64
  cdep : Nat
  /-- on-chip call stack, the newest entry first -/
  stack : List Frame
  cause : Byte
  stval : W64
  /-- held by a forwarded fault until `sys.eresume` (R279) -/
  held : Bool
  /-- dq read index and uq write index (R149) -/
  qr : Nat
  qw : Nat
  age : Nat
  wait : Option Wait
  pend : List Pend
  /-- write generation (R263) -/
  gen : Nat
  /-- accesses in flight that every later access of the thread follows (R228) -/
  after : List Nat
  /-- registers that hold an uncorrectable error (R137) -/
  bad : List Nat
  deriving DecidableEq, Repr

/-- The run state of a conductor, a Steppe thread or a Saddle core. -/
inductive CtxSt
  | exited
  | live
  /-- a Steppe thread halted by a double fault (R278), or a pool held at a slot switch (R78) -/
  | halted
  /-- a conductor held by a forwarded fault, or stopped by a double fault of its gang -/
  | held
  deriving DecidableEq, Repr

/-- One conductor context, Steppe hardware thread or Saddle core (R6, R270, R271). -/
structure Ctx where
  st : CtxSt
  /-- U level on a compute core: the code address of R17; else a virtual byte address (R324) -/
  pc : W64
  g : Vector W64 192
  level : Level
  loops : List Loop
  gc : Vector (BitVec 18) 4
  frm : BitVec 2
  ffl : BitVec 5
  tsp : W64
  cdep : Nat
  stack : List Frame
  stvb : W64
  scause : W64
  sepc : W64
  stval : W64
  sscr : W64
  sasid : BitVec 16
  sptb : W64
  /-- SSTAT (R272) -/
  sstat : BitVec 8
  wait : Option Wait
  /-- a wait a trap interrupted: the instruction's PC, its deadline and recorded phase (R276, R281) -/
  resumed : Option (W64 × Nat × Bool)
  pend : List Pend
  /-- a fault not yet reported (R276): cause and value -/
  fault : Option (Byte × W64)
  lastIssue : Nat
  /-- barrier phases this conductor last saw (R250) -/
  phases : List (Nat × Bool)
  gen : Nat
  after : List Nat
  /-- registers that hold an uncorrectable error (R137) -/
  bad : List Nat
  /-- first tick at which it may issue: a handler's first instruction (R277), a core that firmware starts (R320) -/
  from_ : Nat
  deriving DecidableEq, Repr

/-! ## Gangs -/

/-- One entry of a conductor queue (R149), whose data stand in the slice: the slots filled (uq: its
contributors), the contributor slots not yet popped, the accesses a pop follows (R153), and the energy
charged at the pop of an entry that a stream claimed (R84). -/
structure QEntry where
  filled : W32
  left : W32
  after : List Nat
  charge : Nat
  deriving DecidableEq, Repr

/-- dq or uq (R149–R151). `entries` holds the entries from index `first` on. -/
structure Queue where
  /-- the configuration word (R149) -/
  cfg : W64
  first : Nat
  entries : List QEntry
  deriving DecidableEq, Repr

/-- A stream descriptor (R217, R218). -/
structure Stream where
  loaded : Bool
  running : Bool
  stopped : Bool
  size : Nat
  space : Space
  base : W64
  c0 : Nat
  c1 : Nat
  c2 : Nat
  s0 : Int
  s1 : Int
  s2 : Int
  /-- next entry to claim -/
  next : Nat
  /-- level of the conductor at `strmgo` -/
  level : Level
  /-- accesses the element reads follow -/
  after : List Nat
  /-- gang key that the record of its stop names (R284, R286) -/
  noted : Nat
  deriving DecidableEq, Repr

/-- Lane threads parked by one lane instruction and not yet reported (R276). -/
structure Parked where
  mask : W32
  pc : W32
  deriving DecidableEq, Repr

/-- How a gang came to be: by a launch, by `spawn` (R114), by triggers (R266). -/
inductive Origin
  | launched
  | spawned
  | triggered
  deriving DecidableEq, Repr

/-- One gang: 32 thread slots and a conductor context (R6, R108). The key of a gang in
`State.gangs` is 192 × core + 12 × partition + gang slot. -/
structure Gang where
  launch : Nat
  origin : Origin
  block : Nat
  /-- gang within the block (level 1) -/
  index : Nat
  /-- gwid (R20) -/
  wid : W64
  depth : Nat
  lanes : Vector Lane 32
  cond : Ctx
  m : Vector W32 12
  dq : Queue
  uq : Queue
  sd : Vector Stream 4
  /-- slice offset of the block's region on this core (R106) -/
  scratch : Nat
  /-- first slice offset of the gang's queue storage, and its bytes -/
  store : Nat
  storeBytes : Nat
  slanes : W32
  slpc : W32
  /-- SPLANES is the union of the masks; the oldest first -/
  parked : List Parked
  /-- completion barrier of a child (R114) -/
  bar : Option (Fin 96)
  /-- lazy-binding stubs whose resolution runs: their threads and the tick of their trap (R289) -/
  stubs : List (W32 × Nat)
  /-- stopped for pre-emption (R290) -/
  frozen : Bool
  /-- a debug halt request waits (0x1F) -/
  debug : Bool
  /-- first tick at which its threads may issue (R107) -/
  begun : Nat
  deriving DecidableEq, Repr

/-- A ready task (R115): a spawned child or a triggered gang not yet dispatched. -/
structure Task where
  launch : Nat
  origin : Origin
  /-- lane and conductor entries as code addresses -/
  laneEntry : Option W32
  condEntry : Option W32
  wid : W64
  block : Nat
  index : Nat
  depth : Nat
  threads : Nat
  /-- v0–v5 of each thread, g0 and g1 -/
  regs : List (List W64)
  gregs : List W64
  bar : Option (Fin 96)
  gens : List Nat
  cgen : Nat
  /-- serial number of the forming gang a triggered task was (R265) -/
  serial : Nat
  after : List Nat
  readyAt : Nat
  /-- its start is an acquire at scope `.clu` or wider (R233, R268) -/
  wide : Bool
  deriving DecidableEq, Repr

/-! ## Accesses in flight -/

/-- What an access does when it is performed (R212, R244, R75). -/
inductive Access
  | load (z : LSize)
  | store (val : BitVec 128)
  | atom (op : Aop) (z : ASize) (b c : W64)
  | sig (add : Bool) (v : W64)
  deriving DecidableEq, Repr

/-- An access issued and not yet performed, or performed and not yet replied (R212, R241). -/
structure Flight where
  id : Nat
  who : Agent
  loc : Loc
  /-- the address as the instruction formed it -/
  va : W64
  size : Nat
  /-- the instruction's PC and the level it issued at (R276) -/
  pc : W64
  level : Level
  op : Access
  acq : Bool
  rel : Bool
  scope : Scope
  /-- leaf with the uncached bit, or a strong read: not served by the line cache (R208) -/
  uncached : Bool
  /-- accesses that must be performed first (R228, R234) -/
  deps : List Nat
  gen : Nat
  /-- a `.g` access: launch, cluster, group and member slot it went through (R112) -/
  via : Option (Nat × Nat × Nat × Nat)
  /-- request stream of an atomic (R241) -/
  stream : Nat
  /-- the old value of an atomic, or the value of a load, once it is performed -/
  reply : Option W64
  /-- the second register of a `.qw` load -/
  high : W64
  /-- first access of the instruction whose results land together -/
  batch : Nat
  deriving DecidableEq, Repr

/-! ## Units of a core -/

/-- A named barrier's unit state (R250); its two words are in the slice. -/
structure Bar where
  owner : Option Nat
  expected : W32
  timeout : W32
  /-- accesses in flight that arrivals follow (R225, R230) -/
  after : List Nat
  deriving DecidableEq, Repr

/-- A watch table entry (R255): 1 armed, 2 stopped. `serial` tells one arming from the next of the
same entry. -/
structure Watch where
  serial : Nat
  state : Nat
  base : Nat
  len : Nat
  perRange : Bool
  limit : Nat
  scope : Scope
  qid : Nat
  arg : W64
  asid : Nat
  seq : W32
  reason : Nat
  /-- launch of the arming conductor, for R267 -/
  launch : Option Nat
  /-- clock its arming takes effect (R256) -/
  effect : Nat
  deriving DecidableEq, Repr

/-- A `watch.disarm` or `watch.query` issued: it takes effect, and its result `id` arrives, at the clock
after its issue (R256). -/
structure WatchAsk where
  id : Nat
  who : Agent
  disarm : Bool
  entry : Nat
  asid : Nat
  since : Nat
  deriving DecidableEq, Repr

/-- A pending trigger (R262), with the serial numbers of its watch and, once it has joined, of its
forming gang. -/
structure Trigger where
  watch : Nat
  qid : Nat
  perRange : Bool
  line : Nat
  mask : W64
  value : W64
  seq : W32
  count : BitVec 16
  gen : Nat
  arg : W64
  gang : Option Nat
  closed : Bool
  /-- clock of its recording -/
  since : Nat
  deriving DecidableEq, Repr

/-- A forming gang (R265): its threads are the triggers that bear its serial number, in order. -/
structure Forming where
  qid : Nat
  serial : Nat
  since : Nat
  deriving DecidableEq, Repr

/-- Which operation a range lock belongs to (R219). -/
inductive LockOwner
  | copy (launch seq : Nat)
  | xfer (launch seq : Nat)
  | mx (seq : Nat)
  | stream (gang : Nat) (k : Fin 4)
  deriving DecidableEq, Repr

/-- A range-lock entry (R219): 64-byte granules [first, last], one span or, for a `.n` range, one for
each block it crosses. -/
structure RangeLock where
  owner : LockOwner
  /-- some: virtual granules under the ASID; none: granules of the Basin, 2^18 × core + offset / 64 -/
  asid : Option Nat
  spans : List (Nat × Nat)
  /-- ticks of the registration and of the release (R222) -/
  since : Nat
  freed : Option Nat
  deriving DecidableEq, Repr

/-- From where an engine reaches memory: what the issuing conductor's spaces meant. -/
structure Site where
  core : Nat
  launch : Nat
  block : Nat
  scratch : Nat
  level : Level
  deriving DecidableEq, Repr

/-- A command of the copy engine (R213–R216, R253). -/
structure CopyCmd where
  seq : Nat
  launch : Nat
  part : Nat
  gang : Nat
  site : Site
  /-- the block g[p] … g[p+7] -/
  block : List W64
  gen : Nat
  running : Bool
  stopped : Bool
  /-- granules done, and the bytes read for a sparsity-queue entry under way -/
  done : Nat
  buf : List Byte
  /-- an `xfer`, not counted in a copy counter -/
  xfer : Bool
  after : List Nat
  /-- a transfer's tick after which it is late, whether it stood behind an earlier command of its launch, and the
  clocks of the retries that held it (R254) -/
  due : Nat
  behind : Bool
  retried : Nat
  /-- gang key that the record of its stop names (R284, R286) -/
  noted : Nat
  deriving DecidableEq, Repr

/-- A transfer scheduled for the next communication step (R253). -/
structure Xfer where
  at_ : Nat
  part : Nat
  gang : Nat
  launch : Nat
  site : Site
  block : List W64
  gen : Nat
  deriving DecidableEq, Repr

/-- An operation of the matrix engine (R183–R196). -/
structure MxOp where
  seq : Nat
  launch : Nat
  gang : Nat
  site : Site
  super : Bool
  block : List W64
  /-- bank captured at issue, and which of the two it was (R192) -/
  bank : List Byte
  bankNo : Bool
  /-- register operands captured at issue: mantissas of A and B (R187) -/
  regA : List W64
  regB : List W64
  /-- whether a register so captured held an uncorrectable error, of A and of B (R195) -/
  regBad : Bool × Bool
  gen : Nat
  running : Bool
  stopped : Bool
  /-- native steps (or tiles) done -/
  done : Nat
  corrected : Bool
  after : List Nat
  /-- tick of its issue, and tick from which its next step counts (R148, R189) -/
  issued : Nat
  ready : Nat
  deriving DecidableEq, Repr

/-- The state of one partition (R103, R121). -/
structure Part where
  /-- quotation that holds it -/
  qid : Option Nat
  lanePtr : Nat
  condPtr : Nat
  busyUntil : Nat
  /-- tick of the last pick, plus one -/
  picked : Nat
  tasks : List Task
  /-- kernel object of the gang that vacated a slot last (R115) -/
  lastObject : Option Nat
  deriving DecidableEq, Repr

/-- The baton of a core (R182, R197); its requests are the conductors' waits. -/
structure Baton where
  holder : Option Nat
  super : Bool
  aside : Option Nat
  deriving DecidableEq, Repr

/-- The units of one compute core (R4). The named barriers' words, the grant table and the fabric
table are in its slice. -/
structure CoreSt where
  bars : List (Nat × Bar)
  watches : List (Nat × Watch)
  asks : List WatchAsk
  triggers : List Trigger
  forming : List Forming
  /-- triggered gangs that dispatched at the last clock in which one did: quotation and tick (R265) -/
  left : List (Nat × Nat)
  locks : List RangeLock
  copies : List CopyCmd
  /-- launch whose granule the copy engine moved last (R215) -/
  turn : Option Nat
  xfers : List Xfer
  /-- accumulator bits by key 4,096 × tile + 64 × row + column; absent is +0 -/
  acc : List (Nat × W32)
  /-- tile marks: pending by an operation's sequence number, invalid -/
  invalid : List Nat
  baton : Baton
  /-- tick at which a handler took the baton last (R197) -/
  handed : Nat
  mx : List MxOp
  mxSeq : Nat
  banks : List Byte × List Byte
  bank : Bool
  sparse : Vector (List (List Byte)) 4
  tlb : List TlbEntry
  lines : List (Nat × List Byte)
  /-- unlocked instruction-cache lines by physical line, the least recent first (R117) -/
  icache : List (Nat × List Byte)
  /-- 8-byte words of those lines that were read with an uncorrectable error: 8 × line + word (R201) -/
  codeBad : List Nat
  parts : Vector Part 16
  errs : W32 × W32
  /-- error-counter values last written to the information block -/
  errsShown : W32 × W32
  /-- arrivals discarded at an unowned barrier are counted in errs (R250) -/
  phaseEnded : List Nat
  deriving DecidableEq, Repr

/-! ## Work -/

/-- A function-table entry (R27). -/
structure Func where
  entry : W32
  words : Nat
  deriving DecidableEq, Repr

/-- What the device keeps of a kernel object (R16). -/
structure Kernel where
  object : Nat
  objectBytes : Nat
  laneRegs : Nat
  groupRegs : Nat
  depth : Nat
  spawnDepth : Nat
  scratch : Nat
  dqDecl : W32
  uqDecl : W32
  barCeiling : W32
  watch : Bool
  preempt : Bool
  preemptLat : Nat
  budget : Nat
  window : Nat
  widths : List Nat
  laneCode : List W32
  condCode : List W32
  laneEntry : Option W32
  condEntry : Option W32
  funcs : List Func
  /-- pre-emption points: code address, live lane and group registers (R29) -/
  points : List (W32 × BitVec 96 × BitVec 192)
  /-- resident ranges: base, bytes, writable (R31) -/
  resident : List (Nat × Nat × Bool)
  data : Nat
  dataBytes : Nat
  /-- depth used when the header's limit is 0 (R25, R130) -/
  chain : Nat
  /-- the call table: its offset in the object and its entries (R28) -/
  calls : Nat × Nat
  /-- contains `phase`, `mxq` or `accsrc`, `atom` or `sig` -/
  hasPhase : Bool
  hasMatrix : Bool
  hasAtom : Bool
  deriving DecidableEq, Repr

/-- A block slot (R105): cores with the partitions it takes there. -/
structure BlockSlot where
  cores : List (Nat × List Nat)
  /-- slice offset of the block's region, by core (R106, R316) -/
  bases : List (Nat × Nat)
  block : Option Nat
  /-- the block that ended there last, whose region its neighbourhood still reaches (R110) -/
  last : Option Nat
  deriving DecidableEq, Repr

/-- The requested shape of a launch (R19, R66, R95). -/
structure Shape where
  ext : List Nat
  elastic : Bool
  neighbour : Bool
  deriving DecidableEq, Repr

/-- Where a launch or a standing quotation is in its life (R107, R290–R293). -/
inductive Phase
  | running
  | stopping
  | saved
  /-- settled, its LAUNCH packet not yet completed (R293) -/
  | retired
  deriving DecidableEq, Repr

/-- A launch, or the resources of a standing quotation (R103–R116, R252, R293). -/
structure Launch where
  qid : Nat
  asid : Nat
  kernel : Kernel
  shape : Shape
  arg : W64
  slots : List BlockSlot
  started : Nat
  /-- neighbourhood rectangle: width, height (R109) -/
  rect : Nat × Nat
  /-- sharing groups: cluster, id, members by slot (R111) -/
  groups : List (Nat × Nat × List (Nat × Nat))
  /-- blocks whose `share.join` completes at the next clock (R113) -/
  joining : List Nat
  stream : Nat
  step : Nat
  stepStart : Nat
  stepEnded : Option Nat
  pJ : Nat
  start : Nat
  phase : Phase
  /-- one more than the tick at which a pre-empted launch's last gang reached its point (R93), and than that at
  which the launch had stopped (R290) -/
  gone : Nat
  halt : Nat
  /-- clocks of the pre-empted intervals that have ended, and gangs pre-empted (R93) -/
  lost : Nat
  moved : Nat
  /-- the save area of a pre-empted launch (R291): gangs by key, ready tasks and matrix areas by core and
  partition, or core -/
  saved : List (Nat × Gang)
  savedTasks : List (Nat × List Task)
  savedMx : List (Nat × List Byte)
  /-- its stopped matrix operations, by core -/
  savedOps : List (Nat × List MxOp)
  /-- copy commands issued per core (R214) -/
  copySeq : List (Nat × Nat)
  /-- clocks of retries (R87) -/
  retries : Nat
  /-- queue and index of the LAUNCH packet, completed at retirement -/
  packet : Option (Nat × Nat)
  deriving DecidableEq, Repr

/-- A quotation (R88–R101). -/
structure Quote where
  id : Nat
  record : Nat
  asid : Nat
  state : Nat
  cls : Nat
  party : Nat
  diag : Nat
  object : Nat
  shape : Shape
  validity : Nat
  deadline : Nat
  tmax : Nat
  emax : Nat
  cores : List (Nat × List Nat)
  perCore : Nat
  devShare : Nat
  meshShare : Nat
  retry : Nat
  actT : Nat
  actE : Nat
  auto : Bool
  voided : Bool
  kernel : Option Kernel
  slots : List BlockSlot
  rect : Nat × Nat
  stream : Option Nat
  /-- packet that waits on this quotation: queue, index, kind -/
  packets : List (Nat × Nat × Nat)
  /-- argument pointer of a LAUNCH that waits for acceptance -/
  pendingLaunch : Option W64
  accepted : Nat
  /-- envelope as set when the quotation was requested (R304) -/
  envelope : Nat
  /-- standing: joins counted in a window (R267) -/
  window : Nat × Nat
  deriving DecidableEq, Repr

/-- What a walk finds (R33, R87): a rejection, or the kernel with its time and energy figures and what it can
reach. -/
structure WalkFound where
  diag : Nat
  tmax : Nat
  emax : Nat
  retry : Nat
  kernel : Option Kernel
  device : Bool
  mesh : Bool
  deriving DecidableEq, Repr

/-- A cached walk (R34): the object's address, the shape, the bytes as walked and whether they are all that
the object names, and what was found. -/
structure Walk where
  object : Nat
  asid : Nat
  shape : Shape
  bytes : List Byte
  whole : Bool
  found : WalkFound
  deriving DecidableEq, Repr

/-- A fault record a poster holds (R283, R284), without its tick. -/
structure Record where
  kind : Nat
  cause : Nat
  asid : Nat
  core : Nat
  stval : W64
  info : W64
  qid : Nat
  part : Nat
  slot : Nat
  sd : Nat
  pc : W64
  /-- slot claimed, once step 1 of R283 is done -/
  claimed : Option Nat
  deriving DecidableEq, Repr

/-- A started, incomplete packet (R67). -/
structure Packet where
  queue : Nat
  index : Nat
  kind : Nat
  bytes : List Byte
  /-- a COPY's granules moved, and whether its channel has stopped (R223, R224) -/
  done : Nat
  stopped : Bool
  deriving DecidableEq, Repr

/-- A SHAKE256 sponge (R302): 25 lanes of 64 bits, bytes absorbed in the current block, squeezing. -/
structure Sponge where
  a : Vector W64 25
  fill : Nat
  out : Bool
  deriving DecidableEq, Repr

/-- A firmware image slot (R77, R320): the image body and its trailer. -/
structure Image where
  bytes : List Byte
  deriving DecidableEq, Repr

/-- The security engine (R302). -/
structure Sec where
  stat : BitVec 3
  dig : List Byte
  data : W64
  fmeas : BitVec 4
  measure : Vector (List Byte) 16
  sponge : Sponge
  /-- command in progress, the tick it ends and the Saddle core that wrote it (R321) -/
  cmd : Nat
  until_ : Nat
  core : Nat
  deriving DecidableEq, Repr

/-- A black-box entry (R298). -/
structure BoxEntry where
  tick : Nat
  kind : Nat
  io : Nat
  core : Nat
  asid : Nat
  qid : Nat
  detail : W64
  deriving DecidableEq, Repr

/-- Device-wide registers and units. -/
structure Dev where
  cores : BitVec 192
  channels : Nat
  channelMask : BitVec 24
  memBytes : Nat
  envelope : Nat
  qdir : Nat
  ctvb : W64
  satb : W64
  sfqb : W64
  ftvb : W64
  fslot : BitVec 8
  fhb : W64
  fwdt : W32
  /-- tick from which the watchdog counts (R79) -/
  watchdog : Nat
  /-- tick from which periodic ticks count, and ticks posted since (R71) -/
  tickBase : Nat
  events : List W64
  /-- events held back while the queue is full (R71) -/
  heldEvents : List W64
  locks : List (Nat × Nat)
  lockOrder : List (Nat × Nat)
  mapped : List Nat
  packets : List Packet
  /-- event delivery is suspended, and resumes at the next clock (R78, R320) -/
  suspended : Bool
  resuming : Bool
  windowEnd : Option Nat
  oldSlot : Bool
  imageA : Image
  imageB : Image
  sec : Sec
  files : Vector (BitVec 256) 8
  /-- vectors on the way: core, vector, tick posted -/
  msis : List (Nat × Nat × Nat)
  records : List Record
  box : List BoxEntry
  frozen : Bool
  hot : Bool
  /-- boot stage, and images that have failed at this boot (R303) -/
  booted : Nat
  bootFails : Nat
  sideband : List (Nat × List W64)
  /-- queues that an error stopped and that await a `submit` (R67) -/
  halted : List Nat
  /-- records whose `sys.eresume` acts at the next clock (R286) -/
  resumes : List Nat
  /-- what accesses from outside have read (R299, R300) -/
  answers : List (List Byte)
  /-- halted Steppe threads that the management controller has been told of: core, thread (R278) -/
  notices : List (Nat × Nat)
  /-- breaches the management controller posts after the restart: quotation, ASID, temperature (R304) -/
  owed : List (Nat × Nat × Nat)
  deriving DecidableEq, Repr

/-- A fault of the device that may come at any time: a soft error that SECDED meets (R201), or one that pre-empts a
launch. -/
inductive Upset
  /-- uncorrectable, in the 8-byte word of memory with a key -/
  | word (key : Nat)
  /-- uncorrectable, in a lane register or a group register -/
  | laneReg (gang lane reg : Nat)
  | groupReg (who : Agent) (reg : Nat)
  /-- corrected, on a core -/
  | corrected (core : Nat)
  /-- uncorrectable in a line-cache or TLB entry of a core, or in an unlocked line of code of a unit -/
  | line (core index : Nat)
  | tlb (core index : Nat)
  | code (unit index : Nat)
  /-- uncorrectable in one copy, or in both copies, of a watch entry of a core, or of another table's -/
  | oneCopy (core : Nat)
  | watch (core entry : Nat)
  | table (core : Nat)
  /-- pre-empts a firm launch (R93, R292); which faults do is nowhere said (DESIGN CHOICE, log 55) -/
  | firm (launch : Nat)
  deriving DecidableEq, Repr

/-- The picker's choice in a partition, one instruction of a thread on its own, an event, a soft error, or
the end of a clock. -/
inductive Move
  | pick (core part : Nat)
  | run (who : Agent)
  | event (i : Instr)
  /-- one granule of the command that a launch has at the head of a core's copy engine -/
  | granule (core launch : Nat)
  | upset (u : Upset)
  | clock
  deriving DecidableEq, Repr, Inhabited

/-- The instruction in issue: who issues it, the issue group, the prefixes taken (R45–R47). -/
structure Issue where
  who : Option Agent
  mask : W32
  words : Nat
  route : Option (RouteSpec × RouteSpec × Bool)
  acc : Option (BitVec 4 × BitVec 6 × Bool × Bool)
  deriving DecidableEq, Repr

/-- The whole machine. `synced`, `ahead`, `free`, `moves`, `agenda` and `issue` are the model's own. -/
structure State where
  tick : Nat
  mem : List Host.Cell
  /-- keys of the 8-byte words of memory that hold an uncorrectable error, divided by 8 (R201) -/
  flawed : List Nat
  gangs : List (Nat × Gang)
  cores : List (Nat × CoreSt)
  steppes : List (Nat × Ctx)
  saddles : List (Nat × Ctx)
  flight : List Flight
  nextId : Nat
  /-- agents whose acquire was performed in the present clock: they issue from the next one on (R222, R232) -/
  synced : List Agent
  /-- accesses that the later writes of an agent follow: what its arrivals, posts and pushes cover (R231) -/
  ahead : List (Agent × List Nat)
  launches : List (Nat × Launch)
  nextLaunch : Nat
  quotes : List Quote
  nextQid : Nat
  /-- quotations that writes of the device itself into their live objects void as the clock ends, with the address
  written (R28) -/
  voids : List (Nat × Nat)
  walks : List Walk
  walkQueue : List Nat
  walking : List (Nat × Nat)
  /-- what the walks under way that have found a rejection have read of their objects, by quotation: the bytes,
  and whether they are all that the object names (R34) -/
  refused : List (Nat × List Byte × Bool)
  pins : List (Nat × Nat × Bool)
  dev : Dev
  issue : Issue
  agenda : List Move
  moves : Nat
  free : Nat
  deriving DecidableEq, Repr

/-! ## The state right after reset (R274, R303 and the log) -/

def XReg.zero : XReg := { base := 0, count := 0, cur := 0 }

/-- A thread slot that no gang has filled. -/
def Lane.empty : Lane :=
  { st := .absent, pc := 0, v := Vector.replicate 96 0, x := Vector.replicate 4 XReg.zero,
    loops := [], gc := Vector.replicate 4 0, frm := 0, ffl := 0, emask := 0xFF, tsp := 0, cdep := 0,
    stack := [], cause := 0, stval := 0, held := false, qr := 0, qw := 0, age := 0, wait := none,
    pend := [], gen := 1, after := [], bad := [] }

/-- A context with every register zero (R274), at the level given. -/
def Ctx.empty (l : Level) (st : CtxSt) : Ctx :=
  { st := st, pc := 0, g := Vector.replicate 192 0, level := l, loops := [],
    gc := Vector.replicate 4 0, frm := 0, ffl := 0, tsp := 0, cdep := 0, stack := [], stvb := 0,
    scause := 0, sepc := 0, stval := 0, sscr := 0, sasid := 0, sptb := 0, sstat := 0, wait := none,
    resumed := none, pend := [], fault := none, lastIssue := 0, phases := [], gen := 1, after := [],
    bad := [], from_ := 0 }

def Queue.none : Queue := { cfg := 0, first := 0, entries := [] }

def Stream.idle : Stream :=
  { loaded := false, running := false, stopped := false, size := 1, space := .s, base := 0, c0 := 0,
    c1 := 0, c2 := 0, s0 := 0, s1 := 0, s2 := 0, next := 0, level := .u, after := [],
    noted := 0 }

/-- A gang slot that holds no gang. -/
def Gang.empty : Gang :=
  { launch := 0, origin := .launched, block := 0, index := 0, wid := 0, depth := 0,
    lanes := Vector.replicate 32 Lane.empty, cond := Ctx.empty .u .exited,
    m := Vector.replicate 12 0, dq := Queue.none, uq := Queue.none,
    sd := Vector.replicate 4 Stream.idle, scratch := 0, store := 0, storeBytes := 0, slanes := 0,
    slpc := 0, parked := [], bar := none, stubs := [], frozen := false, debug := false, begun := 0 }

def Part.empty : Part :=
  { qid := none, lanePtr := 0, condPtr := 0, busyUntil := 0, picked := 0, tasks := [],
    lastObject := none }

def CoreSt.empty : CoreSt :=
  { bars := [], watches := [], asks := [], triggers := [], forming := [], left := [], locks := [], copies := [], turn := none,
    xfers := [], acc := [], invalid := [],
    baton := { holder := none, super := false, aside := none }, handed := 0,
    mx := [], mxSeq := 0, banks := ([], []), bank := false, sparse := Vector.replicate 4 [],
    tlb := [], lines := [], icache := [], codeBad := [], parts := Vector.replicate 16 Part.empty, errs := (0, 0),
    errsShown := (0, 0), phaseEnded := [] }

def Sponge.zero : Sponge := { a := Vector.replicate 25 0, fill := 0, out := false }

def Sec.reset : Sec :=
  { stat := 0, dig := [], data := 0, fmeas := 0, measure := Vector.replicate 16 [],
    sponge := Sponge.zero, cmd := 0, until_ := 0, core := 0 }

/-- Registers and units of the device at reset: CSRs zero (R274), FSLOT[6:5] = 1 (R303 stage 1), a
full part (R4); the envelope and the directory's address are DESIGN CHOICES 7 and 8. -/
def Dev.reset : Dev :=
  { cores := BitVec.allOnes 192, channels := 24, channelMask := BitVec.allOnes 24,
    memBytes := 192 * 2 ^ 30, envelope := 1500, qdir := 0x100000, ctvb := 0, satb := 0, sfqb := 0,
    ftvb := 0, fslot := 0x20, fhb := 0, fwdt := 0, watchdog := 0, tickBase := 0, events := [], heldEvents := [],
    locks := [], lockOrder := [], mapped := [], packets := [], suspended := false, resuming := false, windowEnd := none,
    oldSlot := false, imageA := { bytes := [] }, imageB := { bytes := [] }, sec := Sec.reset,
    files := Vector.replicate 8 0, msis := [], records := [], box := [], frozen := false, hot := false,
    booted := 0, bootFails := 0, sideband := [], halted := [], resumes := [], answers := [], notices := [], owed := [] }

def Issue.idle : Issue := { who := none, mask := 0, words := 0, route := none, acc := none }

/-- The machine right after reset. -/
def State.reset : State :=
  { tick := 0, mem := [], flawed := [], gangs := [], cores := [], steppes := [], saddles := [], flight := [],
    nextId := 0, synced := [], ahead := [], launches := [], nextLaunch := 0, quotes := [], nextQid := 1, voids := [], walks := [],
    walkQueue := [], walking := [], refused := [], pins := [], dev := Dev.reset, issue := Issue.idle, agenda := [],
    moves := 0, free := 0 }

end Sys2Proof.Machine
end

