-- ==== Sys2Proof/Machine/Bits.lean ====
section
/-! DEFINITION. Bit fields, bytes, association lists and the memory list: the helpers every other
file uses. -/

namespace Sys2Proof.Machine

/-! ## Fields -/

/-- Field [lo + n − 1 : lo] of a 64-bit value. -/
def f64 (w : W64) (lo n : Nat) : Nat := w.toNat / 2 ^ lo % 2 ^ n

/-- One bit of a 64-bit value. -/
def b64 (w : W64) (lo : Nat) : Bool := w.getLsbD lo

/-- A natural number as a 64-bit value. -/
def n64 (n : Nat) : W64 := BitVec.ofNat 64 n

/-- ⌈a / b⌉ (R10). -/
def ceilDiv (a b : Nat) : Nat := (a + b - 1) / b

/-- Clocks to nanoseconds (R10): ⌈clocks × 10/11⌉. -/
def clkToNs (c : Nat) : Nat := ceilDiv (c * 10) 11

/-- Picojoules to nanojoules (R10). -/
def pJToNJ (e : Nat) : Nat := ceilDiv e 1000

/-- The 32 thread slots, in ascending order. -/
def slots : List (Fin 32) :=
  [0, 1, 2, 3, 4, 5, 6, 7, 8, 9, 10, 11, 12, 13, 14, 15, 16, 17, 18, 19, 20, 21, 22, 23, 24, 25, 26,
   27, 28, 29, 30, 31]

/-- The threads of a mask, ascending (R14). -/
def threads (m : W32) : List (Fin 32) := slots.filter fun t => m.getLsbD t.val

/-- The mask with one thread. -/
def oneHot (t : Nat) : W32 := BitVec.ofNat 32 (2 ^ t)

/-- The number of threads of a mask. -/
def popcount (m : W32) : Nat := (threads m).length

/-- The mask of the threads that satisfy a test. -/
def maskOf (p : Fin 32 → Bool) : W32 :=
  slots.foldl (fun m t => if p t then m ||| oneHot t.val else m) 0

/-- Ones in bits [lo + n − 1 : lo]. -/
def ones (lo n : Nat) : W64 := n64 ((2 ^ n - 1) * 2 ^ lo)

/-- A word with the bits of `m` taken from `v`. -/
def mux (m v old : W64) : W64 := (v &&& m) ||| (old &&& ~~~m)

/-! ## Association lists, kept in ascending key order -/

/-- The value at a key, or a default. -/
def aget {α : Type} (d : α) (k : Nat) : List (Nat × α) → α
  | [] => d
  | (j, x) :: r => if j = k then x else aget d k r

/-- The value at a key, if listed. -/
def afind {α : Type} (k : Nat) : List (Nat × α) → Option α
  | [] => none
  | (j, x) :: r => if j = k then some x else afind k r

/-- The list with one key's value set. -/
def aput {α : Type} (k : Nat) (v : α) : List (Nat × α) → List (Nat × α)
  | [] => [(k, v)]
  | (j, x) :: r =>
    if k = j then (k, v) :: r
    else if k < j then (k, v) :: (j, x) :: r
    else (j, x) :: aput k v r

/-- The list without a key. -/
def adel {α : Type} (k : Nat) (l : List (Nat × α)) : List (Nat × α) := l.filter fun p => p.1 ≠ k

/-- The entry of a list at an index, updated. -/
def modAt {α : Type} (f : α → α) : Nat → List α → List α
  | _, [] => []
  | 0, x :: r => f x :: r
  | n + 1, x :: r => x :: modAt f n r

/-! ## Memory (R12, R199, R204): strictly ascending keys, no entry that reads as an unlisted one -/

/-- What an unlisted byte reads as (log 2). -/
def unlisted : Byte := 0

/-- The byte at a key. -/
def readByte (m : List Host.Cell) (k : Nat) : Byte := aget unlisted k m

/-- The memory with one byte written, in canonical form. -/
def writeByte (k : Nat) (v : Byte) : List Host.Cell → List Host.Cell
  | [] => if v = unlisted then [] else [(k, v)]
  | (j, x) :: r =>
    if k = j then (if v = unlisted then r else (k, v) :: r)
    else if k < j then (if v = unlisted then (j, x) :: r else (k, v) :: (j, x) :: r)
    else (j, x) :: writeByte k v r

/-- The canonical form, with every key at or above a bound. -/
def wfFrom : Nat → List Host.Cell → Bool
  | _, [] => true
  | n, (k, v) :: r => decide (n ≤ k) && decide (v ≠ unlisted) && wfFrom (k + 1) r

/-- The canonical form of memory. -/
def Memory.wf (m : List Host.Cell) : Bool := wfFrom 0 m

/-- The key of a slice byte: slices stand above every device physical address. -/
def sliceKey (core off : Nat) : Nat := 2 ^ 60 + core * 2 ^ 24 + off

/-- The key of a place the device holds; a host or peer byte has none. -/
def Loc.key : Loc → Option Nat
  | .dev pa => some pa
  | .slice c o => some (sliceKey c o)
  | .host _ | .peer _ _ => none

/-- The place n bytes on. -/
def Loc.plus (n : Nat) : Loc → Loc
  | .dev pa => .dev (pa + n)
  | .slice c o => .slice c (o + n)
  | .host pa => .host (pa + n)
  | .peer p pa => .peer p (pa + n)

/-- `n` bytes from a key, the lowest first. -/
def readBytes (m : List Host.Cell) : Nat → Nat → List Byte
  | _, 0 => []
  | k, n + 1 => readByte m k :: readBytes m (k + 1) n

/-- Bytes written from a key up. -/
def writeBytes (m : List Host.Cell) : Nat → List Byte → List Host.Cell
  | _, [] => m
  | k, b :: r => writeBytes (writeByte k b m) (k + 1) r

/-- Little-endian value of bytes (R12). -/
def leNat : List Byte → Nat
  | [] => 0
  | b :: r => b.toNat + 256 * leNat r

/-- The `n` low bytes of a value, the lowest first (R12). -/
def leBytes : Nat → Nat → List Byte
  | 0, _ => []
  | n + 1, v => BitVec.ofNat 8 v :: leBytes n (v / 256)

/-- A value of `n` bytes read at a key. -/
def readLE (m : List Host.Cell) (k n : Nat) : Nat := leNat (readBytes m k n)

/-- A value of `n` bytes written at a key. -/
def writeLE (m : List Host.Cell) (k n v : Nat) : List Host.Cell := writeBytes m k (leBytes n v)

end Sys2Proof.Machine
end

