-- ==== Sys2Proof/Machine/Reads.lean ====
section
/-! DEFINITION. Which registers an instruction reads and writes: for readiness (R119, R137), for errors met
at a register read (R137), and for the walker's scoreboard (R82). -/

namespace Sys2Proof

/-! ## Register keys: a register number; 96 + k for the register that lane `v[xk]` names, 100 + k for
the one after it -/

def LSrc.keys : LSrc → List Nat
  | .v n => [n.val]
  | .vx k => [96 + k.val]
  | .vz | .tid => []

def LDst.keys : LDst → List Nat
  | .v n => [n.val]
  | .vx k => [96 + k.val]
  | .vz => []

/-- A group operand of a lane instruction is not waited for (R139). -/
def LOpB.keys : LOpB → List Nat
  | .lane x => x.keys
  | .group _ => []

def GSrc.keys : GSrc → List Nat
  | .g n => [n.val]
  | _ => []

def GDst.keys : GDst → List Nat
  | .g n => [n.val]
  | .gz => []

def RouteSpec.keys : RouteSpec → List Nat
  | .perm p => [p.val]
  | _ => []

def selKeys (c : BitVec 7) : List Nat :=
  match LSrc.ofCode c with
  | some x => x.keys
  | none => []

def AtomFields.laneKeys (f : AtomFields) : List Nat :=
  (if f.aop.readsB then selKeys f.vb else []) ++ (if f.aop.readsC then selKeys f.vc else [])

def AtomFields.groupKeys (f : AtomFields) : List Nat :=
  (if f.aop.readsB then [f.vb.toNat] else []) ++ (if f.aop.readsC then [f.vc.toNat] else [])

/-- A block of registers. -/
def span (p n : Nat) : List Nat := (List.range n).map (p + ·)

/-- The registers of a `.qw` access (R40). -/
def pairKeys (z : LSize) (ks : List Nat) : List Nat :=
  if z = .qw then ks.flatMap fun k => if k < 96 then [k, k + 1] else [k, k + 4] else ks

/-- gd and gd + 1. -/
def twoKeys (ks : List Nat) : List Nat := ks.flatMap fun k => [k, k + 1]

/-- The registers an instruction reads. -/
def readsOf : Instr → List Nat
  | .add _ _ a b | .sub _ _ a b | .mul _ _ a b | .mulhs _ _ a b | .mulhu _ _ a b | .mins _ _ a b
  | .minu _ _ a b | .maxs _ _ a b | .maxu _ _ a b | .and _ _ a b | .or _ _ a b | .xor _ _ a b
  | .shl _ _ a b | .shru _ _ a b | .shrs _ _ a b | .addss _ _ a b | .addus _ _ a b | .subss _ _ a b
  | .subus _ _ a b | .ceq _ _ a b | .cne _ _ a b | .clts _ _ a b | .cltu _ _ a b | .cles _ _ a b
  | .cleu _ _ a b | .fadd _ _ a b | .fsub _ _ a b | .fmul _ _ a b | .fmin _ _ a b | .fmax _ _ a b
  | .fceq _ _ a b | .fclt _ _ a b | .fcle _ _ a b | .fcun _ _ a b | .bfpk _ _ a b | .bfpu _ _ a b
  | .waita a b _ _ _ _ | .groupAdd _ a b _ | .groupSub _ a b _ | .groupMul _ a b _
  | .groupMulhs _ a b _ | .groupMulhu _ a b _ | .divs _ a b _ | .divu _ a b _ | .rems _ a b _
  | .remu _ a b _ | .groupMins _ a b _ | .groupMinu _ a b _ | .groupMaxs _ a b _
  | .groupMaxu _ a b _ | .groupAnd _ a b _ | .groupOr _ a b _ | .groupXor _ a b _
  | .groupShl _ a b _ | .groupShru _ a b _ | .groupShrs _ a b _ | .groupCeq _ a b _
  | .groupCne _ a b _ | .groupClts _ a b _ | .groupCltu _ a b _ | .sigSet a b | .sigAdd a b
  | .sysTlbinv a b _ | .sysMsi a b => a.keys ++ b.keys
  | .mad _ d a b | .bsel _ d a b | .ffma _ d a b | .sel d a b => d.keys ++ a.keys ++ b.keys
  | .not _ _ a | .neg _ _ a | .abs _ _ a | .popc _ _ a | .clz _ _ a | .ctz _ _ a | .brev _ _ a
  | .bswap _ _ a | .addi _ _ a _ | .andi _ _ a _ | .ori _ _ a _ | .xori _ _ a _ | .shli _ _ a _
  | .shrui _ _ a _ | .shrsi _ _ a _ | .fneg _ _ a | .fabs _ _ a | .fsqrt _ _ a | .frcp _ _ a
  | .frsq _ _ a | .fexp2 _ _ a | .flog2 _ _ a | .fsinpi _ _ a | .fcospi _ _ a | .ftanh _ _ a
  | .ffloor _ _ a | .fceil _ _ a | .ftrunc _ _ a | .frint _ _ a | .fclass _ _ a | .cvt _ _ a _ _ _ _
  | .ld _ _ a _ _ | .ldacq _ _ a _ _ | .qpush a | .brz a _ | .brnz a _ | .calli a | .bbrz _ a _
  | .bbrnz _ a _ | .csrw a _ | .groupAddi _ a _ | .groupAndi _ a _ | .groupOri _ a _
  | .groupXori _ a _ | .groupShli _ a _ | .groupShrui _ a _ | .groupShrsi _ a _ | .groupLd _ a _ _
  | .groupLdacq _ a _ _ | .bz a _ | .bnz a _ | .groupCalli a | .groupBbrz _ a _ | .groupBbrnz _ a _
  | .groupCsrw a _ | .qcfg _ a | .groupQpush a | .mxsave a | .mxrest a | .barInit _ a | .barPost _ a
  | .watchDisarm _ a | .watchQuery _ a | .shareJoin _ a | .shareQuery _ a | .quoteAcc _ a
  | .quoteDec _ a | .quoteActual _ a | .sysAsid a | .sysEresume a | .sysQlk a | .sysQulk a
  | .sysSlot a => a.keys
  | .route x y _ => x.keys ++ y.keys
  | .st z v a _ _ => pairKeys z v.keys ++ a.keys
  | .strel _ v a _ _ | .groupSt v a _ _ | .groupStrel v a _ _ => v.keys ++ a.keys
  | .atom _ _ a _ f => a.keys ++ f.laneKeys
  | .loop c _ _ | .groupLoop c _ _ => c.keys
  | .limh d _ => d.keys
  | .groupAtom _ _ a _ f => a.keys ++ f.groupKeys
  | .groupWaita a b _ _ _ _ => [a.val] ++ [b.val]
  | .strm _ p _ _ | .watchArm _ p | .spawn p _ | .quoteReq _ p => span p.val 4
  | .mxq p _ | .cpy p _ | .phaseXfer p _ => span p.val 8
  | .mxctlCtab p => span p.val 2
  | .submit q w => q.keys ++ w.keys
  | _ => []

/-- The registers an instruction writes. -/
def writesOf : Instr → List Nat
  | .add _ d _ _ | .sub _ d _ _ | .mul _ d _ _ | .mulhs _ d _ _ | .mulhu _ d _ _ | .mad _ d _ _
  | .mins _ d _ _ | .minu _ d _ _ | .maxs _ d _ _ | .maxu _ d _ _ | .and _ d _ _ | .or _ d _ _
  | .xor _ d _ _ | .shl _ d _ _ | .shru _ d _ _ | .shrs _ d _ _ | .addss _ d _ _ | .addus _ d _ _
  | .subss _ d _ _ | .subus _ d _ _ | .ceq _ d _ _ | .cne _ d _ _ | .clts _ d _ _ | .cltu _ d _ _
  | .cles _ d _ _ | .cleu _ d _ _ | .bsel _ d _ _ | .not _ d _ | .neg _ d _ | .abs _ d _
  | .popc _ d _ | .clz _ d _ | .ctz _ d _ | .brev _ d _ | .bswap _ d _ | .addi _ d _ _
  | .andi _ d _ _ | .ori _ d _ _ | .xori _ d _ _ | .shli _ d _ _ | .shrui _ d _ _ | .shrsi _ d _ _
  | .movi _ d _ | .fadd _ d _ _ | .fsub _ d _ _ | .fmul _ d _ _ | .ffma _ d _ _ | .fmin _ d _ _
  | .fmax _ d _ _ | .fceq _ d _ _ | .fclt _ d _ _ | .fcle _ d _ _ | .fcun _ d _ _ | .fneg _ d _
  | .fabs _ d _ | .fsqrt _ d _ | .frcp _ d _ | .frsq _ d _ | .fexp2 _ d _ | .flog2 _ d _
  | .fsinpi _ d _ | .fcospi _ d _ | .ftanh _ d _ | .ffloor _ d _ | .fceil _ d _ | .ftrunc _ d _
  | .frint _ d _ | .fclass _ d _ | .cvt _ d _ _ _ _ _ | .bfpk _ d _ _ | .bfpu _ d _ _
  | .ldacq _ d _ _ _ | .atom _ d _ _ _ | .qpop d | .qlen d | .getwid d _ | .csrr d _
  | .groupAdd d _ _ _ | .groupSub d _ _ _ | .groupMul d _ _ _ | .groupMulhs d _ _ _
  | .groupMulhu d _ _ _ | .divs d _ _ _ | .divu d _ _ _ | .rems d _ _ _ | .remu d _ _ _
  | .groupMins d _ _ _ | .groupMinu d _ _ _ | .groupMaxs d _ _ _ | .groupMaxu d _ _ _
  | .groupAnd d _ _ _ | .groupOr d _ _ _ | .groupXor d _ _ _ | .groupShl d _ _ _
  | .groupShru d _ _ _ | .groupShrs d _ _ _ | .groupCeq d _ _ _ | .groupCne d _ _ _
  | .groupClts d _ _ _ | .groupCltu d _ _ _ | .sel d _ _ | .groupAddi d _ _ | .groupAndi d _ _
  | .groupOri d _ _ | .groupXori d _ _ | .groupShli d _ _ | .groupShrui d _ _ | .groupShrsi d _ _
  | .movw d _ | .lim d _ | .limh d _ | .groupLd d _ _ _ | .groupLdacq d _ _ _ | .groupAtom _ d _ _ _
  | .groupCsrr d _ | .groupQpop d | .groupQlen _ d | .mxq _ d | .cpy _ d | .barWait _ d
  | .barSync _ d | .barTake _ d | .watchArm d _ | .watchDisarm d _ | .watchQuery d _ | .spawn _ d
  | .shareJoin d _ | .shareLeave d | .shareQuery d _ | .quoteReq d _ | .quoteAcc d _ | .quoteDec d _
  | .sysFqpop d | .sysEvqpop d => d.keys
  | .ld z d _ _ _ => pairKeys z d.keys
  | .waita _ b _ _ _ _ => b.keys
  | .groupWaita _ b _ _ _ _ => [b.val]
  | .barStat _ d | .quoteActual d _ => twoKeys d.keys
  | _ => []

end Sys2Proof
end

