-- ==== Sys2Proof/Machine/Ops.lean ====
section
/-! DEFINITION. The shared operations over the state: accessors, translation and space checks,
results and their latencies, taking an exception and the bookkeeping a fault brings, the program
counter, and the frame every instruction word issues in. -/

namespace Sys2Proof.Machine

/-- The outcome of one step of this machine. -/
abbrev Out := Host.Outcome State Fault Refusal

/-! ## Accessors -/

def State.gang (s : State) (g : Nat) : Gang := aget Gang.empty g s.gangs
def State.setGang (s : State) (g : Nat) (x : Gang) : State := { s with gangs := aput g x s.gangs }
def State.core (s : State) (c : Nat) : CoreSt := aget CoreSt.empty c s.cores
def State.setCore (s : State) (c : Nat) (x : CoreSt) : State := { s with cores := aput c x s.cores }

/-- The quotation with an id. -/
def State.quote? (s : State) (q : Nat) : Option Quote := s.quotes.find? fun x => x.id = q

/-- The entry of a quotation, replaced. -/
def State.setQuote (s : State) (q : Quote) : State :=
  { s with quotes := s.quotes.map fun x => if x.id = q.id then q else x }

def State.launch? (s : State) (l : Nat) : Option Launch := afind l s.launches
def State.setLaunch (s : State) (l : Nat) (x : Launch) : State :=
  { s with launches := aput l x s.launches }

/-- A kernel that declares the most: what a Steppe or Saddle thread has in place of one (R49). -/
def Kernel.open_ : Kernel :=
  { object := 0, objectBytes := 0, laneRegs := 96, groupRegs := 192, depth := 0, spawnDepth := 0,
    scratch := 0, dqDecl := 0, uqDecl := 0, barCeiling := 0, watch := false, preempt := false,
    preemptLat := 0, budget := 0, window := 0, widths := [], laneCode := [], condCode := [],
    laneEntry := none, condEntry := none, funcs := [], points := [], resident := [], data := 0,
    dataBytes := 0, chain := 0, calls := (0, 0), hasPhase := false, hasMatrix := false, hasAtom := false }

/-- The kernel object whose code a gang runs. -/
def State.kernel (s : State) (g : Nat) : Kernel :=
  match s.launch? (s.gang g).launch with
  | some l => l.kernel
  | none => Kernel.open_

/-- Whether the launch of a gang is being stopped for pre-emption (R290): its streams stop at an entry
boundary, and what its threads have met waits. -/
def State.stopping (s : State) (g : Nat) : Bool :=
  match s.launch? (s.gang g).launch with
  | some l => l.phase ≠ .running
  | none => false

/-- Whether an agent's gang has been stopped for pre-emption. -/
def State.frozen (s : State) (g : Nat) : Bool := (s.gang g).frozen

def gangCore (g : Nat) : Nat := g / 192
def gangPart (g : Nat) : Nat := g % 192 / 12
def gangSlot (g : Nat) : Nat := g % 12
def gangKey (c p k : Nat) : Nat := 192 * c + 12 * p + k

def Gang.lane (x : Gang) (t : Nat) : Lane := if h : t < 32 then x.lanes[t] else Lane.empty
def Gang.setLane (x : Gang) (t : Nat) (l : Lane) : Gang :=
  if h : t < 32 then { x with lanes := x.lanes.set t l } else x

/-- Every lane of a mask changed by a function of its own. -/
def Gang.mapLanes (x : Gang) (m : W32) (f : Fin 32 → Lane → Lane) : Gang :=
  (threads m).foldl (fun y t => y.setLane t.val (f t (y.lane t.val))) x

/-- The gang with one gang's lanes changed. -/
def State.mapLanes (s : State) (g : Nat) (m : W32) (f : Fin 32 → Lane → Lane) : State :=
  s.setGang g ((s.gang g).mapLanes m f)

/-- `glive` (R119): threads live or parked. -/
def Gang.glive (x : Gang) : W32 :=
  maskOf fun t =>
    match (x.lane t.val).st with
    | .live | .parkedMask _ | .parkedFault => true
    | .absent | .exited => false

/-- SPLANES (R271): threads parked for a fault not yet reported. -/
def Gang.splanes (x : Gang) : W32 := x.parked.foldl (fun m p => m ||| p.mask) 0

/-- A Steppe thread or Saddle core that has not run yet: S or F level, halted until boot stage 7. -/
def Ctx.boot (l : Level) : Ctx := Ctx.empty l .halted

/-- The context of a conductor, Steppe thread or Saddle core. -/
def State.ctx (s : State) : Agent → Ctx
  | .cond g => (s.gang g).cond
  | .steppe c t => aget (Ctx.boot .s) (4 * c + t) s.steppes
  | .saddle c => aget (Ctx.boot .f) c s.saddles
  | .lane _ _ => Ctx.boot .u

def State.setCtx (s : State) (a : Agent) (x : Ctx) : State :=
  match a with
  | .cond g => s.setGang g { s.gang g with cond := x }
  | .steppe c t => { s with steppes := aput (4 * c + t) x s.steppes }
  | .saddle c => { s with saddles := aput c x s.saddles }
  | .lane _ _ => s

def agentKind : Agent → CoreKind
  | .lane _ _ => .lane
  | .cond _ => .cond
  | .steppe _ _ => .steppe
  | .saddle _ => .saddle

/-- The unit whose TLB, line cache and unlocked code lines serve an agent: its compute core; units
192–199 for the Steppe cores, 200 for the Saddle pool (R117, R207). That the twelve Saddle cores share one instruction
cache is the model's (DESIGN CHOICE, log 86). -/
def agentUnit : Agent → Nat
  | .lane g _ | .cond g => gangCore g
  | .steppe c _ => 192 + c
  | .saddle _ => 200

/-- The gang of a lane thread or conductor. -/
def agentGang? : Agent → Option Nat
  | .lane g _ | .cond g => some g
  | _ => none

/-- The level an agent runs at (R270): a lane thread always at U. -/
def State.levelOf (s : State) (a : Agent) : Level :=
  match a with
  | .lane _ _ => .u
  | a => (s.ctx a).level

/-- SASID of an agent: on a compute core the ASID of the launch (R68, R271). -/
def State.asidOf (s : State) (a : Agent) : Nat :=
  match a with
  | .lane g _ | .cond g => ((s.launch? (s.gang g).launch).map (·.asid)).getD 0
  | a => (s.ctx a).sasid.toNat

/-- The next free value (log 4). -/
def State.fresh (s : State) : W64 × State :=
  (Config.freeValue s.free, { s with free := s.free + 1 })

/-- Present cores (R5, R297). -/
def State.present (s : State) (c : Nat) : Bool := decide (c < 192) && s.dev.cores.getLsbD c

/-! ## Words of memory and their check bits (R201), writes of device memory (R296) -/

/-- The marked words that a write of `n` bytes at a key leaves marked: a word it covers whole is rewritten
with fresh check bits. -/
def cleansed (k n : Nat) (ws : List Nat) : List Nat := ws.filter fun w => !(decide (k ≤ 8 * w) && decide (8 * w + 8 ≤ k + n))

/-- Bytes written at a key. -/
def State.pokeBytes (s : State) (k : Nat) (bs : List Byte) : State :=
  { s with mem := writeBytes s.mem k bs, flawed := cleansed k bs.length s.flawed }

/-- A little-endian value written at a key. -/
def State.pokeLE (s : State) (k n v : Nat) : State := s.pokeBytes k (leBytes n v)

/-- Whether a read of `n` bytes at a key meets a word that holds an uncorrectable error. -/
def State.flawedAt (s : State) (k n : Nat) : Bool := s.flawed.any fun w => decide (8 * w < k + n) && decide (k < 8 * w + 8)

def State.flawedLoc (s : State) (l : Loc) (n : Nat) : Bool := (l.key.map fun k => s.flawedAt k n).getD false

/-- STVAL of an uncorrectable error in a word read from memory (R201). -/
def eccValue (va : W64) : W64 := va ||| 0x8000000000000000

/-- Bytes from an address on that lie in the device information block, once boot has written it: writes
there are ignored at every level (R296). -/
def Dev.infoHeld (d : Dev) (pa : Nat) : Nat := if 6 ≤ d.booted then 4096 - pa else 0

/-- Bytes put into device memory, whatever stands there. -/
def State.pokeDev (s : State) (pa : Nat) (bs : List Byte) : State :=
  let k := s.dev.infoHeld pa
  if pa + bs.length ≤ s.dev.memBytes then s.pokeBytes (pa + k) (bs.drop k) else s

/-! ## The black box and the fault queue's posters (R283, R298) -/

/-- A black-box entry written, unless the ring is frozen; the ring keeps the last 4,096 (R298). -/
def State.log (s : State) (kind io core asid qid : Nat) (detail : W64) : State :=
  if s.dev.frozen then s
  else
    let e : BoxEntry := { tick := s.tick, kind := kind, io := io, core := core, asid := asid,
                          qid := qid, detail := detail }
    { s with dev := { s.dev with box := (s.dev.box ++ [e]).drop (s.dev.box.length + 1 - 4096) } }

/-- A fault record handed to a poster (R283). -/
def State.post (s : State) (r : Record) : State :=
  { s with dev := { s.dev with records := s.dev.records ++ [r] } }

def Record.blank (kind cause : Nat) : Record :=
  { kind := kind, cause := cause, asid := 0, core := 0, stval := 0, info := 0, qid := 0, part := 0,
    slot := 0, sd := 0, pc := 0, claimed := none }

/-! ## Translation (R204, R205) -/

/-- What an access wants of a page or a range. -/
inductive Acc | load | store | atom | exec
  deriving DecidableEq, Repr

/-- Page not present, by access kind (R205). -/
def Acc.absent : Acc → Byte
  | .load => 0x06
  | .store | .atom => 0x07
  | .exec => 0x08

/-- One level of the walk: the entry's index bits. -/
def levelShift (level : Nat) : Nat := 46 - 10 * level

/-- The walk of R205 from a table, at most `fuel` levels: the leaf, its level and its place. -/
def walkFrom (mem : List Host.Cell) (va : Nat) : Nat → Nat → Nat → Option (W64 × Nat × Nat)
  | 0, _, _ => none
  | fuel + 1, level, table =>
    let at_ := table + va / 2 ^ levelShift level % 1024 * 8
    let pte : W64 := n64 (readLE mem at_ 8)
    if !b64 pte 0 || f64 pte 53 3 ≠ 0 || f64 pte 10 6 ≠ 0 then none
    else if f64 pte 1 3 = 0 then
      if level = 3 || f64 pte 4 6 ≠ 0 then none
      else walkFrom mem va fuel (level + 1) (f64 pte 16 36 * 2 ^ 16)
    else if level = 0 || (b64 pte 2 && !b64 pte 1) then none
    else if f64 pte 16 36 * 2 ^ 16 % 2 ^ levelShift level ≠ 0 then none
    else some (pte, level, at_)

/-- The four-level walk from SPTB (R204): its table address is in bits [51:16]. Where no table is set
nothing is walked (R274). -/
def walkTable (mem : List Host.Cell) (root : Option W64) (va : Nat) : Option (W64 × Nat × Nat) :=
  match root with
  | some r => if va ≥ 2 ^ 56 then none else walkFrom mem va 4 0 (f64 r 16 36 * 2 ^ 16)
  | none => none

/-- The place a leaf gives an address (R205). -/
def leafLoc (pte : W64) (bytes va : Nat) : Loc :=
  let off := va % bytes
  if b64 pte 9 then .peer (f64 pte 44 8) (f64 pte 16 28 * 2 ^ 16 + off)
  else if b64 pte 8 then .host (f64 pte 16 36 * 2 ^ 16 + off)
  else .dev (f64 pte 16 36 * 2 ^ 16 + off)

/-- Whether a leaf grants an access (R205). -/
def leafGrants (pte : W64) (acc : Acc) (user : Bool) : Bool :=
  (!user || b64 pte 4) &&
  match acc with
  | .load => b64 pte 1
  | .store => b64 pte 2
  | .atom => b64 pte 1 && b64 pte 2
  | .exec => b64 pte 3

/-- SPTB of an ASID, from the ASID table (R271); a table base of zero is not set (R274). -/
def State.asidRoot (s : State) (asid : Nat) : Option W64 :=
  if s.dev.satb = 0 then none else some (n64 (readLE s.mem (s.dev.satb.toNat + 8 * asid) 8))

/-- The root an agent's walks start from: a Steppe thread's own SPTB, else its ASID's (R271). -/
def State.rootOf (s : State) (a : Agent) : Option W64 :=
  match a with
  | .steppe _ _ => some (s.ctx a).sptb
  | a => s.asidRoot (s.asidOf a)

/-- An empty link mask in the fabric table: no way to that peer (R300). -/
def State.peerLinked (s : State) (n : Nat) : Bool :=
  decide (readLE s.mem (sliceKey 0 (0xFF4600 + 2 * n)) 2 % 2 ^ 12 ≠ 0)

/-- A TLB with one more entry: full, it loses one that nothing fixes (R207). -/
def tlbFill (victim : Nat) (e : TlbEntry) (tlb : List TlbEntry) : List TlbEntry :=
  if tlb.length < 2048 then tlb ++ [e] else tlb.eraseIdx (victim % tlb.length) ++ [e]

/-- A translation by the device's own units: the place under an ASID, with no check but that it is mapped
(log 71). -/
def State.place (s : State) (asid va : Nat) : Option Loc :=
  (walkTable s.mem (s.asidRoot asid) va).map fun (pte, level, _) => leafLoc pte (2 ^ levelShift level) va

/-- A little-endian value the device reads at a virtual address under an ASID; none where unmapped
or outside the device. -/
def State.readVa (s : State) (asid va n : Nat) : Option Nat :=
  match s.place asid va with
  | some l => l.key.map fun k => readLE s.mem k n
  | none => none

/-! ## Writes of device memory by the device itself (R28, R205, R296) -/

/-- The offset within a quotation's kernel object of a byte of device memory. -/
def State.objectOffset (s : State) (q : Quote) (k : Kernel) (pa : Nat) : Option Nat :=
  let first := k.object / 65536
  (List.range ((k.object + k.objectBytes + 65535) / 65536 - first)).findSome? fun i =>
    let page := (first + i) * 65536
    match s.place q.asid page with
    | some (.dev base) =>
      if base ≤ pa ∧ pa < base + 65536 ∧ k.object ≤ page + (pa - base) ∧ page + (pa - base) < k.object + k.objectBytes then
        some (page + (pa - base) - k.object)
      else none
    | _ => none

/-- The current-target word of a call-table entry, written whole (R28). -/
def Kernel.isTarget (k : Kernel) (off n : Nat) : Bool :=
  decide (n = 4) && decide (k.calls.1 ≤ off) && decide (off < k.calls.1 + 8 * k.calls.2) &&
    decide ((off - k.calls.1) % 8 = 0)

/-- Whether a write of `n` bytes touches the kernel object of a quotation otherwise than as S-level code may:
one aligned 4-byte store to a call-table target (R28). -/
def State.spoils (s : State) (sLevel : Bool) (pa n : Nat) (q : Quote) : Bool :=
  match q.kernel with
  | none => false
  | some k =>
    match (s.objectOffset q k pa).or (s.objectOffset q k (pa + n - 1)) with
    | some off => !(sLevel && k.isTarget off n)
    | none => false

/-- The quotations that a write of `n` bytes of device memory voids: where it touches a live kernel object,
otherwise than as S-level code may, every quotation on that object (R28). -/
def State.spoiled (s : State) (sLevel : Bool) (pa n : Nat) : List Nat :=
  let open_ := s.quotes.filter fun q => decide (1 ≤ q.state) && decide (q.state ≤ 4) && s.spoils sLevel pa n q
  if open_.any fun q => 3 ≤ q.state then open_.map (·.id) else []

/-- Bytes that a unit of the device writes to device memory. What such a write voids is voided as the clock ends
(R28; log 76). -/
def State.writeDev (s : State) (pa : Nat) (bs : List Byte) : State :=
  let t := s.pokeDev pa bs
  { t with voids := t.voids ++ (t.spoiled false pa bs.length).map (·, pa) }

/-- A leaf's accessed bit set, and its dirty bit (R205). -/
def State.markLeaf (s : State) (at_ : Nat) (dirty : Bool) : State :=
  s.writeDev at_
    (leBytes 8 (n64 (readLE s.mem at_ 8) ||| (1 <<< 6) ||| (if dirty then (1 <<< 7 : W64) else 0)).toNat)

/-- Translation of one address on a unit (R204–R207): the leaf, from the TLB or by a walk that fills
it, with its accessed and dirty bits. -/
def State.translate (s : State) (unit asid : Nat) (root : Option W64) (va : Nat) (acc : Acc) (user : Bool) :
    State × Except Byte (Loc × Bool) :=
  let c := s.core unit
  let hit := c.tlb.find? fun e =>
    (e.asid = none || e.asid = some asid) && decide (e.base ≤ va) && decide (va < e.base + e.bytes)
  let found : Option (TlbEntry × Bool) :=
    match hit with
    | some e => some (e, true)
    | none =>
      (walkTable s.mem root va).map fun (pte, level, at_) =>
        let bytes := 2 ^ levelShift level
        ({ asid := if b64 pte 5 then none else some asid, base := va / bytes * bytes, bytes := bytes,
           pte := pte, at_ := at_ }, false)
  if va ≥ 2 ^ 56 then (s, .error acc.absent)
  else
    match found with
    | none => (s, .error acc.absent)
    | some (e, held) =>
      if !leafGrants e.pte acc user then (s, .error 0x09)
      else
        let loc := leafLoc e.pte e.bytes va
        let linked := match loc with | .peer n _ => s.peerLinked n | _ => true
        if !linked then (s, .error acc.absent)
        else
          let writes := acc = .store || acc = .atom
          let pte := e.pte ||| (1 <<< 6) ||| (if writes then 1 <<< 7 else 0)
          let e' := { e with pte := pte }
          let s0 := if pte = e.pte then s else s.markLeaf e.at_ writes
          let (v, s1) := s0.fresh
          let tlb := if held then c.tlb.map fun x => if x = e then e' else x
            else tlbFill v.toNat e' c.tlb
          let s2 := if held || c.tlb.length < 2048 then s0 else s1
          (s2.setCore unit { c with tlb := tlb }, .ok (loc, b64 e.pte 52))

/-- A little-endian value the device writes at a virtual address under an ASID: the leaf is dirty before
the value is stored (R205). -/
def State.writeVa (s : State) (asid va n v : Nat) : State :=
  match walkTable s.mem (s.asidRoot asid) va with
  | some (pte, level, at_) =>
    match leafLoc pte (2 ^ levelShift level) va with
    | .dev pa => (if b64 pte 6 && b64 pte 7 then s else s.markLeaf at_ true).writeDev pa (leBytes n v)
    | _ => s
  | none => s

/-! ## Quotations touched by an event (R101) -/

/-- The status halfword of a record (R88). -/
def Quote.status (q : Quote) : Nat := q.state + 256 * q.party

/-- A quotation's entry replaced and its record's status written (R88, R99). -/
def State.putQuote (s : State) (q : Quote) : State :=
  (s.setQuote q).writeVa q.asid (q.record + 4) 2 q.status

/-- A breach by the device: the black-box entry first, then the kind 6 record (R295). -/
def State.breach (s : State) (qid asid kind : Nat) (val : W64) : State :=
  (s.log 0x06 0xFF 0xFFFF asid qid (n64 kind)).post
    { Record.blank 6 0x17 with asid := asid, stval := val, info := n64 kind, qid := qid }

/-- The first party found at fault is recorded; caller and operating system void the quotation; the
device writes a breach record each time (R101). -/
def State.charge (s : State) (qid party : Nat) (kind : Nat) (val : W64) : State :=
  match s.quote? qid with
  | none => s
  | some q =>
    let s :=
      if q.party = 0 then
        s.putQuote { q with party := party, voided := q.voided || party = 1 || party = 2 }
      else s
    if party = 3 then s.breach qid q.asid kind val else s

/-- A write to a live kernel object, other than S-level code's to a call-table target, voids every quotation
on that object, with the operating system at fault (R28, R101). -/
def State.noteObject (s : State) (sLevel : Bool) (pa n : Nat) : State :=
  (s.spoiled sLevel pa n).foldl (fun s id => s.charge id 2 5 (n64 pa)) s

/-- The quotations that the device's own writes have voided in a clock, as it ends. -/
def State.settleVoids (s : State) : State :=
  s.voids.foldl (fun s e => s.charge e.1 2 5 (n64 e.2)) { s with voids := [] }

/-! ## Faults charged to a quotation (R101) -/

/-- The range of the resident set that holds a virtual address, and whether it is writable: the
object's own pages are read-only (R31). -/
def Kernel.residency (k : Kernel) (va : Nat) : Option Bool :=
  if k.object / 65536 ≤ va / 65536 ∧ va / 65536 ≤ (k.object + k.objectBytes - 1) / 65536 then
    some false
  else
    match k.resident.find? fun (b, n, _) => decide (b ≤ va) && decide (va < b + n) with
    | some (_, _, w) => some w
    | none => none

/-- The party a fault of a launch's thread is charged to (R101); 0 is nobody. -/
def faultParty (k : Kernel) (cause : Nat) (stval : W64) (writes : Bool) : Nat :=
  match cause with
  | 0x06 | 0x07 | 0x08 => if (k.residency stval.toNat).isSome then 2 else 1
  | 0x09 =>
    match k.residency stval.toNat with
    | none => 1
    | some w => if writes && !w then 1 else 2
  | 0x10 | 0x15 => 3
  | 0x14 => if stval = 0x21 then 0 else 1
  | _ => 1

/-- The charge a fault brings to the quotation of a launch. -/
def State.chargeLaunch (s : State) (launch cause : Nat) (stval : W64) (writes : Bool) : State :=
  match s.launch? launch with
  | none => s
  | some l =>
    match faultParty l.kernel cause stval writes with
    | 0 => s
    | p => s.charge l.qid p 5 stval

/-- The charge a fault brings to the quotation of a gang. -/
def State.chargeFault (s : State) (g cause : Nat) (stval : W64) (writes : Bool) : State :=
  s.chargeLaunch (s.gang g).launch cause stval writes

/-- A counter of errors that has reached its top stays there (R296). -/
def countUp (n : W32) : W32 := if n = 0xFFFFFFFF then n else n + 1

/-- A corrected error on a core: its counter rises (R201). -/
def State.countError (s : State) (core : Nat) : State :=
  let c := s.core core
  s.setCore core { c with errs := (countUp c.errs.1, c.errs.2) }

/-- An uncorrectable error met on a core: its counter rises and the black box holds it (R201, R298). -/
def State.uncorrectable (s : State) (core asid qid : Nat) (stval : W64) : State :=
  let s := s.log 0x07 0xFF core asid qid stval
  let c := s.core core
  s.setCore core { c with errs := (c.errs.1, countUp c.errs.2) }

/-- The same, as an agent's read meets it: a Steppe or Saddle core has no counter in the information block
(R296). -/
def State.uncorrectableAt (s : State) (a : Agent) (qid : Nat) (stval : W64) : State :=
  match a with
  | .lane g _ | .cond g => s.uncorrectable (gangCore g) (s.asidOf a) qid stval
  | .steppe c _ | .saddle c => s.log 0x07 c 0xFFFF (s.asidOf a) qid stval

/-- Energy counted for a launch (R100). -/
def State.spend (s : State) (l pJ : Nat) : State :=
  match s.launch? l with
  | some x => s.setLaunch l { x with pJ := x.pJ + pJ }
  | none => s

/-! ## Results and their latencies (R137) -/

/-- The bits of one register cleared from the results that stand before a later one. -/
def discard (d : Dst) (m : W64) (ps : List Pend) : List Pend :=
  if d = .ffl then ps
  else (ps.map fun p => if p.dst = d then { p with mask := p.mask &&& ~~~m } else p).filter
    fun p => p.mask ≠ 0 || p.dst = .ffl

/-- An index register's 21 bits (R130, R143). -/
def XReg.bits (x : XReg) : Nat := x.base.toNat * 2 ^ 14 + x.count.toNat * 2 ^ 7 + x.cur.toNat

/-- An index register from the bits of CSR XIk (R143). -/
def XReg.ofBits (v : W64) : XReg :=
  { base := v.extractLsb' 14 7, count := v.extractLsb' 7 7, cur := v.extractLsb' 0 7 }

/-- The marked registers after a write of some bits of one: a register written whole has fresh check bits
(R201). -/
def rewritten (n : Nat) (mask : W64) (bad : List Nat) : List Nat :=
  if mask = BitVec.allOnes 64 then bad.filter (· ≠ n) else bad

/-- A result lands in a lane thread's registers. -/
def Lane.put (l : Lane) (p : Pend) : Lane :=
  match p.dst with
  | .reg n =>
    if h : n < 96 then { l with v := l.v.set n (mux p.mask p.val l.v[n]), bad := rewritten n p.mask l.bad } else l
  | .x k => { l with x := l.x.set k.val (XReg.ofBits (mux p.mask p.val (n64 l.x[k].bits))) }
  | .ffl => { l with ffl := l.ffl ||| p.val.extractLsb' 0 5 }
  | .none => l

/-- A result lands in a group register. -/
def Ctx.put (c : Ctx) (p : Pend) : Ctx :=
  match p.dst with
  | .reg n =>
    if h : n < 192 then { c with g := c.g.set n (mux p.mask p.val c.g[n]), bad := rewritten n p.mask c.bad } else c
  | .x _ | .ffl | .none => c

/-- Whether a result's latency has ended. -/
def Pend.ended (p : Pend) (now : Nat) : Bool :=
  match p.due with
  | some d => decide (d ≤ now)
  | none => false

/-- The results whose latency has ended, in program order, and those still to come: a later result
that has landed discards its bytes of the earlier ones still to come (R137). -/
def ripe (now : Nat) (ps : List Pend) : List Pend × List Pend :=
  ps.foldl (fun (done, kept) p =>
    if p.ended now then (done ++ [p], discard p.dst p.mask kept) else (done, kept ++ [p])) ([], [])

/-- A lane thread with its ended results written. -/
def Lane.settle (now : Nat) (l : Lane) : Lane :=
  let (done, kept) := ripe now l.pend
  { done.foldl Lane.put l with pend := kept }

/-- A context with its ended results written. -/
def Ctx.settle (now : Nat) (c : Ctx) : Ctx :=
  let (done, kept) := ripe now c.pend
  { done.foldl Ctx.put c with pend := kept }

/-- A gang with every ended result written. -/
def Gang.settle (now : Nat) (x : Gang) : Gang :=
  { x with lanes := x.lanes.map (Lane.settle now), cond := x.cond.settle now }

/-- Every ended result of the agent's gang, or of the agent, written. -/
def State.settle (s : State) (a : Agent) : State :=
  match a with
  | .lane g _ | .cond g => s.setGang g ((s.gang g).settle s.tick)
  | a => s.setCtx a ((s.ctx a).settle s.tick)

/-- A result of an instruction that issues now, with the latency given. -/
def result (d : Dst) (m v : W64) (due : Nat) : Pend :=
  { dst := d, mask := m, val := v, due := some due, src := none, hi := false }

/-- The value a register ends with once every result has landed. -/
def Lane.final (l : Lane) (n : Nat) : W64 :=
  let l' := l.pend.foldl Lane.put l
  if h : n < 96 then l'.v[n] else 0

def Ctx.final (c : Ctx) (n : Nat) : W64 :=
  let c' := c.pend.foldl Ctx.put c
  if h : n < 192 then c'.g[n] else 0

/-- A group register as it stands (R137). -/
def Ctx.reg (c : Ctx) (n : Nat) : W64 := if h : n < 192 then c.g[n] else 0

/-- A lane register as it stands. -/
def Lane.reg (l : Lane) (n : Nat) : W64 := if h : n < 96 then l.v[n] else 0

/-! ## The program counter (R126, R133, R134) -/

/-- The sequential next PC, with the loops that end there stepped and closed: the innermost open loop
first, then, once it closes, the one around it (R133). -/
def loopNext (pc : W64) : List Loop → W64 × List Loop
  | [] => (pc, [])
  | l :: r =>
    if pc = l.stop then
      if l.count.toNat > 1 then (l.start, { l with count := l.count - 1 } :: r)
      else loopNext pc r
    else (pc, l :: r)

/-- The loops a branch at call depth `d` leaves open: it closes every loop of that depth whose body
does not hold the target, and those inside it (R134). A handler shares its conductor's list of
loops (DESIGN CHOICE, log 26). -/
def loopsAt (d : Nat) (target : W64) (ls : List Loop) : List Loop :=
  (ls.reverse.takeWhile fun l =>
    decide (l.depth ≠ d) ||
      (decide (l.start.toNat ≤ target.toNat) && decide (target.toNat < l.stop.toNat))).reverse

/-- A lane thread after `n` words in sequence. -/
def Lane.advance (n : Nat) (l : Lane) : Lane :=
  let (pc, ls) := loopNext ((l.pc.zeroExtend 64) + n64 n) l.loops
  { l with pc := pc.truncate 32, loops := ls }

/-- A lane thread after a branch. -/
def Lane.jump (target : W32) (l : Lane) : Lane :=
  { l with pc := target, loops := loopsAt l.cdep (target.zeroExtend 64) l.loops }

/-- Code from a `.image` is addressed in bytes (R324); a kernel's sections in words (R17). -/
def Ctx.inImage (c : Ctx) : Bool := c.level ≠ .u

/-- How far one word moves the PC of an agent: 1, or 4 in an image. -/
def State.wordStep (s : State) (a : Agent) : Nat :=
  match a with
  | .cond _ => if (s.ctx a).inImage then 4 else 1
  | .lane _ _ => 1
  | _ => 4

/-- A context after `n` words in sequence. -/
def State.advance (s : State) (a : Agent) (n : Nat) : State :=
  let c := s.ctx a
  let (pc, ls) := loopNext (c.pc + n64 (n * s.wordStep a)) c.loops
  s.setCtx a { c with pc := pc, loops := ls, lastIssue := s.tick }

/-- A context after a branch; that of a handler may close loops of the code it interrupted (DESIGN CHOICE, log 26). -/
def State.jump (s : State) (a : Agent) (target : W64) : State :=
  let c := s.ctx a
  s.setCtx a { c with pc := target, loops := loopsAt c.cdep target c.loops, lastIssue := s.tick }

/-! ## Taking an exception (R276–R281) and returning from it (R279) -/

/-- SSTAT at entry (R277): PL from LEVEL, in handler 1, mode 0, ce as given; a Steppe thread's IE
cleared when `steppe` (R281). -/
def sstatEntry (old : BitVec 8) (l : Level) (ce steppe : Bool) : BitVec 8 :=
  BitVec.ofNat 8 (l.num + 4 + (if steppe then 0 else 8 * (old.toNat / 8 % 2)) + (if ce then 128 else 0))

/-- A vector base without its ignored bits (R273). -/
def vectorBase (v : W64) : W64 := v &&& ~~~0xFFF

/-- A context that enters its handler at a tick (R277): the cause, the value, the PC `eret` resumes at, the
vector; the handler's first instruction issues no earlier than the next tick. -/
def Ctx.enter (c : Ctx) (now : Nat) (l : Level) (cause stval sepc vector : W64) (ce steppe : Bool) : Ctx :=
  { c with st := .live, scause := cause, stval := stval, sepc := sepc,
           sstat := sstatEntry c.sstat c.level ce steppe, level := l, pc := vector, wait := none,
           fault := none, from_ := now + 1 }

/-- In a handler: SSTAT[2] (R272). -/
def Ctx.inHandler (c : Ctx) : Bool := c.sstat.getLsbD 2

/-- The Saddle cores. -/
def saddleCores : List Nat := [0, 1, 2, 3, 4, 5, 6, 7, 8, 9, 10, 11]

/-- A device that has halted at boot, both images failed, is reached through the side-band port only (R303). -/
def Dev.dark (d : Dev) : Bool := d.booted = 2 && decide (2 ≤ d.bootFails)

def Dev.image (d : Dev) (slotB : Bool) : Image := if slotB then d.imageB else d.imageA

/-- An image's body and its trailer (log 16). -/
def Image.body (x : Image) : List Byte := x.bytes.take (x.bytes.length - Config.trailerBytes)
def Image.trailer (x : Image) : List Byte := x.bytes.drop (x.bytes.length - Config.trailerBytes)

/-- The twelve Saddle cores reset into the running slot at F level (R78): core 0 starts at the entry,
the others are held until its first `sys.hbeat`, and event delivery waits with them (R320). What a
core had in flight is allowed to complete, with no register to return to. -/
def State.resetPool (s : State) : State :=
  let entry := Config.imageEntry (s.dev.fslot.getLsbD 0)
  let core (c : Nat) : Ctx :=
    { Ctx.empty .f (if c = 0 then .live else .held) with pc := entry, from_ := s.tick + 1 }
  { s with saddles := saddleCores.map fun c => (c, core c),
           dev := { s.dev with suspended := true, resuming := false, lockOrder := [], watchdog := s.tick } }

/-- Every held lock passed to Saddle core 0 (R78). -/
def State.locksToZero (s : State) : State :=
  { s with dev := { s.dev with locks := s.dev.locks.map fun (n, _) => (n, 0) } }

/-- Roll-back (R78, R320): the new slot's failed bit and FSLOT[4] set, FSLOT[3] and [7] cleared, the old
slot running, every held lock with core 0, the cores reset into the old image, a roll-back entry. -/
def State.rollBack (s : State) : State :=
  let newSlot := s.dev.fslot.getLsbD 0
  let f := s.dev.fslot ||| (if newSlot then 0x04 else 0x02) ||| 0x10
  let f := (f &&& ~~~0x89) ||| (if s.dev.oldSlot then 1 else 0)
  let s := { s with dev := { s.dev with fslot := f, windowEnd := none } }
  (s.locksToZero.resetPool).log 0x03 0xFF 0xFFFF 0 0 (if newSlot then 1 else 0)

/-- A firmware fault (R78): its black-box entry, a breach of kind 7 for every quotation in state 4,
and the pool reset into the running slot, or the roll-back at once while FSLOT[3] = 1. DESIGN CHOICE (log 73):
a reset into the running slot leaves the ordering locks with their holders. -/
def State.firmwareFault (s : State) (kind io : Nat) (detail : W64) : State :=
  let s := s.log kind io 0xFFFF 0 0 detail
  let s := (s.quotes.filter fun q => q.state = 4).foldl
    (fun s q => s.charge q.id 3 7 (n64 kind)) s
  if s.dev.fslot.getLsbD 3 then s.rollBack else s.resetPool

/-- A Steppe double fault (R278): the thread halts, a black-box entry holds its SCAUSE (R298), and the
management controller is notified. -/
def State.steppeDouble (s : State) (a : Agent) : State :=
  match a with
  | .steppe c t =>
    let s := (s.setCtx a { s.ctx a with st := .halted }).log 0x09 c 0xFFFF (s.ctx a).sasid.toNat 0 (s.ctx a).scause
    { s with dev := { s.dev with notices := s.dev.notices ++ [(c, t)] } }
  | _ => s

/-- A double fault of a conductor (R278): every thread and the conductor stop, a kind 5 record is
posted, and the operating system is charged. -/
def State.gangDouble (s : State) (g : Nat) (cause : Byte) (stval : W64) : State :=
  let x := s.gang g
  let asid := s.asidOf (.cond g)
  let qid := ((s.launch? x.launch).map (·.qid)).getD 0
  let x := x.mapLanes x.glive fun _ l => { l with held := true }
  let s := s.setGang g { x with cond := { x.cond with st := .held, fault := none } }
  (s.charge qid 2 0 0).post
    { Record.blank 5 cause.toNat with
        asid := asid, core := gangCore g, stval := stval, qid := qid, part := gangPart g,
        slot := gangSlot g, pc := x.cond.sepc }

/-- A fault of a conductor, Steppe or Saddle thread. A conductor's is reported at the end of the clock
(R276), and inside a handler it is a double fault at once (R278); a Steppe or Saddle thread traps at
once to its own vector (R281), a vector base of zero being no vector (R274). -/
def State.groupFaultOf (s : State) (a : Agent) (cause : Byte) (stval : W64) (writes : Bool) : State :=
  let c := s.ctx a
  let cw : W64 := cause.zeroExtend 64
  match a with
  | .lane _ _ => s
  | .cond g =>
    if c.inHandler then s.gangDouble g cause stval
    else
      let s := s.chargeFault g cause.toNat stval writes
      s.setCtx a { s.ctx a with fault := some (cause, stval) }
  | .steppe _ _ =>
    if c.inHandler || vectorBase c.stvb = 0 then s.steppeDouble a
    else s.setCtx a (c.enter s.tick .s cw stval c.pc (vectorBase c.stvb + cw * 64) false true)
  | .saddle k =>
    let slot : W64 := if s.dev.fslot.getLsbD 0 then 0x100 else 0
    if c.inHandler || vectorBase s.dev.ftvb = 0 then s.firmwareFault 0x0E k (cw ||| slot)
    else s.setCtx a (c.enter s.tick .f cw stval c.pc (vectorBase s.dev.ftvb + cw * 64) false false)

/-- A fault of a conductor, Steppe or Saddle thread that no memory access raised. -/
def State.groupFault (s : State) (a : Agent) (cause : Byte) (stval : W64) : State :=
  s.groupFaultOf a cause stval true

/-- Lane threads park for a fault (R276): PC at the instruction, cause and value kept, the group
enters SPLANES. -/
def Gang.park (x : Gang) (m : W32) (cause : Byte) (stval : W64) : Gang :=
  if m = 0 then x
  else
    let pc := (x.lane ((threads m).headD 0).val).pc
    let y := x.mapLanes m fun _ l =>
      { l with st := .parkedFault, cause := cause, stval := stval, wait := none }
    { y with parked := y.parked ++ [{ mask := m, pc := pc }] }

/-- Lane threads of a gang park for a fault, and its party is charged (R101); `writes` says whether
the access that raised it stores. -/
def State.laneFaultOf (s : State) (g : Nat) (m : W32) (cause : Byte) (stval : W64) (writes : Bool) :
    State :=
  if m = 0 then s
  else
    let s := s.chargeFault g cause.toNat stval writes
    s.setGang g ((s.gang g).park m cause stval)

/-- Lane threads park for a fault that no memory access raised. -/
def State.laneFault (s : State) (g : Nat) (m : W32) (cause : Byte) (stval : W64) : State :=
  s.laneFaultOf g m cause stval true

/-! ## The frame of an instruction word (R35, R36) -/

/-- Energy of one issue in pJ, by class (R83). Memory, atomic and engine work is charged where it is
done. -/
def issueEnergy (w : W32) : Nat :=
  if bit w 31 then
    match (fld w 25 6).toNat with
    | 0x23 | 0x24 | 0x25 | 0x26 | 0x27 | 0x30 | 0x32 | 0x3A => 0
    | 0x2D => if fld w 20 5 = 3 then 6 else 10
    | 0x35 | 0x38 | 0x39 => 15
    | _ => 6
  else
    match (fld w 25 6).toNat with
    | 0x25 | 0x26 | 0x27 | 0x28 | 0x29 | 0x2A | 0x2B | 0x2C | 0x2D | 0x2E | 0x30 => 70
    | 0x2F => if 2 ≤ (fld w 1 7).toNat ∧ (fld w 1 7).toNat ≤ 9 then 160 else 70
    | 0x31 | 0x32 => 110
    | 0x33 => 12
    | 0x34 => 20
    | 0x35 | 0x36 | 0x37 | 0x38 | 0x39 => 0
    | 0x3C => 30
    | _ => 35

/-- The issue charged to the launch of a gang; a handler's instructions are no part of the launch's
work (R100, R102; log 19). -/
def State.spendIssue (s : State) (a : Agent) (i : Instr) : State :=
  match agentGang? a with
  | some g =>
    if s.levelOf a = .u then s.spend (s.gang g).launch (issueEnergy ((encode i).headD 0)) else s
  | none => s

/-- STVAL of an encoding fault: the first word of the instruction, or of its prefix unit (R36, R47). -/
def firstWord (i : Instr) : W64 := ((encode i).headD 0).zeroExtend 64

/-- The encoding fault of an instruction on a core kind at a level, in the order of R36. -/
def encodingFault (i : Instr) (k : CoreKind) (l : Level) (lanes groups : Nat) : Option Byte :=
  let w := (encode i).headD 0
  if !wordLegal w k l then some 0x01
  else if l.num < (levelOf w).num then some 0x04
  else if !(wellFormed i && fitsCounts lanes groups i) then some 0x02
  else none

/-- A lane instruction: the checks of R36 are common to every thread of the issue group; then `body`
acts on the gang and its group. A conductor, Steppe or Saddle thread that reaches it takes 0x01. -/
def laneInstr (i : Instr) (s : State) (body : Nat → W32 → State → State) : Out :=
  match s.issue.who with
  | none => .fault .noAgent
  | some (.lane g t) =>
    let s := s.settle (.lane g t)
    let k := s.kernel g
    match encodingFault i .lane .u k.laneRegs k.groupRegs with
    | some c => .next (s.laneFault g s.issue.mask c (firstWord i))
    | none => .next (body g s.issue.mask (s.spendIssue (.lane g t) i))
  | some a => .next (s.groupFault a 0x01 (firstWord i))

/-- The declared group register count of an agent (R49). -/
def State.groupRegs (s : State) : Agent → Nat
  | .cond g | .lane g _ => (s.kernel g).groupRegs
  | _ => 192

/-- The first group register, in the order of its operands, that an instruction of an agent reads and that
holds an uncorrectable error (R137). -/
def State.badG (s : State) (a : Agent) (i : Instr) : Option Nat :=
  (readsOf i).find? fun k => (s.ctx a).bad.contains k

/-- An uncorrectable error that a conductor, Steppe or Saddle thread meets (R201). -/
def State.groupEcc (s : State) (a : Agent) (v : W64) : State :=
  let qid := (((agentGang? a).bind fun g => s.launch? (s.gang g).launch).map (·.qid)).getD 0
  (s.uncorrectableAt a qid v).groupFaultOf a 0x10 v false

/-- An uncorrectable error in a group register that is read (R137, R201). -/
def State.badRegister (s : State) (a : Agent) (k : Nat) : State := s.groupEcc a (n64 (0x100 + k))

/-- A group instruction: the checks of R36 and of the registers it reads (R137), then `body`. A lane thread
that reaches it takes 0x01. -/
def groupInstr (i : Instr) (s : State) (body : Agent → State → State) : Out :=
  match s.issue.who with
  | none => .fault .noAgent
  | some (.lane g _) => .next (s.laneFault g s.issue.mask 0x01 (firstWord i))
  | some a =>
    let s := s.settle a
    match encodingFault i (agentKind a) (s.levelOf a) 96 (s.groupRegs a) with
    | some c => .next (s.groupFault a c (firstWord i))
    | none =>
      match s.badG a i with
      | some k => .next (s.badRegister a k)
      | none => .next (body a (s.spendIssue a i))

/-- A group instruction that is legal on conductors alone. -/
def condInstr (i : Instr) (s : State) (body : Nat → State → State) : Out :=
  groupInstr i s fun a s =>
    match a with
    | .cond g => body g s
    | a => s.groupFault a 0x01 (firstWord i)

end Sys2Proof.Machine
end

