-- ==== Sys2Proof/Machine/Operands.lean ====
section
/-! DEFINITION. Every operand form: lane selectors and index registers (R38, R141), group selectors
(R49), the Defile (R144–R146), accumulator fragments (R147), and the checks of operand read (R140). -/

namespace Sys2Proof.Machine

/-! ## Elements -/

/-- Element `k` of `w` bits (R39). -/
def element (w : Nat) (v : W64) (k : Nat) : Nat := f64 v (k * w) w

/-- The value with the elements given, element 0 lowest. -/
def packElements (w : Nat) : List Nat → W64
  | [] => 0
  | e :: r => n64 (e % 2 ^ w) ||| (packElements w r <<< w)

/-- 0, 1, …, n − 1 for the element counts of a register. -/
def subs (n : Nat) : List Nat := [0, 1, 2, 3, 4, 5, 6, 7].take n

/-- The bits of the enabled sub-elements (R157). -/
def enabledMask (w n : Nat) (emask : BitVec 8) : W64 :=
  packElements w ((subs n).map fun k => if emask.getLsbD k then 2 ^ w - 1 else 0)

def intWidth : IntTy → Nat | .i8 => 8 | .i16 => 16 | .i32 => 32 | .i64 => 64
def fpWidth : FpTy → Nat | .f16 => 16 | .bf16 => 16 | .f32 => 32
def elWidth : ElTy → Nat
  | .i8 => 8 | .i16 => 16 | .i32 => 32 | .i64 => 64 | .f16 => 16 | .bf16 => 16 | .f32 => 32 | .f8 => 8

/-! ## Faults of operand read (R140, R141) -/

/-- A cause with its value. -/
abbrev Trap := Byte × W64

/-- The register an index register names, or its fault (R141). -/
def xReg (x : XReg) (k : Fin 4) (lanes : Nat) (word : W64) : Except Trap Nat :=
  let r := x.base.toNat + x.cur.toNat
  if r ≥ lanes then .error (0x02, word)
  else if x.cur.toNat ≥ x.count.toNat then
    .error (0x03, n64 (x.count.toNat * 2 ^ 16 + x.cur.toNat * 2 ^ 8 + k.val))
  else .ok r

/-- What an operand read needs to know: the declared count and the first word; of an ALU instruction also
whether it reads its destination, and the registers its prefix reads. -/
structure ReadEnv where
  lanes : Nat
  word : W64
  old : Bool := false
  perms : List Nat := []

/-- A lane register that is read, unless it holds an uncorrectable error (R137): STVAL is its selector. -/
def Lane.sound (l : Lane) (n : Nat) : Except Trap W64 := if l.bad.contains n then .error (0x10, n64 n) else .ok (l.reg n)

/-- The value a thread's source names (R38). -/
def readSrc (e : ReadEnv) (t : Fin 32) (l : Lane) : LSrc → Except Trap W64
  | .v n => l.sound n.val
  | .vx k => (xReg l.x[k] k e.lanes e.word).bind l.sound
  | .vz => .ok 0
  | .tid => .ok (n64 t.val)

/-- The register a thread's destination names (R38). -/
def readDst (e : ReadEnv) (l : Lane) : LDst → Except Trap Dst
  | .v n => .ok (.reg n.val)
  | .vx k => (xReg l.x[k] k e.lanes e.word).map .reg
  | .vz => .ok .none

/-- The two registers of a `.qw` pair (R40, R141): the first even, the second below the count. -/
def pairOk (e : ReadEnv) (n : Nat) : Except Trap Nat :=
  if n % 2 = 0 ∧ n + 1 < e.lanes then .ok n else .error (0x02, e.word)

/-- The value a group source names (R49). DESIGN CHOICE (log 74): a Steppe or Saddle thread, which has no gang,
reads `gwid` and `glive` as 0. -/
def readG (s : State) (a : Agent) : GSrc → W64
  | .g n => (s.ctx a).reg n.val
  | .gz => 0
  | .gwid => match agentGang? a with | some g => (s.gang g).wid | none => 0
  | .glive => match agentGang? a with | some g => (s.gang g).glive.zeroExtend 64 | none => 0
  | .gtick => n64 s.tick

/-- The register a group destination names (R49). -/
def dstG : GDst → Dst
  | .g n => .reg n.val
  | .gz => .none

/-- Operand b of an LA word: a lane source or a group register of the gang (R139). -/
def readB (e : ReadEnv) (x : Gang) (t : Fin 32) (l : Lane) : LOpB → Except Trap W64
  | .lane a => readSrc e t l a
  | .group g => if x.cond.bad.contains g.val then .error (0x10, n64 (0x100 + g.val)) else .ok (x.cond.reg g.val)

/-- Threads of a group with a fault of their own: the cause that stands first in `order`, the threads
that meet it, and each one's value; none when no thread fails (R14, R140). -/
def firstFault (order : List Byte) (m : W32) (chk : Fin 32 → Option Trap) :
    Option (Byte × W32 × (Fin 32 → W64)) :=
  match order.find? fun c => (threads m).any fun t => (chk t).map (·.1) = some c with
  | none => none
  | some c =>
    some (c, maskOf (fun t => m.getLsbD t.val && ((chk t).map (·.1) = some c)),
      fun t => ((chk t).map (·.2)).getD 0)

/-- Lane threads park for a fault, each with its own value. An uncorrectable error is reported once, for the
lowest of them (R137, R201). -/
def State.laneFaultBy (s : State) (g : Nat) (m : W32) (cause : Byte) (v : Fin 32 → W64) : State :=
  if m = 0 then s
  else
    let t := (threads m).headD 0
    let low := v t
    let qid := ((s.launch? (s.gang g).launch).map (·.qid)).getD 0
    let s := if cause = 0x10 then s.uncorrectableAt (.lane g t.val) qid low else s
    let s := s.laneFault g m cause low
    s.mapLanes g m fun t l => { l with stval := v t }

/-- The order in which causes of operand read are taken (R36, R140). -/
def operandOrder : List Byte := [0x02, 0x03, 0x10, 0x15]

/-- The fault of several reads of one thread that stands first (R36, R140). -/
def firstTrap (es : List (Option Trap)) : Option Trap :=
  (operandOrder.find? fun k => es.any fun y => y.map (·.1) = some k).bind fun k =>
    (es.find? fun y => y.map (·.1) = some k).join

/-- The error of a read, if it has one. -/
def errOf {α : Type} : Except Trap α → Option Trap
  | .error e => some e
  | .ok _ => none

/-- The second of two reads of a thread, unless one of them fails: the failure that stands first. -/
def andRead {α β : Type} (x : Except Trap α) (y : Except Trap β) : Except Trap β :=
  match firstTrap [errOf x, errOf y] with
  | some f => .error f
  | none => y

def okOr {α : Type} (d : α) : Except Trap α → α
  | .ok a => a
  | .error _ => d

/-! ## The Defile (R144–R146) -/

/-- The source element a reading element takes, or none when it is vacated (R144). `p` is the index
the `perm` register gives. -/
def sourceElement (spec : RouteSpec) (e n p : Nat) : Option Nat :=
  let big := 32 * n
  match spec with
  | .none => some e
  | .rot q => some ((e + q.toNat) % big)
  | .bcast q => some q.toNat
  | .bfly q => some (Nat.xor e q.toNat)
  | .perm _ => some (p % big)
  | .shup q => if q.toNat ≤ e then some (e - q.toNat) else none
  | .shdn q => if e + q.toNat < big then some (e + q.toNat) else none

/-- The routed value of an operand in thread t: elements from outside the issue group, and vacated
ones, take the fill (R145, R146). -/
def routed (spec : RouteSpec) (own : Bool) (w n : Nat) (m : W32) (val : Fin 32 → W64)
    (perm : W64) (t : Fin 32) : W64 :=
  match spec with
  | .none => val t
  | spec =>
    packElements w ((subs n).map fun k =>
      let fill := if own then element w (val t) k else 0
      match sourceElement spec (t.val * n + k) n (element w perm k) with
      | none => fill
      | some src =>
        if h : src / n < 32 then
          if m.getLsbD (src / n) then element w (val ⟨src / n, h⟩) (src % n) else fill
        else fill)

/-- The uncorrectable error a thread meets in a routed operand (R137, R144): that of the first of its elements
whose value comes from a struck register, its own through the fill. A thread none of whose elements is taken
meets none, and an error in a register nobody takes from is not met at all. -/
def routedFault (spec : RouteSpec) (own : Bool) (w n : Nat) (m : W32) (bad : Fin 32 → Option Trap)
    (perm : W64) (t : Fin 32) : Option Trap :=
  match spec with
  | .none => bad t
  | spec =>
    (subs n).findSome? fun k =>
      let fill := if own then bad t else none
      match sourceElement spec (t.val * n + k) n (element w perm k) with
      | none => fill
      | some src =>
        if h : src / n < 32 then if m.getLsbD (src / n) then bad ⟨src / n, h⟩ else fill else fill

/-- The clocks a route adds to the result (R146). -/
def routeLatency : Option (RouteSpec × RouteSpec × Bool) → Nat
  | some (.perm _, .perm _, _) => 3
  | some (.perm _, _, _) | some (_, .perm _, _) => 2
  | some _ => 1
  | none => 0

def permReg : RouteSpec → Nat
  | .perm p => p.val
  | _ => 0

/-! ## Accumulator fragments (R147) -/

/-- An accumulator element's bits. -/
def CoreSt.accBits (c : CoreSt) (tile row col : Nat) : W32 :=
  aget 0 (4096 * tile + 64 * row + col) c.acc

/-- Tile number of a fragment: a16 and a17 through the supervisor bit (R46). -/
def fragTile (t : BitVec 4) (sup : Bool) : Nat := if sup then 16 + t.toNat else t.toNat

/-- Columns 2t and 2t + 1 of a row as one operand (R147). -/
def fragment (c : CoreSt) (tile row : Nat) (t : Fin 32) : W64 :=
  c.accBits tile row (2 * t.val + 1) ++ c.accBits tile row (2 * t.val)

/-! ## The operands of a lane ALU instruction -/

/-- A lane ALU instruction's operands, read before any destination changes (R14). -/
structure Operands where
  a : Fin 32 → W64
  b : Fin 32 → W64
  old : Fin 32 → W64
  dst : Fin 32 → Dst

/-- Reads of one thread, before routing. -/
structure ThreadReads where
  a : Except Trap W64
  b : Except Trap W64
  dst : Except Trap Dst

/-- The uncorrectable error among a read's failures (R137). -/
def struckOf (e : Option Trap) : Option Trap := e.filter (·.1 = 0x10)

/-- Every other failure of a read. -/
def ownOf (e : Option Trap) : Option Trap := e.filter (·.1 ≠ 0x10)

/-- The reads of every thread of a group and, when some fail, the fault they take. An uncorrectable error in a
routed register is the fault of the threads that take its elements, the readers through the Defile (R137, R144).
What resolving a register finds, an index or an invalid tile, is its own thread's (DEDUCED, log 40). -/
def gather (e : ReadEnv) (s : State) (g : Nat) (m : W32) (w n : Nat) (d : LDst) (a : Option LSrc)
    (b : Option LOpB) : Except (Byte × W32 × (Fin 32 → W64)) Operands :=
  let x := s.gang g
  let c := s.core (gangCore g)
  let frag (onB : Bool) (t : Fin 32) (plain : Except Trap W64) : Except Trap W64 :=
    match s.issue.acc with
    | some (tile, row, ob, sup) =>
      if ob = onB then
        let k := fragTile tile sup
        if c.invalid.contains k then .error (0x15, n64 k) else .ok (fragment c k row.toNat t)
      else plain
    | none => plain
  let threadReads (t : Fin 32) : ThreadReads :=
    let l := x.lane t.val
    { a := match a with | some r => frag false t (readSrc e t l r) | none => .ok 0
      b := match b with | some r => frag true t (readB e x t l r) | none => .ok 0
      dst := readDst e l d }
  let (ra, rb, own) := s.issue.route.getD (.none, .none, false)
  let perm (r : RouteSpec) (t : Fin 32) : W64 := (x.lane t.val).reg (permReg r)
  let met (r : RouteSpec) (read : Fin 32 → Option Trap) (t : Fin 32) : List (Option Trap) :=
    [ownOf (read t), routedFault r own w n m (fun u => struckOf (read u)) (perm r t) t]
  let chk (t : Fin 32) : Option Trap :=
    let r := threadReads t
    let l := x.lane t.val
    let old := match e.old, r.dst with | true, .ok (.reg k) => errOf (l.sound k) | _, _ => none
    firstTrap (met ra (fun u => errOf (threadReads u).a) t ++ met rb (fun u => errOf (threadReads u).b) t ++
      [errOf r.dst, old] ++ e.perms.map fun k => errOf (l.sound k))
  match firstFault operandOrder m chk with
  | some f => .error f
  | none =>
    let va (t : Fin 32) : W64 := okOr 0 (threadReads t).a
    let vb (t : Fin 32) : W64 := okOr 0 (threadReads t).b
    .ok
      { a := fun t => routed ra own w n m va (perm ra t) t
        b := fun t => routed rb own w n m vb (perm rb t) t
        old := fun t => match okOr .none (threadReads t).dst with | .reg k => (x.lane t.val).reg k | _ => 0
        dst := fun t => okOr .none (threadReads t).dst }

/-- The registers that a route reads (R144). -/
def routeKeys : Option (RouteSpec × RouteSpec × Bool) → List Nat
  | some (x, y, _) => x.keys ++ y.keys
  | none => []

/-- Results and the next PC of one thread of an issue group. -/
def Lane.finish (words : Nat) (ps : List Pend) (l : Lane) : Lane :=
  { l.advance words with pend := l.pend ++ ps.filter fun p => p.dst ≠ .none }

/-- Latency of the lane integer, logic, control class (R83). -/
def laneIntLatency : Nat := 4

/-- What one thread's ALU gives: a value, the bits of the destination it writes, and flags. -/
structure AluResult where
  val : W64
  mask : W64
  flags : BitVec 5
  deriving DecidableEq, Repr

/-- The first instruction word of what is in issue: of a prefix unit, its first prefix (R36, R47). -/
def State.unitWord (s : State) (g : Nat) (i : Instr) : W64 :=
  match s.issue.who with
  | some (.lane _ t) =>
    if s.issue.words = 0 then firstWord i
    else (((s.kernel g).laneCode[((s.gang g).lane t).pc.toNat]?).getD 0).zeroExtend 64
  | _ => firstWord i

/-- What the operand reads of a lane ALU instruction in issue need to know. -/
def aluEnv (i : Instr) (s : State) (g : Nat) (d : LDst) : ReadEnv :=
  { lanes := (s.kernel g).laneRegs, word := s.unitWord g i, old := d.keys.any (readsOf i).contains,
    perms := routeKeys s.issue.route }

/-- The issue group of a lane ALU instruction executes it (R146, R157): operands read, results landing
when the latency ends, the PC past the unit. `fp` marks an instruction that can raise flags. -/
def laneAlu (i : Instr) (s : State) (w : Nat) (d : LDst) (a : Option LSrc) (b : Option LOpB)
    (latency : Nat) (fp : Bool) (f : Lane → W64 → W64 → W64 → AluResult) : Out :=
  laneInstr i s fun g m s =>
    let e := aluEnv i s g d
    match gather e s g m w (64 / w) d a b with
    | .error (c, bad, v) => s.laneFaultBy g bad c v
    | .ok o =>
      let due := s.tick + latency + routeLatency s.issue.route + (if s.issue.acc.isSome then 2 else 0)
      s.mapLanes g m fun t l =>
        let r := f l (o.a t) (o.b t) (o.old t)
        l.finish (s.issue.words + 1)
          (result (o.dst t) r.mask r.val due :: if fp then [result .ffl 0 (r.flags.zeroExtend 64) due] else [])

end Sys2Proof.Machine
end

