-- ==== Sys2Proof/Machine/Flags.lean ====
section
/-! DEFINITION. Floating-point formats, rounding and every flag (R163–R165): a value is an exact
dyadic, rounded once. -/

namespace Sys2Proof.Machine

/-- A floating-point format (R163): fraction bits, exponent bits, whether it has infinities. -/
structure Fmt where
  width : Nat
  frac : Nat
  exps : Nat
  inf : Bool
  deriving DecidableEq, Repr

def fmtF32 : Fmt := { width := 32, frac := 23, exps := 8, inf := true }
def fmtF16 : Fmt := { width := 16, frac := 10, exps := 5, inf := true }
def fmtBf16 : Fmt := { width := 16, frac := 7, exps := 8, inf := true }
def fmtE4M3 : Fmt := { width := 8, frac := 3, exps := 4, inf := false }

def fmtOf : FpTy → Fmt | .f16 => fmtF16 | .bf16 => fmtBf16 | .f32 => fmtF32

/-- 2^(exps − 1) − 1. -/
def Fmt.bias (f : Fmt) : Int := 2 ^ (f.exps - 1) - 1

/-- Exponent of the lowest bit of a subnormal. -/
def Fmt.least (f : Fmt) : Int := 1 - f.bias - f.frac

/-- The largest finite value's bits, without sign (R163). -/
def Fmt.maxBits (f : Fmt) : Nat :=
  if f.inf then (2 ^ f.exps - 1) * 2 ^ f.frac - 1 else 2 ^ (f.width - 1) - 2

/-- +∞. -/
def Fmt.infBits (f : Fmt) : Nat := (2 ^ f.exps - 1) * 2 ^ f.frac

/-- The canonical NaN (R163, R164). -/
def Fmt.nan (f : Fmt) : Nat :=
  if f.inf then (2 ^ f.exps - 1) * 2 ^ f.frac + 2 ^ (f.frac - 1) else 2 ^ (f.width - 1) - 1

/-- The sign bit. -/
def Fmt.sign (f : Fmt) (neg : Bool) : Nat := if neg then 2 ^ (f.width - 1) else 0

/-- What bits stand for: `fin neg m e` is ± m × 2^e. -/
inductive FVal
  | nan (signalling : Bool)
  | inf (neg : Bool)
  | fin (neg : Bool) (m : Nat) (e : Int)
  deriving DecidableEq, Repr

/-- The value of bits in a format (R163). -/
def Fmt.value (f : Fmt) (bits : Nat) : FVal :=
  let neg := decide (bits / 2 ^ (f.width - 1) % 2 = 1)
  let ex := bits / 2 ^ f.frac % 2 ^ f.exps
  let fr := bits % 2 ^ f.frac
  if f.inf then
    if ex = 2 ^ f.exps - 1 then
      if fr = 0 then .inf neg else .nan (fr / 2 ^ (f.frac - 1) % 2 = 0)
    else if ex = 0 then .fin neg fr f.least
    else .fin neg (2 ^ f.frac + fr) (f.least + (ex - 1))
  else if bits % 2 ^ (f.width - 1) = 2 ^ (f.width - 1) - 1 then .nan false
  else if ex = 0 then .fin neg fr f.least
  else .fin neg (2 ^ f.frac + fr) (f.least + (ex - 1))

/-- Rounding modes of FRM (R165). -/
inductive RMode | rne | rtz | rup | rdn
  deriving DecidableEq, Repr

def RMode.ofBits (b : BitVec 2) : RMode :=
  match b.toNat with | 0 => .rne | 1 => .rtz | 2 => .rup | _ => .rdn

/-! The flags of FFL (R165). -/
def flagNV : BitVec 5 := 16
def flagDZ : BitVec 5 := 8
def flagOF : BitVec 5 := 4
def flagUF : BitVec 5 := 2
def flagNX : BitVec 5 := 1

def flagIf (p : Bool) (f : BitVec 5) : BitVec 5 := if p then f else 0

/-- Number of bits of a natural number. -/
def bitLen (m : Nat) : Nat := if m = 0 then 0 else Nat.log2 m + 1

/-- Whether a magnitude m × 2^e, more when `sticky`, rounds up to a multiple of 2^(e + sh). -/
def roundsUp (mode : RMode) (neg : Bool) (m sh : Nat) (sticky : Bool) : Bool :=
  let r := m % 2 ^ sh
  let inexact := decide (r ≠ 0) || sticky
  match mode with
  | .rtz => false
  | .rup => inexact && !neg
  | .rdn => inexact && neg
  | .rne =>
    sh ≠ 0 &&
    (decide (2 ^ (sh - 1) < r) ||
     (decide (r = 2 ^ (sh - 1)) && (sticky || decide (m / 2 ^ sh % 2 = 1))))

/-- Multiples of 2^q nearest below and the one delivered: (rounded multiple, inexact). A shift below
zero is exact. -/
def roundTo (mode : RMode) (neg : Bool) (m : Nat) (e q : Int) (sticky : Bool) : Nat × Bool :=
  if q ≤ e then (m * 2 ^ (e - q).toNat, sticky)
  else
    let sh := (q - e).toNat
    (m / 2 ^ sh + (if roundsUp mode neg m sh sticky then 1 else 0),
     decide (m % 2 ^ sh ≠ 0) || sticky)

/-- Round (R14, R165): the bits and flags of an exact real of magnitude m × 2^e, or between it and
(m + 1) × 2^e when `sticky`. A zero keeps the sign given. -/
def Fmt.round (f : Fmt) (mode : RMode) (neg : Bool) (m : Nat) (e : Int) (sticky : Bool) :
    Nat × BitVec 5 :=
  if m = 0 && !sticky then (f.sign neg, 0)
  else
    let top : Int := e + bitLen m - 1
    let q := max (top - f.frac) f.least
    let (n, inexact) := roundTo mode neg m e q sticky
    let bits := ((q - f.least) * 2 ^ f.frac + n).toNat
    let emin := f.least + f.frac
    let tiny := decide (top < emin) &&
      !(decide (top = emin - 1) &&
        decide ((roundTo mode neg m e (top - f.frac) sticky).1 = 2 ^ (f.frac + 1)))
    if f.maxBits < bits then
      let toInf := match mode with | .rne => true | .rtz => false | .rup => !neg | .rdn => neg
      (f.sign neg + (if f.inf && toInf then f.infBits else f.maxBits), flagOF ||| flagNX)
    else
      (f.sign neg + bits, flagIf inexact flagNX ||| flagIf (tiny && inexact) flagUF)

/-- A real rounded to an integer (R169, R171): the integer's magnitude, inexact. -/
def roundInt (mode : RMode) (neg : Bool) (m : Nat) (e : Int) (sticky : Bool) : Nat × Bool :=
  roundTo mode neg m e 0 sticky

/-- The exact sum of two dyadics: sign, magnitude, exponent. -/
def addExact (n1 : Bool) (m1 : Nat) (e1 : Int) (n2 : Bool) (m2 : Nat) (e2 : Int) : Int × Int :=
  let e := min e1 e2
  let a : Int := (m1 * 2 ^ (e1 - e).toNat : Nat)
  let b : Int := (m2 * 2 ^ (e2 - e).toNat : Nat)
  ((if n1 then -a else a) + (if n2 then -b else b), e)

/-- The canonical NaN with NV when asked. -/
def Fmt.invalid (f : Fmt) (nv : Bool) : Nat × BitVec 5 := (f.nan, flagIf nv flagNV)

def FVal.isNaN : FVal → Bool | .nan _ => true | _ => false
def FVal.isSNaN : FVal → Bool | .nan s => s | _ => false

/-- An exact signed integer times 2^e, rounded; an exact zero takes the sign of `zeroNeg`. -/
def Fmt.roundSigned (f : Fmt) (mode : RMode) (zeroNeg : Bool) (v e : Int) : Nat × BitVec 5 :=
  if v = 0 then (f.sign zeroNeg, 0) else f.round mode (decide (v < 0)) v.natAbs e false

/-- a + b (R167). -/
def Fmt.add (f : Fmt) (mode : RMode) (a b : FVal) : Nat × BitVec 5 :=
  match a, b with
  | .nan s, .nan r => f.invalid (s || r)
  | .nan s, _ => f.invalid s
  | _, .nan s => f.invalid s
  | .inf n, .inf k => if n = k then (f.sign n + f.infBits, 0) else f.invalid true
  | .inf n, .fin _ _ _ => (f.sign n + f.infBits, 0)
  | .fin _ _ _, .inf n => (f.sign n + f.infBits, 0)
  | .fin n1 m1 e1, .fin n2 m2 e2 =>
    let (v, e) := addExact n1 m1 e1 n2 m2 e2
    let zeroNeg := if m1 = 0 ∧ m2 = 0 ∧ n1 = n2 then n1 else mode = .rdn
    f.roundSigned mode zeroNeg v e

def FVal.neg : FVal → FVal
  | .nan s => .nan s
  | .inf n => .inf (!n)
  | .fin n m e => .fin (!n) m e

/-- The exact product, or none when it is invalid (0 × ∞); NaN operands are the caller's. -/
def mulExact (a b : FVal) : Option FVal :=
  match a, b with
  | .inf n, .inf k => some (.inf (n ≠ k))
  | .inf n, .fin k m _ | .fin k m _, .inf n => if m = 0 then none else some (.inf (n ≠ k))
  | .fin n m e, .fin k p d => some (.fin (n ≠ k) (m * p) (e + d))
  | _, _ => none

/-- a × b (R167). -/
def Fmt.mul (f : Fmt) (mode : RMode) (a b : FVal) : Nat × BitVec 5 :=
  if a.isNaN || b.isNaN then f.invalid (a.isSNaN || b.isSNaN)
  else
    match mulExact a b with
    | none => f.invalid true
    | some (.fin n m e) => f.round mode n m e false
    | some (.inf n) => (f.sign n + f.infBits, 0)
    | some (.nan s) => f.invalid s

/-- a × b + d, rounded once (R167). -/
def Fmt.fma (f : Fmt) (mode : RMode) (a b d : FVal) : Nat × BitVec 5 :=
  if a.isNaN || b.isNaN then f.invalid (a.isSNaN || b.isSNaN || d.isSNaN)
  else
    match mulExact a b with
    | none => f.invalid true
    | some p => f.add mode p d

/-- A strict order of numbers, with −0 below +0 when `zeros`. -/
def FVal.less (zeros : Bool) (a b : FVal) : Bool :=
  match a, b with
  | .nan _, _ | _, .nan _ => false
  | .inf n, .inf k => n && !k
  | .inf n, .fin _ _ _ => n
  | .fin _ _ _, .inf n => !n
  | .fin n1 m1 e1, .fin n2 m2 e2 =>
    let v := (addExact n1 m1 e1 (!n2) m2 e2).1
    decide (v < 0) || (zeros && decide (v = 0) && n1 && !n2)

def FVal.same (a b : FVal) : Bool := !a.isNaN && !b.isNaN && !a.less false b && !b.less false a

/-- minimumNumber and maximumNumber (R167), on bits. -/
def Fmt.pick (f : Fmt) (max : Bool) (a b : Nat) : Nat × BitVec 5 :=
  let x := f.value a
  let y := f.value b
  let nv := flagIf (x.isSNaN || y.isSNaN) flagNV
  if x.isNaN && y.isNaN then (f.nan, nv)
  else if x.isNaN then (b, nv)
  else if y.isNaN then (a, nv)
  else if x.less true y = max then (b, nv) else (a, nv)

/-- A format's value rounded into another: conversions, block formats (R165, R171). -/
def Fmt.ofValue (f : Fmt) (mode : RMode) (v : FVal) : Nat × BitVec 5 :=
  match v with
  | .nan s => f.invalid s
  | .inf n => if f.inf then (f.sign n + f.infBits, 0) else (f.sign n + f.maxBits, flagOF ||| flagNX)
  | .fin n m e => f.round mode n m e false

end Sys2Proof.Machine
end

