-- ==== Sys2Proof/Machine/Elementary.lean ====
section
/-! DEFINITION. The functions of `fun` (R169) on exact magnitudes: each gives m, e and `sticky`, so
that the exact real lies at m × 2^e or, when sticky, between it and the next; `Fmt.round` then rounds
once. The transcendental ones work in fixed point with 1,088 fraction bits (log 20). -/

namespace Sys2Proof.Machine

/-- A magnitude m × 2^e, or more when sticky. -/
structure Mag where
  m : Nat
  e : Int
  sticky : Bool
  deriving DecidableEq, Repr

/-- The integer square root, one bit at a time from bit `k` − 1 down. -/
def isqrtFrom (n : Nat) : Nat → Nat → Nat
  | 0, r => r
  | k + 1, r => isqrtFrom n k (if (r + 2 ^ k) * (r + 2 ^ k) ≤ n then r + 2 ^ k else r)

def isqrt (n : Nat) : Nat := isqrtFrom n (bitLen n / 2 + 1) 0

/-- √(m × 2^e). -/
def magSqrt (m : Nat) (e : Int) : Mag :=
  let odd := e % 2 ≠ 0
  let n := m * 2 ^ (if odd then 161 else 160)
  let e' := if odd then e - 161 else e - 160
  let r := isqrt n
  { m := r, e := e' / 2, sticky := r * r ≠ n }

/-- 1 / (m × 2^e). -/
def magRcp (m : Nat) (e : Int) : Mag :=
  let k := bitLen m + 100
  { m := 2 ^ k / m, e := -e - k, sticky := 2 ^ k % m ≠ 0 }

/-- 1 / √(m × 2^e). -/
def magRsq (m : Nat) (e : Int) : Mag :=
  let odd := e % 2 ≠ 0
  let n := if odd then 2 * m else m
  let e' := if odd then e - 1 else e
  let k := bitLen n + 100
  let r := isqrt (2 ^ (2 * k) / n)
  { m := r, e := -k - e' / 2, sticky := r * r * n ≠ 2 ^ (2 * k) }

/-! ## Fixed point -/

/-- Fraction bits. -/
def fxBits : Nat := 1088

def fxOne : Nat := 2 ^ fxBits

def fxMul (a b : Nat) : Nat := a * b / fxOne

/-- Σ over odd k of x^k / k, with the sign alternating when `alt`: atan and atanh. -/
def oddSeries (alt : Bool) (x2 : Nat) : Nat → Nat → Nat → Bool → Int
  | 0, _, _, _ => 0
  | n + 1, p, k, minus =>
    (if minus then -((p / k : Nat) : Int) else ((p / k : Nat) : Int)) +
      oddSeries alt x2 n (fxMul p x2) (k + 2) (alt && !minus)

def fxAtan (x : Nat) : Nat := (oddSeries true (fxMul x x) 400 x 1 false).toNat
def fxAtanh (x : Nat) : Nat := (oddSeries false (fxMul x x) 400 x 1 false).toNat

/-- ln 2 = 2 atanh (1/3). -/
def fxLn2 : Nat := 2 * fxAtanh (fxOne / 3)

/-- π = 16 atan (1/5) − 4 atan (1/239). -/
def fxPi : Nat := 16 * fxAtan (fxOne / 5) - 4 * fxAtan (fxOne / 239)

/-- Σ x^k / k!, from the term `p` of index k − 1. -/
def expSeries (x : Nat) : Nat → Nat → Nat → Nat
  | 0, p, _ => p
  | n + 1, p, k => p + expSeries x n (fxMul p x / k) (k + 1)

/-- e^x of a fixed-point x below 1. -/
def fxExp (x : Nat) : Nat := expSeries x 220 fxOne 1

/-- sin x = Σ ± x^(2k+1) / (2k+1)!, from the term `p` of index k. -/
def sinSeries (x2 : Nat) : Nat → Nat → Nat → Bool → Int
  | 0, _, _, _ => 0
  | n + 1, p, k, minus =>
    (if minus then -(p : Int) else (p : Int)) +
      sinSeries x2 n (fxMul p x2 / ((k + 1) * (k + 2))) (k + 2) (!minus)

/-- sin of a fixed-point x from 0 to π/2. -/
def fxSin (x : Nat) : Nat := (sinSeries (fxMul x x) 160 x 1 false).toNat

/-- m × 2^e as fixed point, rounded down. -/
def toFx (m : Nat) (e : Int) : Nat :=
  let k := e + fxBits
  if 0 ≤ k then m * 2 ^ k.toNat else m / 2 ^ (-k).toNat

/-- 2^(± m × 2^e), and whether it is exact; exponents beyond ±4,000 are as good as ±4,000. -/
def magExp2 (neg : Bool) (m : Nat) (e : Int) : Mag :=
  if m ≠ 0 ∧ 12 < e + bitLen m then { m := fxOne, e := (if neg then -4000 else 4000) - fxBits, sticky := true }
  else
    let v : Int := if neg then -(toFx m e : Int) else toFx m e
    let i := v / fxOne
    let f := (v % fxOne).toNat
    if f = 0 then { m := 1, e := i, sticky := false }
    else { m := fxExp (fxMul f fxLn2), e := i - fxBits, sticky := true }

/-- log2 (m × 2^e): its sign and magnitude. -/
def magLog2 (m : Nat) (e : Int) : Bool × Mag :=
  let top : Int := e + bitLen m - 1
  let y := toFx m (1 - bitLen m)
  if y = fxOne then (decide (top < 0), { m := top.natAbs, e := 0, sticky := false })
  else
    let z := (y - fxOne) * fxOne / (y + fxOne)
    let f := 2 * fxAtanh z * fxOne / fxLn2
    if 0 ≤ top then (false, { m := top.toNat * fxOne + f, e := -fxBits, sticky := true })
    else (true, { m := (-top).toNat * fxOne - f - 1, e := -fxBits, sticky := true })

/-- sin of π r for a fixed-point r from 0 to 1/2. -/
def magSinHalf (r : Nat) : Mag :=
  if r = 0 then { m := 0, e := 0, sticky := false }
  else if r = fxOne / 2 then { m := 1, e := 0, sticky := false }
  else { m := fxSin (fxMul fxPi r), e := -fxBits, sticky := true }

/-- m × 2^e modulo 2, as fixed point. -/
def modTwo (m : Nat) (e : Int) : Nat := if 1 ≤ e then 0 else toFx m e % (2 * fxOne)

/-- sin (π × m × 2^e): its sign and magnitude. -/
def magSinPi (m : Nat) (e : Int) : Bool × Mag :=
  let r := modTwo m e
  let (flip, r) := if fxOne ≤ r then (true, r - fxOne) else (false, r)
  (flip, magSinHalf (if fxOne / 2 < r then fxOne - r else r))

/-- cos (π × m × 2^e): its sign and magnitude; zero is +0. -/
def magCosPi (m : Nat) (e : Int) : Bool × Mag :=
  let r := modTwo m e
  let r := if fxOne < r then 2 * fxOne - r else r
  let (flip, r) := if fxOne / 2 < r then (true, fxOne - r) else (false, r)
  (flip, magSinHalf (fxOne / 2 - r))

/-- tanh (m × 2^e). -/
def magTanh (m : Nat) (e : Int) : Mag :=
  if m = 0 then { m := 0, e := 0, sticky := false }
  else if 8 < e + bitLen m then { m := fxOne - 1, e := -fxBits, sticky := true }
  else
    let y := 2 * toFx m e
    let n := y / fxLn2
    let x := fxExp (y % fxLn2) * 2 ^ n
    { m := (x - fxOne) * fxOne / (x + fxOne), e := -fxBits, sticky := true }

/-! ## The functions on values -/

/-- Round a magnitude with a sign. -/
def Fmt.roundMag (f : Fmt) (mode : RMode) (neg : Bool) (g : Mag) : Nat × BitVec 5 :=
  f.round mode neg g.m g.e g.sticky

/-- √a. -/
def Fmt.sqrt (f : Fmt) (mode : RMode) (a : FVal) : Nat × BitVec 5 :=
  match a with
  | .nan s => f.invalid s
  | .inf n => if n then f.invalid true else (f.infBits, 0)
  | .fin n m e =>
    if m = 0 then (f.sign n, 0)
    else if n then f.invalid true else f.roundMag mode false (magSqrt m e)

/-- 1 / a. -/
def Fmt.rcp (f : Fmt) (mode : RMode) (a : FVal) : Nat × BitVec 5 :=
  match a with
  | .nan s => f.invalid s
  | .inf n => (f.sign n, 0)
  | .fin n m e => if m = 0 then (f.sign n + f.infBits, flagDZ) else f.roundMag mode n (magRcp m e)

/-- 1 / √a. -/
def Fmt.rsq (f : Fmt) (mode : RMode) (a : FVal) : Nat × BitVec 5 :=
  match a with
  | .nan s => f.invalid s
  | .inf n => if n then f.invalid true else (0, 0)
  | .fin n m e =>
    if m = 0 then (f.sign n + f.infBits, flagDZ)
    else if n then f.invalid true else f.roundMag mode false (magRsq m e)

/-- 2^a. -/
def Fmt.exp2 (f : Fmt) (mode : RMode) (a : FVal) : Nat × BitVec 5 :=
  match a with
  | .nan s => f.invalid s
  | .inf n => if n then (0, 0) else (f.infBits, 0)
  | .fin n m e => f.roundMag mode false (magExp2 n m e)

/-- log2 a; 1 gives +0. -/
def Fmt.log2 (f : Fmt) (mode : RMode) (a : FVal) : Nat × BitVec 5 :=
  match a with
  | .nan s => f.invalid s
  | .inf n => if n then f.invalid true else (f.infBits, 0)
  | .fin n m e =>
    if m = 0 then (f.sign true + f.infBits, flagDZ)
    else if n then f.invalid true
    else
      let (neg, g) := magLog2 m e
      f.roundMag mode neg g

/-- sin (π a); an integral a gives a zero with the sign of a. -/
def Fmt.sinPi (f : Fmt) (mode : RMode) (a : FVal) : Nat × BitVec 5 :=
  match a with
  | .nan s => f.invalid s
  | .inf _ => f.invalid true
  | .fin n m e =>
    let (flip, g) := magSinPi m e
    if g.m = 0 && !g.sticky then (f.sign n, 0) else f.roundMag mode (n ≠ flip) g

/-- cos (π a); a zero result is +0. -/
def Fmt.cosPi (f : Fmt) (mode : RMode) (a : FVal) : Nat × BitVec 5 :=
  match a with
  | .nan s => f.invalid s
  | .inf _ => f.invalid true
  | .fin _ m e =>
    let (flip, g) := magCosPi m e
    if g.m = 0 && !g.sticky then (0, 0) else f.roundMag mode flip g

/-- tanh a. -/
def Fmt.tanh (f : Fmt) (mode : RMode) (a : FVal) : Nat × BitVec 5 :=
  match a with
  | .nan s => f.invalid s
  | .inf n => f.round mode n 1 0 false
  | .fin n m e => if m = 0 then (f.sign n, 0) else f.roundMag mode n (magTanh m e)

/-- Rounding to an integral value (R169): NX only when `raise`. -/
def Fmt.integral (f : Fmt) (mode : RMode) (raise : Bool) (a : FVal) : Nat × BitVec 5 :=
  match a with
  | .nan s => f.invalid s
  | .inf n => (f.sign n + f.infBits, 0)
  | .fin n m e =>
    let (k, inexact) := roundInt mode n m e false
    ((f.round .rne n k 0 false).1, flagIf (raise && inexact) flagNX)

/-- The class bit (R169). -/
def Fmt.classBit (f : Fmt) (a : FVal) : Nat :=
  match a with
  | .nan s => if s then 8 else 9
  | .inf n => if n then 0 else 7
  | .fin n m _ =>
    if m = 0 then (if n then 3 else 4)
    else if m < 2 ^ f.frac then (if n then 2 else 5)
    else (if n then 1 else 6)

end Sys2Proof.Machine
end

