-- ==== Sys2Proof/Machine/LaneInt.lean ====
section
/-! DEFINITION. Lane integer arithmetic and logic, opcodes 0x01–0x24 (R157–R162). -/

namespace Sys2Proof.Machine

/-! ## Element operations on w bits: operand a, operand b, the old element -/

/-- An operation on one element. -/
abbrev ElementOp := (w : Nat) → BitVec w → BitVec w → BitVec w → BitVec w

/-- An integer as w bits, saturated to the signed range (R159). -/
def satS (w : Nat) (i : Int) : BitVec w := BitVec.ofInt w (max (-(2 ^ (w - 1))) (min (2 ^ (w - 1) - 1) i))

/-- An integer as w bits, saturated to the unsigned range (R159). -/
def satU (w : Nat) (i : Int) : BitVec w := BitVec.ofInt w (max 0 (min (2 ^ w - 1) i))

/-- All ones or zero (R159). -/
def allIf (w : Nat) (p : Bool) : BitVec w := if p then BitVec.allOnes w else 0

/-- A shift amount: the low log2 w bits (R159). -/
def shiftBy (w n : Nat) : Nat := n % w

def elAdd : ElementOp := fun _ a b _ => a + b
def elSub : ElementOp := fun _ a b _ => a - b
def elMul : ElementOp := fun _ a b _ => a * b
def elMulhs : ElementOp := fun w a b _ => BitVec.ofInt w (a.toInt * b.toInt / 2 ^ w)
def elMulhu : ElementOp := fun w a b _ => BitVec.ofNat w (a.toNat * b.toNat / 2 ^ w)
def elMad : ElementOp := fun _ a b d => a * b + d
def elMins : ElementOp := fun _ a b _ => if a.toInt ≤ b.toInt then a else b
def elMinu : ElementOp := fun _ a b _ => if a.toNat ≤ b.toNat then a else b
def elMaxs : ElementOp := fun _ a b _ => if a.toInt ≤ b.toInt then b else a
def elMaxu : ElementOp := fun _ a b _ => if a.toNat ≤ b.toNat then b else a
def elAnd : ElementOp := fun _ a b _ => a &&& b
def elOr : ElementOp := fun _ a b _ => a ||| b
def elXor : ElementOp := fun _ a b _ => a ^^^ b
def elShl : ElementOp := fun w a b _ => a <<< shiftBy w b.toNat
def elShru : ElementOp := fun w a b _ => a >>> shiftBy w b.toNat
def elShrs : ElementOp := fun w a b _ => a.sshiftRight (shiftBy w b.toNat)
def elAddss : ElementOp := fun w a b _ => satS w (a.toInt + b.toInt)
def elAddus : ElementOp := fun w a b _ => satU w (a.toNat + b.toNat)
def elSubss : ElementOp := fun w a b _ => satS w (a.toInt - b.toInt)
def elSubus : ElementOp := fun w a b _ => satU w ((a.toNat : Int) - b.toNat)
def elCeq : ElementOp := fun w a b _ => allIf w (a = b)
def elCne : ElementOp := fun w a b _ => allIf w (a ≠ b)
def elClts : ElementOp := fun w a b _ => allIf w (a.toInt < b.toInt)
def elCltu : ElementOp := fun w a b _ => allIf w (a.toNat < b.toNat)
def elCles : ElementOp := fun w a b _ => allIf w (a.toInt ≤ b.toInt)
def elCleu : ElementOp := fun w a b _ => allIf w (a.toNat ≤ b.toNat)
def elBsel : ElementOp := fun _ a b d => (d &&& a) ||| (~~~d &&& b)

/-! Unary operations (R160). -/

/-- Set bits among the low n bits. -/
def countBits {w : Nat} (a : BitVec w) : Nat → Nat
  | 0 => 0
  | n + 1 => (if a.getLsbD n then 1 else 0) + countBits a n

/-- Zero bits above the highest set bit among the low n. -/
def leadingZeros {w : Nat} (a : BitVec w) : Nat → Nat
  | 0 => 0
  | n + 1 => if a.getLsbD n then 0 else 1 + leadingZeros a n

/-- Zero bits below the lowest set bit, looking at `n` bits from bit `k`. -/
def trailingZeros {w : Nat} (a : BitVec w) : Nat → Nat → Nat
  | 0, _ => 0
  | n + 1, k => if a.getLsbD k then 0 else 1 + trailingZeros a n (k + 1)

/-- Bit i of the result is bit w − 1 − i, built from the top down. -/
def reverseBits {w : Nat} (a : BitVec w) : Nat → BitVec w
  | 0 => 0
  | n + 1 => (if a.getLsbD n then BitVec.ofNat w (2 ^ (w - 1 - n)) else 0) ||| reverseBits a n

/-- Byte i of the result is byte w/8 − 1 − i. -/
def reverseBytes {w : Nat} (a : BitVec w) : Nat → BitVec w
  | 0 => 0
  | n + 1 =>
    BitVec.ofNat w (a.toNat / 2 ^ (8 * n) % 256 * 2 ^ (w - 8 - 8 * n)) ||| reverseBytes a n

def elNot : ElementOp := fun _ a _ _ => ~~~a
def elNeg : ElementOp := fun _ a _ _ => -a
def elAbs : ElementOp := fun _ a _ _ => if a.msb then -a else a
def elPopc : ElementOp := fun w a _ _ => BitVec.ofNat w (countBits a w)
def elClz : ElementOp := fun w a _ _ => BitVec.ofNat w (leadingZeros a w)
def elCtz : ElementOp := fun w a _ _ => BitVec.ofNat w (trailingZeros a w 0)
def elBrev : ElementOp := fun w a _ _ => reverseBits a w
def elBswap : ElementOp := fun w a _ _ => reverseBytes a (w / 8)

/-! ## Whole registers -/

/-- An element operation applied to every element of the type. -/
def eachElement (w : Nat) (op : ElementOp) (a b d : W64) : W64 :=
  packElements w ((subs (64 / w)).map fun k =>
    (op w (BitVec.ofNat w (element w a k)) (BitVec.ofNat w (element w b k))
      (BitVec.ofNat w (element w d k))).toNat)

/-- A lane integer result: every element computed, the enabled ones written, no flag (R157). -/
def intAlu (t : IntTy) (op : ElementOp) : Lane → W64 → W64 → W64 → AluResult := fun l a b d =>
  let w := intWidth t
  { val := eachElement w op a b d, mask := enabledMask w (64 / w) l.emask, flags := 0 }

/-- A two-source integer instruction (R159). -/
def intBinary (i : Instr) (t : IntTy) (d : LDst) (a : LSrc) (b : LOpB) (op : ElementOp) (s : State) : Out :=
  laneAlu i s (intWidth t) d (some a) (some b) laneIntLatency false (intAlu t op)

/-- A one-source integer instruction (R160). -/
def intUnary (i : Instr) (t : IntTy) (d : LDst) (a : LSrc) (op : ElementOp) (s : State) : Out :=
  laneAlu i s (intWidth t) d (some a) none laneIntLatency false (intAlu t op)

/-- An instruction with an 8-bit immediate, sign-extended to the element width (R161). -/
def intImm (i : Instr) (t : IntTy) (d : LDst) (a : LSrc) (imm : BitVec 8) (op : ElementOp) (s : State) : Out :=
  laneAlu i s (intWidth t) d (some a) none laneIntLatency false fun l x _ o =>
    intAlu t (fun w p _ q => op w p (imm.signExtend w) q) l x 0 o

/-! ## Meanings -/

/-- `add` (R159). -/
def execAdd (t : IntTy) (d : LDst) (a : LSrc) (b : LOpB) (s : State) : Out :=
  intBinary (.add t d a b) t d a b elAdd s

/-- `sub` (R159). -/
def execSub (t : IntTy) (d : LDst) (a : LSrc) (b : LOpB) (s : State) : Out :=
  intBinary (.sub t d a b) t d a b elSub s

/-- `mul` (R159). -/
def execMul (t : IntTy) (d : LDst) (a : LSrc) (b : LOpB) (s : State) : Out :=
  intBinary (.mul t d a b) t d a b elMul s

/-- `mulhs` (R159). -/
def execMulhs (t : IntTy) (d : LDst) (a : LSrc) (b : LOpB) (s : State) : Out :=
  intBinary (.mulhs t d a b) t d a b elMulhs s

/-- `mulhu` (R159). -/
def execMulhu (t : IntTy) (d : LDst) (a : LSrc) (b : LOpB) (s : State) : Out :=
  intBinary (.mulhu t d a b) t d a b elMulhu s

/-- `mad` (R159). -/
def execMad (t : IntTy) (d : LDst) (a : LSrc) (b : LOpB) (s : State) : Out :=
  intBinary (.mad t d a b) t d a b elMad s

/-- `mins` (R159). -/
def execMins (t : IntTy) (d : LDst) (a : LSrc) (b : LOpB) (s : State) : Out :=
  intBinary (.mins t d a b) t d a b elMins s

/-- `minu` (R159). -/
def execMinu (t : IntTy) (d : LDst) (a : LSrc) (b : LOpB) (s : State) : Out :=
  intBinary (.minu t d a b) t d a b elMinu s

/-- `maxs` (R159). -/
def execMaxs (t : IntTy) (d : LDst) (a : LSrc) (b : LOpB) (s : State) : Out :=
  intBinary (.maxs t d a b) t d a b elMaxs s

/-- `maxu` (R159). -/
def execMaxu (t : IntTy) (d : LDst) (a : LSrc) (b : LOpB) (s : State) : Out :=
  intBinary (.maxu t d a b) t d a b elMaxu s

/-- `and` (R159). -/
def execAnd (t : IntTy) (d : LDst) (a : LSrc) (b : LOpB) (s : State) : Out :=
  intBinary (.and t d a b) t d a b elAnd s

/-- `or` (R159). -/
def execOr (t : IntTy) (d : LDst) (a : LSrc) (b : LOpB) (s : State) : Out :=
  intBinary (.or t d a b) t d a b elOr s

/-- `xor` (R159). -/
def execXor (t : IntTy) (d : LDst) (a : LSrc) (b : LOpB) (s : State) : Out :=
  intBinary (.xor t d a b) t d a b elXor s

/-- `shl` (R159). -/
def execShl (t : IntTy) (d : LDst) (a : LSrc) (b : LOpB) (s : State) : Out :=
  intBinary (.shl t d a b) t d a b elShl s

/-- `shru` (R159). -/
def execShru (t : IntTy) (d : LDst) (a : LSrc) (b : LOpB) (s : State) : Out :=
  intBinary (.shru t d a b) t d a b elShru s

/-- `shrs` (R159). -/
def execShrs (t : IntTy) (d : LDst) (a : LSrc) (b : LOpB) (s : State) : Out :=
  intBinary (.shrs t d a b) t d a b elShrs s

/-- `addss` (R159). -/
def execAddss (t : IntTy) (d : LDst) (a : LSrc) (b : LOpB) (s : State) : Out :=
  intBinary (.addss t d a b) t d a b elAddss s

/-- `addus` (R159). -/
def execAddus (t : IntTy) (d : LDst) (a : LSrc) (b : LOpB) (s : State) : Out :=
  intBinary (.addus t d a b) t d a b elAddus s

/-- `subss` (R159). -/
def execSubss (t : IntTy) (d : LDst) (a : LSrc) (b : LOpB) (s : State) : Out :=
  intBinary (.subss t d a b) t d a b elSubss s

/-- `subus` (R159). -/
def execSubus (t : IntTy) (d : LDst) (a : LSrc) (b : LOpB) (s : State) : Out :=
  intBinary (.subus t d a b) t d a b elSubus s

/-- `ceq` (R159). -/
def execCeq (t : IntTy) (d : LDst) (a : LSrc) (b : LOpB) (s : State) : Out :=
  intBinary (.ceq t d a b) t d a b elCeq s

/-- `cne` (R159). -/
def execCne (t : IntTy) (d : LDst) (a : LSrc) (b : LOpB) (s : State) : Out :=
  intBinary (.cne t d a b) t d a b elCne s

/-- `clts` (R159). -/
def execClts (t : IntTy) (d : LDst) (a : LSrc) (b : LOpB) (s : State) : Out :=
  intBinary (.clts t d a b) t d a b elClts s

/-- `cltu` (R159). -/
def execCltu (t : IntTy) (d : LDst) (a : LSrc) (b : LOpB) (s : State) : Out :=
  intBinary (.cltu t d a b) t d a b elCltu s

/-- `cles` (R159). -/
def execCles (t : IntTy) (d : LDst) (a : LSrc) (b : LOpB) (s : State) : Out :=
  intBinary (.cles t d a b) t d a b elCles s

/-- `cleu` (R159). -/
def execCleu (t : IntTy) (d : LDst) (a : LSrc) (b : LOpB) (s : State) : Out :=
  intBinary (.cleu t d a b) t d a b elCleu s

/-- `bsel` (R159). -/
def execBsel (t : IntTy) (d : LDst) (a : LSrc) (b : LOpB) (s : State) : Out :=
  intBinary (.bsel t d a b) t d a b elBsel s

/-- `not` (R160). -/
def execNot (t : IntTy) (d : LDst) (a : LSrc) (s : State) : Out := intUnary (.not t d a) t d a elNot s

/-- `neg` (R160). -/
def execNeg (t : IntTy) (d : LDst) (a : LSrc) (s : State) : Out := intUnary (.neg t d a) t d a elNeg s

/-- `abs` (R160). -/
def execAbs (t : IntTy) (d : LDst) (a : LSrc) (s : State) : Out := intUnary (.abs t d a) t d a elAbs s

/-- `popc` (R160). -/
def execPopc (t : IntTy) (d : LDst) (a : LSrc) (s : State) : Out := intUnary (.popc t d a) t d a elPopc s

/-- `clz` (R160). -/
def execClz (t : IntTy) (d : LDst) (a : LSrc) (s : State) : Out := intUnary (.clz t d a) t d a elClz s

/-- `ctz` (R160). -/
def execCtz (t : IntTy) (d : LDst) (a : LSrc) (s : State) : Out := intUnary (.ctz t d a) t d a elCtz s

/-- `brev` (R160). -/
def execBrev (t : IntTy) (d : LDst) (a : LSrc) (s : State) : Out := intUnary (.brev t d a) t d a elBrev s

/-- `bswap` (R160). -/
def execBswap (t : IntTy) (d : LDst) (a : LSrc) (s : State) : Out := intUnary (.bswap t d a) t d a elBswap s

/-- `addi` (R161). -/
def execAddi (t : IntTy) (d : LDst) (a : LSrc) (i : BitVec 8) (s : State) : Out :=
  intImm (.addi t d a i) t d a i elAdd s

/-- `andi` (R161). -/
def execAndi (t : IntTy) (d : LDst) (a : LSrc) (i : BitVec 8) (s : State) : Out :=
  intImm (.andi t d a i) t d a i elAnd s

/-- `ori` (R161). -/
def execOri (t : IntTy) (d : LDst) (a : LSrc) (i : BitVec 8) (s : State) : Out :=
  intImm (.ori t d a i) t d a i elOr s

/-- `xori` (R161). -/
def execXori (t : IntTy) (d : LDst) (a : LSrc) (i : BitVec 8) (s : State) : Out :=
  intImm (.xori t d a i) t d a i elXor s

/-- `shli` (R161). -/
def execShli (t : IntTy) (d : LDst) (a : LSrc) (i : BitVec 8) (s : State) : Out :=
  intImm (.shli t d a i) t d a i elShl s

/-- `shrui` (R161). -/
def execShrui (t : IntTy) (d : LDst) (a : LSrc) (i : BitVec 8) (s : State) : Out :=
  intImm (.shrui t d a i) t d a i elShru s

/-- `shrsi` (R161). -/
def execShrsi (t : IntTy) (d : LDst) (a : LSrc) (i : BitVec 8) (s : State) : Out :=
  intImm (.shrsi t d a i) t d a i elShrs s

/-- `movi` (R162): the low w bits of the sign-extended immediate, in every enabled element. -/
def execMovi (t : IntTy) (d : LDst) (i : BitVec 15) (s : State) : Out :=
  laneAlu (.movi t d i) s (intWidth t) d none none laneIntLatency false fun l _ _ o =>
    intAlu t (fun w _ _ _ => BitVec.ofInt w i.toInt) l 0 0 o

end Sys2Proof.Machine
end

