-- ==== Sys2Proof/Machine/LaneFp.lean ====
section
/-! DEFINITION. Lane floating-point arithmetic, compares, `fun` and `cvt`, opcodes 0x25–0x30
(R163–R172). -/

namespace Sys2Proof.Machine

/-- An operation on one element: operand a, operand b, the old element; the result and its flags. -/
abbrev FpOp := Fmt → RMode → Nat → Nat → Nat → Nat × BitVec 5

/-- Flags raised by the enabled sub-elements (R157, R166). -/
def raised (emask : BitVec 8) (n : Nat) (f : Nat → BitVec 5) : BitVec 5 :=
  (subs n).foldl (fun a k => if emask.getLsbD k then a ||| f k else a) 0

/-- A lane floating-point result: every element computed, the enabled ones written (R157). -/
def fpAlu (t : FpTy) (op : FpOp) : Lane → W64 → W64 → W64 → AluResult := fun l a b d =>
  let f := fmtOf t
  let w := f.width
  let n := 64 / w
  let r (k : Nat) := op f (RMode.ofBits l.frm) (element w a k) (element w b k) (element w d k)
  { val := packElements w ((subs n).map fun k => (r k).1),
    mask := enabledMask w n l.emask,
    flags := raised l.emask n fun k => (r k).2 }

/-- Latency of the lane FP class (R83). -/
def laneFpLatency : Nat := 6

/-- Latency of the lane transcendental class (R83, R170). -/
def transcendentalLatency : Nat := 14

/-- A two-source floating-point instruction (R167, R168). -/
def fpBinary (i : Instr) (t : FpTy) (d : LDst) (a : LSrc) (b : LOpB) (op : FpOp) (s : State) : Out :=
  laneAlu i s (fpWidth t) d (some a) (some b) laneFpLatency true (fpAlu t op)

/-- A subop of `fun` (R169). -/
def fpUnary (i : Instr) (t : FpTy) (d : LDst) (a : LSrc) (latency : Nat) (op : FpOp) (s : State) : Out :=
  laneAlu i s (fpWidth t) d (some a) none latency true (fpAlu t op)

/-! ## Element operations -/

def elFadd : FpOp := fun f m a b _ => f.add m (f.value a) (f.value b)
def elFsub : FpOp := fun f m a b _ => f.add m (f.value a) (f.value b).neg
def elFmul : FpOp := fun f m a b _ => f.mul m (f.value a) (f.value b)
def elFfma : FpOp := fun f m a b d => f.fma m (f.value a) (f.value b) (f.value d)
def elFmin : FpOp := fun f _ a b _ => f.pick false a b
def elFmax : FpOp := fun f _ a b _ => f.pick true a b

/-- All ones of the format, or zero (R168). -/
def Fmt.allIf (f : Fmt) (p : Bool) : Nat := if p then 2 ^ f.width - 1 else 0

/-- NV for a signalling NaN operand (R168). -/
def quietNv (x y : FVal) : BitVec 5 := flagIf (x.isSNaN || y.isSNaN) flagNV

/-- NV for any NaN operand (R168). -/
def anyNv (x y : FVal) : BitVec 5 := flagIf (x.isNaN || y.isNaN) flagNV

def elFceq : FpOp := fun f _ a b _ =>
  (f.allIf ((f.value a).same (f.value b)), quietNv (f.value a) (f.value b))
def elFclt : FpOp := fun f _ a b _ =>
  (f.allIf ((f.value a).less false (f.value b)), anyNv (f.value a) (f.value b))
def elFcle : FpOp := fun f _ a b _ =>
  let x := f.value a
  let y := f.value b
  (f.allIf (x.less false y || x.same y), anyNv x y)
def elFcun : FpOp := fun f _ a b _ =>
  let x := f.value a
  let y := f.value b
  (f.allIf (x.isNaN || y.isNaN), quietNv x y)

/-- The bits with the sign given, or the canonical NaN (R164, R169). -/
def signTo (f : Fmt) (neg : Bool) (a : Nat) : Nat :=
  if (f.value a).isNaN then f.nan else a % 2 ^ (f.width - 1) + f.sign neg

def elFneg : FpOp := fun f _ a _ _ => (signTo f (decide (a / 2 ^ (f.width - 1) % 2 = 0)) a, 0)
def elFabs : FpOp := fun f _ a _ _ => (signTo f false a, 0)
def elFsqrt : FpOp := fun f m a _ _ => f.sqrt m (f.value a)
def elFrcp : FpOp := fun f m a _ _ => f.rcp m (f.value a)
def elFrsq : FpOp := fun f m a _ _ => f.rsq m (f.value a)
def elFexp2 : FpOp := fun f m a _ _ => f.exp2 m (f.value a)
def elFlog2 : FpOp := fun f m a _ _ => f.log2 m (f.value a)
def elFsinpi : FpOp := fun f m a _ _ => f.sinPi m (f.value a)
def elFcospi : FpOp := fun f m a _ _ => f.cosPi m (f.value a)
def elFtanh : FpOp := fun f m a _ _ => f.tanh m (f.value a)
def elFfloor : FpOp := fun f _ a _ _ => f.integral .rdn false (f.value a)
def elFceil : FpOp := fun f _ a _ _ => f.integral .rup false (f.value a)
def elFtrunc : FpOp := fun f _ a _ _ => f.integral .rtz false (f.value a)
def elFrint : FpOp := fun f m a _ _ => f.integral m true (f.value a)
def elFclass : FpOp := fun f _ a _ _ => (2 ^ f.classBit (f.value a), 0)

/-! ## Conversion (R171) -/

/-- The format of a floating-point type code; integer codes have none. -/
def elFmt : ElTy → Option Fmt
  | .f32 => some fmtF32
  | .f16 => some fmtF16
  | .bf16 => some fmtBf16
  | .f8 => some fmtE4M3
  | .i8 | .i16 | .i32 | .i64 => none

/-- An integer saturated to w bits, signed or not. -/
def satInt (w : Nat) (signed : Bool) (i : Int) : Nat :=
  let lo : Int := if signed then -(2 ^ (w - 1)) else 0
  let hi : Int := if signed then 2 ^ (w - 1) - 1 else 2 ^ w - 1
  (max lo (min hi i) % 2 ^ w).toNat

/-- A value converted to an integer of w bits (R171). -/
def toInteger (w : Nat) (signed : Bool) (mode : RMode) (v : FVal) : Nat × BitVec 5 :=
  match v with
  | .nan _ => (0, flagNV)
  | .inf n => (satInt w signed (if n then -(2 ^ 70) else 2 ^ 70), flagNV)
  | .fin n m e =>
    let (k, inexact) := roundInt mode n m e false
    let i : Int := if n then -(k : Int) else k
    let r := satInt w signed i
    let back : Int := if signed && decide (2 ^ (w - 1) ≤ r) then (r : Int) - 2 ^ w else r
    if back = i then (r, flagIf inexact flagNX) else (r, flagNV)

/-- One element converted (R171). -/
def convert (st : ElTy) (ssgn : Bool) (dt : ElTy) (dsgn : Bool) (mode : RMode) (a : Nat) : Nat × BitVec 5 :=
  let ws := elWidth st
  match elFmt st, elFmt dt with
  | none, none =>
    let i : Int := if ssgn && decide (2 ^ (ws - 1) ≤ a) then (a : Int) - 2 ^ ws else a
    (satInt (elWidth dt) dsgn i, 0)
  | none, some f =>
    let i : Int := if ssgn && decide (2 ^ (ws - 1) ≤ a) then (a : Int) - 2 ^ ws else a
    f.roundSigned mode false i 0
  | some g, none => toInteger (elWidth dt) dsgn mode (g.value a)
  | some g, some f => f.ofValue mode (g.value a)

/-- The rounding mode of a `cvt` word (R41). -/
def cvtMode (frm : BitVec 2) : CvtMode → RMode
  | .frm => RMode.ofBits frm
  | .rne => .rne
  | .rtz => .rtz
  | .rdn => .rdn

/-- The result of `cvt` in one thread (R171): the low m elements converted, the enabled ones above
them zero. -/
def cvtAlu (dt st : ElTy) (ssgn dsgn : Bool) (r : CvtMode) : Lane → W64 → W64 → W64 → AluResult :=
  fun l a _ _ =>
    let wd := elWidth dt
    let nd := 64 / wd
    let m := min (64 / elWidth st) nd
    let c (k : Nat) : Nat × BitVec 5 :=
      if k < m then convert st ssgn dt dsgn (cvtMode l.frm r) (element (elWidth st) a k) else (0, 0)
    { val := packElements wd ((subs nd).map fun k => (c k).1),
      mask := enabledMask wd nd l.emask,
      flags := raised l.emask nd fun k => (c k).2 }

/-! ## Meanings -/

/-- `fadd` (R167). -/
def execFadd (t : FpTy) (d : LDst) (a : LSrc) (b : LOpB) (s : State) : Out :=
  fpBinary (.fadd t d a b) t d a b elFadd s

/-- `fsub` (R167). -/
def execFsub (t : FpTy) (d : LDst) (a : LSrc) (b : LOpB) (s : State) : Out :=
  fpBinary (.fsub t d a b) t d a b elFsub s

/-- `fmul` (R167). -/
def execFmul (t : FpTy) (d : LDst) (a : LSrc) (b : LOpB) (s : State) : Out :=
  fpBinary (.fmul t d a b) t d a b elFmul s

/-- `ffma` (R167). -/
def execFfma (t : FpTy) (d : LDst) (a : LSrc) (b : LOpB) (s : State) : Out :=
  fpBinary (.ffma t d a b) t d a b elFfma s

/-- `fmin` (R167). -/
def execFmin (t : FpTy) (d : LDst) (a : LSrc) (b : LOpB) (s : State) : Out :=
  fpBinary (.fmin t d a b) t d a b elFmin s

/-- `fmax` (R167). -/
def execFmax (t : FpTy) (d : LDst) (a : LSrc) (b : LOpB) (s : State) : Out :=
  fpBinary (.fmax t d a b) t d a b elFmax s

/-- `fceq` (R168). -/
def execFceq (t : FpTy) (d : LDst) (a : LSrc) (b : LOpB) (s : State) : Out :=
  fpBinary (.fceq t d a b) t d a b elFceq s

/-- `fclt` (R168). -/
def execFclt (t : FpTy) (d : LDst) (a : LSrc) (b : LOpB) (s : State) : Out :=
  fpBinary (.fclt t d a b) t d a b elFclt s

/-- `fcle` (R168). -/
def execFcle (t : FpTy) (d : LDst) (a : LSrc) (b : LOpB) (s : State) : Out :=
  fpBinary (.fcle t d a b) t d a b elFcle s

/-- `fcun` (R168). -/
def execFcun (t : FpTy) (d : LDst) (a : LSrc) (b : LOpB) (s : State) : Out :=
  fpBinary (.fcun t d a b) t d a b elFcun s

/-- `fneg` (R169). -/
def execFneg (t : FpTy) (d : LDst) (a : LSrc) (s : State) : Out :=
  fpUnary (.fneg t d a) t d a laneFpLatency elFneg s

/-- `fabs` (R169). -/
def execFabs (t : FpTy) (d : LDst) (a : LSrc) (s : State) : Out :=
  fpUnary (.fabs t d a) t d a laneFpLatency elFabs s

/-- `fsqrt` (R169). -/
def execFsqrt (t : FpTy) (d : LDst) (a : LSrc) (s : State) : Out :=
  fpUnary (.fsqrt t d a) t d a transcendentalLatency elFsqrt s

/-- `frcp` (R169). -/
def execFrcp (t : FpTy) (d : LDst) (a : LSrc) (s : State) : Out :=
  fpUnary (.frcp t d a) t d a transcendentalLatency elFrcp s

/-- `frsq` (R169). -/
def execFrsq (t : FpTy) (d : LDst) (a : LSrc) (s : State) : Out :=
  fpUnary (.frsq t d a) t d a transcendentalLatency elFrsq s

/-- `fexp2` (R169). -/
def execFexp2 (t : FpTy) (d : LDst) (a : LSrc) (s : State) : Out :=
  fpUnary (.fexp2 t d a) t d a transcendentalLatency elFexp2 s

/-- `flog2` (R169). -/
def execFlog2 (t : FpTy) (d : LDst) (a : LSrc) (s : State) : Out :=
  fpUnary (.flog2 t d a) t d a transcendentalLatency elFlog2 s

/-- `fsinpi` (R169). -/
def execFsinpi (t : FpTy) (d : LDst) (a : LSrc) (s : State) : Out :=
  fpUnary (.fsinpi t d a) t d a transcendentalLatency elFsinpi s

/-- `fcospi` (R169). -/
def execFcospi (t : FpTy) (d : LDst) (a : LSrc) (s : State) : Out :=
  fpUnary (.fcospi t d a) t d a transcendentalLatency elFcospi s

/-- `ftanh` (R169). -/
def execFtanh (t : FpTy) (d : LDst) (a : LSrc) (s : State) : Out :=
  fpUnary (.ftanh t d a) t d a transcendentalLatency elFtanh s

/-- `ffloor` (R169). -/
def execFfloor (t : FpTy) (d : LDst) (a : LSrc) (s : State) : Out :=
  fpUnary (.ffloor t d a) t d a laneFpLatency elFfloor s

/-- `fceil` (R169). -/
def execFceil (t : FpTy) (d : LDst) (a : LSrc) (s : State) : Out :=
  fpUnary (.fceil t d a) t d a laneFpLatency elFceil s

/-- `ftrunc` (R169). -/
def execFtrunc (t : FpTy) (d : LDst) (a : LSrc) (s : State) : Out :=
  fpUnary (.ftrunc t d a) t d a laneFpLatency elFtrunc s

/-- `frint` (R169). -/
def execFrint (t : FpTy) (d : LDst) (a : LSrc) (s : State) : Out :=
  fpUnary (.frint t d a) t d a laneFpLatency elFrint s

/-- `fclass` (R169). -/
def execFclass (t : FpTy) (d : LDst) (a : LSrc) (s : State) : Out :=
  fpUnary (.fclass t d a) t d a laneFpLatency elFclass s

/-- `cvt` (R171). -/
def execCvt (dt : ElTy) (d : LDst) (a : LSrc) (st : ElTy) (ssgn : Bool) (r : CvtMode) (dsgn : Bool)
    (s : State) : Out :=
  laneAlu (.cvt dt d a st ssgn r dsgn) s (elWidth st) d (some a) none laneFpLatency true
    (cvtAlu dt st ssgn dsgn r)

end Sys2Proof.Machine
end

