-- ==== Sys2Proof/Machine/Shake.lean ====
section
/-! DEFINITION. SHAKE256, which the security engine computes (R302): Keccak-f[1600] with a rate of 136
bytes, as FIPS 202 defines it (PRESUMED: the manual names the function and gives no text of it). -/

namespace Sys2Proof.Machine

/-- The lane at row y and column x, where both count modulo 5. -/
def sheetLane (a : Vector W64 25) (x y : Nat) : W64 := a.getD (y % 5 * 5 + x % 5) 0

/-- θ: each lane takes up the parities of the column on its left and of the one on its right turned by
one bit. -/
def mixColumns (a : Vector W64 25) : Vector W64 25 :=
  let parity (x : Nat) : W64 := (List.range 5).foldl (fun w y => w ^^^ sheetLane a x y) 0
  let effect := (List.range 5).map fun x => parity (x + 4) ^^^ (parity (x + 1)).rotateLeft 1
  Vector.ofFn fun i => a[i] ^^^ effect.getD (i.val % 5) 0

/-- ρ and π together: the lanes but the first lie on one cycle that starts at column 1 of row 0 and goes
from (x, y) to (y, 2x + 3y). Each lane moves to the next place of the cycle, and the one that moves
k-th is turned by the k-th triangular number. -/
def stirLanes (a : Vector W64 25) : Vector W64 25 :=
  ((List.range 24).foldl (fun (o : Vector W64 25 × Nat × Nat) t =>
    let (b, x, y) := o
    let y' := (2 * x + 3 * y) % 5
    (b.setIfInBounds (5 * y' + y) ((sheetLane a x y).rotateLeft ((t + 1) * (t + 2) / 2 % 64)), y, y'))
    (a, 1, 0)).1

/-- χ: in its row, each lane takes up the second lane on its right where the first is clear. -/
def bendRows (a : Vector W64 25) : Vector W64 25 :=
  Vector.ofFn fun i =>
    let lane (k : Nat) := sheetLane a (i.val + k) (i.val / 5)
    lane 0 ^^^ (lane 2 &&& ~~~ lane 1)

/-- The shift register that ι draws its bits from: multiplication by x modulo
x⁸ + x⁶ + x⁵ + x⁴ + 1. -/
def drawNext (r : Nat) : Nat := if r < 128 then 2 * r else (2 * r) ^^^ 0x171

/-- The word ι adds in a round that finds the register at r, and the register after it: seven bits are
drawn, the j-th for bit 2^j − 1. -/
def drawWord (r : Nat) : W64 × Nat :=
  (List.range 7).foldl (fun (w, r) j => (w ||| n64 (r % 2 * 2 ^ (2 ^ j - 1)), drawNext r)) (0, r)

/-- A round of the permutation, with the register that its constant is drawn from. -/
def spongeRound (a : Vector W64 25) (r : Nat) : Vector W64 25 × Nat :=
  let b := bendRows (stirLanes (mixColumns a))
  let (w, r) := drawWord r
  (b.set 0 (b[0] ^^^ w), r)

/-- Keccak-f[1600]: 24 rounds. -/
def keccak (a : Vector W64 25) : Vector W64 25 :=
  ((List.range 24).foldl (fun (a, r) _ => spongeRound a r) (a, 1)).1

/-- A lane of the sponge changed by a word. -/
def xorLane (a : Vector W64 25) (i : Nat) (w : W64) : Vector W64 25 :=
  if h : i < 25 then a.set i (a[i] ^^^ w) else a

/-- Bytes of the rate. -/
def shakeRate : Nat := 136

/-- Eight bytes absorbed. -/
def Sponge.absorb (p : Sponge) (w : W64) : Sponge :=
  let a := xorLane p.a (p.fill / 8) w
  if p.fill + 8 = shakeRate then { p with a := keccak a, fill := 0 } else { p with a := a, fill := p.fill + 8 }

/-- The sponge turned from absorbing to squeezing, with the padding of SHAKE256 at byte `fill`. -/
def Sponge.finish (p : Sponge) : Sponge :=
  let a := xorLane p.a (p.fill / 8) (n64 (0x1F * 2 ^ (8 * (p.fill % 8))))
  { a := keccak (xorLane a 16 0x8000000000000000), fill := 0, out := true }

/-- Eight bytes squeezed. -/
def Sponge.squeeze (p : Sponge) : W64 × Sponge :=
  let p := if p.out then p else p.finish
  let p := if p.fill = shakeRate then { p with a := keccak p.a, fill := 0 } else p
  (p.a.getD (p.fill / 8) 0, { p with fill := p.fill + 8 })

/-- A message absorbed byte by byte, in words of 8. -/
def absorbAll : Nat → Sponge → List Byte → Sponge
  | 0, p, _ => p
  | fuel + 1, p, bs =>
    if bs.length < 8 then
      { p with a := xorLane p.a (p.fill / 8) (n64 (leNat bs)), fill := p.fill + bs.length }
    else absorbAll fuel (p.absorb (n64 (leNat (bs.take 8)))) (bs.drop 8)

/-- 64 bytes of SHAKE256 of a message. -/
def shake256 (m : List Byte) : List Byte :=
  let p := absorbAll (m.length / 8 + 1) Sponge.zero m
  ((List.range 8).foldl (fun (out, p) _ =>
    let (w, p) := Sponge.squeeze p
    (out ++ leBytes 8 w.toNat, p)) (([] : List Byte), p)).1

end Sys2Proof.Machine
end

