-- ==== Sys2Proof/Machine/Firmware.lean ====
section
/-! DEFINITION. Acts on the device's own registers that both a CSR write or a `sys` word and an event
perform: firmware CSRs (R79), the heartbeat and the slot switch (R78, R320), the security engine (R302,
R321), the fault queue's base (R283), the lane masks (R128). -/

namespace Sys2Proof.Machine

/-! ## Lane masks (R128) -/

/-- A conductor's write of a mask: live bits are kept; a thread parked on it whose bit goes is live
again. -/
def Gang.writeMask (x : Gang) (k : Fin 12) (v : W64) : Gang :=
  let m := v.truncate 32 &&& x.glive
  let y := x.mapLanes 0xFFFFFFFF fun t l =>
    if l.st = .parkedMask k && !m.getLsbD t.val then { l with st := .live } else l
  { y with m := y.m.set k.val m }

/-- The mask write of a gang. -/
def State.writeMask (s : State) (g : Nat) (k : Fin 12) (v : W64) : State := s.setGang g ((s.gang g).writeMask k v)

/-! ## Firmware CSRs (R79) -/

/-- FSLOT after a write: [2:1] write 0 to clear, [4] write 1 to clear, [6:5] written, the rest kept. -/
def fslotAfter (old : BitVec 8) (v : W64) : BitVec 8 :=
  let w : BitVec 8 := v.truncate 8
  (old &&& 0x89) ||| (old &&& w &&& 0x06) ||| (old &&& ~~~w &&& 0x10) ||| (w &&& 0x60)

/-- A write of FSLOT. A watchdog period counts in normal service alone (R78), so it begins anew where that
mode is entered. -/
def State.writeFslot (s : State) (v : W64) : State :=
  let f := fslotAfter s.dev.fslot v
  let enters := f &&& 0x60 = 0 && s.dev.fslot &&& 0x60 ≠ 0
  { s with dev := { s.dev with fslot := f, watchdog := if enters then s.tick else s.dev.watchdog } }

/-- A write of FWDT restarts the watchdog count and the periodic ticks (R71, R79). -/
def State.writeFwdt (s : State) (v : W64) : State :=
  { s with dev := { s.dev with fwdt := v.truncate 32, watchdog := s.tick, tickBase := s.tick } }

/-- A write of SFQB: an address in bits [51:6] (R283). Once it is nonzero the posters go on with the
records they hold (R274). -/
def State.writeSfqb (s : State) (v : W64) : State := { s with dev := { s.dev with sfqb := v &&& ones 6 46 } }

/-- Whether a heartbeat now confirms a switch: its window is open (R78, R323). -/
def Dev.confirms (d : Dev) (tick : Nat) : Bool :=
  d.fslot.getLsbD 3 && match d.windowEnd with | some t => decide (tick < t) | none => true

/-- `sys.hbeat` (R78): FHB, the watchdog and the ticks; a pending switch is confirmed. Core 0's first
since a reset lets the other cores start in the clock after it, and event delivery resume in that clock (R320). -/
def State.heartbeat (s : State) (core : Nat) : State :=
  let d := s.dev
  let confirm := d.confirms s.tick
  let d : Dev :=
    { d with fhb := n64 s.tick, watchdog := s.tick, tickBase := s.tick,
             fslot := if confirm then d.fslot &&& ~~~0x08 else d.fslot,
             windowEnd := if confirm then none else d.windowEnd }
  let held := s.saddles.any fun (_, c) => c.st = .held
  if core = 0 ∧ held then
    let wake (c : Ctx) : Ctx :=
      if c.st = .held then { c with st := .live, lastIssue := s.tick, from_ := s.tick + 1 } else c
    { s with dev := { d with resuming := true }, saddles := s.saddles.map fun (n, c) => (n, wake c) }
  else { s with dev := d }

/-- The switch itself, once the other cores idle (R78, R320): locks to core 0, the running slot,
FSLOT[3] set and [7] cleared, the entry 0x02, the cores reset, the window opened. -/
def State.switchSlot (s : State) (core slot : Nat) : State :=
  let f := (s.dev.fslot &&& ~~~0x81) ||| 0x08 ||| (if slot = 1 then 1 else 0)
  let s := s.locksToZero
  let s := { s with dev := { s.dev with fslot := f, oldSlot := s.dev.fslot.getLsbD 0,
                                        windowEnd := some (s.tick + 11000000) } }
  (s.log 0x02 core 0xFFFF 0 0 (n64 slot)).resetPool

/-! ## The security engine (R302, R321) -/

def Sec.busy (e : Sec) : Bool := e.stat.getLsbD 0

/-- The slot that does not run, as a bit. -/
def Dev.otherSlot (d : Dev) : Bool := !d.fslot.getLsbD 0

/-- Clocks of a command (R302); commands 4 to 6 have no stated time and end as soon as they may. -/
def secClocks (d : Dev) (cmd : Nat) : Nat :=
  match cmd with
  | 1 => ceilDiv (d.image d.otherSlot).body.length 136 * 24
  | 2 => 110000
  | 3 => 48
  | _ => 0

/-- A SECCMD write of a legal command: busy until it completes; ignored while busy. -/
def State.secStart (s : State) (core cmd : Nat) : State :=
  let e := s.dev.sec
  if e.busy then s
  else
    let e : Sec := { e with stat := e.stat ||| 1, cmd := cmd, until_ := s.tick + secClocks s.dev cmd, core := core }
    { s with dev := { s.dev with sec := e } }

/-- A sponge that absorbs after it has squeezed: the manual states no result, so its lanes are free
values (log 9). -/
def State.spongeFor (s : State) : State × Sponge :=
  let p := s.dev.sec.sponge
  if p.out then
    ({ s with free := s.free + 25 },
     { a := Vector.ofFn fun i => Config.freeValue (s.free + i.val), fill := 0, out := false })
  else (s, p)

/-- The command in progress completes: its results are in place with SECSTAT[0] clear (R321). -/
def State.secDone (s : State) : State :=
  let e := s.dev.sec
  if !e.busy || decide (s.tick < e.until_) then s
  else
    let idle : Sec := { e with stat := e.stat &&& ~~~1 }
    let put (s : State) (e : Sec) : State := { s with dev := { s.dev with sec := e } }
    match e.cmd with
    | 1 => put s { idle with dig := shake256 (s.dev.image s.dev.otherSlot).body }
    | 2 =>
      let ok := Config.falcon e.dig (s.dev.image s.dev.otherSlot).trailer
      let slot := s.dev.otherSlot
      let s := put s { idle with stat := if ok then 2 else 4 }
      let f := if ok then s.dev.fslot ||| 0x80 else s.dev.fslot &&& ~~~0x80
      let s := { s with dev := { s.dev with fslot := f } }
      s.log 0x0C e.core 0xFFFF 0 0 (n64 ((if slot then 1 else 0) + if ok then 2 else 0))
    | 3 =>
      let i := e.fmeas.toNat
      let old := e.measure.getD i []
      let old := if old = [] then List.replicate 64 0 else old
      let dig := if e.dig = [] then List.replicate 64 0 else e.dig
      let m : Vector (List Byte) 16 := e.measure.setIfInBounds i (shake256 (old ++ dig))
      (put s { idle with measure := m }).log 0x0D e.core 0xFFFF 0 0 (n64 i)
    | 4 => put s { idle with sponge := Sponge.zero }
    | 5 =>
      let (s, p) := s.spongeFor
      put s { idle with sponge := p.absorb e.data }
    | 6 =>
      let (w, p) := e.sponge.squeeze
      put s { idle with sponge := p, data := w }
    | _ => put s idle

/-- SECDATA written; ignored while busy (R302). -/
def State.writeSecData (s : State) (v : W64) : State :=
  if s.dev.sec.busy then s else { s with dev := { s.dev with sec := { s.dev.sec with data := v } } }

end Sys2Proof.Machine
end

