-- ==== Sys2Proof/Machine/Fetch.lean ====
section
/-! DEFINITION. Fetching an instruction's words (R35, R116, R117, R324), the encoding faults of a word
that does not decode (R36), and the examination of a prefix unit (R45–R47). -/

namespace Sys2Proof.Machine

/-! ## Code -/

/-- What a fetch of one word gives. -/
inductive Fetch
  | word (w : W32)
  /-- past the last word of the section (R35) -/
  | past
  /-- a fetch fault: 0x08, 0x09 or 0x10 (R117, R205) -/
  | trap (cause : Byte)
  /-- the line is not in the unlocked part; an on-demand fetch is under way (R117) -/
  | miss
  deriving DecidableEq, Repr

/-- A word of a section. -/
def sectionWord (code : List W32) (off : Nat) : Fetch :=
  match code[off]? with
  | some w => .word w
  | none => .past

/-- The code address of a conductor section's word (R17). -/
def condBit : Nat := 2 ^ 31

/-- The word a lane thread or a U-level conductor finds at its PC: locked code, which never misses
(R116). -/
def Kernel.wordAt (k : Kernel) (cond : Bool) (pc : Nat) : Fetch :=
  if cond then (if condBit ≤ pc ∧ pc < 2 ^ 32 then sectionWord k.condCode (pc - condBit) else .past)
  else sectionWord k.laneCode pc

/-- The key of the 64-byte line that holds a byte of code. -/
def codeLine : Loc → Nat
  | .dev pa => pa / 64
  | .host pa => 2 ^ 60 + pa / 64
  | .peer n pa => 2 ^ 61 + n * 2 ^ 44 + pa / 64
  | .slice c o => 2 ^ 62 + (c * 2 ^ 24 + o) / 64

def codeOffset : Loc → Nat
  | .dev pa | .host pa | .peer _ pa | .slice _ pa => pa % 64

/-- Lines that the code of kernels takes: each object of an ASID once. -/
def codeLines (ks : List (Nat × Kernel)) : Nat :=
  (ks.foldl
      (fun (seen, n) (asid, k) =>
        if seen.contains (asid, k.object) then (seen, n)
        else ((asid, k.object) :: seen, n + ceilDiv (4 * (k.laneCode.length + k.condCode.length)) 64))
      (([] : List (Nat × Nat)), 0)).2

/-- Locked instruction-cache lines of a core: the code of each kernel object once (R116). -/
def lockedLines (ls : List (Nat × Launch)) (core : Nat) : Nat :=
  codeLines ((ls.filter fun (_, l) => l.slots.any fun b => b.cores.any fun (c, _) => c = core).map
    fun (_, l) => (l.asid, l.kernel))

/-- Lines of a unit's instruction cache: 256 KiB on a compute core, 64 KiB on a Steppe core (R4). The spec gives the
Saddle cores' no size: 256 KiB (DESIGN CHOICE, log 86). -/
def cacheLines (unit : Nat) : Nat := if 192 ≤ unit ∧ unit < 200 then 1024 else 4096

/-- Lines the unlocked part can hold: what is not locked (R116). -/
def State.unlockedRoom (s : State) (unit : Nat) : Nat := cacheLines unit - lockedLines s.launches unit

/-- A line put in the unlocked part, the least recently used lines going first (R117). -/
def icacheFill (room key : Nat) (bytes : List Byte) (c : List (Nat × List Byte)) : List (Nat × List Byte) :=
  let c := c.filter (·.1 ≠ key)
  c.drop (c.length + 1 - room) ++ [(key, bytes)]

/-- The page of a code address: the state with the TLB filled, or the fetch fault. -/
def State.codeLoc (s : State) (a : Agent) (va : Nat) : State × Except Byte Loc :=
  let (s, r) := s.translate (agentUnit a) (s.asidOf a) (s.rootOf a) va .exec (s.levelOf a = .u)
  (s, r.map (·.1))

/-- A byte of the running image (R77, R320): its first word stands at the entry, where a Saddle core fetches it
from the slot itself (log 17). -/
def State.slotByte (s : State) (a : Agent) (va : Nat) : Option Byte :=
  let slotB := s.dev.fslot.getLsbD 0
  match a, (s.dev.image slotB).bytes with
  | .saddle _, _ :: _ =>
    let entry := (Config.imageEntry slotB).toNat
    if entry ≤ va then (s.dev.image slotB).body[va - entry]? else none
  | _, _ => none

/-- One byte of unlocked code (R117). A word with an uncorrectable error faults (R201), as it is read from memory or in
a line that was filled with it or that a soft error has struck, which leaves the cache and is fetched again after it
(log 77). -/
def State.codeByte (s : State) (a : Agent) (va : Nat) : State × Except Byte (Option Byte) :=
  match s.slotByte a va, s.codeLoc a va with
  | some b, _ => (s, .ok (some b))
  | none, (s, .error c) => (s, .error c)
  | none, (s, .ok loc) =>
    let u := s.core (agentUnit a)
    match afind (codeLine loc) u.icache with
    | none => if s.flawedLoc loc 1 then (s, .error 0x10) else (s, .ok none)
    | some line =>
      let others := u.icache.filter (·.1 ≠ codeLine loc)
      if line = [] || u.codeBad.contains (8 * codeLine loc + codeOffset loc / 8) then
        (s.setCore (agentUnit a)
          { u with icache := others, codeBad := u.codeBad.filter fun k => k / 8 ≠ codeLine loc }, .error 0x10)
      else
        (s.setCore (agentUnit a) { u with icache := others ++ [(codeLine loc, line)] },
          .ok (some (line.getD (codeOffset loc) 0)))

/-- One word of code from a `.image`, little-endian, at any address (R12, R324). -/
def State.imageWord (s : State) (a : Agent) (va : Nat) : State × Fetch :=
  let step (acc : State × Except Byte (Option (List Byte))) (k : Nat) :
      State × Except Byte (Option (List Byte)) :=
    match acc with
    | (s, .ok (some bs)) =>
      match s.codeByte a (va + k) with
      | (s, .ok (some b)) => (s, .ok (some (bs ++ [b])))
      | (s, .ok none) => (s, .ok none)
      | (s, .error c) => (s, .error c)
    | x => x
  match [0, 1, 2, 3].foldl step (s, .ok (some [])) with
  | (s, .ok (some bs)) => (s, .word (BitVec.ofNat 32 (leNat bs)))
  | (s, .ok none) => (s, .miss)
  | (s, .error c) => (s, .trap c)

/-- Whether an agent runs code of a `.image` (R324). -/
def State.inImage (s : State) (a : Agent) : Bool := s.wordStep a = 4

/-- The PC of an agent. -/
def State.pcOf (s : State) (a : Agent) : Nat :=
  match a with
  | .lane g t => ((s.gang g).lane t).pc.toNat
  | a => (s.ctx a).pc.toNat

/-- The word an agent finds `n` words past its PC. -/
def State.fetchWord (s : State) (a : Agent) (n : Nat) : State × Fetch :=
  match a with
  | .lane g _ => (s, (s.kernel g).wordAt false (s.pcOf a + n))
  | .cond g =>
    if s.inImage a then s.imageWord a (s.pcOf a + 4 * n)
    else (s, (s.kernel g).wordAt true (s.pcOf a + n))
  | a => s.imageWord a (s.pcOf a + 4 * n)

/-- The line of unlocked code an agent's fetch misses (R117): its first missing byte's. -/
def State.missingLine (s : State) (a : Agent) : Option Loc :=
  let rec go (s : State) (va : Nat) : Nat → Option Loc
    | 0 => none
    | n + 1 =>
      match s.codeByte a va with
      | (s, .ok none) =>
        match (s.codeLoc a va).2 with
        | .ok l => some l
        | .error _ => none
      | (s, .ok (some _)) => go s (va + 1) n
      | (_, .error _) => none
  if s.inImage a then go s (s.pcOf a) 8 else none

/-! ## What stands at the PC -/

/-- What an agent finds at its PC, `n` words on: an instruction, or a fault with its value, or a
miss. -/
inductive Found
  | instr (i : Instr)
  | fault (cause : Byte) (stval : W64)
  | stall
  deriving DecidableEq, Repr

/-- The code address R35 puts in STVAL, of the word `n` past the PC. -/
def State.codeAddress (s : State) (a : Agent) (n : Nat) : W64 :=
  n64 (s.pcOf a + n * s.wordStep a)

/-- The fault of a word that does not decode (R36): core kind, level, operand. -/
def badWord (e : DecodeError) (w : W32) (k : CoreKind) (l : Level) : Byte :=
  match e with
  | .illegal | .short => 0x01
  | .operand =>
    if !wordLegal w k l then 0x01 else if l.num < (levelOf w).num then 0x04 else 0x02

/-! ## Prefix units (R45–R47) -/

/-- The opcode of a word. -/
def opcodeOf (w : W32) : Nat := (fld w 25 6).toNat

def isRoute (w : W32) : Bool := !bit w 31 && decide (opcodeOf w = 0x33)
def isAccsrc (w : W32) : Bool := !bit w 31 && decide (opcodeOf w = 0x34)

/-- A lane ALU word (R47). -/
def isAluWord (w : W32) : Bool :=
  !bit w 31 && decide (1 ≤ opcodeOf w) && decide (opcodeOf w ≤ 0x32)

/-- The element count of a lane ALU word's type; for `cvt` of its source type (R39, R45). -/
def aluElements (w : W32) : Nat :=
  match (if opcodeOf w = 0x30 then fld w 5 3 else fld w 22 3).toNat with
  | 0 | 7 => 8
  | 1 | 4 | 5 => 4
  | 2 | 6 => 2
  | _ => 1

/-- Whether a lane ALU word reads operand a: all but LW (R45). -/
def aluReadsA (w : W32) : Bool := opcodeOf w ≠ 0x24

/-- Whether a lane ALU word reads a lane register as operand b: LA with U = 0 (R45). -/
def aluReadsB (w : W32) : Bool :=
  (decide (opcodeOf w ≤ 0x1B) || (decide (0x25 ≤ opcodeOf w) && decide (opcodeOf w ≤ 0x2E))) && !bit w 0

/-- The limits a route spec meets before the instruction it routes (R45). -/
def routeOk (p : RouteSpec) (reads : Bool) (n : Nat) : Bool :=
  match p with
  | .none => true
  | .bcast q | .bfly q => reads && decide (q.toNat < 32 * n)
  | _ => reads

/-- Row 3 of R36 for a prefix word before an ALU word. -/
def unitOperandOk (pre alu : W32) (lanes : Nat) : Bool :=
  match decode pre 0 with
  | .ok (.route x y _) =>
    routeOk x (aluReadsA alu) (aluElements alu) && routeOk y (aluReadsB alu) (aluElements alu) &&
      x.below lanes && y.below lanes
  | .ok (.accsrc t f onB sup) =>
    wellFormed (.accsrc t f onB sup) &&
      (if onB then aluReadsB alu && decide (fld alu 1 7 = 0)
       else aluReadsA alu && decide (fld alu 8 7 = 0))
  | _ => false

/-- The words of a unit from its first prefix on, or none where R47 forbids it: at most one prefix of
each kind, then an ALU word, no prefix last in a loop body or a section. -/
def unitWords (code : List W32) (stops : List W64) : Nat → Nat → List W32 → Option (List W32 × W32)
  | 0, _, _ => none
  | fuel + 1, pc, pres =>
    match code[pc]? with
    | none => none
    | some w =>
      if isAluWord w then some (pres, w)
      else if isRoute w || isAccsrc w then
        if pres.any fun p => isRoute p = isRoute w then none
        else if stops.contains (n64 (pc + 1)) then none
        else unitWords code stops fuel (pc + 1) (pres ++ [w])
      else none

/-- The encoding fault of a prefix unit, in the order of R36; 0x04 for a supervisor fragment (R46). -/
def unitFault (k : Kernel) (pc : Nat) (stops : List W64) : Option Byte :=
  match unitWords k.laneCode stops 3 pc [] with
  | none => some 0x01
  | some (pres, alu) =>
    match decode alu 0 with
    | .error .illegal | .error .short => some 0x01
    | r =>
      if pres.any fun p => isAccsrc p && bit p 13 then some 0x04
      else if !pres.all fun p => unitOperandOk p alu k.laneRegs then some 0x02
      else
        match r with
        | .ok i => if wellFormed i && fitsCounts k.laneRegs k.groupRegs i then none else some 0x02
        | .error _ => some 0x02

/-! ## The instruction at the PC -/

/-- STVAL of a fetch fault: the code address, marked for an uncorrectable error (R35, R201). -/
def fetchValue (cause : Byte) (va : W64) : W64 := if cause = 0x10 then eccValue va else va

/-- The fault of a first word that does not decode: of a prefix, its unit's (R36, R47). -/
def State.badFirst (s : State) (a : Agent) (n : Nat) (e : DecodeError) (w : W32) : Byte :=
  let plain := badWord e w (agentKind a) (s.levelOf a)
  match a with
  | .lane g t =>
    let l := (s.gang g).lane t
    if n = 0 && (isRoute w || isAccsrc w) then
      (unitFault (s.kernel g) l.pc.toNat (l.loops.map (·.stop))).getD plain
    else plain
  | _ => plain

/-- The instruction an agent would issue `n` words past its PC. DESIGN CHOICE (log 22): a fetch fault of a
second word comes before the level and operand faults of the first. -/
def State.fetch (s : State) (a : Agent) (n : Nat) : State × Found :=
  match s.fetchWord a n with
  | (s, .past) => (s, .fault 0x01 (s.codeAddress a n))
  | (s, .trap c) => (s, .fault c (fetchValue c (s.codeAddress a n)))
  | (s, .miss) => (s, .stall)
  | (s, .word w) =>
    let found (x : W32) : Found :=
      match decode w x with
      | .ok i => .instr i
      | .error e => .fault (s.badFirst a n e w) (w.zeroExtend 64)
    if twoWords w && wordLegal w (agentKind a) (s.levelOf a) then
      match s.fetchWord a (n + 1) with
      | (s, .past) => (s, .fault 0x01 (s.codeAddress a (n + 1)))
      | (s, .trap c) => (s, .fault c (fetchValue c (s.codeAddress a (n + 1))))
      | (s, .miss) => (s, .stall)
      | (s, .word x) => (s, found x)
    else (s, found 0)

/-! ## Prefixes in issue (R45–R47) -/

/-- A prefix in issue: the first of its unit has the whole unit examined; then `take` records it and
the unit goes on with the next word (R47). -/
def prefixWord (i : Instr) (s : State) (take : Issue → Issue) : Out :=
  match s.issue.who with
  | none => .fault .noAgent
  | some (.lane g t) =>
    let s := s.settle (.lane g t)
    let l := (s.gang g).lane t
    let bad := if s.issue.words = 0 then unitFault (s.kernel g) l.pc.toNat (l.loops.map (·.stop)) else none
    match bad with
    | some c => .next (s.laneFault g s.issue.mask c (firstWord i))
    | none =>
      let s := s.spendIssue (.lane g t) i
      .next { s with issue := take { s.issue with words := s.issue.words + 1 } }
  | some a => .next (s.groupFault a 0x01 (firstWord i))

/-- `route` (R45, R146): operands a and b of the unit's instruction pass through the Defile. -/
def execRoute (x y : RouteSpec) (own : Bool) (s : State) : Out :=
  prefixWord (.route x y own) s fun c => { c with route := some (x, y, own) }

/-- `accsrc` (R46, R147): a fragment takes the place of one operand. -/
def execAccsrc (tile : BitVec 4) (frag : BitVec 6) (onB sup : Bool) (s : State) : Out :=
  prefixWord (.accsrc tile frag onB sup) s fun c => { c with acc := some (tile, frag, onB, sup) }

end Sys2Proof.Machine
end

