-- ==== Sys2Proof/Machine/Watching.lean ====
section
/-! DEFINITION. The watch unit of a core: from a changing write to a pending trigger, from triggers to
a ready gang, and the stop of a watch (R255, R261–R267). -/

namespace Sys2Proof.Machine

/-- The launch that holds the resources of a quotation. -/
def State.launchOf (s : State) (qid : Nat) : Option (Nat × Launch) :=
  s.launches.find? fun (_, l) => l.qid = qid

/-- Write generation of a thread made by a trigger of generation g (R263). -/
def writeGen (g : Nat) : Nat := min 8 (g + 1)

/-- Registers v0–v5 of the thread a trigger makes (R266). -/
def Trigger.regs (t : Trigger) : List W64 :=
  [n64 t.line, t.mask, t.value, n64 (t.count.toNat * 2 ^ 32 + t.seq.toNat), t.arg, n64 t.gen]

/-- The partition a standing quotation holds on a core (R264). -/
def Quote.partOn (q : Quote) (core : Nat) : Option Nat :=
  (afind core q.cores).bind List.head?

/-- A task added to the ready tasks of a partition (R115). -/
def State.addTask (s : State) (core part : Nat) (t : Task) : State :=
  let c := s.core core
  if h : part < 16 then
    let p := c.parts[part]
    s.setCore core { c with parts := c.parts.set part { p with tasks := p.tasks ++ [t] } }
  else s

/-- Scopes `.clu` and wider (R208). -/
def wideScope : Scope → Bool
  | .thr | .gng | .cor => false
  | _ => true

/-- Whether a trigger's thread starts with an acquire at scope `.clu` or wider: the scope of its watch (R233,
R268). DESIGN CHOICE (log 76): so does one whose watch was disarmed meanwhile. -/
def CoreSt.wideStart (c : CoreSt) (t : Trigger) : Bool :=
  match c.watches.find? fun e => e.2.serial = t.watch with
  | some e => wideScope e.2.scope
  | none => true

/-- A forming gang is declared ready (R265): its triggers close and it becomes a ready task. -/
def State.formingReady (s : State) (core : Nat) (f : Forming) : State :=
  let c := s.core core
  let members := c.triggers.filter fun t => t.gang = some f.serial
  let c' : CoreSt :=
    { c with
        forming := c.forming.filter fun x => x.serial ≠ f.serial
        triggers := c.triggers.map fun t => if t.gang = some f.serial then { t with closed := true } else t }
  let s := s.setCore core c'
  match s.launchOf f.qid, (s.quote? f.qid).bind (·.partOn core) with
  | some (id, l), some part =>
    let top := (members.map (·.gen)).foldl max 0
    s.addTask core part
      { launch := id, origin := .triggered, laneEntry := l.kernel.laneEntry,
        condEntry := l.kernel.condEntry, wid := 0, block := 0, index := 0, depth := 0,
        threads := members.length, regs := members.map Trigger.regs,
        gregs := [((members.head?).map (·.arg)).getD 0, n64 members.length], bar := none,
        gens := members.map fun t => writeGen t.gen, cgen := writeGen top, serial := f.serial,
        after := [], readyAt := s.tick, wide := members.any c.wideStart }
  | _, _ => s

/-- A watch stops (R267): state 2 with its reason, its unjoined triggers discarded, its forming gangs ready, its
record posted. -/
def State.haltWatch (s : State) (core id reason : Nat) (w : Watch) : State :=
  let c := s.core core
  let mine (t : Trigger) : Bool := t.watch = w.serial
  let c' : CoreSt :=
    { c with
        watches := aput id { w with state := 2, reason := reason } c.watches
        triggers := c.triggers.filter fun t => !(mine t && t.gang.isNone) }
  let s := s.setCore core c'
  let hold := c.forming.filter fun f =>
    f.qid = w.qid && c.triggers.any fun t => mine t && t.gang = some f.serial
  let s := hold.foldl (fun s f => s.formingReady core f) s
  s.post { Record.blank 4 0x11 with asid := w.asid, core := core, info := n64 id, qid := w.qid }

/-- An armed watch stops by a rule it broke: its standing quotation is charged, and the launch that armed it. -/
def State.stopWatch (s : State) (core id reason : Nat) : State :=
  match afind id (s.core core).watches with
  | none => s
  | some w =>
    if w.state ≠ 1 then s
    else
      let s := (s.haltWatch core id reason w).charge w.qid 1 5 (n64 id)
      match w.launch.bind s.launch? with
      | none => s
      | some l =>
        match s.quote? l.qid with
        | some q => if q.state = 4 ∧ l.qid ≠ w.qid then s.charge l.qid 1 5 (n64 id) else s
        | none => s

/-- One changing write recorded (R262): `line` is the slice offset of its line, `mask` its changed
bytes, `value` the word that holds the lowest. -/
def State.recordChange (s : State) (core id line : Nat) (mask value : W64) (gen : Nat) : State :=
  let c := s.core core
  match afind id c.watches with
  | none => s
  | some w =>
    if w.state ≠ 1 || decide (s.tick < w.effect) then s
    else if w.limit < gen then s.stopWatch core id 1
    else
      let seq := w.seq + 1
      let addr := core * 2 ^ 24 + line
      let open_ (t : Trigger) : Bool :=
        t.watch = w.serial && !t.closed && (w.perRange || decide (t.line = addr))
      if c.triggers.any open_ then
        let join (t : Trigger) : Trigger :=
          { t with
              line := addr, mask := t.mask ||| mask, value := value, seq := seq
              count := if t.count = 0xFFFF then t.count else t.count + 1
              gen := max t.gen gen }
        s.setCore core
          { c with
              watches := aput id { w with seq := seq } c.watches
              triggers := c.triggers.map fun t => if open_ t then join t else t }
      else if 512 ≤ c.triggers.length then s.stopWatch core id 3
      else
        let t : Trigger :=
          { watch := w.serial, qid := w.qid, perRange := w.perRange, line := addr, mask := mask,
            value := value, seq := seq, count := 1, gen := gen, arg := w.arg, gang := none,
            closed := false, since := s.tick }
        s.setCore core
          { c with watches := aput id { w with seq := seq } c.watches, triggers := c.triggers ++ [t] }

/-- The changed bytes of one write event: their slice offsets (R261); every byte stored into a word that
holds an uncorrectable error counts as changed (R201). -/
def changedBytes (bad : Nat → Bool) (off : Nat) : List Byte → List Byte → List Nat
  | a :: r, b :: t =>
    if a = b && !bad off then changedBytes bad (off + 1) r t else off :: changedBytes bad (off + 1) r t
  | _, _ => []

/-- Offsets gathered line by line, ascending (R262). -/
def byLine : List Nat → List (Nat × List Nat)
  | [] => []
  | o :: r =>
    match byLine r with
    | (l, os) :: t => if l = o / 64 * 64 then (l, o :: os) :: t else (o / 64 * 64, [o]) :: (l, os) :: t
    | [] => [(o / 64 * 64, [o])]

/-- The mask of changed bytes within their lines. -/
def lineMask (os : List Nat) : W64 := os.foldl (fun m o => m ||| n64 (2 ^ (o % 64))) 0

/-- What the watch unit makes of one write event in a slice, already in memory (R261, R262). -/
def State.noteChange (s : State) (core : Nat) (offs : List Nat) (gen : Nat) : State :=
  (s.core core).watches.foldl (fun s (id, w) =>
    let mine := offs.filter fun o => decide (w.base ≤ o) && decide (o < w.base + w.len)
    let value (o : Nat) : W64 := n64 (readLE s.mem (sliceKey core (o / 8 * 8)) 8)
    match mine with
    | [] => s
    | o :: _ =>
      if w.perRange then s.recordChange core id (o / 64 * 64) (lineMask mine) (value o) gen
      else
        (byLine mine).foldl (fun s (l, os) =>
          s.recordChange core id l (lineMask os) (value (os.headD l)) gen) s) s

end Sys2Proof.Machine
end

