-- ==== Sys2Proof/Machine/Memory.lean ====
section
/-! DEFINITION. Reaching memory: the checks of an access (R202–R206, R209, R220, R222), bytes read and
written at their memory, the line cache (R208), and accesses in flight (R212, R228). -/

namespace Sys2Proof.Machine

/-! ## Sizes -/

/-- Bytes of an access (R40). -/
def LSizeBytes : LSize → Nat
  | .u8 | .s8 => 1 | .u16 | .s16 => 2 | .u32 | .s32 => 4 | .dw => 8 | .qw => 16

/-- The 64 bits a loaded value leaves in a register (R40). -/
def extendLoad (z : LSize) (v : Nat) : W64 :=
  match z with
  | .s8 => (BitVec.ofNat 8 v).signExtend 64
  | .s16 => (BitVec.ofNat 16 v).signExtend 64
  | .s32 => (BitVec.ofNat 32 v).signExtend 64
  | _ => n64 v

def aSizeBytes : ASize → Nat | .w32 => 4 | .w64 => 8

/-! ## Blocks and windows -/

/-- Extent of a level of a launch (R19): level 0 is threads, level 1 gangs. -/
def Shape.extent (x : Shape) (level : Nat) : Nat := max 1 (x.ext.getD level 1)

/-- The slot that holds a block. -/
def Launch.slotOf (l : Launch) (block : Nat) : Option BlockSlot :=
  l.slots.find? fun b => b.block = some block

/-- The region of a block on its first core (R110, R111). -/
def BlockSlot.region (b : BlockSlot) : Option (Nat × Nat) :=
  match b.cores with
  | [] => none
  | (c, _) :: _ => some (c, aget 0 c b.bases)

/-- The region of a block that runs. -/
def Launch.regionOf (l : Launch) (block : Nat) : Option (Nat × Nat) := (l.slotOf block).bind BlockSlot.region

/-- The slot whose region a block of a neighbourhood has: the one that holds it or, once the block has
ended, the one where it ended (R110). -/
def Launch.slotKept (l : Launch) (block : Nat) : Option BlockSlot :=
  (l.slotOf block).or (l.slots.find? fun b => b.block = none ∧ b.last = some block)

/-- Blocks of one neighbourhood: the level-2 extent (R109). -/
def Launch.neighbours (l : Launch) : Nat := l.shape.extent 2

/-- A neighbourhood's window (R110). -/
def Launch.window (l : Launch) (block addr : Nat) : Option (Nat × Nat) :=
  let z := l.kernel.scratch
  let n := l.neighbours
  if !l.shape.neighbour || z = 0 || n * z ≤ addr then none
  else ((l.slotKept (block / n * n + addr / z)).bind BlockSlot.region).map fun (c, base) => (c, base + addr % z)

/-- Cluster of a core (R9). -/
def clusterOf (core : Nat) : Nat := core / 32 * 8 + core % 16 / 2

/-- The sharing group a block is a member of, with its slot (R111): cluster, id, slot, members. -/
def Launch.groupOf (l : Launch) (block : Nat) : Option (Nat × Nat × Nat × List (Nat × Nat)) :=
  match l.groups.find? fun (_, _, ms) => ms.any fun m => m.2 = block with
  | none => none
  | some (c, id, ms) =>
    match ms.find? fun m => m.2 = block with
    | some (slot, _) => some (c, id, slot, ms)
    | none => none

/-- A range in the pieces that multiples of a unit cut it into; whole where the unit is 0. -/
def cutAt (unit addr n : Nat) : List (Nat × Nat) :=
  if unit = 0 || n = 0 then [(addr, n)]
  else
    (List.range ((addr + n - 1) / unit + 1 - addr / unit)).map fun k =>
      let lo := max addr ((addr / unit + k) * unit)
      (lo, min (addr + n) ((addr / unit + k + 1) * unit) - lo)

/-- A sharing-group address (R111): where it lies and through which slot. -/
def Launch.sharing (l : Launch) (block addr z : Nat) : Option (Nat × Nat × (Nat × Nat × Nat)) :=
  match l.groupOf block with
  | none => none
  | some (cl, id, _, ms) =>
    let mapped (b : Nat) : Bool := !l.joining.contains b
    let slot := addr / 2 ^ 23 % 16
    let off := addr % 2 ^ 23
    if 2 ^ 27 ≤ addr || l.kernel.scratch < off + z || !mapped block then none
    else
      match afind slot ms with
      | none => none
      | some b => if mapped b then (l.regionOf b).map fun (c, base) => (c, base + off, cl, id, slot) else none

/-! ## Space checks (R203) -/

/-- Steppe and Saddle cores reach only `.d` and `.b` (R203). -/
def spaceHeld (a : Agent) (sp : Space) : Bool :=
  match agentKind a with
  | .lane | .cond => true
  | .steppe | .saddle => sp = .d || sp = .b

/-- Slice offset of the grant table (R199). -/
def grantBase : Nat := 0xFF0000

/-- The indices of a slice's valid grant entries (R202). -/
def grantEntries (mem : List Host.Cell) (core : Nat) : List Nat :=
  mem.filterMap fun (k, v) =>
    let base := sliceKey core grantBase
    if base ≤ k ∧ k < base + 16384 ∧ (k - base) % 16 = 10 ∧ v.getLsbD 0 then some ((k - base) / 16)
    else none

/-- Whether a grant of a slice for an ASID holds a range and permits the access (R202, R203). -/
def granted (mem : List Host.Cell) (core asid off z : Nat) (acc : Acc) : Bool :=
  (grantEntries mem core).any fun i =>
    let e := sliceKey core (grantBase + 16 * i)
    let base := readLE mem e 4
    let flags := readByte mem (e + 10)
    decide (readLE mem (e + 8) 2 = asid) && decide (base ≤ off) && decide (off + z ≤ base + readLE mem (e + 4) 4) &&
      (match acc with
       | .load | .exec => flags.getLsbD 1
       | .store => flags.getLsbD 2
       | .atom => flags.getLsbD 1 && flags.getLsbD 2)

/-- Bytes of a slice's grant table (R199). -/
def grantBytes : Nat := 0x4000

/-- Whether bytes of a slice lie in part in its grant table. -/
def inGrants (off z : Nat) : Bool := decide (off < grantBase + grantBytes) && decide (grantBase < off + z)

/-- Whether a `.b` range passes (R203): a present core, no firmware region below F, at U level one grant
below the reserved top, and for a write to the grant table S level (R202). DESIGN CHOICE (log 76): an F-level
write to the table fails this check. -/
def State.basinOk (s : State) (level : Level) (asid addr z : Nat) (acc : Acc) : Bool :=
  let core := addr / 2 ^ 24
  let off := addr % 2 ^ 24
  decide (addr < 2 ^ 32) && s.present core && decide (off + z ≤ 2 ^ 24) &&
    (level = .f || !(decide (core = 0) && decide (off < 0x10000))) &&
    !(level = .f && (acc = .store || acc = .atom) && inGrants off z) &&
    (level ≠ .u || (decide (off + z ≤ grantBase) && granted s.mem core asid off z acc))

/-- Where an agent's spaces are seen from: a conductor or lane thread of a gang. -/
def State.siteOf (s : State) (a : Agent) : Option Site :=
  (agentGang? a).map fun g =>
    let x := s.gang g
    { core := gangCore g, launch := x.launch, block := x.block, scratch := x.scratch, level := s.levelOf a }

/-- The place of a slice address, or 0x0A (R203); the last part names a sharing-group slot. -/
def State.slicePlace (s : State) (w : Option Site) (level : Level) (asid : Nat) (sp : Space) (addr z : Nat)
    (acc : Acc) : Option (Loc × Option (Nat × Nat × Nat × Nat)) :=
  match sp, w with
  | .d, _ => none
  | .b, _ =>
    if s.basinOk level asid addr z acc then some (.slice (addr / 2 ^ 24) (addr % 2 ^ 24), none) else none
  | _, none => none
  | .s, some x =>
    match s.launch? x.launch with
    | none => none
    | some l => if addr + z ≤ l.kernel.scratch then some (.slice x.core (x.scratch + addr), none) else none
  | .n, some x =>
    match s.launch? x.launch with
    | none => none
    | some l =>
      match l.window x.block addr with
      | none => none
      | some (c, o) => if addr % l.kernel.scratch + z ≤ l.kernel.scratch then some (.slice c o, none) else none
  | .g, some x =>
    match s.launch? x.launch with
    | none => none
    | some l =>
      (l.sharing x.block addr z).map fun (c, o, cl, id, slot) => (.slice c o, some (x.launch, cl, id, slot))

/-! ## Range locks (R219–R222) -/

/-- Granule of a Basin byte. -/
def basinGranule (core off : Nat) : Nat := (core * 2 ^ 24 + off) / 64

/-- Whether granules [f, l] meet a lock's. -/
def RangeLock.meets (k : RangeLock) (f l : Nat) : Bool :=
  k.spans.any fun (a, b) => decide (f ≤ b) && decide (a ≤ l)

/-- Whether bytes overlap a range lock of a core, as the table stood a clock ago. -/
def State.locked (s : State) (core asid : Nat) (sp : Space) (addr : Nat) (loc : Loc) (z : Nat) : Bool :=
  (s.core core).locks.any fun k =>
    decide (k.since < s.tick) && (k.freed = none || k.freed = some s.tick) &&
    match sp, loc, k.asid with
    | .d, _, some b => decide (b = asid) && k.meets (addr / 64) ((addr + z - 1) / 64)
    | .d, _, none => false
    | _, .slice c o, none => k.meets (basinGranule c o) (basinGranule c (o + z - 1))
    | _, _, _ => false

/-! ## The checks of one access (R209, R245) -/

/-- An access that passed its checks. -/
structure Passed where
  loc : Loc
  uncached : Bool
  via : Option (Nat × Nat × Nat × Nat)
  /-- the address as the instruction formed it -/
  va : W64

/-- A quoted U-level access outside its resident set voids the quotation (R31, R101). -/
def State.outsideResident (s : State) (w : Option Site) (va : Nat) : State :=
  match w with
  | none => s
  | some x =>
    match s.launch? x.launch with
    | none => s
    | some l =>
      if x.level = .u ∧ (l.kernel.residency va).isNone then s.charge l.qid 1 5 (n64 va) else s

/-- A store into a resident range that is not writable (R31). -/
def State.readOnlyResident (s : State) (w : Option Site) (va : Nat) (acc : Acc) : Bool :=
  match w with
  | none => false
  | some x =>
    match s.launch? x.launch with
    | none => false
    | some l => (acc = .store || acc = .atom) && x.level = .u && l.kernel.residency va = some false

/-- Space and translation of one address (R203–R205), from a site. -/
def State.reach (s : State) (unit asid : Nat) (root : Option W64) (level : Level) (w : Option Site) (sp : Space)
    (va z : Nat) (acc : Acc) : State × Except Byte Passed :=
  match sp with
  | .d =>
    let s := s.outsideResident w va
    if s.readOnlyResident w va acc then (s, .error 0x09)
    else
      match s.translate unit asid root va acc (level = .u) with
      | (s, .error c) => (s, .error c)
      | (s, .ok (loc, unc)) => (s, .ok { loc := loc, uncached := unc, via := none, va := n64 va })
  | sp =>
    if 2 ^ 32 ≤ va then (s, .error 0x0A)
    else
      match s.slicePlace w level asid sp va z acc with
      | none => (s, .error 0x0A)
      | some (loc, via) => (s, .ok { loc := loc, uncached := false, via := via, va := n64 va })

/-- Space and translation of an engine's address (R214, R224): as its conductor's at the command. -/
def State.engineReach (s : State) (x : Site) (sp : Space) (va z : Nat) (acc : Acc) : State × Except Byte Passed :=
  let asid := ((s.launch? x.launch).map (·.asid)).getD 0
  s.reach x.core asid (s.asidRoot asid) x.level (some x) sp va z acc

/-- The checks of R209 on one address, in order: alignment, space, translation, range locks. `allowed`
is what the place itself must admit (R246). -/
def State.checkAccess (s : State) (a : Agent) (sp : Space) (addr : W64) (z : Nat) (acc : Acc) (locks : Bool)
    (allowed : Loc → Bool) : State × Except Byte Passed :=
  let va := addr.toNat
  if va % z ≠ 0 then (s, .error 0x05)
  else
    match s.reach (agentUnit a) (s.asidOf a) (s.rootOf a) (s.levelOf a) (s.siteOf a) sp va z acc with
    | (s, .error c) => (s, .error c)
    | (s, .ok p) =>
      if !allowed p.loc then (s, .error 0x09)
      else if locks && (agentGang? a).isSome && s.locked (agentUnit a) (s.asidOf a) sp va p.loc z then (s, .error 0x0B)
      else (s, .ok p)

/-- The order in which the failing checks of R209 are taken. -/
def accessOrder : List Byte := [0x05, 0x0A, 0x06, 0x07, 0x08, 0x09, 0x0B]

/-! ## Bytes at their memory (R199, R201, R204) -/

/-- What a write to a slice byte does: kept, or ignored in the device's own area (R199). -/
def sliceHeld (core off : Nat) : Bool :=
  !(decide (0xFF4800 ≤ off) || (decide (0xFF4600 ≤ off) && decide (core ≠ 0)))

/-- Whether memory holds the byte at a place. -/
def State.holds (s : State) : Loc → Bool
  | .dev pa => decide (pa < s.dev.memBytes)
  | .slice c o => sliceHeld c o
  | .host _ | .peer _ _ => false

/-- `n` bytes read at their memory. What lies outside the device, and a physical address beyond its
memory, is a free value (logs 3 and 15). -/
def State.loadBytes (s : State) (loc : Loc) (n : Nat) : State × List Byte :=
  match loc with
  | .slice _ _ =>
    (s, (List.range n).map fun k =>
      if s.holds (loc.plus k) then ((loc.plus k).key.map (readByte s.mem)).getD 0 else 0)
  | .dev pa =>
    if pa + n ≤ s.dev.memBytes then (s, readBytes s.mem pa n)
    else ({ s with free := s.free + n }, (List.range n).map fun k => (Config.freeValue (s.free + k)).truncate 8)
  | .host _ | .peer _ _ =>
    ({ s with free := s.free + n }, (List.range n).map fun k => (Config.freeValue (s.free + k)).truncate 8)

/-- A line-cache copy of device memory kept in step with a write of its own core (R208). -/
def cacheStore (pa : Nat) (bs : List Byte) (lines : List (Nat × List Byte)) : List (Nat × List Byte) :=
  lines.map fun (l, old) =>
    (l, (List.range 64).map fun k =>
      let p := 64 * l + k
      if pa ≤ p ∧ p < pa + bs.length then bs.getD (p - pa) 0 else old.getD k 0)

/-- The valid grant entries that a write to a slice has cleared or narrowed: their ASIDs (R203). -/
def narrowed (old new : List Host.Cell) (core off n : Nat) : List Nat :=
  ((grantEntries old core).filter fun i =>
      let e := sliceKey core (grantBase + 16 * i)
      let flags (m : List Host.Cell) : Byte := readByte m (e + 10)
      decide (off < grantBase + 16 * i + 16) && decide (grantBase + 16 * i < off + n) &&
        !((flags new).getLsbD 0 && (flags old &&& ~~~flags new) = 0 &&
          decide (readLE new (e + 8) 2 = readLE old (e + 8) 2) && decide (readLE new e 4 ≤ readLE old e 4) &&
          decide (readLE old e 4 + readLE old (e + 4) 4 ≤ readLE new e 4 + readLE new (e + 4) 4))).map fun i =>
    readLE old (sliceKey core (grantBase + 16 * i) + 8) 2

/-- A grant entry cleared or narrowed is an act of the operating system (R101, R203). DESIGN CHOICE (log 75):
it is charged at the write, to every running quotation of the entry's ASID. -/
def State.noteGrants (s : State) (old : List Host.Cell) (core off n : Nat) : State :=
  if !inGrants off n then s
  else
    let lost := narrowed old s.mem core off n
    (s.quotes.filter fun q => q.state = 4 ∧ lost.contains q.asid).foldl
      (fun s q => s.charge q.id 2 5 (n64 (core * 2 ^ 24 + off))) s

/-- The bytes of a write to a slice that it keeps: those below the area it ignores (R199). -/
def sliceKept (core off : Nat) (bs : List Byte) : List Byte :=
  bs.take ((if core = 0 then 0xFF4800 else 0xFF4600) - off)

/-- Bytes written to a slice: the changed ones reach its watch unit (R261). -/
def State.storeSlice (s : State) (core off : Nat) (bs : List Byte) (gen : Nat) : State :=
  let bs := sliceKept core off bs
  let k := sliceKey core off
  let offs := changedBytes (fun o => s.flawedAt (sliceKey core o) 1) off (readBytes s.mem k bs.length) bs
  let t := (s.pokeBytes k bs).noteGrants s.mem core off bs.length
  if offs = [] then t else t.noteChange core offs gen

/-- Bytes written at their memory, by an aligned store of S-level code or otherwise. -/
def State.storeFrom (s : State) (sLevel : Bool) (loc : Loc) (bs : List Byte) (gen : Nat) : State :=
  match loc with
  | .slice c o => s.storeSlice c o bs gen
  | .dev pa =>
    if pa + bs.length ≤ s.dev.memBytes then (s.pokeDev pa bs).noteObject sLevel pa bs.length else s
  | .host _ | .peer _ _ => s

/-- Bytes written at their memory by an engine, a unit of the device or an agent below or above S level. -/
def State.storeBytes (s : State) (loc : Loc) (bs : List Byte) (gen : Nat) : State := s.storeFrom false loc bs gen

/-! ## The line cache (R208) -/

/-- A core has a line cache; the Steppe and Saddle units have none that the manual describes. -/
def cached (unit : Nat) : Bool := unit < 192

def State.dropLines (s : State) (unit : Nat) : State := s.setCore unit { s.core unit with lines := [] }

def State.dropLine (s : State) (unit pa : Nat) : State :=
  let c := s.core unit
  s.setCore unit { c with lines := c.lines.filter fun e => e.1 ≠ pa / 64 }

/-- A load through the line cache: a hit reads the copy, a miss allocates the line. -/
def State.loadCached (s : State) (unit pa n : Nat) : State × List Byte :=
  let c := s.core unit
  match afind (pa / 64) c.lines with
  | some line => (s, (line.drop (pa % 64)).take n)
  | none =>
    let (s, line) := s.loadBytes (.dev (pa / 64 * 64)) 64
    let (v, s) := s.fresh
    let kept := if c.lines.length < 4096 then c.lines else c.lines.eraseIdx (v.toNat % c.lines.length)
    (s.setCore unit { s.core unit with lines := kept ++ [(pa / 64, line)] }, (line.drop (pa % 64)).take n)

/-! ## Accesses in flight (R212, R228) -/

/-- Whether two accesses touch a common byte. -/
def overlaps (l : Loc) (n : Nat) (k : Loc) (m : Nat) : Bool :=
  match l, k with
  | .dev a, .dev b | .host a, .host b => decide (a < b + m) && decide (b < a + n)
  | .slice c a, .slice d b => decide (c = d) && decide (a < b + m) && decide (b < a + n)
  | .peer c a, .peer d b => decide (c = d) && decide (a < b + m) && decide (b < a + n)
  | _, _ => false

/-- Not yet performed. -/
def Flight.pending (f : Flight) : Bool := f.reply.isNone

def Access.isLoad : Access → Bool | .load _ => true | _ => false
def Access.isStore : Access → Bool | .store _ => true | _ => false
def Access.isAtom : Access → Bool | .atom _ _ _ _ => true | .sig _ _ => true | _ => false

/-- The loads counter of an agent (R212): an atomic counts as a load and as a store. -/
def State.loadsOf (s : State) (a : Agent) : Nat :=
  (s.flight.filter fun f => f.who = a && (f.op.isLoad || f.op.isAtom)).length

/-- The stores counter of an agent (R212): until the store is performed at its memory. -/
def State.storesOf (s : State) (a : Agent) : Nat :=
  (s.flight.filter fun f => f.who = a && f.pending && (f.op.isStore || f.op.isAtom)).length

/-- Ids of an agent's accesses not yet performed. -/
def State.pendingOf (s : State) (a : Agent) : List Nat :=
  (s.flight.filter fun f => f.who = a && f.pending).map (·.id)

/-- Those of a list of ids that are not performed yet. -/
def State.unperformed (s : State) (ids : List Nat) : List Nat :=
  ids.filter fun i => s.flight.any fun f => f.id = i && f.pending

/-- Accesses that every later access of an agent follows (R228). -/
def State.afterOf (s : State) : Agent → List Nat
  | .lane g t => ((s.gang g).lane t).after
  | a => (s.ctx a).after

def State.setAfter (s : State) (a : Agent) (ids : List Nat) : State :=
  match a with
  | .lane g t => s.setGang g ((s.gang g).setLane t { (s.gang g).lane t with after := ids })
  | a => s.setCtx a { s.ctx a with after := ids }

/-- An agent's later accesses follow these accesses too. -/
def State.follow (s : State) (a : Agent) (ids : List Nat) : State :=
  match s.unperformed ids with
  | [] => s
  | l => s.setAfter a (s.unperformed (s.afterOf a) ++ l)

/-- What a release of an agent now is ordered after (R230). -/
def State.released (s : State) (a : Agent) : List Nat :=
  s.pendingOf a ++ s.unperformed (s.afterOf a)

/-- Write generation of an agent (R263): a handler writes for itself. -/
def State.genOf (s : State) : Agent → Nat
  | .lane g t => ((s.gang g).lane t).gen
  | .cond g => if (s.gang g).cond.level = .u then (s.gang g).cond.gen else 1
  | _ => 1

/-- Accesses that the later writes of an agent follow (R231). -/
def State.aheadOf (s : State) (a : Agent) : List Nat :=
  s.unperformed (((s.ahead.find? fun e => e.1 = a).map (·.2)).getD [])

/-- A release of an agent that is no access of its own (an arrival, a post or a push): its later writes follow what
that release covers, so that a promoted atomic that reads one of them reads no less (R231). -/
def State.covers (s : State) (a : Agent) : State :=
  match s.aheadOf a ++ s.released a with
  | [] => s
  | ids => { s with ahead := (a, ids.eraseDups) :: s.ahead.filter fun e => e.1 ≠ a }

/-- The acquire of an agent has been performed in this clock. -/
def State.sync (s : State) (a : Agent) : State := { s with synced := (a :: s.synced).eraseDups }

/-- The request stream of an agent's atomics (R241). -/
def State.streamOf (s : State) (a : Agent) : Nat :=
  match agentGang? a with
  | some g =>
    if s.levelOf a = .u then ((s.launch? (s.gang g).launch).map (·.stream)).getD 31 else 31
  | none => 31

/-- An access issued: it follows the agent's own accesses to common bytes, its pending acquires, for a release
everything the agent issued before, and for a write the agent's releases and what they cover (R228, R230, R231,
R234). -/
def State.issueAccess (s : State) (a : Agent) (p : Passed) (size : Nat) (op : Access)
    (acq rel : Bool) (scope : Scope) (strong : Bool) (before : List Nat) : State :=
  let mine := s.flight.filter fun f =>
    f.who = a && f.pending && (rel || f.acq || (f.rel && !op.isLoad) || overlaps f.loc f.size p.loc size)
  let f : Flight :=
    { id := s.nextId, who := a, loc := p.loc, va := p.va, size := size, pc := n64 (s.pcOf a), level := s.levelOf a, op := op, acq := acq, rel := rel,
      scope := scope, uncached := p.uncached || strong,
      deps := mine.map (·.id) ++ s.unperformed (s.afterOf a) ++ (if op.isLoad then [] else s.aheadOf a) ++ before,
      gen := s.genOf a, via := p.via, stream := s.streamOf a, reply := none,
      high := 0, batch := s.nextId }
  { s with flight := s.flight ++ [f], nextId := s.nextId + 1 }

/-- The accesses issued after a state are those of one lane instruction, whose results land together (R137,
R313; log 78): the batch takes its number from that state. -/
def State.joinBatch (s before : State) : State :=
  { s with flight := before.flight ++
      (s.flight.drop before.flight.length).map fun f => { f with batch := before.nextId } }

/-- Slice offset of the barrier area (R199). -/
def barArea : Nat := 0xFF4000

/-- The accesses that arrivals at the barriers whose words a read touches follow (R225, R230): a read that
returns a release of a barrier's word comes after them. -/
def State.barriersAfter (s : State) (l : Loc) (n : Nat) : List Nat :=
  match l with
  | .slice c o =>
    (s.core c).bars.flatMap fun (b, x) =>
      if decide (o < barArea + 16 * b + 16) && decide (barArea + 16 * b < o + n) then x.after else []
  | _ => []

/-- The accesses in flight that follow an access, itself among them. -/
def State.followers (s : State) (id : Nat) : List Nat :=
  s.flight.foldl (fun ids f => if f.id = id || f.deps.any ids.contains then f.id :: ids else ids) []

/-- Whether everything an access follows has been performed: its own dependences and, where it reads a
barrier's word, what the arrivals there follow. -/
def State.depsMet (s : State) (f : Flight) : Bool :=
  (s.unperformed f.deps).isEmpty &&
    match s.unperformed (if f.op.isStore then [] else s.barriersAfter f.loc f.size) with
    | [] => true
    | ids => ids.all (s.followers f.id).contains

def State.removeFlight (s : State) (id : Nat) : State :=
  { s with flight := s.flight.filter fun f => f.id ≠ id }

/-- An acquire that has been performed: the line cache of its core is invalidated (R208). -/
def State.acquired (s : State) (a : Agent) (scope : Scope) : State :=
  if wideScope scope && cached (agentUnit a) then s.dropLines (agentUnit a) else s

/-- A value that arrives for the results that wait on an access. -/
def arrive (id : Nat) (now : Nat) (lo hi : W64) (ps : List Pend) : List Pend :=
  ps.map fun p => if p.src = some id then { p with due := some now, val := if p.hi then hi else lo } else p

/-- Whether an agent still exists: its gang has not ended. -/
def State.exists_ (s : State) (a : Agent) : Bool :=
  match agentGang? a with
  | some g => (afind g s.gangs).isSome
  | none => true

/-- The results of an agent that wait on an access receive their value. -/
def State.deliver (s : State) (a : Agent) (id : Nat) (lo hi : W64) : State :=
  if !s.exists_ a then s
  else
    match a with
    | .lane g t =>
      let l := (s.gang g).lane t
      s.setGang g ((s.gang g).setLane t { l with pend := arrive id s.tick lo hi l.pend })
    | a => s.setCtx a { s.ctx a with pend := arrive id s.tick lo hi (s.ctx a).pend }

/-- The values of a load instruction reach their registers once every access of it has been performed. -/
def State.landBatch (s : State) (batch : Nat) : State :=
  let mine := s.flight.filter fun f => f.batch = batch && f.op.isLoad
  if mine.any Flight.pending then s
  else mine.foldl (fun s f => (s.deliver f.who f.id (f.reply.getD 0) f.high).removeFlight f.id) s

/-! ## Energy of memory work (R83, R84) -/

/-- Hops charged for a space under a launch (R84). -/
def State.launchHops (s : State) (launch : Nat) : Space → Nat
  | .d | .s => 0
  | .g => 2
  | .b => 26
  | .n =>
    match s.launch? launch with
    | some l => l.rect.1 - 1 + (l.rect.2 - 1)
    | none => 0

/-- Hops charged for a gang's access. -/
def State.chargedHops (s : State) (g : Nat) (sp : Space) : Nat := s.launchHops (s.gang g).launch sp

/-- Distinct 64-byte lines of device memory among places (R83). -/
def deviceLines (ls : List Loc) : Nat :=
  ((ls.filterMap fun l => match l with
    | .dev pa => some (pa / 64)
    | .host pa => some (2 ^ 52 + pa / 64)
    | .peer n pa => some (2 ^ 53 + n * 2 ^ 40 + pa / 64)
    | .slice _ _ => none).eraseDups).length

/-- Energy of a U-level agent's work, on its launch (R100; log 19). -/
def State.spendWork (s : State) (a : Agent) (pJ : Nat) : State :=
  match agentGang? a with
  | some g => if s.levelOf a = .u then s.spend (s.gang g).launch pJ else s
  | none => s

/-! ## Homes (R241, R297) -/

/-- First core of a cluster (R9). -/
def clusterCore (k : Nat) : Nat := k / 8 * 32 + k % 8 * 2

/-- Present clusters, ascending. -/
def State.clusters (s : State) : List Nat := (List.range 48).filter fun k => s.present (clusterCore k)

/-- The cluster whose service gang performs an atomic; none beyond the die. -/
def State.homeCluster (s : State) : Loc → Option Nat
  | .slice c _ => some (clusterOf c)
  | .dev pa =>
    let l := pa / 64
    let k := (l / 256 % 256) ^^^ (l / 65536 % 256)
    s.clusters[k % max 1 s.clusters.length]?
  | .host _ | .peer _ _ => none

end Sys2Proof.Machine
end

