-- ==== Sys2Proof/Machine/LaneMemory.lean ====
section
/-! DEFINITION. Lane loads, stores, atomics and ordered accesses, and `fence`, `waitc`, `waita`
(R209, R211, R212, R243–R249). An instruction here issues when it is ready (Ready.lean). -/

namespace Sys2Proof.Machine

/-- The first instruction word and declared count, for operand reads. -/
def laneEnv (s : State) (g : Nat) (i : Instr) : ReadEnv :=
  { lanes := (s.kernel g).laneRegs, word := firstWord i }

/-- The checks of every thread of a group, ascending (R209). -/
def State.checkThreads (s : State) (g : Nat) (m : W32) (sp : Space) (addr : Fin 32 → W64) (z : Nat)
    (acc : Acc) (locks : Bool) (allowed : Loc → Bool) : State × List (Fin 32 × Except Byte Passed) :=
  (threads m).foldl (fun (s, rs) t =>
    let (s, r) := s.checkAccess (.lane g t.val) sp (addr t) z acc locks allowed
    (s, rs ++ [(t, r)])) (s, [])

/-- The error of a check, if it has one. -/
def checkError : Except Byte Passed → Option Byte
  | .error c => some c
  | .ok _ => none

/-- Lane memory instructions (R209): operand reads, then the checks of each thread's address, then the
access of each thread. Threads that fail the cause that stands first park; the others stay live. -/
def laneMemory (i : Instr) (s : State) (sp : Space) (z : Nat) (acc : Acc) (locks : Bool) (allowed : Loc → Bool)
    (words : Nat)
    (addr : ReadEnv → State → Nat → Fin 32 → Lane → Except Trap W64)
    (go : State → Nat → List (Fin 32 × Passed) → State) : Out :=
  laneInstr i s fun g m s =>
    let x := s.gang g
    let a (t : Fin 32) := addr (laneEnv s g i) s g t (x.lane t.val)
    match firstFault operandOrder m fun t => errOf (a t) with
    | some (c, bad, v) => s.laneFaultBy g bad c v
    | none =>
      let at_ (t : Fin 32) : W64 := okOr 0 (a t)
      let (s, rs) := s.checkThreads g m sp at_ z acc locks allowed
      match accessOrder.find? fun c => rs.any fun r => checkError r.2 = some c with
      | some c =>
        let bad := maskOf fun t => rs.any fun r => r.1 = t && checkError r.2 = some c
        s.laneFaultOf g bad c (at_ ((threads bad).headD 0)) (acc = .store || acc = .atom)
      | none =>
        let ps := rs.filterMap fun r => match r.2 with | .ok p => some (r.1, p) | .error _ => none
        let s := go s g ps
        if words = 0 then s else s.mapLanes g m fun _ l => l.advance words

/-- A lane thread's registers wait for an access (R137). -/
def waitFor (id : Nat) (d : Dst) (hi : Bool) : Pend :=
  { dst := d, mask := BitVec.allOnes 64, val := 0, due := none, src := some id, hi := hi }

def Lane.await (l : Lane) (ps : List Pend) : Lane :=
  { l with pend := l.pend ++ ps.filter fun p => p.dst ≠ .none }

/-- Energy of a lane access (R83): two issues for `.qw`, and the device-memory lines. -/
def laneAccessEnergy (s : State) (g : Nat) (sp : Space) (z : Nat) (ps : List (Fin 32 × Passed)) : Nat :=
  (90 + 30 * s.chargedHops g sp) * (if z = 16 then 2 else 1) + 2560 * deviceLines (ps.map (·.2.loc))

/-- The registers a load writes: one, or the pair of `.qw` (R40). -/
def loadTargets (z : LSize) (d : Dst) (id : Nat) : List Pend :=
  match z, d with
  | .qw, .reg n => [waitFor id (.reg n) false, waitFor id (.reg (n + 1)) true]
  | _, d => [waitFor id d false]

/-- The destination of a load, checked as a pair for `.qw` (R40, R141). -/
def loadDst (e : ReadEnv) (z : LSize) (l : Lane) (d : LDst) : Except Trap Dst :=
  match readDst e l d with
  | .ok (.reg n) => if z = .qw then (pairOk e n).map .reg else .ok (.reg n)
  | .ok .none => if z = .qw then .error (0x02, e.word) else .ok .none
  | r => r

/-- A lane load, plain or acquire (R209, R247). -/
def laneLoad (i : Instr) (s : State) (z : LSize) (d : LDst) (a : LSrc) (sp : Space) (off : Int)
    (acq : Bool) (scope : Scope) : Out :=
  laneMemory i s sp (LSizeBytes z) .load true (fun _ => true) 1
    (fun e _ _ t l => (andRead (loadDst e z l d) (readSrc e t l a)).map fun v => v + w64 (off * LSizeBytes z))
    fun s g ps =>
      let e := laneEnv s g i
      let s := s.spendWork (.lane g 0) (laneAccessEnergy s g sp (LSizeBytes z) ps)
      (ps.foldl (fun s (t, p) =>
        let id := s.nextId
        let s := s.issueAccess (.lane g t.val) p (LSizeBytes z) (.load z) acq false scope acq []
        let l := (s.gang g).lane t.val
        let dst := okOr .none (loadDst e z l d)
        s.setGang g ((s.gang g).setLane t.val (l.await (loadTargets z dst id)))) s).joinBatch s

/-- The value a lane stores: one register, or the pair of `.qw` (R40). -/
def storeValue (e : ReadEnv) (z : LSize) (t : Fin 32) (l : Lane) (v : LSrc) : Except Trap (BitVec 128) :=
  let pair (n : Nat) : Except Trap (BitVec 128) :=
    (pairOk e n).bind fun n => (andRead (l.sound n) (l.sound (n + 1))).map fun _ => l.reg (n + 1) ++ l.reg n
  match z, v with
  | .qw, .v n => pair n.val
  | .qw, .vx k => match xReg l.x[k] k e.lanes e.word with | .ok n => pair n | .error f => .error f
  | .qw, _ => .error (0x02, e.word)
  | _, v => (readSrc e t l v).map fun x => x.zeroExtend 128

/-- Accesses of one instruction that come before that of a thread: those of lower threads that touch a common byte
(R211, R228, R244) or are `near` it. -/
def earlier (near : Loc → Bool) (done : List (Nat × Loc)) (loc : Loc) (z : Nat) : List Nat :=
  (done.filter fun d => overlaps d.2 z loc z || near d.2).map (·.1)

/-- A byte lies in the slice that a place lies in: the writes of one store are compared there thread by thread,
ascending (R261). -/
def sameSlice (a b : Loc) : Bool :=
  match a, b with
  | .slice c _, .slice d _ => c = d
  | _, _ => false

/-- Two places have one home: the requests of one atomic enter its stream ascending (R244). -/
def State.sameHome (s : State) (a b : Loc) : Bool :=
  match s.homeCluster a, s.homeCluster b with
  | some c, some d => c = d
  | _, _ => false

/-- A lane store, plain or release (R209, R211, R247). -/
def laneStore (i : Instr) (s : State) (z : LSize) (v : LSrc) (a : LSrc) (sp : Space) (off : Int)
    (rel : Bool) (scope : Scope) : Out :=
  laneMemory i s sp (LSizeBytes z) .store true (fun _ => true) 1
    (fun e _ _ t l => (andRead (storeValue e z t l v) (readSrc e t l a)).map fun x => x + w64 (off * LSizeBytes z))
    fun s g ps =>
      let e := laneEnv s g i
      let s := s.spendWork (.lane g 0) (laneAccessEnergy s g sp (LSizeBytes z) ps)
      (ps.foldl (fun (s, done) (t, p) =>
        let id := s.nextId
        let val := okOr 0 (storeValue e z t ((s.gang g).lane t.val) v)
        let s := s.issueAccess (.lane g t.val) p (LSizeBytes z) (.store val) false rel scope rel
          (earlier (sameSlice p.loc) done p.loc (LSizeBytes z))
        (s, done ++ [(id, p.loc)])) (s, ([] : List (Nat × Loc)))).1

/-- `ld` (R209). -/
def execLd (z : LSize) (d : LDst) (a : LSrc) (sp : Space) (o : BitVec 5) (s : State) : Out :=
  laneLoad (.ld z d a sp o) s z d a sp (sx o) false .thr

/-- `st` (R209). -/
def execSt (z : LSize) (v : LSrc) (a : LSrc) (sp : Space) (o : BitVec 5) (s : State) : Out :=
  laneStore (.st z v a sp o) s z v a sp (sx o) false .thr

/-- `ldacq` (R247). -/
def execLdacq (z : LSize) (d : LDst) (a : LSrc) (sp : Space) (c : Scope) (s : State) : Out :=
  laneLoad (.ldacq z d a sp c) s z d a sp 0 true c

/-- `strel` (R247). -/
def execStrel (z : LSize) (v : LSrc) (a : LSrc) (sp : Space) (c : Scope) (s : State) : Out :=
  laneStore (.strel z v a sp c) s z v a sp 0 true c

/-! ## Atomics -/

def orderAcquires : Order → Bool | .acq | .acqrel => true | _ => false
def orderReleases : Order → Bool | .rel | .acqrel => true | _ => false

/-- A host page takes only the atomics that PCIe carries (R246). -/
def hostAtomOk (loc : Loc) (op : Aop) : Bool :=
  match loc with
  | .host _ => op = .add || op = .exch || op = .cas
  | _ => true

/-- Operand of an atomic that its aop does not read is zero (R243). -/
def atomOperand (e : ReadEnv) (t : Fin 32) (l : Lane) (reads : Bool) (c : BitVec 7) : Except Trap W64 :=
  if reads then
    match LSrc.ofCode c with
    | some r => readSrc e t l r
    | none => .error (0x02, e.word)
  else .ok 0

/-- Every operand of a lane atomic, and its address. -/
def atomReads (e : ReadEnv) (t : Fin 32) (l : Lane) (d : LDst) (a : LSrc) (f : AtomFields) :
    Except Trap (W64 × W64 × W64) :=
  let p := readSrc e t l a
  let b := atomOperand e t l f.aop.readsB f.vb
  let c := atomOperand e t l f.aop.readsC f.vc
  match firstTrap [errOf (readDst e l d), errOf p, errOf b, errOf c] with
  | some x => .error x
  | none => .ok (okOr 0 p, okOr 0 b, okOr 0 c)

/-- `atom` of the lane set (R243–R246). -/
def execAtom (z : ASize) (d : LDst) (a : LSrc) (sp : Space) (f : AtomFields) (s : State) : Out :=
  let i : Instr := .atom z d a sp f
  laneMemory i s sp (aSizeBytes z) .atom true (hostAtomOk · f.aop) 2
    (fun e _ _ t l => (atomReads e t l d a f).map (·.1))
    fun s g ps =>
      let e := laneEnv s g i
      let s := s.spendWork (.lane g 0) (40 * ps.length + 2560 * deviceLines (ps.map (·.2.loc)))
      (ps.foldl (fun (s, done) (t, p) =>
        let id := s.nextId
        let l := (s.gang g).lane t.val
        let (_, b, c) := okOr (0, 0, 0) (atomReads e t l d a f)
        let dst := okOr .none (readDst e l d)
        let s := s.issueAccess (.lane g t.val) p (aSizeBytes z) (.atom f.aop z b c)
          (orderAcquires f.order) (orderReleases f.order) f.scope true (earlier (s.sameHome p.loc) done p.loc (aSizeBytes z))
        let l := (s.gang g).lane t.val
        (s.setGang g ((s.gang g).setLane t.val (l.await [waitFor id dst false])), done ++ [(id, p.loc)]))
        (s, ([] : List (Nat × Loc)))).1

/-! ## Fences and waits -/

/-- A lane word that only moves its threads on. -/
def laneStep (i : Instr) (s : State) (words : Nat) (f : Nat → W32 → State → State) : Out :=
  laneInstr i s fun g m s => (f g m s).mapLanes g m fun _ l => l.advance words

/-- A fence takes effect for one agent (R248): an acquire part invalidates the line cache, and what was
issued before the fence comes before what follows it. -/
def State.fenced (s : State) (a : Agent) (k : FenceKind) (c : Scope) : State :=
  match k with
  | .acq => s.acquired a c
  | .acqrel => (s.follow a (s.pendingOf a)).acquired a c
  | .rel => s.follow a (s.pendingOf a)
  | .zero => s

/-- `fence` (R248): ready once the counters it names are zero. -/
def execFence (k : FenceKind) (c : Scope) (s : State) : Out :=
  laneStep (.fence k c) s 1 fun g m s => (threads m).foldl (fun s t => s.fenced (.lane g t.val) k c) s

/-- `waitc` (R212): ready once both counters are at or below the immediates. -/
def execWaitc (l st : BitVec 4) (s : State) : Out :=
  laneStep (.waitc l st) s 1 fun _ _ s => s

def waitSpace : WSpace → Space | .d => .d | .b => .b | .s => .s | .n => .n

/-- The selector of a destination, read as a source: `waita`'s expected value (R249). -/
def asSource : LDst → LSrc
  | .v n => .v n
  | .vx k => .vx k
  | .vz => .vz

/-- `waita` (R249): its threads start to wait. The PC moves on when the wait ends. -/
def execWaita (a : LSrc) (b : LDst) (c : Scope) (sp : WSpace) (eq : Bool) (timeout : W32) (s : State) :
    Out :=
  laneMemory (.waita a b c sp eq timeout) s (waitSpace sp) 8 .load false (fun _ => true) 0
    (fun e _ _ t l => andRead (readDst e l b) (andRead (readSrc e t l (asSource b)) (readSrc e t l a)))
    fun s g ps =>
      let e := laneEnv s g (.waita a b c sp eq timeout)
      ps.foldl (fun s (t, p) =>
        let l := (s.gang g).lane t.val
        let w : Wait :=
          { kind := .addr p.loc (sp = .d) (okOr 0 (readSrc e t l (asSource b))) (okOr .none (readDst e l b)) eq c p.va,
            since := s.tick, deadline := s.tick + timeout.toNat }
        s.setGang g ((s.gang g).setLane t.val { l with wait := some w })) s

end Sys2Proof.Machine
end

