-- ==== Sys2Proof/Machine/Queues.lean ====
section
/-! DEFINITION. The conductor queues dq and uq (R149–R155) and the lane instructions on them. -/

namespace Sys2Proof.Machine

/-! ## The configuration word (R149) -/

def Queue.depth (q : Queue) : Nat := f64 q.cfg 24 11
def Queue.wide (q : Queue) : Bool := b64 q.cfg 35
def Queue.size (q : Queue) : Nat := if q.wide then 256 else 8
def Queue.base (q : Queue) : Nat := f64 q.cfg 0 24

/-- Slice offset of a slot of entry i (R149); a uniform entry has one. -/
def Queue.slotAt (q : Queue) (i t : Nat) : Nat := q.base + 64 + i % (max 1 q.depth) * q.size + if q.wide then 8 * t else 0

/-- Slice key of a slot of entry i. -/
def Queue.slotKey (q : Queue) (core i t : Nat) : Nat := sliceKey core (q.slotAt i t)

/-- An uncorrectable error in a slot that is popped (R201): STVAL names it by its Basin address. -/
def State.slotError (s : State) (q : Queue) (core i t : Nat) : Option Trap :=
  if q.depth ≠ 0 && s.flawedAt (q.slotKey core i t) 8 then some (0x10, eccValue (n64 (core * 2 ^ 24 + q.slotAt i t)))
  else none

/-- Write index of dq: entries claimed. -/
def Queue.writeIndex (q : Queue) : Nat := q.first + q.entries.length

/-! ## The down queue (R150) -/

/-- Slots whose thread is live or parked. -/
def Gang.liveSlots (x : Gang) : List (Fin 32) := threads x.glive

/-- dq read index: the lowest of any live thread; with none, every entry is free. -/
def Gang.dqRead (x : Gang) : Nat :=
  match (x.liveSlots.map fun t => (x.lane t.val).qr).min? with
  | some n => n
  | none => x.dq.writeIndex

/-- Whether a push into dq need not stall. -/
def Gang.dqRoom (x : Gang) : Bool := decide (x.dq.writeIndex - x.dqRead < x.dq.depth)

/-- Whether a thread's `qpop` finds an entry. -/
def Gang.dqHas (x : Gang) (t : Nat) : Bool := decide ((x.lane t).qr < x.dq.writeIndex)

/-- Entries that every live thread has passed are gone. -/
def Gang.dqTrim (x : Gang) : Gang :=
  let n := x.dqRead - x.dq.first
  { x with dq := { x.dq with first := x.dq.first + min n x.dq.entries.length, entries := x.dq.entries.drop n } }

/-- One entry claimed in dq with its 32 slots' values; a uniform entry takes the first. -/
def State.dqClaim (s : State) (g : Nat) (vals : List W64) (after : List Nat) (charge : Nat) : State :=
  let x := s.gang g
  let i := x.dq.writeIndex
  let core := gangCore g
  let gen := s.genOf (.cond g)
  let put (s : State) (t : Nat) : State := s.storeSlice core (x.dq.slotAt i t) (leBytes 8 (vals.getD t 0).toNat) gen
  let s := (List.range (if x.dq.wide then 32 else 1)).foldl put s
  let e : QEntry := { filled := 0xFFFFFFFF, left := 0, after := after, charge := charge }
  let x := { x with dq := { x.dq with entries := x.dq.entries ++ [e] } }
  s.setGang g x.dqTrim

/-! ## The up queue (R151) -/

/-- An entry of uq completes when every live thread has pushed it. -/
def Gang.uqComplete (x : Gang) (i : Nat) : Bool :=
  x.liveSlots.all fun t => decide (i < (x.lane t.val).qw)

/-- Whether the conductor's `qpop` finds a slot or entry. -/
def Gang.uqHas (x : Gang) : Bool :=
  match x.uq.entries with
  | e :: _ => x.uqComplete x.uq.first && decide (e.left ≠ 0)
  | [] => false

/-- Pops that can complete without stalling (R155). -/
def Gang.uqCount (x : Gang) : Nat :=
  ((List.range x.uq.entries.length).map fun k =>
    if x.uqComplete (x.uq.first + k) then
      match x.uq.entries[k]? with
      | some e => if x.uq.wide then popcount e.left else 1
      | none => 0
    else 0).sum

/-- Whether a thread's `qpush` need not stall. -/
def Gang.uqRoom (x : Gang) (t : Nat) : Bool := decide ((x.lane t).qw - x.uq.first < x.uq.depth)

/-- One thread's push (R151): the value written, the thread a contributor. A uniform entry keeps the
value of its highest-indexed contributor. -/
def State.uqPush (s : State) (g t : Nat) (v : W64) : State :=
  let x := s.gang g
  let l := x.lane t
  let k := l.qw - x.uq.first
  let old : QEntry := (x.uq.entries[k]?).getD { filled := 0, left := 0, after := [], charge := 0 }
  let keeps := !x.uq.wide && (threads old.filled).any fun u => decide (t < u.val)
  let e : QEntry :=
    { old with filled := old.filled ||| oneHot t, left := old.left ||| oneHot t,
               after := old.after ++ s.released (.lane g t) }
  let entries := if k < x.uq.entries.length then modAt (fun _ => e) k x.uq.entries else x.uq.entries ++ [e]
  let s := if keeps then s
    else s.storeSlice (gangCore g) (x.uq.slotAt l.qw t) (leBytes 8 v.toNat) (s.genOf (.lane g t))
  (s.setGang g ({ x with uq := { x.uq with entries := entries } }.setLane t { l with qw := l.qw + 1 })).covers (.lane g t)

/-- The conductor's pop (R151): the value, the accesses it follows and the gang after it. -/
def State.uqPop (s : State) (g : Nat) : W64 × List Nat × State :=
  let x := s.gang g
  match x.uq.entries with
  | [] => (0, [], s)
  | e :: r =>
    let t := ((threads e.left).headD 0).val
    let v := n64 (readLE s.mem (x.uq.slotKey (gangCore g) x.uq.first t) 8)
    let left := if x.uq.wide then e.left &&& ~~~oneHot t else 0
    let uq : Queue :=
      if left = 0 then { x.uq with first := x.uq.first + 1, entries := r }
      else { x.uq with entries := { e with left := left } :: r }
    (v, e.after, s.setGang g { x with uq := uq })

/-- Control words of a queue, as the hardware writes them (R149). -/
def State.writeControl (s : State) (g : Nat) (up : Bool) : State :=
  let x := s.gang g
  let q := if up then x.uq else x.dq
  let k := sliceKey (gangCore g) q.base
  let write := if up then q.first + ((List.range q.entries.length).filter fun i => x.uqComplete (q.first + i)).length
    else q.writeIndex
  let read := if up then q.first else x.dqRead
  let slot := if up then ((q.entries.head?).map fun e => ((threads e.left).headD 0).val).getD 0 else 0
  ((((s.pokeLE k 8 q.cfg.toNat).pokeLE (k + 8) 8 write).pokeLE (k + 16) 8 read).pokeLE (k + 24) 8 slot).pokeLE (k + 32) 32 0

/-- The queue of a gang. -/
def Gang.queue (x : Gang) (up : Bool) : Queue := if up then x.uq else x.dq

/-! ## Lane instructions (R154) -/

/-- Latency of the queue operation class (R83). -/
def queueLatency : Nat := 2

/-- A lane queue instruction: operand reads, then the queue's depth (R152), then its effect. -/
def laneQueue (i : Instr) (s : State) (up : Bool) (chk : State → Nat → ReadEnv → Fin 32 → Lane → Option Trap)
    (go : State → Nat → Fin 32 → State) : Out :=
  laneInstr i s fun g m s =>
    let x := s.gang g
    let e := laneEnv s g i
    match firstFault operandOrder m fun t => chk s g e t (x.lane t.val) with
    | some (c, bad, v) => s.laneFaultBy g bad c v
    | none =>
      if (x.queue up).depth = 0 then s.laneFault g m 0x12 (if up then 1 else 0)
      else ((threads m).foldl (fun s t => go s g t) s).mapLanes g m fun _ l => l.advance 1

/-- `qpop` (R150, R153, R154): ready when the thread's next entry has been claimed. -/
def execQpop (d : LDst) (s : State) : Out :=
  laneQueue (.qpop d) s false
    (fun s g e t l => firstTrap [errOf (readDst e l d), s.slotError (s.gang g).dq (gangCore g) l.qr t.val]) fun s g t =>
    let x := s.gang g
    let l := x.lane t.val
    let e : QEntry :=
      (x.dq.entries[l.qr - x.dq.first]?).getD { filled := 0, left := 0, after := [], charge := 0 }
    let v := n64 (readLE s.mem (x.dq.slotKey (gangCore g) l.qr t.val) 8)
    let dst := okOr .none (readDst (laneEnv s g (.qpop d)) l d)
    let l := { l with qr := l.qr + 1 }.await [result dst (BitVec.allOnes 64) v (s.tick + queueLatency)]
    let q := { x.dq with entries := modAt (fun e => { e with charge := 0 }) (l.qr - 1 - x.dq.first) x.dq.entries }
    let s := s.setGang g (({ x with dq := q }.setLane t.val l).dqTrim)
    (s.spendWork (.lane g t.val) e.charge).follow (.lane g t.val) e.after

/-- `qpush` (R151, R153, R154): ready when uq has room for the thread. -/
def execQpush (a : LSrc) (s : State) : Out :=
  laneQueue (.qpush a) s true (fun _ _ e t l => errOf (readSrc e t l a)) fun s g t =>
    s.uqPush g t.val (okOr 0 (readSrc (laneEnv s g (.qpush a)) t ((s.gang g).lane t.val) a))

/-- `qlen` (R154). -/
def execQlen (d : LDst) (s : State) : Out :=
  laneQueue (.qlen d) s false (fun _ _ e _ l => errOf (readDst e l d)) fun s g t =>
    let x := s.gang g
    let l := x.lane t.val
    let dst := okOr .none (readDst (laneEnv s g (.qlen d)) l d)
    s.setGang g (x.setLane t.val
      (l.await [result dst (BitVec.allOnes 64) (n64 (x.dq.writeIndex - l.qr)) (s.tick + queueLatency)]))

end Sys2Proof.Machine
end

