-- ==== Sys2Proof/Machine/Control.lean ====
section
/-! DEFINITION. Control flow shared by both sets: the call stack with its spills (R130, R324), loops
and their closing (R133, R134), exits (R120), work identifiers (R20) and CSRs (R271). -/

namespace Sys2Proof.Machine

/-! ## Sections -/

/-- The code address a lane thread or U conductor names as `off` words from its PC. -/
def target32 (pc : Nat) (off : Int) : W32 := BitVec.ofInt 32 (pc + off)

/-- Whether a code address lies in the executing section (R125). -/
def Kernel.inSection (k : Kernel) (cond : Bool) (a : W32) : Bool :=
  match k.wordAt cond a.toNat with
  | .word _ => true
  | _ => false

/-- Whether a code address is a function entry of the executing section (R27, R131). -/
def Kernel.isEntry (k : Kernel) (cond : Bool) (a : W32) : Bool :=
  a.getLsbD 31 = cond && k.funcs.any fun f => f.entry = a

/-- Effective call depth (R130). -/
def Kernel.maxDepth (k : Kernel) : Nat := if k.depth = 0 then k.chain else k.depth

/-! ## Call stack entries (R130) -/

/-- An entry of a kernel's call stack as 16 bytes. -/
def Frame.bytes (f : Frame) : List Byte :=
  let x (k : Fin 4) : Nat := f.x[k].bits * 2 ^ (21 * k.val)
  leBytes 4 f.ret.toNat ++ leBytes 12 (x 0 + x 1 + x 2 + x 3)

/-- An entry of an image's call stack as 16 bytes (R324). -/
def Frame.imageBytes (f : Frame) : List Byte := leBytes 8 f.ret.toNat ++ leBytes 8 0

/-- An entry read back. -/
def Frame.ofBytes (bs : List Byte) : Frame :=
  let st := leNat (bs.drop 4)
  let x (k : Nat) : XReg := XReg.ofBits (n64 (st / 2 ^ (21 * k) % 2 ^ 21))
  { ret := n64 (leNat (bs.take 4)), x := #v[x 0, x 1, x 2, x 3] }

def Frame.ofImageBytes (bs : List Byte) : Frame :=
  { ret := n64 (leNat (bs.take 8)), x := Vector.replicate 4 XReg.zero }

/-- The fault of a spill or refill at a TSP in a kernel: misaligned, or outside the scratch. -/
def scratchFault (tsp : W64) (scratch : Nat) : Option Trap :=
  if tsp.toNat % 16 ≠ 0 then some (0x05, tsp)
  else if scratch < tsp.toNat + 16 then some (0x0A, tsp)
  else none

/-- The fault a push would take. -/
def Lane.pushFault (l : Lane) (scratch : Nat) : Option Trap :=
  if 4 ≤ l.stack.length then scratchFault l.tsp scratch else none

/-- The fault a pop would take: STVAL holds TSP, which stays as it is. -/
def Lane.popFault (l : Lane) (scratch : Nat) : Option Trap :=
  if l.stack = [] then (scratchFault (l.tsp - 16) scratch).map fun f => (f.1, l.tsp) else none

/-- The oldest on-chip entry. -/
def oldest (st : List Frame) : Frame := st.getLastD { ret := 0, x := Vector.replicate 4 XReg.zero }

/-- A push on a lane thread's call stack, which spills the oldest of four entries. -/
def State.lanePush (s : State) (g t : Nat) (f : Frame) : State :=
  let x := s.gang g
  let l := x.lane t
  if 4 ≤ l.stack.length then
    let s := s.storeBytes (.slice (gangCore g) (x.scratch + l.tsp.toNat)) (oldest l.stack).bytes l.gen
    let l' := { l with stack := f :: l.stack.dropLast, tsp := l.tsp + 16, cdep := l.cdep + 1 }
    s.setGang g ((s.gang g).setLane t l')
  else s.setGang g (x.setLane t { l with stack := f :: l.stack, cdep := l.cdep + 1 })

/-- The entry a pop takes, and the stack and TSP after it, refilled from the slice when none is on
chip. -/
def Lane.popped (l : Lane) (mem : List Host.Cell) (core scratch : Nat) : Frame × List Frame × W64 :=
  match l.stack with
  | f :: r => (f, r, l.tsp)
  | [] =>
    let tsp := l.tsp - 16
    (Frame.ofBytes (readBytes mem (sliceKey core (scratch + tsp.toNat)) 16), [], tsp)

/-- Loops left when a call depth returns (R134). -/
def closeAt (depth : Nat) (ls : List Loop) : List Loop := ls.filter fun l => decide (l.depth < depth)

/-- A lane thread after a pop: index registers restored, loops opened at the old depth closed. -/
def Lane.pop (l : Lane) (mem : List Host.Cell) (core scratch : Nat) : Lane :=
  let (f, st, tsp) := l.popped mem core scratch
  { l with pc := f.ret.truncate 32, x := f.x, stack := st, tsp := tsp, cdep := l.cdep - 1,
           loops := closeAt l.cdep l.loops,
           pend := l.pend.filter fun p => match p.dst with | .x _ => false | _ => true }

/-- The quotation under which a gang was launched. -/
def State.qidOf (s : State) (g : Nat) : Nat := ((s.launch? (s.gang g).launch).map (·.qid)).getD 0

/-! ## Lazy binding (R289) -/

/-- A stub's resolution has run beyond its allowance of 2,200 clk. -/
def stubLate (now : Nat) (e : W32 × Nat) : Bool := decide (e.2 + 2200 < now)

/-- Resolutions of a gang beyond their allowance: the operating system is at fault (R101, R289). -/
def State.expireStubs (s : State) (g : Nat) : State :=
  let x := s.gang g
  if !x.stubs.any (stubLate s.tick) then s
  else (s.setGang g { x with stubs := x.stubs.filter fun e => !stubLate s.tick e }).charge (s.qidOf g) 2 5 0x21

/-! ## Exit (R120) -/

/-- Lane threads exit: they leave every mask register and close their loops. -/
def Gang.exitLanes (x : Gang) (m : W32) : Gang :=
  let y := x.mapLanes m fun _ l => { l with st := .exited, loops := [], wait := none, held := false }
  { y with m := y.m.map fun k => k &&& ~~~m, parked := y.parked.map fun p => { p with mask := p.mask &&& ~~~m } }

/-- A thread may exit once its outstanding loads and stores are zero. -/
def State.drained (s : State) (a : Agent) : Bool := s.loadsOf a = 0 && s.storesOf a = 0

/-! ## Work identifiers (R18, R20) -/

/-- Level k's field of a WID. -/
def Kernel.widField (k : Kernel) (wid : W64) (level : Nat) : W64 :=
  let lo := (k.widths.take level).sum
  n64 (f64 wid lo (k.widths.getD level 0))

/-- The WID of thread t of a gang. -/
def Gang.threadWid (x : Gang) (t : Nat) : W64 := x.wid ||| n64 t

/-! ## CSRs (R271) -/

/-- Level d of the open loops, the outermost first (R133); a closed one reads 0. -/
def loopCounter (ls : List Loop) (d : Nat) : W64 := ((ls.reverse[d]?).map (·.count)).getD 0

/-- Which CSRs an agent kind holds (R271). DEDUCED (log 32): a row held per `thread, conductor` is one of lane threads
and conductors, so the loop and guard counters and the WID fields are; TSP and CDEP are of Steppe and Saddle threads
too, whose software sets the one and whose other counts on (R324). -/
def csrHeld (c : Nat) (k : CoreKind) : Bool :=
  match k with
  | .lane =>
    (1 ≤ c && c ≤ 7) || (0x10 ≤ c && c ≤ 0x15) || c = 0x20 || (0x40 ≤ c && c ≤ 0x42) || (0x44 ≤ c && c ≤ 0x4B)
  | .cond =>
    c = 1 || c = 2 || (4 ≤ c && c ≤ 7) || (0x10 ≤ c && c ≤ 0x15) || c = 0x20 || (0x30 ≤ c && c ≤ 0x3B) ||
      (0x40 ≤ c && c ≤ 0x42) || (0x44 ≤ c && c ≤ 0x47) || (0x100 ≤ c && c ≤ 0x10D)
  | .steppe =>
    c = 1 || c = 2 || (4 ≤ c && c ≤ 7) || c = 0x20 ||
      (0x100 ≤ c && c ≤ 0x103) || (0x105 ≤ c && c ≤ 0x109) || c = 0x10C || c = 0x10D
  | .saddle =>
    c = 4 || c = 5 || c = 6 || c = 0x20 ||
      (0x101 ≤ c && c ≤ 0x103) || c = 0x105 || c = 0x106 || c = 0x108 || c = 0x109 || c = 0x10C || c = 0x10D ||
      (0x200 ≤ c && c ≤ 0x203) || (0x210 ≤ c && c ≤ 0x21A) || c = 0x220

/-- Which CSRs an agent kind may write (R271). -/
def csrWritable (c : Nat) (k : CoreKind) : Bool :=
  csrHeld c k &&
  match k with
  | .lane => (1 ≤ c && c ≤ 4) || (0x48 ≤ c && c ≤ 0x4B)
  | .cond =>
    c = 1 || c = 2 || c = 4 || (0x30 ≤ c && c ≤ 0x3B) || (0x101 ≤ c && c ≤ 0x103) || c = 0x105 || c = 0x108
  | .steppe =>
    c = 1 || c = 2 || c = 4 || (0x100 ≤ c && c ≤ 0x103) || (0x105 ≤ c && c ≤ 0x109) || c = 0x10C || c = 0x10D
  | .saddle =>
    c = 4 || (0x101 ≤ c && c ≤ 0x103) || c = 0x105 || c = 0x106 || c = 0x108 || c = 0x200 || c = 0x201 ||
      c = 0x203 || c = 0x210 || c = 0x21A || c = 0x220

/-- QID as it reads (R271): 0 once the quotation is voided and the kernel runs on unquoted (R101). -/
def State.boundQid (s : State) (g : Nat) : Nat :=
  match s.quote? (s.qidOf g) with
  | some q => if q.voided then 0 else q.id
  | none => 0

/-- A lane thread's CSR as it reads. -/
def State.laneCsr (s : State) (g t c : Nat) : W64 :=
  let x := s.gang g
  let l := x.lane t
  if c = 1 then l.frm.zeroExtend 64
  else if c = 2 then l.ffl.zeroExtend 64
  else if c = 3 then l.emask.zeroExtend 64
  else if c = 4 then l.tsp
  else if c = 5 then n64 l.cdep
  else if c = 6 then n64 s.tick
  else if c = 7 then n64 (s.boundQid g)
  else if c < 0x16 then (s.kernel g).widField (x.threadWid t) (c - 0x10)
  else if c = 0x20 then 0
  else if c < 0x43 then loopCounter l.loops (c - 0x40)
  else if h : 0x44 ≤ c ∧ c < 0x48 then l.gc[c - 0x44].zeroExtend 64
  else if h : 0x48 ≤ c ∧ c < 0x4C then n64 l.x[c - 0x48].bits
  else 0

/-- A lane thread after a write of one of its CSRs. -/
def Lane.csrWrite (l : Lane) (c : Nat) (v : W64) : Lane :=
  if c = 1 then { l with frm := v.truncate 2 }
  else if c = 2 then { l with ffl := v.truncate 5 }
  else if c = 3 then { l with emask := v.truncate 8 }
  else if c = 4 then { l with tsp := v }
  else if h : 0x48 ≤ c ∧ c < 0x4C then
    { l with x := l.x.set (c - 0x48) (XReg.ofBits v),
             pend := l.pend.filter fun p => p.dst ≠ .x ⟨c - 0x48, by omega⟩ }
  else l

end Sys2Proof.Machine
end

