-- ==== Sys2Proof/Machine/LaneControl.lean ====
section
/-! DEFINITION. Lane control flow, masks, loops, guards, index registers, CSRs (R120, R125–R136,
R142, R143, R280). -/

namespace Sys2Proof.Machine

/-- A lane instruction whose threads may fault one by one: the cause that stands first in `order` parks
its threads, the others stay live at the instruction (R131, R140); else each thread takes its effect. `pre` acts
for the group before that, `failed` is what the threads that take 0x01 have done by then. -/
def laneEachWith (i : Instr) (s : State) (order : List Byte)
    (chk : ReadEnv → State → Nat → Fin 32 → Lane → Option Trap) (pre failed : State → Nat → W32 → State)
    (go : State → Nat → Fin 32 → State) : Out :=
  laneInstr i s fun g m s =>
    let x := s.gang g
    match firstFault order m fun t => chk (laneEnv s g i) s g t (x.lane t.val) with
    | some (c, bad, v) => (if c = 0x01 then failed s g bad else s).laneFaultBy g bad c v
    | none => (threads m).foldl (fun s t => go s g t) (pre s g m)

/-- The same, with nothing done for the group as a whole or by the threads that fault. -/
def laneEach (i : Instr) (s : State) (order : List Byte) (chk : ReadEnv → State → Nat → Fin 32 → Lane → Option Trap)
    (go : State → Nat → Fin 32 → State) : Out :=
  laneEachWith i s order chk (fun s _ _ => s) (fun s _ _ => s) go

/-- The order in which causes of control flow are taken: R36, then those of the call stack. -/
def controlOrder : List Byte := [0x01, 0x02, 0x03, 0x10, 0x0C, 0x0D, 0x05, 0x0A]

/-- One thread of a gang changed. -/
def State.onLane (s : State) (g : Nat) (t : Fin 32) (f : Lane → Lane) : State :=
  s.setGang g ((s.gang g).setLane t.val (f ((s.gang g).lane t.val)))

/-! ## Index registers (R142) -/

/-- An index register once every result has landed. -/
def Lane.finalX (l : Lane) (k : Fin 4) : XReg := (l.pend.foldl Lane.put l).x[k]

/-- The bits of cur (R143). -/
def curMask : W64 := 0x7F

/-- `xset`: the value is seen when the latency ends. -/
def execXset (k : Fin 4) (base count : BitVec 7) (cur : BitVec 6) (s : State) : Out :=
  laneEach (.xset k base count cur) s [] (fun _ _ _ _ _ => none) fun s g t =>
    s.onLane g t fun l =>
      let x : XReg := { base := base, count := count, cur := cur.zeroExtend 7 }
      l.finish 1 [result (.x k) (BitVec.allOnes 64) (n64 x.bits) (s.tick + laneIntLatency)]

/-- `xadd`: cur wraps modulo 128. It counts on from the register as it stands (R142). -/
def execXadd (k : Fin 4) (i : BitVec 7) (s : State) : Out :=
  laneEach (.xadd k i) s [] (fun _ _ _ _ _ => none) fun s g t =>
    s.onLane g t fun l =>
      l.finish 1 [result (.x k) curMask ((l.x[k].cur + i).zeroExtend 64) (s.tick + laneIntLatency)]

/-! ## Branches (R125) -/

/-- A plain or guarded branch's target and whether it lies in the section. -/
def Lane.target (l : Lane) (off : Int) : W32 := target32 l.pc.toNat off

/-- The fault of a taken branch whose target lies outside the section. -/
def outsideFault (s : State) (g : Nat) (a : W32) : Option Trap :=
  if (s.kernel g).inSection false a then none else some (0x01, a.zeroExtend 64)

/-- A lane branch: `cond` says whether a thread takes it. -/
def laneBranch (i : Instr) (s : State) (off : Int) (cond : ReadEnv → Fin 32 → Lane → Except Trap Bool) : Out :=
  laneEach i s controlOrder
    (fun e s g t l =>
      match cond e t l with
      | .error f => some f
      | .ok true => outsideFault s g (l.target off)
      | .ok false => none)
    fun s g t =>
      s.onLane g t fun l =>
        if okOr false (cond (laneEnv s g i) t l) then l.jump (l.target off) else l.advance 1

/-- `br` (R125). -/
def execBr (o : BitVec 24) (s : State) : Out := laneBranch (.br o) s (sx o) fun _ _ _ => .ok true

/-- `brz` (R125). -/
def execBrz (a : LSrc) (o : BitVec 17) (s : State) : Out :=
  laneBranch (.brz a o) s (sx o) fun e t l => (readSrc e t l a).map fun v => v = 0

/-- `brnz` (R125). -/
def execBrnz (a : LSrc) (o : BitVec 17) (s : State) : Out :=
  laneBranch (.brnz a o) s (sx o) fun e t l => (readSrc e t l a).map fun v => v ≠ 0

/-! ## Calls (R130, R131) -/

/-- The faults of a call to a target, once the target is admitted. -/
def callFault (s : State) (g : Nat) (l : Lane) : Option Trap :=
  if (s.kernel g).maxDepth < l.cdep + 1 then some (0x0D, n64 (l.cdep + 1))
  else l.pushFault (s.kernel g).scratch

/-- Energy of a spill or refill: one lane memory access at h = 0 (R83, R131). -/
def spillEnergy : Nat := 90

/-- The energy of an issue group's spills: one access, however many threads spill. -/
def State.spendSpills (s : State) (g : Nat) (m : W32) : State :=
  if (threads m).any fun t => decide (4 ≤ ((s.gang g).lane t.val).stack.length) then s.spendWork (.lane g 0) spillEnergy
  else s

/-- The energy of an issue group's refills. -/
def State.spendRefills (s : State) (g : Nat) (m : W32) : State :=
  if (threads m).any fun t => let l := (s.gang g).lane t.val; decide (l.stack = []) && decide (l.cdep ≠ 0) then
    s.spendWork (.lane g 0) spillEnergy
  else s

/-- A thread calls: the return address and its index registers are pushed. -/
def State.laneCall (s : State) (g : Nat) (t : Fin 32) (a : W32) : State :=
  let l := (s.gang g).lane t.val
  let f : Frame := { ret := l.pc.zeroExtend 64 + 1, x := l.x }
  (s.lanePush g t.val f).onLane g t fun l => { l with pc := a }

/-- `call` (R131). -/
def execCall (o : BitVec 24) (s : State) : Out :=
  laneEachWith (.call o) s controlOrder
    (fun _ s g _ l =>
      match outsideFault s g (l.target (sx o)) with
      | some f => some f
      | none => callFault s g l)
    State.spendSpills (fun s _ _ => s)
    fun s g t => s.laneCall g t (((s.gang g).lane t.val).target (sx o))

/-- `calli` (R131, R132): the threads split by target. -/
def execCalli (a : LSrc) (s : State) : Out :=
  laneEachWith (.calli a) s controlOrder
    (fun e s g t l =>
      match readSrc e t l a with
      | .error f => some f
      | .ok v =>
        if f64 v 32 32 ≠ 0 || !(s.kernel g).isEntry false (v.truncate 32) then some (0x02, v)
        else callFault s g l)
    State.spendSpills (fun s _ _ => s)
    fun s g t =>
      let l := (s.gang g).lane t.val
      s.laneCall g t ((okOr 0 (readSrc (laneEnv s g (.calli a)) t l a)).truncate 32)

/-- A lane thread exits (R120). -/
def State.laneExit (s : State) (g : Nat) (t : Fin 32) : State :=
  s.setGang g ((s.gang g).exitLanes (oneHot t.val))

/-- Threads return: to where the entry says, or with the entry popped and the PC still at their `ret`. -/
def State.lanePop (s : State) (g : Nat) (t : Fin 32) (go : Bool) : State :=
  s.onLane g t fun l =>
    let l' := l.pop s.mem (gangCore g) (s.gang g).scratch
    if go then l' else { l' with pc := l.pc }

/-- `ret` (R131): at depth 0 it behaves as `exit`. A return out of the section faults once the entry is popped. -/
def execRet (s : State) : Out :=
  laneEachWith .ret s controlOrder
    (fun _ s g _ l =>
      if l.cdep = 0 then none
      else
        match l.popFault (s.kernel g).scratch with
        | some f => some f
        | none => outsideFault s g (l.pop s.mem (gangCore g) (s.gang g).scratch).pc)
    State.spendRefills
    (fun s g m => (threads m).foldl (fun s t => s.lanePop g t false) (s.spendRefills g m))
    fun s g t => if ((s.gang g).lane t.val).cdep = 0 then s.laneExit g t else s.lanePop g t true

/-- `exit` (R120): ready once the thread's outstanding loads and stores are zero. -/
def execExit (s : State) : Out :=
  laneEach .exit s [] (fun _ _ _ _ _ => none) fun s g t => s.laneExit g t

/-! ## Masks (R127) -/

/-- A gang with one mask register changed. -/
def Gang.onMask (x : Gang) (k : Fin 12) (f : W32 → W32) : Gang := { x with m := x.m.set k.val (f x.m[k]) }

/-- A mask instruction. -/
def laneMask (i : Instr) (s : State) (k : Fin 12) (f : W32 → W32 → W32) (park : Bool) : Out :=
  laneInstr i s fun g m s =>
    let x := (s.gang g).onMask k (f m)
    s.setGang g (x.mapLanes m fun _ l =>
      let l := l.advance 1
      if park then { l with st := .parkedMask k } else l)

/-- `join` (R127). -/
def execJoin (k : Fin 12) (s : State) : Out := laneMask (.join k) s k (fun g m => m ||| g) false

/-- `leave` (R127). -/
def execLeave (k : Fin 12) (s : State) : Out := laneMask (.leave k) s k (fun g m => m &&& ~~~g) false

/-- `wait` (R127): its threads park at the next word. -/
def execWait (k : Fin 12) (s : State) : Out := laneMask (.wait k) s k (fun g m => m ||| g) true

/-! ## Loops and guards (R133, R135) -/

/-- The fault of a `loop` word: the count beyond its bound, or a fourth nesting. -/
def loopFault (c : W64) (bound : W32) (ls : List Loop) : Option Trap :=
  if c = 0 then none
  else if bound.toNat < c.toNat || 3 ≤ ls.length then some (0x0C, c)
  else none

/-- A lane thread that enters a loop, or skips its body when the count is 0: an enclosing loop that ends there too then
steps or closes, as on any advance (DESIGN CHOICE, log 26). -/
def Lane.enterLoop (l : Lane) (c : W64) (len : BitVec 8) : Lane :=
  if c = 0 then l.advance (2 + len.toNat)
  else
    let start : W64 := l.pc.zeroExtend 64 + 2
    let d : Loop := { count := c, start := start, stop := start + n64 len.toNat, depth := l.cdep }
    { l with pc := start.truncate 32, loops := d :: l.loops }

/-- `loop` (R133). -/
def execLoop (c : LSrc) (len : BitVec 8) (bound : W32) (s : State) : Out :=
  laneEach (.loop c len bound) s controlOrder
    (fun e _ _ t l =>
      match readSrc e t l c with
      | .error f => some f
      | .ok v => loopFault v bound l.loops)
    fun s g t =>
      s.onLane g t fun l => l.enterLoop (okOr 0 (readSrc (laneEnv s g (.loop c len bound)) t l c)) len

/-- `guard` (R135). -/
def execGuard (k : Fin 4) (bound : BitVec 18) (s : State) : Out :=
  laneEach (.guard k bound) s [] (fun _ _ _ _ _ => none) fun s g t =>
    s.onLane g t fun l => { l with gc := l.gc.set k.val bound }.advance 1

/-- A guarded backward branch (R135). -/
def laneGuarded (i : Instr) (s : State) (k : Fin 4) (off : Int)
    (cond : ReadEnv → Fin 32 → Lane → Except Trap Bool) : Out :=
  laneEach i s controlOrder
    (fun e s g t l =>
      match cond e t l with
      | .error f => some f
      | .ok false => none
      | .ok true => if l.gc[k] = 0 then some (0x0C, n64 k.val) else outsideFault s g (l.target off))
    fun s g t =>
      s.onLane g t fun l =>
        if okOr false (cond (laneEnv s g i) t l) then
          { l with gc := l.gc.set k.val (l.gc[k] - 1) }.jump (l.target off)
        else l.advance 1

/-- `bbr` (R135). -/
def execBbr (k : Fin 4) (o : BitVec 11) (s : State) : Out :=
  laneGuarded (.bbr k o) s k (sx o) fun _ _ _ => .ok true

/-- `bbrz` (R135). -/
def execBbrz (k : Fin 4) (a : LSrc) (o : BitVec 11) (s : State) : Out :=
  laneGuarded (.bbrz k a o) s k (sx o) fun e t l => (readSrc e t l a).map fun v => v = 0

/-- `bbrnz` (R135). -/
def execBbrnz (k : Fin 4) (a : LSrc) (o : BitVec 11) (s : State) : Out :=
  laneGuarded (.bbrnz k a o) s k (sx o) fun e t l => (readSrc e t l a).map fun v => v ≠ 0

/-! ## The other control words (R136, R280) -/

/-- `trap` (R280): user trap, the code in STVAL; code 0x21 starts a lazy binding's allowance (R289). -/
def execTrap (code : BitVec 8) (s : State) : Out :=
  laneInstr (.trap code) s fun g m s =>
    let s := s.laneFault g m 0x14 (code.zeroExtend 64)
    if code = 0x21 then
      let x := s.gang g
      s.setGang g { x with stubs := x.stubs ++ [(m, s.tick)] }
    else s

/-- A lane instruction that writes one register with a value of its own. -/
def laneWrite (i : Instr) (s : State) (d : LDst) (bad : Option Trap) (v : State → Nat → Fin 32 → Lane → W64) :
    Out :=
  laneEach i s controlOrder
    (fun e _ _ _ l => match bad with | some f => some f | none => errOf (readDst e l d))
    fun s g t =>
      s.onLane g t fun l =>
        let dst := okOr .none (readDst (laneEnv s g i) l d)
        l.finish 1 [result dst (BitVec.allOnes 64) (v s g t l) (s.tick + laneIntLatency)]

/-- `getwid` (R20, R136). -/
def execGetwid (d : LDst) (k : Fin 6) (s : State) : Out :=
  laneWrite (.getwid d k) s d none fun s g t _ =>
    (s.kernel g).widField ((s.gang g).threadWid t.val) k.val

/-- `csrr` (R43, R136, R271). -/
def execCsrr (d : LDst) (c : BitVec 12) (s : State) : Out :=
  laneWrite (.csrr d c) s d
    (if csrHeld c.toNat .lane then none else some (0x02, firstWord (.csrr d c)))
    fun s g t _ => s.laneCsr g t.val c.toNat

/-- `csrw` (R43, R136, R271): reserved bits are ignored. -/
def execCsrw (a : LSrc) (c : BitVec 12) (s : State) : Out :=
  laneEach (.csrw a c) s controlOrder
    (fun e _ _ t l =>
      if csrWritable c.toNat .lane then errOf (readSrc e t l a) else some (0x02, e.word))
    fun s g t =>
      s.onLane g t fun l =>
        (l.csrWrite c.toNat (okOr 0 (readSrc (laneEnv s g (.csrw a c)) t l a))).advance 1

/-- `nop` (R136). -/
def execNop (s : State) : Out :=
  laneEach .nop s [] (fun _ _ _ _ _ => none) fun s g t => s.onLane g t fun l => l.advance 1

end Sys2Proof.Machine
end

