-- ==== Sys2Proof/Machine/GroupAlu.lean ====
section
/-! DEFINITION. Group integer arithmetic and constants, group opcodes 0x01–0x22 (R156, R173, R174). -/

namespace Sys2Proof.Machine

/-- A context after an instruction that writes one register: the result lands when the latency ends. -/
def State.groupResult (s : State) (a : Agent) (words : Nat) (d : Dst) (v : W64) (latency : Nat) : State :=
  let s := s.advance a words
  let c := s.ctx a
  s.setCtx a
    { c with pend := c.pend ++ (if d = .none then [] else [result d (BitVec.allOnes 64) v (s.tick + latency)]) }

/-- A group instruction that writes one register and does nothing else. -/
def groupWrite (i : Instr) (s : State) (words : Nat) (d : GDst) (latency : Nat) (f : State → Agent → W64) :
    Out :=
  groupInstr i s fun a s => s.groupResult a words (dstG d) (f s a) latency

/-- A two-source group operation on 64 bits, or on the low 32 with the result sign-extended (R173). -/
def wordOp (op : ElementOp) (w : Bool) (a b : W64) : W64 :=
  if w then (op 32 (a.truncate 32) (b.truncate 32) 0).signExtend 64 else op 64 a b 0

/-- A GA instruction (R173). -/
def groupAlu (i : Instr) (s : State) (d : GDst) (a b : GSrc) (w : Bool) (latency : Nat) (op : ElementOp) :
    Out :=
  groupWrite i s 1 d latency fun s g => wordOp op w (readG s g a) (readG s g b)

/-- A GI instruction (R174). -/
def groupImm (i : Instr) (s : State) (d : GDst) (a : GSrc) (v : W64) (op : ElementOp) : Out :=
  groupWrite i s 1 d 1 fun s g => op 64 (readG s g a) v 0

/-- Division (R173): never traps. -/
def elDivs : ElementOp := fun w a b _ => if b = 0 then BitVec.allOnes w else BitVec.ofInt w (a.toInt.tdiv b.toInt)
def elDivu : ElementOp := fun w a b _ => if b = 0 then BitVec.allOnes w else BitVec.ofNat w (a.toNat / b.toNat)
def elRems : ElementOp := fun w a b _ => if b = 0 then a else BitVec.ofInt w (a.toInt.tmod b.toInt)
def elRemu : ElementOp := fun w a b _ => if b = 0 then a else BitVec.ofNat w (a.toNat % b.toNat)

/-- 1 or 0 (R173). -/
def oneIf (w : Nat) (p : Bool) : BitVec w := if p then 1 else 0
def elOneEq : ElementOp := fun w a b _ => oneIf w (a = b)
def elOneNe : ElementOp := fun w a b _ => oneIf w (a ≠ b)
def elOneLts : ElementOp := fun w a b _ => oneIf w (a.toInt < b.toInt)
def elOneLtu : ElementOp := fun w a b _ => oneIf w (a.toNat < b.toNat)

/-! ## Meanings -/

/-- Group `add` (R173). -/
def execGroupAdd (d : GDst) (a b : GSrc) (w : Bool) (s : State) : Out :=
  groupAlu (.groupAdd d a b w) s d a b w 1 elAdd

/-- Group `sub` (R173). -/
def execGroupSub (d : GDst) (a b : GSrc) (w : Bool) (s : State) : Out :=
  groupAlu (.groupSub d a b w) s d a b w 1 elSub

/-- Group `mul` (R173). -/
def execGroupMul (d : GDst) (a b : GSrc) (w : Bool) (s : State) : Out :=
  groupAlu (.groupMul d a b w) s d a b w 3 elMul

/-- Group `mulhs` (R173). -/
def execGroupMulhs (d : GDst) (a b : GSrc) (w : Bool) (s : State) : Out :=
  groupAlu (.groupMulhs d a b w) s d a b w 3 elMulhs

/-- Group `mulhu` (R173). -/
def execGroupMulhu (d : GDst) (a b : GSrc) (w : Bool) (s : State) : Out :=
  groupAlu (.groupMulhu d a b w) s d a b w 3 elMulhu

/-- Group `divs` (R173). -/
def execDivs (d : GDst) (a b : GSrc) (w : Bool) (s : State) : Out :=
  groupAlu (.divs d a b w) s d a b w 20 elDivs

/-- Group `divu` (R173). -/
def execDivu (d : GDst) (a b : GSrc) (w : Bool) (s : State) : Out :=
  groupAlu (.divu d a b w) s d a b w 20 elDivu

/-- Group `rems` (R173). -/
def execRems (d : GDst) (a b : GSrc) (w : Bool) (s : State) : Out :=
  groupAlu (.rems d a b w) s d a b w 20 elRems

/-- Group `remu` (R173). -/
def execRemu (d : GDst) (a b : GSrc) (w : Bool) (s : State) : Out :=
  groupAlu (.remu d a b w) s d a b w 20 elRemu

/-- Group `mins` (R173). -/
def execGroupMins (d : GDst) (a b : GSrc) (w : Bool) (s : State) : Out :=
  groupAlu (.groupMins d a b w) s d a b w 1 elMins

/-- Group `minu` (R173). -/
def execGroupMinu (d : GDst) (a b : GSrc) (w : Bool) (s : State) : Out :=
  groupAlu (.groupMinu d a b w) s d a b w 1 elMinu

/-- Group `maxs` (R173). -/
def execGroupMaxs (d : GDst) (a b : GSrc) (w : Bool) (s : State) : Out :=
  groupAlu (.groupMaxs d a b w) s d a b w 1 elMaxs

/-- Group `maxu` (R173). -/
def execGroupMaxu (d : GDst) (a b : GSrc) (w : Bool) (s : State) : Out :=
  groupAlu (.groupMaxu d a b w) s d a b w 1 elMaxu

/-- Group `and` (R173). -/
def execGroupAnd (d : GDst) (a b : GSrc) (w : Bool) (s : State) : Out :=
  groupAlu (.groupAnd d a b w) s d a b w 1 elAnd

/-- Group `or` (R173). -/
def execGroupOr (d : GDst) (a b : GSrc) (w : Bool) (s : State) : Out :=
  groupAlu (.groupOr d a b w) s d a b w 1 elOr

/-- Group `xor` (R173). -/
def execGroupXor (d : GDst) (a b : GSrc) (w : Bool) (s : State) : Out :=
  groupAlu (.groupXor d a b w) s d a b w 1 elXor

/-- Group `shl` (R173). -/
def execGroupShl (d : GDst) (a b : GSrc) (w : Bool) (s : State) : Out :=
  groupAlu (.groupShl d a b w) s d a b w 1 elShl

/-- Group `shru` (R173). -/
def execGroupShru (d : GDst) (a b : GSrc) (w : Bool) (s : State) : Out :=
  groupAlu (.groupShru d a b w) s d a b w 1 elShru

/-- Group `shrs` (R173). -/
def execGroupShrs (d : GDst) (a b : GSrc) (w : Bool) (s : State) : Out :=
  groupAlu (.groupShrs d a b w) s d a b w 1 elShrs

/-- Group `ceq` (R173). -/
def execGroupCeq (d : GDst) (a b : GSrc) (w : Bool) (s : State) : Out :=
  groupAlu (.groupCeq d a b w) s d a b w 1 elOneEq

/-- Group `cne` (R173). -/
def execGroupCne (d : GDst) (a b : GSrc) (w : Bool) (s : State) : Out :=
  groupAlu (.groupCne d a b w) s d a b w 1 elOneNe

/-- Group `clts` (R173). -/
def execGroupClts (d : GDst) (a b : GSrc) (w : Bool) (s : State) : Out :=
  groupAlu (.groupClts d a b w) s d a b w 1 elOneLts

/-- Group `cltu` (R173). -/
def execGroupCltu (d : GDst) (a b : GSrc) (w : Bool) (s : State) : Out :=
  groupAlu (.groupCltu d a b w) s d a b w 1 elOneLtu

/-- A group destination read as a source. -/
def readGDst (s : State) (a : Agent) : GDst → W64
  | .g n => (s.ctx a).reg n.val
  | .gz => 0

/-- `sel` (R173): ga or gb by the old gd. -/
def execSel (d : GDst) (a b : GSrc) (s : State) : Out :=
  groupWrite (.sel d a b) s 1 d 1 fun s g => if readGDst s g d ≠ 0 then readG s g a else readG s g b

/-- Group `addi` (R174). -/
def execGroupAddi (d : GDst) (a : GSrc) (i : BitVec 9) (s : State) : Out :=
  groupImm (.groupAddi d a i) s d a (i.signExtend 64) elAdd

/-- Group `andi` (R174). -/
def execGroupAndi (d : GDst) (a : GSrc) (i : BitVec 9) (s : State) : Out :=
  groupImm (.groupAndi d a i) s d a (i.signExtend 64) elAnd

/-- Group `ori` (R174). -/
def execGroupOri (d : GDst) (a : GSrc) (i : BitVec 9) (s : State) : Out :=
  groupImm (.groupOri d a i) s d a (i.signExtend 64) elOr

/-- Group `xori` (R174). -/
def execGroupXori (d : GDst) (a : GSrc) (i : BitVec 9) (s : State) : Out :=
  groupImm (.groupXori d a i) s d a (i.signExtend 64) elXor

/-- Group `shli` (R174). -/
def execGroupShli (d : GDst) (a : GSrc) (i : BitVec 6) (s : State) : Out :=
  groupImm (.groupShli d a i) s d a (i.zeroExtend 64) elShl

/-- Group `shrui` (R174). -/
def execGroupShrui (d : GDst) (a : GSrc) (i : BitVec 6) (s : State) : Out :=
  groupImm (.groupShrui d a i) s d a (i.zeroExtend 64) elShru

/-- Group `shrsi` (R174). -/
def execGroupShrsi (d : GDst) (a : GSrc) (i : BitVec 6) (s : State) : Out :=
  groupImm (.groupShrsi d a i) s d a (i.zeroExtend 64) elShrs

/-- `movw` (R156). -/
def execMovw (d : GDst) (i : BitVec 17) (s : State) : Out :=
  groupWrite (.movw d i) s 1 d 1 fun _ _ => i.signExtend 64

/-- `lim` (R156). -/
def execLim (d : GDst) (i : W32) (s : State) : Out :=
  groupWrite (.lim d i) s 2 d 1 fun _ _ => i.signExtend 64

/-- `limh` (R156): the upper half of gd; the lower half stays. -/
def execLimh (d : GDst) (i : W32) (s : State) : Out :=
  groupWrite (.limh d i) s 2 d 1 fun s g => i ++ (readGDst s g d).truncate 32

end Sys2Proof.Machine
end

