-- ==== Sys2Proof/Machine/GroupMemory.lean ====
section
/-! DEFINITION. Group loads, stores, atomics and ordered accesses, `fence`, `waitc`, `waita` (R203, R210,
R212, R243–R249). An instruction here issues when it is ready (Ready.lean). -/

namespace Sys2Proof.Machine

/-- Group memory instructions (R210): one access of one thread, checked as R209 says; a space that the
core kind does not reach is an illegal operand (R203). -/
def groupMemory (i : Instr) (s : State) (sp : Space) (z : Nat) (acc : Acc) (locks : Bool) (allowed : Loc → Bool)
    (words : Nat) (addr : State → Agent → W64) (go : State → Agent → Passed → State) : Out :=
  groupInstr i s fun a s =>
    if !spaceHeld a sp then s.groupFault a 0x02 (firstWord i)
    else
      let va := addr s a
      match s.checkAccess a sp va z acc locks allowed with
      | (s, .error c) => s.groupFaultOf a c va (acc = .store || acc = .atom)
      | (s, .ok p) =>
        let s := go s a p
        if words = 0 then s else s.advance a words

/-- Hops charged for an agent's access (R84). -/
def State.agentHops (s : State) (a : Agent) (sp : Space) : Nat :=
  match agentGang? a with
  | some g => s.chargedHops g sp
  | none => 0

/-- Energy of a group access (R83). -/
def groupAccessEnergy (s : State) (a : Agent) (sp : Space) (p : Passed) : Nat :=
  15 + 4 * s.agentHops a sp + 2560 * deviceLines [p.loc]

/-- Group registers wait for an access (R137). -/
def Ctx.await (c : Ctx) (ps : List Pend) : Ctx := { c with pend := c.pend ++ ps.filter fun p => p.dst ≠ .none }

def State.awaitG (s : State) (a : Agent) (id : Nat) (d : Dst) : State :=
  s.setCtx a ((s.ctx a).await [waitFor id d false])

/-- A group load of 8 bytes, plain or acquire (R210, R247). -/
def groupLoad (i : Instr) (s : State) (d : GDst) (a : GSrc) (sp : Space) (off : Int) (acq : Bool) (c : Scope) :
    Out :=
  groupMemory i s sp 8 .load true (fun _ => true) 1 (fun s g => readG s g a + w64 (off * 8)) fun s g p =>
    let s := s.spendWork g (groupAccessEnergy s g sp p)
    (s.issueAccess g p 8 (.load .dw) acq false c acq []).awaitG g s.nextId (dstG d)

/-- A group store of 8 bytes, plain or release (R210, R247). -/
def groupStore (i : Instr) (s : State) (v : GSrc) (a : GSrc) (sp : Space) (off : Int) (rel : Bool) (c : Scope) :
    Out :=
  groupMemory i s sp 8 .store true (fun _ => true) 1 (fun s g => readG s g a + w64 (off * 8)) fun s g p =>
    let s := s.spendWork g (groupAccessEnergy s g sp p)
    s.issueAccess g p 8 (.store ((readG s g v).zeroExtend 128)) false rel c rel []

/-- Group `ld` (R210). -/
def execGroupLd (d : GDst) (a : GSrc) (sp : Space) (o : BitVec 6) (s : State) : Out :=
  groupLoad (.groupLd d a sp o) s d a sp (sx o) false .thr

/-- Group `st` (R210). -/
def execGroupSt (v : GSrc) (a : GSrc) (sp : Space) (o : BitVec 6) (s : State) : Out :=
  groupStore (.groupSt v a sp o) s v a sp (sx o) false .thr

/-- Group `ldacq` (R247). -/
def execGroupLdacq (d : GDst) (a : GSrc) (sp : Space) (c : Scope) (s : State) : Out :=
  groupLoad (.groupLdacq d a sp c) s d a sp 0 true c

/-- Group `strel` (R247). -/
def execGroupStrel (v : GSrc) (a : GSrc) (sp : Space) (c : Scope) (s : State) : Out :=
  groupStore (.groupStrel v a sp c) s v a sp 0 true c

/-- A 7-bit group field read (R51). -/
def readG7 (s : State) (a : Agent) (n : Nat) : W64 := (s.ctx a).reg n

/-- Group `atom` (R243–R246); an operand that the aop does not read is not read. -/
def execGroupAtom (z : ASize) (d : GDst) (a : GSrc) (sp : Space) (f : AtomFields) (s : State) : Out :=
  groupMemory (.groupAtom z d a sp f) s sp (aSizeBytes z) .atom true (hostAtomOk · f.aop) 2
    (fun s g => readG s g a) fun s g p =>
      let s := s.spendWork g (40 + 2560 * deviceLines [p.loc])
      let b := if f.aop.readsB then readG7 s g f.vb.toNat else 0
      let c := if f.aop.readsC then readG7 s g f.vc.toNat else 0
      (s.issueAccess g p (aSizeBytes z) (.atom f.aop z b c) (orderAcquires f.order) (orderReleases f.order)
        f.scope true []).awaitG g s.nextId (dstG d)

/-- Group `fence` (R248): ready once the counters it names are zero. -/
def execGroupFence (k : FenceKind) (c : Scope) (s : State) : Out :=
  groupInstr (.groupFence k c) s fun a s => (s.fenced a k c).advance a 1

/-- Group `waitc` (R212): ready once each counter is at or below its immediate. -/
def execGroupWaitc (l st c t : BitVec 4) (s : State) : Out :=
  groupInstr (.groupWaitc l st c t) s fun a s => s.advance a 1

/-- A context starts to wait; the PC moves on when the wait ends. A wait that a trap interrupted keeps
its deadline (R276, R281). -/
def State.startWait (s : State) (a : Agent) (k : WaitKind) (timeout : Nat) : State :=
  let c := s.ctx a
  let (deadline, resumed) :=
    match c.resumed with
    | some (pc, d, p) =>
      if c.inHandler then (s.tick + timeout, some (pc, d, p))
      else (if pc = c.pc then d else s.tick + timeout, none)
    | none => (s.tick + timeout, none)
  s.setCtx a
    { c with wait := some { kind := k, since := s.tick, deadline := deadline }, resumed := resumed,
             lastIssue := s.tick }

/-- Group `waita` (R249). -/
def execGroupWaita (a b : Fin 128) (c : Scope) (sp : WSpace) (eq : Bool) (timeout : W32) (s : State) : Out :=
  groupMemory (.groupWaita a b c sp eq timeout) s (waitSpace sp) 8 .load false (fun _ => true) 0
    (fun s g => readG7 s g a.val) fun s g p =>
      s.startWait g (.addr p.loc (sp = .d) (readG7 s g b.val) (.reg b.val) eq c p.va) timeout.toNat

end Sys2Proof.Machine
end

