-- ==== Sys2Proof/Machine/GroupControl.lean ====
section
/-! DEFINITION. Group control flow in kernels and in images, guards, CSRs, traps and the return from a
handler (R120, R125–R136, R271, R272, R279, R280, R324). -/

namespace Sys2Proof.Machine

/-! ## Targets (R125, R131, R324) -/

/-- The address `off` words from the PC of a context. -/
def State.groupTarget (s : State) (a : Agent) (off : Int) : W64 :=
  let pc := (s.ctx a).pc
  if s.inImage a then pc + w64 (4 * off) else (target32 pc.toNat off).zeroExtend 64

/-- A target outside the executing section; code of an image has none (R324). -/
def State.outsideG (s : State) (a : Agent) (t : W64) : Option Trap :=
  match a with
  | .cond g => if s.inImage a || (s.kernel g).inSection true (t.truncate 32) then none else some (0x01, t)
  | _ => none

/-- A group control word: its fault, or its effect. -/
def groupEach (i : Instr) (s : State) (chk : State → Agent → Option Trap) (go : State → Agent → State) : Out :=
  groupInstr i s fun a s =>
    match chk s a with
    | some (c, v) => s.groupFault a c v
    | none => go s a

/-- A group branch. -/
def groupBranch (i : Instr) (s : State) (off : Int) (taken : State → Agent → Bool) : Out :=
  groupEach i s (fun s a => if taken s a then s.outsideG a (s.groupTarget a off) else none) fun s a =>
    if taken s a then s.jump a (s.groupTarget a off) else s.advance a 1

/-- `b` (R125). -/
def execB (o : BitVec 25) (s : State) : Out := groupBranch (.b o) s (sx o) fun _ _ => true

/-- `bz` (R125). -/
def execBz (a : GSrc) (o : BitVec 17) (s : State) : Out :=
  groupBranch (.bz a o) s (sx o) fun s g => readG s g a = 0

/-- `bnz` (R125). -/
def execBnz (a : GSrc) (o : BitVec 17) (s : State) : Out :=
  groupBranch (.bnz a o) s (sx o) fun s g => readG s g a ≠ 0

/-! ## Calls (R130, R131, R324) -/

/-- Where a context's spill or refill goes: its scratch, or at TSP in `.d` in an image; or its fault.
STVAL holds TSP. -/
def State.spillPlace (s : State) (a : Agent) (at_ : W64) (acc : Acc) : State × Except Trap Loc :=
  let tsp := (s.ctx a).tsp
  if s.inImage a then
    match s.checkAccess a .d at_ 16 acc false fun _ => true with
    | (s, .error c) => (s, .error (c, tsp))
    | (s, .ok p) => (s, .ok p.loc)
  else
    match a with
    | .cond g =>
      match scratchFault at_ (s.kernel g).scratch with
      | some (c, _) => (s, .error (c, tsp))
      | none => (s, .ok (.slice (gangCore g) ((s.gang g).scratch + at_.toNat)))
    | _ => (s, .error (0x0A, tsp))

/-- The energy of a context's spill or refill. -/
def State.spendSpill (s : State) (a : Agent) : State := s.spendWork a spillEnergy

/-- A context calls: the return address is pushed, the oldest of four entries spilled. -/
def State.groupCall (s : State) (a : Agent) (target : W64) : State :=
  let c := s.ctx a
  let f : Frame := { ret := c.pc + n64 (s.wordStep a), x := Vector.replicate 4 XReg.zero }
  let enter (s : State) (st : List Frame) (tsp : W64) : State :=
    s.setCtx a { s.ctx a with stack := f :: st, tsp := tsp, cdep := c.cdep + 1, pc := target, lastIssue := s.tick }
  if c.stack.length < 4 then enter s c.stack c.tsp
  else
    match s.spillPlace a c.tsp .store with
    | (s, .error (k, v)) => s.groupFaultOf a k v true
    | (s, .ok loc) =>
      let old := oldest c.stack
      let bytes := if s.inImage a then old.imageBytes else old.bytes
      let s := (s.spendSpill a).storeBytes loc bytes (s.genOf a)
      enter s c.stack.dropLast (c.tsp + 16)

/-- A call deeper than a kernel's depth; an image has no limit (R131, R324). -/
def State.tooDeep (s : State) (a : Agent) : Option Trap :=
  match a with
  | .cond g =>
    let d := (s.ctx a).cdep + 1
    if !s.inImage a && decide ((s.kernel g).maxDepth < d) then some (0x0D, n64 d) else none
  | _ => none

/-- Group `call` (R131). -/
def execGroupCall (o : BitVec 25) (s : State) : Out :=
  groupEach (.groupCall o) s
    (fun s a => (s.outsideG a (s.groupTarget a (sx o))).or (s.tooDeep a))
    fun s a => s.groupCall a (s.groupTarget a (sx o))

/-- The target of `calli`, admitted as a function entry in a kernel (R131). -/
def State.calliFault (s : State) (a : Agent) (v : W64) : Option Trap :=
  match a with
  | .cond g =>
    if s.inImage a || (decide (f64 v 32 32 = 0) && (s.kernel g).isEntry true (v.truncate 32)) then none
    else some (0x02, v)
  | _ => none

/-- Group `calli` (R131). -/
def execGroupCalli (r : GSrc) (s : State) : Out :=
  groupEach (.groupCalli r) s
    (fun s a => (s.calliFault a (readG s a r)).or (s.tooDeep a))
    fun s a => s.groupCall a (readG s a r)

/-- A conductor that exits frees the baton it holds, a handler's too, which goes back to the user set aside; or it no
longer stands aside (R182, R197). -/
def Baton.without (b : Baton) (g : Nat) : Baton :=
  let aside := b.aside.filter (· ≠ g)
  if b.holder = some g then { holder := if b.super then aside else none, super := false, aside := if b.super then none else aside }
  else { b with aside := aside }

/-- The user operation that was paused goes on from its step (R197). -/
def CoreSt.resumeUser (c : CoreSt) (now : Nat) : CoreSt :=
  { c with mx := c.mx.map fun o => if !o.super && o.running then { o with ready := max o.ready now } else o }

def State.dropBaton (s : State) (a : Agent) : State :=
  match a with
  | .cond g =>
    let c := s.core (gangCore g)
    let b := c.baton.without g
    let c := if c.baton.super && !b.super then c.resumeUser s.tick else c
    s.setCore (gangCore g) { c with baton := b }
  | _ => s

/-- A context exits (R120); its loops close. -/
def State.exitCtx (s : State) (a : Agent) : State :=
  (s.setCtx a { s.ctx a with st := .exited, loops := [], wait := none, resumed := none, lastIssue := s.tick }).dropBaton a

/-- `exit` by whatever name: a handler of a compute core has none (R120). -/
def State.groupExit (s : State) (a : Agent) (word : W64) : State :=
  if agentKind a = .cond && (s.ctx a).inImage then s.groupFault a 0x01 word else s.exitCtx a

/-- The context with an entry popped: the caller's loops, one level less. A return out of the section faults
after that (R131). -/
def State.popTo (s : State) (a : Agent) (f : Frame) (st : List Frame) (tsp : W64) : State :=
  let c := s.ctx a
  let c : Ctx :=
    { c with stack := st, tsp := tsp, cdep := c.cdep - 1, loops := closeAt c.cdep c.loops, lastIssue := s.tick }
  match s.outsideG a f.ret with
  | some (k, v) => (s.setCtx a c).groupFault a k v
  | none => s.setCtx a { c with pc := f.ret }

/-- A context returns (R131, R324). -/
def State.groupRet (s : State) (a : Agent) : State :=
  let c := s.ctx a
  match c.stack with
  | f :: r => s.popTo a f r c.tsp
  | [] =>
    match s.spillPlace a (c.tsp - 16) .load with
    | (s, .error (k, v)) => s.groupFaultOf a k v false
    | (s, .ok loc) =>
      let (s, bs) := s.loadBytes loc 16
      let f := if s.inImage a then Frame.ofImageBytes bs else Frame.ofBytes bs
      (s.spendSpill a).popTo a f [] (c.tsp - 16)

/-- Group `ret` (R131): at depth 0 it behaves as `exit`. -/
def execGroupRet (s : State) : Out :=
  groupInstr .groupRet s fun a s =>
    if (s.ctx a).cdep = 0 then s.groupExit a (firstWord .groupRet) else s.groupRet a

/-- Group `exit` (R120): ready once what the thread has outstanding is zero. -/
def execGroupExit (s : State) : Out :=
  groupInstr .groupExit s fun a s => s.groupExit a (firstWord .groupExit)

/-! ## Loops and guards (R133, R135) -/

/-- Group `loop` (R133). With count 0 an enclosing loop that ends where the body does steps or closes, as on any
advance (DESIGN CHOICE, log 26). -/
def execGroupLoop (r : GSrc) (len : BitVec 8) (bound : W32) (s : State) : Out :=
  groupEach (.groupLoop r len bound) s (fun s a => loopFault (readG s a r) bound (s.ctx a).loops) fun s a =>
    let n := readG s a r
    if n = 0 then s.advance a (2 + len.toNat)
    else
      let c := s.ctx a
      let start := c.pc + n64 (2 * s.wordStep a)
      let d : Loop := { count := n, start := start, stop := start + n64 (len.toNat * s.wordStep a), depth := c.cdep }
      s.setCtx a { c with pc := start, loops := d :: c.loops, lastIssue := s.tick }

/-- Group `guard` (R135). -/
def execGroupGuard (k : Fin 4) (bound : BitVec 18) (s : State) : Out :=
  groupInstr (.groupGuard k bound) s fun a s =>
    let c := s.ctx a
    (s.setCtx a { c with gc := c.gc.set k.val bound }).advance a 1

/-- A guarded backward branch (R135). -/
def groupGuarded (i : Instr) (s : State) (k : Fin 4) (off : Int) (cond : State → Agent → Bool) : Out :=
  groupEach i s
    (fun s a =>
      if !cond s a then none
      else if (s.ctx a).gc[k] = 0 then some (0x0C, n64 k.val)
      else s.outsideG a (s.groupTarget a off))
    fun s a =>
      if cond s a then
        let c := s.ctx a
        let t := s.groupTarget a off
        (s.setCtx a { c with gc := c.gc.set k.val (c.gc[k] - 1) }).jump a t
      else s.advance a 1

/-- Group `bbr` (R135). -/
def execGroupBbr (k : Fin 4) (o : BitVec 10) (s : State) : Out :=
  groupGuarded (.groupBbr k o) s k (sx o) fun _ _ => true

/-- Group `bbrz` (R135). -/
def execGroupBbrz (k : Fin 4) (a : GSrc) (o : BitVec 10) (s : State) : Out :=
  groupGuarded (.groupBbrz k a o) s k (sx o) fun s g => readG s g a = 0

/-- Group `bbrnz` (R135). -/
def execGroupBbrnz (k : Fin 4) (a : GSrc) (o : BitVec 10) (s : State) : Out :=
  groupGuarded (.groupBbrnz k a o) s k (sx o) fun s g => readG s g a ≠ 0

/-! ## CSRs (R271) -/

/-- One 8-byte word of the digest. -/
def Sec.digWord (e : Sec) (i : Nat) : W64 := n64 (leNat ((e.dig.drop (8 * i)).take 8))

/-- A CSR as a conductor, Steppe thread or Saddle core reads it. -/
def State.ctxCsr (s : State) (a : Agent) (n : Nat) : W64 :=
  let c := s.ctx a
  let x := s.gang ((agentGang? a).getD 0)
  let d := s.dev
  let onCore := agentKind a = .cond
  if n = 1 then c.frm.zeroExtend 64
  else if n = 2 then c.ffl.zeroExtend 64
  else if n = 4 then c.tsp
  else if n = 5 then n64 c.cdep
  else if n = 6 then n64 s.tick
  else if n = 7 then (match agentGang? a with | some g => n64 (s.boundQid g) | none => 0)
  else if 0x10 ≤ n ∧ n < 0x16 then
    (match agentGang? a with | some g => (s.kernel g).widField x.wid (n - 0x10) | none => 0)
  else if n = 0x20 then n64 c.level.num
  else if h : 0x30 ≤ n ∧ n < 0x3C then x.m[n - 0x30].zeroExtend 64
  else if 0x40 ≤ n ∧ n < 0x43 then loopCounter c.loops (n - 0x40)
  else if h : 0x44 ≤ n ∧ n < 0x48 then c.gc[n - 0x44].zeroExtend 64
  else if n = 0x100 then vectorBase (if onCore then d.ctvb else c.stvb)
  else if n = 0x101 then c.scause
  else if n = 0x102 then c.sepc
  else if n = 0x103 then c.stval
  else if n = 0x104 then x.slanes.zeroExtend 64
  else if n = 0x105 then c.sscr
  else if n = 0x106 then n64 (s.asidOf a)
  else if n = 0x107 then (s.rootOf a).getD 0
  else if n = 0x108 then c.sstat.zeroExtend 64
  else if n = 0x109 then d.sfqb
  else if n = 0x10A then x.splanes.zeroExtend 64
  else if n = 0x10B then x.slpc.zeroExtend 64
  else if n = 0x10C then vectorBase d.ctvb
  else if n = 0x10D then d.satb
  else if n = 0x200 then vectorBase d.ftvb
  else if n = 0x201 then d.fslot.zeroExtend 64
  else if n = 0x202 then d.fhb
  else if n = 0x203 then d.fwdt.zeroExtend 64
  else if n = 0x211 then d.sec.stat.zeroExtend 64
  else if 0x212 ≤ n ∧ n < 0x21A then d.sec.digWord (n - 0x212)
  else if n = 0x21A then d.sec.data
  else if n = 0x220 then d.sec.fmeas.zeroExtend 64
  else 0

/-- SSTAT after a write (R272): the resume mode; on a Steppe thread IE and PL too. -/
def sstatWrite (old : BitVec 8) (v : W64) (steppe : Bool) : BitVec 8 :=
  let w : BitVec 8 := v.truncate 8
  if steppe then
    (old &&& 0x84) ||| (w &&& 0x78) ||| (if w &&& 3 = 0 then 0 else 1)
  else (old &&& 0x8F) ||| (w &&& 0x70)

/-- A context's or the device's CSR written; reserved bits are ignored (R13, R271). -/
def State.writeCsr (s : State) (a : Agent) (n : Nat) (v : W64) : State :=
  let c := s.ctx a
  let put (c : Ctx) : State := s.setCtx a c
  if n = 1 then put { c with frm := v.truncate 2 }
  else if n = 2 then put { c with ffl := v.truncate 5 }
  else if n = 4 then put { c with tsp := v }
  else if h : 0x30 ≤ n ∧ n < 0x3C then
    (match agentGang? a with
     | some g => s.writeMask g ⟨n - 0x30, by omega⟩ v
     | none => s)
  else if n = 0x100 then put { c with stvb := vectorBase v }
  else if n = 0x101 then put { c with scause := v &&& 0x80000000000000FF }
  else if n = 0x102 then put { c with sepc := v }
  else if n = 0x103 then put { c with stval := v }
  else if n = 0x105 then put { c with sscr := v }
  else if n = 0x106 then put { c with sasid := v.truncate 16 }
  else if n = 0x107 then put { c with sptb := v &&& ones 16 36 }
  else if n = 0x108 then put { c with sstat := sstatWrite c.sstat v (agentKind a = .steppe) }
  else if n = 0x109 then s.writeSfqb v
  else if n = 0x10C then { s with dev := { s.dev with ctvb := vectorBase v } }
  else if n = 0x10D then { s with dev := { s.dev with satb := v } }
  else if n = 0x200 then { s with dev := { s.dev with ftvb := vectorBase v } }
  else if n = 0x201 then s.writeFslot v
  else if n = 0x203 then s.writeFwdt v
  else if n = 0x210 then s.secStart (match a with | .saddle k => k | _ => 0) (f64 v 0 4)
  else if n = 0x21A then s.writeSecData v
  else if n = 0x220 then { s with dev := { s.dev with sec := { s.dev.sec with fmeas := v.truncate 4 } } }
  else s

/-- Group `csrr` (R43, R136, R271). -/
def execGroupCsrr (d : GDst) (c : BitVec 12) (s : State) : Out :=
  groupInstr (.groupCsrr d c) s fun a s =>
    if csrHeld c.toNat (agentKind a) then s.groupResult a 1 (dstG d) (s.ctxCsr a c.toNat) 1
    else s.groupFault a 0x02 (firstWord (.groupCsrr d c))

/-- Group `csrw` (R43, R136, R271); SECCMD takes commands 1 to 6 (R302). -/
def execGroupCsrw (r : GSrc) (c : BitVec 12) (s : State) : Out :=
  groupInstr (.groupCsrw r c) s fun a s =>
    let v := readG s a r
    let badCmd := decide (c = 0x210) && !(decide (1 ≤ f64 v 0 4) && decide (f64 v 0 4 ≤ 6))
    if csrWritable c.toNat (agentKind a) && !badCmd then (s.writeCsr a c.toNat v).advance a 1
    else s.groupFault a 0x02 (firstWord (.groupCsrw r c))

/-! ## Traps and the return from a handler (R279, R280) -/

/-- Group `trap` (R280); code 0x21 of a conductor starts a lazy binding's allowance, without lane threads
(R289). -/
def execGroupTrap (code : BitVec 8) (s : State) : Out :=
  groupInstr (.groupTrap code) s fun a s =>
    let stub := decide (code = 0x21) && !(s.ctx a).inHandler
    let s := s.groupFault a 0x14 (code.zeroExtend 64)
    match a, stub with
    | .cond g, true => s.setGang g { s.gang g with stubs := (s.gang g).stubs ++ [(0, s.tick)] }
    | _, _ => s

/-- The words of the instruction or prefix unit at a lane PC (R279). -/
def Kernel.unitLength (k : Kernel) (pc : Nat) : Nat :=
  match unitWords k.laneCode [] 3 pc [] with
  | some (pres, _) => pres.length + 1
  | none =>
    match k.laneCode[pc]? with
    | some w => if twoWords w then 2 else 1
    | none => 1

/-- The fault `eret` or `eret.lanes` takes in a handler of a compute core (R279). -/
def State.eretFault (s : State) (g : Nat) (lanes : Bool) (word : W64) : Option Trap :=
  let x := s.gang g
  let mode := f64 (x.cond.sstat.zeroExtend 64) 4 3
  if 4 < mode || (!lanes && x.slanes ≠ 0) then some (0x02, word)
  else if lanes && mode = 2 then
    let ts := (threads x.slanes).map fun t => x.lane t.val
    if ts.any fun l => l.cdep = 0 then some (0x02, word)
    else ts.findSome? fun l => l.popFault (s.kernel g).scratch
  else none

/-- One reported thread resumed in a mode (R279): live again, or held for the operating system. -/
def State.resumeLane (s : State) (g mode : Nat) (t : Fin 32) : State :=
  let live (l : Lane) : Lane := { l with st := .live }
  match mode with
  | 0 => s.onLane g t live
  | 1 => s.onLane g t fun l => live (l.advance ((s.kernel g).unitLength l.pc.toNat))
  | 2 =>
    s.onLane g t fun l =>
      let l := l.pop s.mem (gangCore g) (s.gang g).scratch
      live { l with pc := l.pc - 1 }
  | 3 => s.onLane g t fun l => { l with held := true }
  | _ => s.setGang g ((s.gang g).exitLanes (oneHot t.val))

/-- The kind 0 record of a forwarded fault (R284). -/
def forwardRecord (s : State) (g : Nat) (cause : Byte) (stval info pc : W64) : Record :=
  { Record.blank 0 cause.toNat with
      asid := s.asidOf (.cond g), core := gangCore g, stval := stval, info := info, qid := s.qidOf g,
      part := gangPart g, slot := gangSlot g, pc := pc }

/-- The wait a trap interrupted, if its instruction issues again (R276): the handler may have moved
SEPC past it. -/
def Ctx.stillResumed (c : Ctx) : Option (W64 × Nat × Bool) := c.resumed.filter fun r => r.1 = c.sepc

/-- A conductor leaves its handler (R279): the level and the PC it saved, and exited again if it was. -/
def Ctx.leave (c : Ctx) : Ctx :=
  { c with level := if f64 (c.sstat.zeroExtend 64) 0 2 = 0 then .u else .s, pc := c.sepc,
           st := if c.sstat.getLsbD 7 then .exited else .live, sstat := c.sstat &&& 0x8B,
           resumed := c.stillResumed }

/-- The lane threads that a trap reported are resumed. -/
def State.resumeReported (s : State) (g mode : Nat) : State :=
  let x := s.gang g
  let low := x.lane ((threads x.slanes).headD 0).val
  let s := if mode = 2 then s.spendRefills g x.slanes else s
  let s := (threads x.slanes).foldl (fun s t => s.resumeLane g mode t) s
  let s :=
    if mode = 3 && x.slanes ≠ 0 then
      s.post (forwardRecord s g low.cause low.stval (x.slanes.zeroExtend 64) (x.slpc.zeroExtend 64))
    else s
  let y := s.gang g
  let rest := y.stubs.map fun (m, t) => (m &&& ~~~x.slanes, t)
  s.setGang g { y with slanes := 0, stubs := rest.filter fun (m, _) => m ≠ 0 }

/-- `eret` and `eret.lanes` on a compute core (R279). -/
def State.eretCore (s : State) (g : Nat) (lanes : Bool) (word : W64) : State :=
  match s.eretFault g lanes word with
  | some (c, v) => s.groupFault (.cond g) c v
  | none =>
    let s := s.expireStubs g
    let c := s.ctx (.cond g)
    let mode := f64 (c.sstat.zeroExtend 64) 4 3
    if lanes then
      let s := s.resumeReported g mode
      let c := s.ctx (.cond g)
      s.setCtx (.cond g) { c.leave with lastIssue := s.tick }
    else if mode = 3 then
      let s := s.post (forwardRecord s g (c.scause.truncate 8) c.stval 0x100000000 c.sepc)
      s.setCtx (.cond g) { c with st := .held, pc := c.sepc, sstat := c.sstat &&& 0x8B, lastIssue := s.tick }
    else
      let x := s.gang g
      s.setGang g { x with stubs := x.stubs.filter (fun e => e.1 ≠ 0), cond := { c.leave with lastIssue := s.tick } }

/-- `eret` on a Steppe or Saddle thread: PL and PC restored, mode ignored (R279). -/
def State.eretOwn (s : State) (a : Agent) : State :=
  let c := s.ctx a
  let level : Level :=
    match a with
    | .saddle _ => .f
    | _ => if f64 (c.sstat.zeroExtend 64) 0 2 = 0 then .u else .s
  s.setCtx a
    { c with level := level, pc := c.sepc, sstat := c.sstat &&& 0x8B, resumed := c.stillResumed,
             lastIssue := s.tick }

/-- A return from a handler. -/
def handlerReturn (i : Instr) (s : State) (lanes : Bool) : Out :=
  groupInstr i s fun a s =>
    match a with
    | .cond g => s.eretCore g lanes (firstWord i)
    | a => s.eretOwn a

/-- `eret` (R279). -/
def execEret (s : State) : Out := handlerReturn .eret s false

/-- `eret.lanes` (R279). -/
def execEretLanes (s : State) : Out := handlerReturn .eretLanes s true

/-- Group `nop` (R136). -/
def execGroupNop (s : State) : Out := groupInstr .groupNop s fun a s => s.advance a 1

/-- `idle` (R136): the thread issues nothing until its wake condition holds. -/
def execIdle (s : State) : Out := groupInstr .idle s fun a s => s.startWait a .idle 0

end Sys2Proof.Machine
end

