-- ==== Sys2Proof/Machine/QueueControl.lean ====
section
/-! DEFINITION. The conductor side of the queues (R149–R155). -/

namespace Sys2Proof.Machine

/-- A conductor queue instruction on a queue of depth 0 takes 0x12 (R152). -/
def condQueue (i : Instr) (s : State) (up : Bool) (go : Nat → State → State) : Out :=
  condInstr i s fun g s =>
    if ((s.gang g).queue up).depth = 0 then s.groupFault (.cond g) 0x12 (if up then 1 else 0) else go g s

/-- Group `qpush` (R150, R155): ready when dq has room. -/
def execGroupQpush (a : GSrc) (s : State) : Out :=
  condQueue (.groupQpush a) s false fun g s =>
    let v := readG s (.cond g) a
    ((s.dqClaim g (List.replicate 32 v) (s.released (.cond g)) 0).covers (.cond g)).advance (.cond g) 1

/-- STVAL of an uncorrectable error in the slot that the conductor pops next (R201). -/
def State.upError (s : State) (g : Nat) : Option W64 :=
  let q := (s.gang g).uq
  match q.entries with
  | e :: _ => (s.slotError q (gangCore g) q.first ((threads e.left).headD 0).val).map (·.2)
  | [] => none

/-- Group `qpop` (R151, R153, R155): ready when a completed entry holds an unpopped slot. -/
def execGroupQpop (d : GDst) (s : State) : Out :=
  condQueue (.groupQpop d) s true fun g s =>
    match s.upError g with
    | some v => s.groupEcc (.cond g) v
    | none =>
      let (v, after, s) := s.uqPop g
      (s.follow (.cond g) after).groupResult (.cond g) 1 (dstG d) v queueLatency

/-- Group `qlen` (R155). -/
def execGroupQlen (up : Bool) (d : GDst) (s : State) : Out :=
  condQueue (.groupQlen up d) s up fun g s =>
    let x := s.gang g
    let n := if up then x.uqCount else x.dq.depth - (x.dq.writeIndex - x.dqRead)
    s.groupResult (.cond g) 1 (dstG d) (n64 n) 1

/-- A depth that a configuration word may hold: a power of two from 2 to 1,024. -/
def depthOk (d : Nat) : Bool := [2, 4, 8, 16, 32, 64, 128, 256, 512, 1024].contains d

/-- A queue is empty when no claimed or completed entry holds an unpopped slot (R155). -/
def Gang.queueEmpty (x : Gang) (up : Bool) : Bool :=
  if up then !x.uqHas else x.liveSlots.all fun t => decide ((x.lane t.val).qr = x.dq.writeIndex)

/-- Bytes a configured queue takes from its base. -/
def Queue.bytes (q : Queue) : Nat := if q.depth = 0 then 0 else 64 + q.depth * q.size

/-- Whether `qcfg` admits a configuration word (R155). -/
def Gang.cfgOk (x : Gang) (up : Bool) (c : W64) : Bool :=
  let q : Queue := { cfg := c, first := 0, entries := [] }
  let o := x.queue (!up)
  decide (f64 c 36 28 = 0) && decide (f64 c 0 6 = 0) &&
    (if q.depth = 0 then decide (q.base = 0) else depthOk q.depth) && x.queueEmpty up &&
    (decide (q.depth = 0) ||
      (decide (x.store ≤ q.base) && decide (q.base + q.bytes ≤ x.store + x.storeBytes) &&
        (decide (q.base + q.bytes ≤ o.base) || decide (o.base + o.bytes ≤ q.base) || decide (o.depth = 0))))

/-- A queue configured: all its indices are 0 (R155). -/
def Gang.configure (x : Gang) (up : Bool) (c : W64) : Gang :=
  let q : Queue := { cfg := c, first := 0, entries := [] }
  let y := x.mapLanes 0xFFFFFFFF fun _ l => if up then { l with qw := 0 } else { l with qr := 0 }
  if up then { y with uq := q } else { y with dq := q }

/-- `qcfg` (R155). With depth 0 there is no queue and no range for control words, and none are written (DESIGN CHOICE,
log 88). -/
def execQcfg (up : Bool) (a : GSrc) (s : State) : Out :=
  condInstr (.qcfg up a) s fun g s =>
    let c := readG s (.cond g) a
    let x := s.gang g
    if x.cfgOk up c then
      let s := s.setGang g (x.configure up c)
      let s := if ((s.gang g).queue up).depth = 0 then s else s.writeControl g up
      s.advance (.cond g) 1
    else s.groupFault (.cond g) 0x12 c

end Sys2Proof.Machine
end

