-- ==== Sys2Proof/Machine/Copy.lean ====
section
/-! DEFINITION. The copy engine: `cpy` and its checks (R213, R214), range locks (R219), granules,
completion and stops (R215, R216, R223, R224). -/

namespace Sys2Proof.Machine

/-! ## The parameter block (R213) -/

/-- Register j of a parameter block. -/
def blockReg (b : List W64) (j : Nat) : W64 := b.getD j 0

/-- The registers of a block as a conductor holds them. -/
def State.block (s : State) (g p n : Nat) : List W64 := (List.range n).map fun j => (s.ctx (.cond g)).reg (p + j)

def spaceOf (w : W64) (lo : Nat) : Option Space := Space.ofCode (w.extractLsb' lo 3)

def copyKind (b : List W64) : Nat := f64 (blockReg b 0) 0 8
def copyType (b : List W64) : Nat := f64 (blockReg b 0) 8 2
def copySrcSpace (b : List W64) : Space := (spaceOf (blockReg b 0) 10).getD .d
def copyDstSpace (b : List W64) : Space := (spaceOf (blockReg b 0) 13).getD .d
def copyScope (b : List W64) : Scope := Scope.ofCode ((blockReg b 0).extractLsb' 16 3)
def copyAdds (b : List W64) : Bool := b64 (blockReg b 0) 19
def copyDoneSpace (b : List W64) : Space := (spaceOf (blockReg b 0) 20).getD .d
def copyCompletes (b : List W64) : Bool := b64 (blockReg b 0) 23
def copyToQueue (b : List W64) : Bool := b64 (blockReg b 0) 24
def copyQueue (b : List W64) : Nat := f64 (blockReg b 0) 25 2
def copySrc (b : List W64) : Nat := (blockReg b 1).toNat
def copyDst (b : List W64) : Nat := (blockReg b 2).toNat
def copyLength (b : List W64) : Nat := f64 (blockReg b 3) 0 32
def copyIndex (b : List W64) : Nat := (blockReg b 4).toNat
def copyDoneAt (b : List W64) : Nat := (blockReg b 5).toNat
def copyDoneValue (b : List W64) : W64 := blockReg b 6
def copyIndexed (b : List W64) : Bool := copyKind b = 3 || copyKind b = 4

/-- Granules of a command (R213). -/
def copyGranules (b : List W64) : Nat := ceilDiv (copyLength b) 64

/-- Register 0 has a legal value. -/
def copyHeadOk (b : List W64) : Bool :=
  let w := blockReg b 0
  decide (f64 w 27 37 = 0) && decide (copyKind b ≤ 4) && decide (copyType b ≠ 3) &&
    (decide (copyType b = 0) || decide (copyKind b = 2)) &&
    (if copyToQueue b then decide (copyKind b = 0) && decide (f64 w 13 3 = 0) else decide (copyQueue b = 0)) &&
    (decide (copyKind b ≠ 1) || decide (f64 w 10 3 = 0)) &&
    (spaceOf w 10).isSome && (spaceOf w 13).isSome && (spaceOf w 20).isSome

/-- The length has a legal value. -/
def copyLengthOk (b : List W64) : Bool :=
  let n := (blockReg b 3).toNat
  let unit := if copyToQueue b then 256 else if copyIndexed b then 64 else 8
  decide (n < 2 ^ 32) && decide (8 ≤ n) && decide (n % unit = 0)

/-- The lowest register of a block outside its legal values (R214 row 1). -/
def copyBadReg (b : List W64) : Option Nat :=
  if !copyHeadOk b then some 0
  else if !copyLengthOk b then some 3
  else if !copyIndexed b && blockReg b 4 ≠ 0 then some 4
  else if !copyCompletes b && blockReg b 5 ≠ 0 then some 5
  else if !copyCompletes b && blockReg b 6 ≠ 0 then some 6
  else if blockReg b 7 ≠ 0 then some 7
  else none

/-- The addresses of a block with the multiple each must be (R213), in the order of R214. -/
def copyAddresses (b : List W64) : List (Nat × Nat) :=
  let unit := if copyIndexed b then 64 else 8
  (if copyKind b = 1 then [] else [(copySrc b, unit)]) ++
    (if copyToQueue b then [] else [(copyDst b, unit)]) ++
    (if copyIndexed b then [(copyIndex b, 4)] else []) ++
    (if copyCompletes b then [(copyDoneAt b, 8)] else [])

/-- Ranges of an operation: space, address, length. -/
abbrev Range := Space × Nat × Nat

/-- The ranges that a command locks (R219). -/
def copyLocks (b : List W64) : List Range :=
  let n := copyLength b
  let src : Range := (copySrcSpace b, copySrc b, n)
  let dst : Range := (copyDstSpace b, copyDst b, n)
  let index : Range := (.s, copyIndex b, 4 * copyGranules b)
  match copyKind b with
  | 1 => [dst]
  | 3 => [index, dst]
  | 4 => [index, src]
  | _ => if copyToQueue b then [src] else [src, dst]

/-- The ranges checked at issue, in the order of R214: source, destination, index list, completion. -/
def copyChecked (b : List W64) : List Range :=
  let n := copyLength b
  (if copyKind b = 1 || copyKind b = 3 then [] else [(copySrcSpace b, copySrc b, n)]) ++
    (if copyToQueue b || copyKind b = 4 then [] else [(copyDstSpace b, copyDst b, n)]) ++
    (if copyIndexed b then [(.s, copyIndex b, 4 * copyGranules b)] else []) ++
    (if copyCompletes b then [(copyDoneSpace b, copyDoneAt b, 8)] else [])

/-! ## Ranges (R203, R219) -/

/-- Granules of a Basin range. -/
def basinSpan (c o n : Nat) : Nat × Nat := (basinGranule c o, basinGranule c (o + n - 1))

/-- How a window is cut into regions: `.n` at the blocks', `.g` at the slots' (R110, R111). -/
def Launch.windowUnit (l : Launch) : Space → Nat
  | .n => l.kernel.scratch
  | .g => 2 ^ 23
  | _ => 0

/-- Granules of the Basin that a piece of `.s`, `.n` or `.g` within one region covers; none where R203 does not
admit it. -/
def Launch.pieceSpan (l : Launch) (x : Site) (sp : Space) (p : Nat × Nat) : Option (Nat × Nat) :=
  let (addr, len) := p
  match sp with
  | .s => if addr + len ≤ l.kernel.scratch then some (basinSpan x.core (x.scratch + addr) len) else none
  | .n => (l.window x.block addr).map fun (c, o) => basinSpan c o len
  | .g => (l.sharing x.block addr len).map fun (c, o, _) => basinSpan c o len
  | _ => none

/-- Granules of the Basin that a range of `.s`, `.n` or `.g` covers, region by region; none where R203 does not
admit all of it. -/
def State.basinSpans (s : State) (x : Site) (sp : Space) (addr len : Nat) : Option (List (Nat × Nat)) :=
  match s.launch? x.launch with
  | none => none
  | some l =>
    if 2 ^ 32 ≤ addr || decide (2 ^ 32 < addr + len) then none
    else ((cutAt (l.windowUnit sp) addr len).map (l.pieceSpan x sp)).mapM id

/-- A piece of a window less what lies beyond the scratch size of its region (R106, R111). -/
def Launch.clipped (l : Launch) (sp : Space) (p : Nat × Nat) : Nat × Nat :=
  let (addr, len) := p
  match sp with
  | .s => (addr, min len (l.kernel.scratch - addr))
  | .g => (addr, min len (l.kernel.scratch - addr % 2 ^ 23))
  | _ => (addr, len)

/-- Granules of the Basin that a range of `.s`, `.n` or `.g` covers, as far as R203 admits it. -/
def State.basinCover (s : State) (x : Site) (sp : Space) (addr len : Nat) : List (Nat × Nat) :=
  match s.launch? x.launch with
  | none => []
  | some l =>
    ((cutAt (l.windowUnit sp) addr (min len (2 ^ 32 - addr))).map (l.clipped sp)).filterMap fun p =>
      if p.2 = 0 then none else l.pieceSpan x sp p

/-- The lock entry of a range. -/
def State.lockOf (s : State) (x : Site) (owner : LockOwner) (r : Range) : RangeLock :=
  let (sp, addr, len) := r
  let plain : List (Nat × Nat) := [(addr / 64, (addr + len - 1) / 64)]
  match sp with
  | .d => { owner := owner, asid := some (((s.launch? x.launch).map (·.asid)).getD 0), spans := plain, since := s.tick, freed := none }
  | .b => { owner := owner, asid := none, spans := plain, since := s.tick, freed := none }
  | sp => { owner := owner, asid := none, spans := s.basinCover x sp addr len, since := s.tick, freed := none }

/-- The first range outside its `.s`, `.n` or `.g` window. -/
def State.outsideWindow (s : State) (x : Site) (rs : List Range) : Option Nat :=
  (rs.find? fun (sp, a, n) =>
    (sp = .s || sp = .n || sp = .g) && (s.basinSpans x sp a n).isNone).map fun (_, a, _) => a

/-- Free entries of a core's range-lock table. -/
def CoreSt.freeLocks (c : CoreSt) : Nat := 64 - (c.locks.filter fun k => k.freed = none).length

/-! ## Issue (R214) -/

/-- The first register of a block of n at or above the declared count, within the block (R48, R214). -/
def blockShort (groups p n : Nat) : Option Nat := if p + n ≤ groups then none else some (groups - p)

/-- The lower of two register numbers. -/
def lowerOf : Option Nat → Option Nat → Option Nat
  | some a, some b => some (min a b)
  | some a, none => some a
  | none, r => r

/-- The fault of a copy command (R214, R253), in the order of its rows. -/
def State.copyFault (s : State) (x : Site) (b : List W64) (short : Option Nat) : Option Trap :=
  match lowerOf short (copyBadReg b) with
  | some j => some (0x02, n64 j)
  | none =>
    match (copyAddresses b).find? fun (a, m) => a % m ≠ 0 with
    | some (a, _) => some (0x05, n64 a)
    | none => (s.outsideWindow x (copyChecked b)).map fun a => (0x0A, n64 a)

/-- The next issue sequence number of a launch on a core (R214). -/
def State.nextCopy (s : State) (launch core : Nat) : Nat × State :=
  match s.launch? launch with
  | none => (1, s)
  | some l =>
    let n := aget 0 core l.copySeq + 1
    (n, s.setLaunch launch { l with copySeq := aput core n l.copySeq })

/-- The owner of a command's locks. -/
def CopyCmd.owner (c : CopyCmd) : LockOwner := if c.xfer then .xfer c.launch c.seq else .copy c.launch c.seq

/-- A command enters the engine: its locks, its place in the order of its launch. -/
def State.copyEnter (s : State) (cmd : CopyCmd) : State :=
  let x := cmd.site
  let locks := (copyLocks cmd.block).map (s.lockOf x cmd.owner)
  let c := s.core x.core
  s.setCore x.core { c with copies := c.copies ++ [cmd], locks := c.locks ++ locks }

/-- The command of a block. -/
def copyCmd (seq part g : Nat) (x : Site) (b : List W64) (gen : Nat) (xfer : Bool)
    (after : List Nat) : CopyCmd :=
  { seq := seq, launch := x.launch, part := part, gang := g, site := x, block := b, gen := gen,
    running := false, stopped := false, done := 0, buf := [], xfer := xfer, after := after,
    due := 0, behind := false, retried := 0, noted := g }

/-- `cpy` (R213, R214): ready while its partition has a place, the table room and the counter is below
15. -/
def execCpy (p : Fin 192) (d : GDst) (s : State) : Out :=
  condInstr (.cpy p d) s fun g s =>
    match s.siteOf (.cond g) with
    | none => s
    | some x =>
      let b := s.block g p.val 8
      match s.copyFault x b (blockShort (s.kernel g).groupRegs p.val 8) with
      | some (c, v) => s.groupFault (.cond g) c v
      | none =>
        let (n, s) := s.nextCopy x.launch x.core
        let cmd := copyCmd n (gangPart g) g x b (s.genOf (.cond g)) false (s.released (.cond g))
        (s.copyEnter cmd).groupResult (.cond g) 1 (dstG d) (n64 n) 1

/-! ## Granules (R213, R215, R223) -/

/-- What an engine's step makes. -/
inductive Stepped
  | done
  /-- nothing yet: room or data is missing -/
  | wait
  | fault (cause : Byte) (addr : W64) (writes : Bool)
  deriving DecidableEq, Repr

/-- The pieces of at most 64 bytes at an address, each with one translation: `.d` is cut at pages, `.b` at slices,
`.n` at the blocks' regions and `.g` at the slots. -/
def State.engineSpan (s : State) (x : Site) (sp : Space) (addr n : Nat) (acc : Acc) :
    State × Except Trap (List (Loc × Nat)) :=
  let unit :=
    match sp with
    | .d => 65536
    | .b => 2 ^ 24
    | sp => ((s.launch? x.launch).map fun l => l.windowUnit sp).getD 0
  let head := if unit = 0 then n else min n (unit - addr % unit)
  match s.engineReach x sp addr head acc with
  | (s, .error c) => (s, .error (c, n64 addr))
  | (s, .ok p) =>
    if head = n then (s, .ok [(p.loc, n)])
    else
      match s.engineReach x sp (addr + head) (n - head) acc with
      | (s, .error c) => (s, .error (c, n64 (addr + head)))
      | (s, .ok q) => (s, .ok [(p.loc, head), (q.loc, n - head)])

/-- The first address, from one on, whose byte in these pieces lies in a word with an uncorrectable error
(R201). -/
def State.flawedSpan (s : State) (addr : Nat) : List (Loc × Nat) → Option Nat
  | [] => none
  | (l, n) :: r =>
    match (List.range n).find? fun k => s.flawedLoc (l.plus k) 1 with
    | some k => some (addr + k)
    | none => s.flawedSpan (addr + n) r

/-- Pieces of an engine's read or write, unless one of their words holds an uncorrectable error: the engine
stops there (R201, R223). -/
def State.soundSpan (s : State) (x : Site) (sp : Space) (addr n : Nat) (acc : Acc) :
    State × Except Trap (List (Loc × Nat)) :=
  match s.engineSpan x sp addr n acc with
  | (s, .error f) => (s, .error f)
  | (s, .ok ps) =>
    match s.flawedSpan addr ps with
    | some a => (s, .error (0x10, n64 a))
    | none => (s, .ok ps)

/-- Bytes read over pieces. -/
def State.readSpan (s : State) (ps : List (Loc × Nat)) : State × List Byte :=
  ps.foldl (fun (s, bs) (l, n) =>
    let (s, more) := s.loadBytes l n
    (s, bs ++ more)) (s, [])

/-- An engine's store: the issuing core's cached lines of device memory are dropped (R208). -/
def State.engineStore (s : State) (core : Nat) (l : Loc) (bs : List Byte) (gen : Nat) : State :=
  let s := s.storeBytes l bs gen
  match l with
  | .dev pa => (s.dropLine core pa).dropLine core (pa + bs.length - 1)
  | _ => s

/-- Bytes written over pieces. -/
def State.writeSpan (s : State) (core gen : Nat) : List (Loc × Nat) → List Byte → State
  | [], _ => s
  | (l, n) :: r, bs => (s.engineStore core l (bs.take n) gen).writeSpan core gen r (bs.drop n)

/-- One element of an add-reduce (R213). -/
def reduceElement (t d e : Nat) : Nat :=
  match t with
  | 0 => (elFadd fmtF32 .rne d e 0).1
  | 1 => (elFadd fmtBf16 .rne d e 0).1
  | _ => (d + e) % 2 ^ 32

/-- Bytes of an add-reduce element. -/
def reduceBytes (t : Nat) : Nat := if t = 1 then 2 else 4

/-- An add-reduce over pieces, each element one indivisible step at its place. -/
def State.reduceSpan (s : State) (core gen t : Nat) (ps : List (Loc × Nat)) (bs : List Byte) : State :=
  (ps.foldl (fun (s, bs) (l, n) =>
    let z := reduceBytes t
    let s := (List.range (n / z)).foldl (fun s k =>
      let (s, old) := s.loadBytes (l.plus (z * k)) z
      let v := reduceElement t (leNat old) (leNat ((bs.drop (z * k)).take z))
      s.engineStore core (l.plus (z * k)) (leBytes z v) gen) s
    (s, bs.drop n)) (s, bs)).1

/-- The i-th index of a gather or scatter list. -/
def State.copyIndexAt (s : State) (x : Site) (b : List W64) (i : Nat) : State × Except Trap Nat :=
  match s.soundSpan x .s (copyIndex b + 4 * i) 4 .load with
  | (s, .error f) => (s, .error f)
  | (s, .ok ps) =>
    let (s, bs) := s.readSpan ps
    (s, .ok (leNat bs))

/-- The address of one side of granule i. -/
def State.copySide (s : State) (x : Site) (b : List W64) (base i : Nat) (indexed : Bool) :
    State × Except Trap Nat :=
  if indexed then
    match s.copyIndexAt x b i with
    | (s, .error f) => (s, .error f)
    | (s, .ok k) => (s, .ok ((base + 64 * k) % 2 ^ 64))
  else (s, .ok ((base + 64 * i) % 2 ^ 64))

/-- The source pieces of granule i; none for a fill. -/
def State.copySources (s : State) (c : CopyCmd) (i n : Nat) : State × Except Trap (List (Loc × Nat)) :=
  let b := c.block
  if copyKind b = 1 then (s, .ok [])
  else
    match s.copySide c.site b (copySrc b) i (copyKind b = 3) with
    | (s, .error f) => (s, .error f)
    | (s, .ok a) => s.soundSpan c.site (copySrcSpace b) a n .load

/-- The destination pieces of granule i; none for a sparsity queue. -/
def State.copyTargets (s : State) (c : CopyCmd) (i n : Nat) : State × Except Trap (List (Loc × Nat)) :=
  let b := c.block
  if copyToQueue b then (s, .ok [])
  else
    match s.copySide c.site b (copyDst b) i (copyKind b = 4) with
    | (s, .error f) => (s, .error f)
    | (s, .ok a) => s.soundSpan c.site (copyDstSpace b) a n (if copyKind b = 2 then .atom else .store)

/-- Energy of a granule (R83). -/
def State.copyEnergy (s : State) (c : CopyCmd) : Nat :=
  let b := c.block
  let ends :=
    (if copyKind b = 1 then [] else [copySrcSpace b]) ++ (if copyToQueue b then [] else [copyDstSpace b])
  if ends.contains .d then 2560
  else 50 + 30 * ((ends.map (s.launchHops c.launch)).foldl max 0)

/-- The command with a key replaced, or removed. -/
def State.setCopy (s : State) (c : CopyCmd) : State :=
  let k := s.core c.site.core
  let same (y : CopyCmd) : Bool := y.launch = c.launch && y.seq = c.seq && y.xfer = c.xfer
  s.setCore c.site.core { k with copies := k.copies.map fun y => if same y then c else y }

/-- An engine's work charged to a launch: a handler's is no part of it (log 19). -/
def State.spendEngine (s : State) (x : Site) (pJ : Nat) : State := if x.level = .u then s.spend x.launch pJ else s

/-- The launch whose granule the engine of a core moved last (R215). -/
def State.served (s : State) (core launch : Nat) : State := s.setCore core { s.core core with turn := some launch }

/-- One granule moved (R213). Every check comes before any byte moves (R223). -/
def State.copyGranule (s : State) (c : CopyCmd) : State × Stepped :=
  let b := c.block
  let core := c.site.core
  let i := c.done
  let n := min 64 (copyLength b - 64 * i)
  match s.copySources c i n with
  | (s, .error (k, v)) => (s, .fault k v false)
  | (s, .ok src) =>
    match s.copyTargets c i n with
    | (s, .error (k, v)) => (s, .fault k v true)
    | (s, .ok dst) =>
      let (s, data) :=
        if copyKind b = 1 then (s, (List.range n).map fun k => (leBytes 8 (blockReg b 1).toNat).getD ((64 * i + k) % 8) 0)
        else s.readSpan src
      let moved (s : State) (buf : List Byte) : State × Stepped :=
        (((s.spendEngine c.site (s.copyEnergy c)).setCopy { c with done := i + 1, buf := buf }).served core c.launch, .done)
      if copyToQueue b then
        let buf := c.buf ++ data
        if buf.length < 256 then moved s buf
        else
          let k := s.core core
          let q := k.sparse.getD (copyQueue b) []
          if 16 ≤ q.length then (s, .wait)
          else moved (s.setCore core { k with sparse := k.sparse.setIfInBounds (copyQueue b) (q ++ [buf]) }) []
      else if copyKind b = 2 then moved (s.reduceSpan core c.gen (copyType b) dst data) []
      else moved (s.writeSpan core c.gen dst data) []

/-- The command of a launch that stands first on a core. -/
def CoreSt.copyHead (c : CoreSt) (launch : Nat) : Option CopyCmd := c.copies.find? fun y => y.launch = launch

/-- Granules moved, up to a limit, until one cannot be. -/
def State.copyRun (s : State) (core launch : Nat) : Nat → State × Stepped
  | 0 => (s, .done)
  | n + 1 =>
    match (s.core core).copyHead launch with
    | none => (s, .wait)
    | some c =>
      match s.copyGranule c with
      | (s, .done) => s.copyRun core launch n
      | r => r

/-! ## Completion and stops (R216, R223) -/

/-- The completion write, if any (R216). -/
def State.copyWriteDone (s : State) (c : CopyCmd) : State × Stepped :=
  let b := c.block
  if !copyCompletes b then (s, .done)
  else
    let a := copyDoneAt b
    match s.engineReach c.site (copyDoneSpace b) a 8 (if copyAdds b then .atom else .store) with
    | (s, .error k) => (s, .fault k (n64 a) true)
    | (s, .ok p) =>
      if s.flawedLoc p.loc 8 then (s, .fault 0x10 (n64 a) true)
      else
      let (s, old) := if copyAdds b then s.loadBytes p.loc 8 else (s, [])
      let v := copyDoneValue b + (if copyAdds b then n64 (leNat old) else 0)
      (s.engineStore c.site.core p.loc (leBytes 8 v.toNat) c.gen, .done)

/-- A lock as its release at a tick leaves it. -/
def RangeLock.release (o : LockOwner) (now : Nat) (k : RangeLock) : RangeLock :=
  if k.owner = o ∧ k.freed = none then { k with freed := some now } else k

/-- The locks of an operation released: the table of the clocks before still holds them (R222). -/
def State.unlock (s : State) (core : Nat) (o : LockOwner) : State :=
  let c := s.core core
  s.setCore core { c with locks := c.locks.map (RangeLock.release o s.tick) }

/-- A command that leaves the engine. -/
def State.copyLeave (s : State) (c : CopyCmd) : State :=
  let core := c.site.core
  let s := s.unlock core c.owner
  let k := s.core core
  let same (y : CopyCmd) : Bool := y.launch = c.launch && y.seq = c.seq && y.xfer = c.xfer
  s.setCore core { k with copies := k.copies.filter fun y => !same y }

/-- A command stops (R223): its record, its charge, and everything it holds kept. -/
def State.copyHalt (s : State) (c : CopyCmd) (cause : Byte) (addr : W64) (writes : Bool) : State :=
  let s := s.setCopy { c with stopped := true, due := 0, noted := c.gang }
  let qid := ((s.launch? c.launch).map (·.qid)).getD 0
  let asid := ((s.launch? c.launch).map (·.asid)).getD 0
  let s := if cause = 0x10 then s.uncorrectable c.site.core asid qid addr else s
  let s := if c.site.level = .u then s.chargeLaunch c.launch cause.toNat addr writes else s
  s.post
    { Record.blank 1 cause.toNat with
        asid := asid, core := c.site.core, stval := addr, info := n64 c.done, qid := qid, part := c.part,
        slot := gangSlot c.gang, pc := n64 c.seq }

/-- Whether the head of a launch's commands runs on. -/
def State.copyRuns (s : State) (core launch : Nat) : Option CopyCmd :=
  ((s.core core).copyHead launch).filter fun c => c.running && !c.stopped && (s.unperformed c.after).isEmpty

/-- Whether a launch has a granule on a core that the engine can move now. -/
def State.copyReady (s : State) (core launch : Nat) : Bool :=
  match s.copyRuns core launch with
  | some c => decide (c.done < copyGranules c.block) && decide ((s.copyGranule c).2 = .done)
  | none => false

/-- The other launches that share the engine of a core now. -/
def State.copyRivals (s : State) (core launch : Nat) : List Nat :=
  (((s.core core).copies.map (·.launch)).eraseDups).filter fun l => l ≠ launch && s.copyReady core l

/-- The launch after one in round-robin order. -/
def nextTurn (turn : Option Nat) (ls : List Nat) : Option Nat :=
  match (ls.filter fun l => match turn with | some t => decide (t < l) | none => true).min? with
  | some l => some l
  | none => ls.min?

/-- Whether the engine of a core serves a launch next: commands of different launches share it by granule,
round-robin (R215). -/
def State.copyTurn (s : State) (core launch : Nat) : Bool :=
  match s.copyRivals core launch with
  | [] => true
  | ls => nextTurn (s.core core).turn (launch :: ls) = some launch

/-- Granules that a command may move before another launch's turn. -/
def State.copySpanNow (s : State) (core : Nat) (c : CopyCmd) : Nat :=
  let left := copyGranules c.block - c.done
  if s.copyRivals core c.launch = [] then left else min 1 left

end Sys2Proof.Machine
end

