-- ==== Sys2Proof/Machine/Streams.lean ====
section
/-! DEFINITION. Stream descriptors (R217, R218, R223, R224). -/

namespace Sys2Proof.Machine

/-- One of a gang's descriptors changed. -/
def Gang.setStream (x : Gang) (k : Fin 4) (d : Stream) : Gang := { x with sd := x.sd.set k.val d }

/-- The descriptor that a block loads, or none where R217 refuses it. -/
def streamOf (b : List W64) (z : BitVec 2) (sp : Space) : Option Stream :=
  let size : Nat := 2 ^ z.toNat
  let c := blockReg b 1
  let s := blockReg b 2
  let t := blockReg b 3
  let s0 := (s.extractLsb' 0 32).toInt
  let s1 := (s.extractLsb' 32 32).toInt
  let s2 := (t.extractLsb' 0 32).toInt
  let ok :=
    decide (f64 c 0 16 ≠ 0) && decide (f64 c 16 16 ≠ 0) && decide (f64 c 32 16 ≠ 0) && decide (f64 c 48 16 = 0) &&
      decide (f64 t 32 32 = 0) && decide (s0 % (size : Int) = 0) && decide (s1 % (size : Int) = 0) && decide (s2 % (size : Int) = 0)
  if ok then
    some { loaded := true, running := false, stopped := false, size := size, space := sp, base := blockReg b 0,
           c0 := f64 c 0 16, c1 := f64 c 16 16, c2 := f64 c 32 16, s0 := s0, s1 := s1, s2 := s2, next := 0,
           level := .u, after := [], noted := 0 }
  else none

/-- `strm` (R217): ready while the descriptor does not run. -/
def execStrm (k : Fin 4) (p : Fin 192) (z : BitVec 2) (sp : Space) (s : State) : Out :=
  condInstr (.strm k p z sp) s fun g s =>
    match streamOf (s.block g p.val 4) z sp with
    | none => s.groupFault (.cond g) 0x02 (firstWord (.strm k p z sp))
    | some d => (s.setGang g ((s.gang g).setStream k d)).advance (.cond g) 2

/-- Elements of a descriptor. -/
def Stream.elements (d : Stream) : Nat := d.c0 * d.c1 * d.c2

/-- Entries of a descriptor (R218). -/
def Stream.entries (d : Stream) : Nat := ceilDiv d.elements 32

/-- Address of element n (R218). -/
def Stream.address (d : Stream) (n : Nat) : W64 :=
  let i0 : Nat := n % d.c0
  let i1 : Nat := n / d.c0 % d.c1
  let i2 : Nat := n / (d.c0 * d.c1)
  d.base + w64 (i0 * d.s0 + i1 * d.s1 + i2 * d.s2)

/-- The span of every element: lowest address and length (R218). -/
def Stream.span (d : Stream) : Nat × Nat :=
  let low (c : Nat) (s : Int) : Int := if s < 0 then ((c : Int) - 1) * s else 0
  let high (c : Nat) (s : Int) : Int := if s < 0 then 0 else ((c : Int) - 1) * s
  let lo : Int := d.base.toNat + low d.c0 d.s0 + low d.c1 d.s1 + low d.c2 d.s2
  let hi : Int := d.base.toNat + high d.c0 d.s0 + high d.c1 d.s1 + high d.c2 d.s2 + d.size
  (lo.toNat, (hi - lo).toNat)

/-- The site of a gang's stream. -/
def State.streamSite (s : State) (g : Nat) (d : Stream) : Option Site :=
  (s.siteOf (.cond g)).map fun x => { x with level := d.level }

/-- The lock of a stream: what of its span its space admits. -/
def State.streamLock (s : State) (x : Site) (g : Nat) (k : Fin 4) (d : Stream) : RangeLock :=
  let (lo, n) := d.span
  s.lockOf x (.stream g k) (d.space, lo, n)

/-- `strmgo` (R218): ready while the descriptor does not run, the counter is below 15 and the table has
an entry free. -/
def execStrmgo (k : Fin 4) (s : State) : Out :=
  condInstr (.strmgo k) s fun g s =>
    let x := s.gang g
    if x.dq.depth = 0 || !x.dq.wide then s.groupFault (.cond g) 0x12 0
    else
      let d : Stream := { x.sd[k] with running := true, stopped := false, next := 0, level := x.cond.level,
                                       after := s.released (.cond g) }
      match s.streamSite g d with
      | none => s
      | some w =>
        let s :=
          if d.entries = 0 then s
          else
            let c := s.core w.core
            let lock := s.streamLock w g k d
            (s.setCore w.core { c with locks := c.locks ++ [lock] }).setGang g (x.setStream k d)
        s.advance (.cond g) 1

/-- One element read as it reaches the engine (R218). -/
def State.streamElement (s : State) (w : Site) (d : Stream) (n : Nat) : State × Except Trap W64 :=
  if d.elements ≤ n then (s, .ok 0)
  else
    let a := d.address n
    match s.soundSpan w d.space a.toNat d.size .load with
    | (s, .error f) => (s, .error f)
    | (s, .ok ps) =>
      let (s, bs) := s.readSpan ps
      (s, .ok (n64 (leNat bs)))

/-- The 32 slots of entry j, or the fault of its first failing element. -/
def State.streamEntry (s : State) (w : Site) (d : Stream) (j : Nat) : State × Except Trap (List W64) :=
  (List.range 32).foldl (fun (s, r) k =>
    match r with
    | .error f => (s, .error f)
    | .ok vs =>
      match s.streamElement w d (32 * j + k) with
      | (s, .error f) => (s, .error f)
      | (s, .ok v) => (s, .ok (vs ++ [v]))) (s, .ok [])

/-- Energy of an entry: four copy granules at the stream's space (R84). -/
def State.streamCharge (s : State) (w : Site) (d : Stream) : Nat :=
  if d.level ≠ .u then 0
  else if d.space = .d then 4 * 2560
  else 4 * (50 + 30 * s.launchHops w.launch d.space)

/-- Whether a descriptor may claim its next entry. -/
def State.streamRuns (s : State) (g : Nat) (k : Fin 4) : Option (Stream × Site) :=
  let d := (s.gang g).sd[k]
  if d.running && !d.stopped && decide (d.next < d.entries) && (s.unperformed d.after).isEmpty then
    (s.streamSite g d).map fun w => (d, w)
  else none

/-- The next entry of a stream claimed (R218); after the last its range is released. -/
def State.streamClaim (s : State) (g : Nat) (k : Fin 4) : State :=
  match s.streamRuns g k with
  | none => s
  | some (d, w) =>
    if !(s.gang g).dqRoom then s
    else
      match s.streamEntry w d d.next with
      | (_, .error _) => s
      | (s, .ok vals) =>
        let last := decide (d.entries ≤ d.next + 1)
        let s := s.setGang g ((s.gang g).setStream k { d with next := d.next + 1, running := !last })
        let s := s.dqClaim g vals [] (s.streamCharge w d)
        if last then s.unlock w.core (.stream g k) else s

/-- Whether a stream's next entry has a failing element. -/
def State.streamStops (s : State) (g : Nat) (k : Fin 4) : Bool :=
  match s.streamRuns g k with
  | none => false
  | some (d, w) => (errOf (s.streamEntry w d d.next).2).isSome

/-- A stream stops before the entry with a failing element (R223). -/
def State.streamHalt (s : State) (g : Nat) (k : Fin 4) : State :=
  match s.streamRuns g k with
  | none => s
  | some (d, w) =>
    match (s.streamEntry w d d.next).2 with
    | .ok _ => s
    | .error (cause, addr) =>
      let s := s.setGang g ((s.gang g).setStream k { d with stopped := true, noted := g })
      let qid := s.qidOf g
      let asid := s.asidOf (.cond g)
      let s := if cause = 0x10 then s.uncorrectable w.core asid qid addr else s
      let s := if d.level = .u then s.chargeLaunch w.launch cause.toNat addr false else s
      s.post
        { Record.blank 2 cause.toNat with
            asid := asid, core := w.core, stval := addr, info := n64 d.next, qid := qid, part := gangPart g,
            slot := gangSlot g, sd := k.val }

/-- The copy counter of a conductor (R212): its commands in the engine and its running streams. -/
def State.copiesOf (s : State) (g : Nat) : Nat :=
  ((s.core (gangCore g)).copies.filter fun c => c.gang = g && !c.xfer).length +
    ((s.gang g).sd.toList.filter fun d => d.running).length

end Sys2Proof.Machine
end

