-- ==== Sys2Proof/Machine/Barriers.lean ====
section
/-! DEFINITION. Named barriers and semaphores (R250, R251), and the arrivals of engines and children. -/

namespace Sys2Proof.Machine

/-! ## The barrier's words (R250) -/

/-- Key of the barrier word of a core's barrier; the status word follows it. -/
def barKey (core b : Nat) : Nat := sliceKey core (barArea + 16 * b)

def State.barWord (s : State) (core b : Nat) : W64 := n64 (readLE s.mem (barKey core b) 8)

def barPhase (w : W64) : Bool := w.getLsbD 63
def barSemaphore (w : W64) : Bool := w.getLsbD 62
def barCount (w : W64) : Nat := f64 w 0 32

/-- A barrier word from its fields. -/
def barBits (phase sem : Bool) (n : Nat) : W64 :=
  (if phase then 1 <<< 63 else 0) ||| (if sem then 1 <<< 62 else 0) ||| n64 n

def State.setBarWord (s : State) (core b : Nat) (w : W64) : State :=
  s.pokeLE (barKey core b) 8 w.toNat

/-- A barrier that no launch owns. -/
def Bar.free : Bar := { owner := none, expected := 0, timeout := 0, after := [] }

def State.bar (s : State) (core b : Nat) : Bar := aget Bar.free b (s.core core).bars

def State.setBar (s : State) (core b : Nat) (x : Bar) : State :=
  let c := s.core core
  s.setCore core { c with bars := aput b x c.bars }

/-! ## The end of a wait -/

/-- A context's wait ends: gd is written and the PC moves on; its instruction issued when the wait
began. -/
def State.endWait (s : State) (a : Agent) (d : Dst) (v : W64) : State :=
  let c := s.ctx a
  let s := (s.setCtx a { c with wait := none }).groupResult a 1 d v 1
  s.setCtx a { s.ctx a with lastIssue := c.lastIssue }

/-- One wait before another: by clock, then partition and gang slot. -/
def Wait.before (x y : Nat × Wait) : Bool :=
  decide (x.2.since < y.2.since) || (decide (x.2.since = y.2.since) && decide (x.1 ≤ y.1))

/-- A wait put in its place in an ordered list. -/
def Wait.insert (x : Nat × Wait) : List (Nat × Wait) → List (Nat × Wait)
  | [] => [x]
  | y :: r => if Wait.before x y then x :: y :: r else y :: Wait.insert x r

/-- The waits of a core's conductors that one test picks, in the order of their issue: clock, then
partition, then gang slot (R251). -/
def State.waiters (s : State) (core : Nat) (p : WaitKind → Bool) : List (Nat × Wait) :=
  let here := s.gangs.filterMap fun (g, x) =>
    match x.cond.wait with
    | some w => if gangCore g = core && p w.kind then some (g, w) else none
    | none => none
  here.foldr Wait.insert []

/-- A parked wait of a barrier ends without its timeout: an acquire of what the arrivals released
(R225, R230). -/
def State.releaseWaiter (s : State) (g : Nat) (d : Dst) (after : List Nat) : State :=
  ((s.endWait (.cond g) d 0).follow (.cond g) after).sync (.cond g)

/-- The destination of a barrier wait. -/
def WaitKind.barDst (b : Nat) : WaitKind → Option Dst
  | .bar k _ d => if k.val = b then some d else none
  | .take k d => if k.val = b then some d else none
  | _ => none

def WaitKind.onBar (b : Nat) : WaitKind → Bool
  | .bar k _ _ => k.val = b
  | _ => false

def WaitKind.onTake (b : Nat) : WaitKind → Bool
  | .take k _ => k.val = b
  | _ => false

/-! ## Arrivals, posts and takes (R251) -/

/-- One arrival, counted: at the expected count the phase flips and the parked waits end. -/
def State.barArrival (s : State) (core b : Nat) (after : List Nat) : State :=
  let w := s.barWord core b
  let x := s.bar core b
  let released := s.unperformed (x.after ++ after)
  let n := (barCount w + 1) % 2 ^ 32
  let s := s.setBar core b { x with after := released }
  if n = x.expected.toNat then
    let s := s.setBarWord core b (barBits (!barPhase w) false 0)
    (s.waiters core (WaitKind.onBar b)).foldl (fun s (g, k) =>
      s.releaseWaiter g ((k.kind.barDst b).getD .none) released) s
  else s.setBarWord core b (barBits (barPhase w) false n)

/-- Parked takes served while the value lasts: the requests of a clock at its end, by partition and gang slot; a
barrier that `bar.init` has put in barrier mode meanwhile holds no value (R251). -/
def State.serveTakes (s : State) (core b : Nat) : State :=
  (s.waiters core (WaitKind.onTake b)).foldl (fun s (g, k) =>
    let w := s.barWord core b
    if barCount w = 0 || !barSemaphore w then s
    else
      (s.setBarWord core b (barBits (barPhase w) true (barCount w - 1))).releaseWaiter g
        ((k.kind.barDst b).getD .none) (s.bar core b).after) s

/-- The arrival of an engine or a child (R250): discarded where its launch does not own the barrier. -/
def State.unitArrival (s : State) (core b launch : Nat) (after : List Nat) : State :=
  if (s.bar core b).owner = some launch && !barSemaphore (s.barWord core b) then s.barArrival core b after
  else s.countError core

/-- A conductor records the phase it sees (R250). -/
def State.recordPhase (s : State) (g b : Nat) : State :=
  let c := s.ctx (.cond g)
  s.setCtx (.cond g) { c with phases := aput b (barPhase (s.barWord (gangCore g) b)) c.phases }

/-- The phase a conductor's wait compares with: the recorded one, or the present one where it has none. -/
def State.phaseSeen (s : State) (g b : Nat) : Bool :=
  aget (barPhase (s.barWord (gangCore g) b)) b (s.ctx (.cond g)).phases

/-! ## Meanings -/

/-- A `bar` word: the owner is checked (R250), then `go`. -/
def barInstr (i : Instr) (s : State) (b : Fin 96) (init : Bool) (go : Nat → State → State) : Out :=
  condInstr i s fun g s =>
    let owner := (s.bar (gangCore g) b.val).owner
    if owner = some (s.gang g).launch || (init && owner.isNone) then go g s
    else s.groupFault (.cond g) 0x0A (n64 b.val)

/-- A `bar` word of one of the two modes: the wrong mode gives 0x02 (R251). -/
def barMode (i : Instr) (s : State) (b : Fin 96) (sem : Bool) (go : Nat → State → State) : Out :=
  barInstr i s b false fun g s =>
    if barSemaphore (s.barWord (gangCore g) b.val) = sem then go g s else s.groupFault (.cond g) 0x02 (firstWord i)

/-- `bar.init` (R251). -/
def execBarInit (b : Fin 96) (a : GSrc) (s : State) : Out :=
  barInstr (.barInit b a) s b true fun g s =>
    let v := readG s (.cond g) a
    let timeout := f64 v 32 32
    if timeout = 0 then s.groupFault (.cond g) 0x02 (firstWord (.barInit b a))
    else if (s.kernel g).barCeiling.toNat < timeout then s.groupFault (.cond g) 0x0C (n64 timeout)
    else
      let core := gangCore g
      let x : Bar := { owner := some (s.gang g).launch, expected := v.truncate 32, timeout := BitVec.ofNat 32 timeout,
                       after := s.unperformed (s.bar core b.val).after }
      let w := s.barWord core b.val
      let s := (s.setBar core b.val x).setBarWord core b.val (barBits (barPhase w) (decide (f64 v 0 32 = 0)) 0)
      (s.recordPhase g b.val).advance (.cond g) 1

/-- `bar.arrive` (R251). -/
def execBarArrive (b : Fin 96) (s : State) : Out :=
  barMode (.barArrive b) s b false fun g s =>
    (((s.recordPhase g b.val).covers (.cond g)).barArrival (gangCore g) b.val (s.released (.cond g))).advance (.cond g) 1

/-- A wait for a phase: over at once where it has flipped, else parked until the timeout. -/
def State.awaitPhase (s : State) (g : Nat) (b : Fin 96) (seen : Bool) (d : Dst) : State :=
  let core := gangCore g
  let x := s.bar core b.val
  let s := s.startWait (.cond g) (.bar b seen d) x.timeout.toNat
  if barPhase (s.barWord core b.val) ≠ seen then s.releaseWaiter g d x.after else s

/-- A wait that a trap interrupted and whose instruction issues again (R276): its recorded phase. -/
def Ctx.reissued (c : Ctx) : Option Bool :=
  match c.resumed with
  | some (pc, _, phase) => if !c.inHandler && pc = c.pc then some phase else none
  | none => none

/-- `bar.wait` (R251). -/
def execBarWait (b : Fin 96) (d : GDst) (s : State) : Out :=
  barMode (.barWait b d) s b false fun g s =>
    s.awaitPhase g b (((s.ctx (.cond g)).reissued).getD (s.phaseSeen g b.val)) (dstG d)

/-- `bar.sync` (R251): arrives, then waits; issued again after a trap it does not arrive again. -/
def execBarSync (b : Fin 96) (d : GDst) (s : State) : Out :=
  barMode (.barSync b d) s b false fun g s =>
    match (s.ctx (.cond g)).reissued with
    | some seen => s.awaitPhase g b seen (dstG d)
    | none =>
      let seen := barPhase (s.barWord (gangCore g) b.val)
      let s := ((s.recordPhase g b.val).covers (.cond g)).barArrival (gangCore g) b.val (s.released (.cond g))
      s.awaitPhase g b seen (dstG d)

/-- `bar.post` (R251): parked takes are served as the clock ends. -/
def execBarPost (b : Fin 96) (a : GSrc) (s : State) : Out :=
  barMode (.barPost b a) s b true fun g s =>
    let core := gangCore g
    let w := s.barWord core b.val
    let n := min 0xFFFFFFFF (barCount w + f64 (readG s (.cond g) a) 0 32)
    let x := s.bar core b.val
    let s := s.setBar core b.val { x with after := s.unperformed (x.after ++ s.released (.cond g)) }
    let s := s.setBarWord core b.val (barBits (barPhase w) true n)
    (s.covers (.cond g)).advance (.cond g) 1

/-- `bar.take` (R251): it parks, and is served in its turn as a clock ends, this one at the earliest. -/
def execBarTake (b : Fin 96) (d : GDst) (s : State) : Out :=
  barMode (.barTake b d) s b true fun g s =>
    s.startWait (.cond g) (.take b (dstG d)) (s.bar (gangCore g) b.val).timeout.toNat

/-- The semaphores of a core that a parked take names. -/
def State.takenBars (s : State) (core : Nat) : List Nat :=
  ((s.waiters core fun k => match k with | .take _ _ => true | _ => false).filterMap fun e =>
    match e.2.kind with
    | .take b _ => some b.val
    | _ => none).eraseDups

/-- Every parked take of a core that its semaphore's value serves. -/
def State.serveSemaphores (s : State) (core : Nat) : State := (s.takenBars core).foldl (fun s b => s.serveTakes core b) s

/-- gd + 1 of an instruction that writes a pair of registers. -/
def nextDst (d : GDst) : Dst :=
  match d with
  | .g n => .reg (n.val + 1)
  | .gz => .none

/-- A context after an instruction that writes gd and gd + 1. -/
def State.groupPair (s : State) (a : Agent) (d : GDst) (lo hi : W64) : State :=
  let s := s.groupResult a 1 (dstG d) lo 1
  let c := s.ctx a
  s.setCtx a { c with pend := c.pend ++ [result (nextDst d) (BitVec.allOnes 64) hi (s.tick + 1)] }

/-- `bar.stat` (R251): what it reads was released by the arrivals counted (R230). -/
def execBarStat (b : Fin 96) (d : GDst) (s : State) : Out :=
  barInstr (.barStat b d) s b false fun g s =>
    let core := gangCore g
    let status := n64 (readLE s.mem (barKey core b.val + 8) 8)
    ((s.recordPhase g b.val).groupPair (.cond g) d (s.barWord core b.val) status).follow (.cond g) (s.bar core b.val).after

/-! ## The timeout (R251) -/

/-- A parked wait, sync or take at its deadline returns 1. -/
def execBarWaitTimeout (g : Nat) (s : State) : Out :=
  match (s.gang g).cond.wait with
  | none => .next s
  | some w =>
    match w.kind with
    | .bar _ _ d | .take _ d =>
      if w.deadline ≤ s.tick && !s.frozen g then .next (s.endWait (.cond g) d 1) else .next s
    | _ => .next s

/-- A clock ends: a wait, sync or take whose deadline has come returns 1, where nothing has ended it before. -/
def State.barDeadline (s : State) (g : Nat) : State :=
  match execBarWaitTimeout g s with
  | .next t => t
  | _ => s

end Sys2Proof.Machine
end

