-- ==== Sys2Proof/Machine/Classes.lean ====
section
/-! DEFINITION. The class table of R83. -/

namespace Sys2Proof.Machine

/-! ## The classes of R83 -/

/-- A row of R83. -/
inductive Class
  | groupAlu
  | laneInt
  | laneFp
  | laneTrans
  | pack
  | laneMem
  | groupMem
  | laneQueue
  | groupQueue
  | atomic
  | groupAtomic
  | copy
  | matrix
  deriving DecidableEq, Repr

/-- The class of an instruction, by its first word. -/
def classOf (w : W32) : Class :=
  let op := opcodeOf w
  if bit w 31 then
    match op with
    | 0x23 | 0x24 | 0x25 | 0x26 | 0x35 | 0x38 | 0x39 => .groupMem
    | 0x27 | 0x3A => .groupAtomic
    | 0x2D => if fld w 20 5 = 3 then .groupAlu else .groupQueue
    | 0x30 => .matrix
    | 0x32 => .copy
    | _ => .groupAlu
  else
    match op with
    | 0x25 | 0x26 | 0x27 | 0x28 | 0x29 | 0x2A | 0x2B | 0x2C | 0x2D | 0x2E | 0x30 => .laneFp
    | 0x2F => if 2 ≤ (fld w 1 7).toNat ∧ (fld w 1 7).toNat ≤ 9 then .laneTrans else .laneFp
    | 0x31 | 0x32 => .pack
    | 0x35 | 0x36 | 0x37 | 0x38 => .laneMem
    | 0x39 => .atomic
    | 0x3C => .laneQueue
    | _ => .laneInt

/-- Issue clocks of a lane class: full and narrow. -/
def Class.issue : Class → Nat × Nat
  | .laneTrans => (8, 4)
  | .pack => (4, 2)
  | .laneInt | .laneFp | .laneMem | .laneQueue | .atomic => (2, 1)
  | .groupAlu | .groupMem | .groupAtomic | .groupQueue | .copy | .matrix => (1, 1)

/-- Latency of a class that no address moves; the multiply and divide words of the group set have their
own. -/
def Class.latency (c : Class) (w : W32) : Nat :=
  match c with
  | .groupAlu =>
    if opcodeOf w = 3 ∨ opcodeOf w = 4 ∨ opcodeOf w = 5 then 3
    else if 6 ≤ opcodeOf w ∧ opcodeOf w ≤ 9 then 20
    else 1
  | .laneInt => 4
  | .laneFp => 6
  | .laneTrans => 14
  | .pack => 8
  | .laneQueue | .groupQueue => 2
  | _ => 1

end Sys2Proof.Machine
end

