-- ==== Sys2Proof/Machine/LaneBlock.lean ====
section
/-! DEFINITION. Block floating point (R175–R178) and its lane instructions `bfpk` and `bfpu`
(R179–R181). -/

namespace Sys2Proof.Machine

/-- A format word's fields (R175). -/
structure Format where
  coded : Bool
  fp4 : Bool
  mode : RMode
  /-- block length n -/
  len : Nat
  /-- mantissa width m -/
  width : Nat
  deriving DecidableEq, Repr

/-- The checks of R175; a coded word is legal only where `codes` says so. -/
def Format.ofWord (v : W64) (codes : Bool) : Option Format :=
  let coded := b64 v 9
  let fp4 := b64 v 8
  let m := f64 v 0 4
  let ok := decide (f64 v 10 54 = 0) && (codes || !coded) && !(coded && fp4) &&
    decide (f64 v 6 2 < 2) && decide (f64 v 4 2 < 3) && decide (2 ≤ m) && decide (m ≤ 8) &&
    (!fp4 || decide (m = 4)) && (!coded || decide (m = 8))
  if ok then
    some { coded := coded, fp4 := fp4, mode := if b64 v 6 then .rtz else .rne,
           len := 8 * 2 ^ f64 v 4 2, width := m }
  else none

/-- Bits an element takes in its plane: 4 in FP4 and coded modes (R176). -/
def Format.elBits (f : Format) : Nat := if f.fp4 || f.coded then 4 else f.width

/-- floor(log2) of a finite nonzero value. -/
def FVal.top : FVal → Option Int
  | .fin _ m e => if m = 0 then none else some (e + bitLen m - 1)
  | _ => none

/-- The magnitude code of E2M1 nearest to m × 2^e (R178), and whether it is inexact or saturated. -/
def e2m1Round (mode : RMode) (m : Nat) (e : Int) : Nat × Bool :=
  if m = 0 then (0, false)
  else
    let q : Int := max (e + bitLen m - 2) (-1)
    let (n, inexact) := roundTo mode false m e q false
    let bits := ((q + 1) * 2 + n).toNat
    if 7 < bits then (7, true) else (bits, inexact)

/-- One packed element: its field and whether it is inexact or saturated (R177, R178). -/
def packElement (f : Format) (scale : Nat) (v : FVal) : Nat × Bool :=
  match v with
  | .fin neg m e =>
    if f.fp4 then
      let (c, bad) := e2m1Round f.mode m (e + 127 - scale)
      ((if neg && decide (c ≠ 0) then c + 8 else c), bad)
    else
      let (k, inexact) := roundInt f.mode neg m (e + (f.width - 1) - (scale - 127)) false
      let i : Int := if neg then -(k : Int) else k
      let lo : Int := -(2 ^ (f.width - 1))
      let hi : Int := 2 ^ (f.width - 1) - 1
      let r := min hi (max lo i)
      ((r % 2 ^ f.width).toNat, inexact || decide (r ≠ i))
  | _ => (0, false)

/-- A packed block: its exponent, its fields, and which are inexact (R177, R178). -/
def packBlock (f : Format) (xs : List FVal) : Nat × List (Nat × Bool) :=
  if xs.any fun x => match x with | .fin _ _ _ => false | _ => true then
    (255, xs.map fun _ => (0, false))
  else
    match (xs.filterMap FVal.top).max? with
    | none => (0, xs.map fun _ => (0, false))
    | some emax =>
      let scale := (min 254 (max 1 (emax + if f.fp4 then 125 else 128))).toNat
      (scale, xs.map (packElement f scale))

/-- The magnitude of an E2M1 code as m × 2^−1. -/
def e2m1Half (c : Nat) : Nat :=
  match c % 8 with
  | 0 => 0 | 1 => 1 | 2 => 2 | 3 => 3 | 4 => 4 | 5 => 6 | 6 => 8 | _ => 12

/-- The value of a field under a block exponent (R176), for plain and FP4 elements. -/
def unpackElement (f : Format) (scale field : Nat) : FVal :=
  if scale = 255 then .nan false
  else if f.fp4 then .fin (decide (8 ≤ field)) (e2m1Half field) ((scale : Int) - 128)
  else
    let neg := decide (2 ^ (f.width - 1) ≤ field)
    .fin neg (if neg then 2 ^ f.width - field else field) ((scale : Int) - 127 - (f.width - 1))

/-- Latency of the block pack class (R83). -/
def blockLatency : Nat := 8

/-- The common frame of `bfpk` and `bfpu` (R179): the format word read and voted on, then checked,
then operand a read; `f` gives each thread its register and flags. -/
def laneBlock (i : Instr) (s : State) (t : FpTy) (d : LDst) (a b : LSrc)
    (f : Format → W32 → (Fin 32 → W64) → Fin 32 → Lane → W64 × BitVec 5) : Out :=
  laneInstr i s fun g m s =>
    let e := aluEnv i s g d
    let x := s.gang g
    let fw (t : Fin 32) := readSrc e t (x.lane t.val) b
    match firstFault operandOrder m fun t => errOf (fw t) with
    | some (c, bad, v) => s.laneFaultBy g bad c v
    | none =>
      let word (t : Fin 32) := okOr 0 (fw t)
      let first := word ((threads m).headD 0)
      let odd := maskOf fun t => m.getLsbD t.val && decide (word t ≠ first)
      if odd ≠ 0 then s.laneFault g m 0x0F (odd.zeroExtend 64)
      else
        match Format.ofWord first false with
        | none => s.laneFault g m 0x02 first
        | some fmt =>
          match gather e s g m (fpWidth t) (64 / fpWidth t) d (some a) none with
          | .error (c, bad, v) => s.laneFaultBy g bad c v
          | .ok o =>
            let due := s.tick + blockLatency + routeLatency s.issue.route +
              (if s.issue.acc.isSome then 2 else 0)
            s.mapLanes g m fun t l =>
              let (v, fl) := f fmt m o.a t l
              l.finish (s.issue.words + 1)
                [result (o.dst t) (BitVec.allOnes 64) v due, result .ffl 0 (fl.zeroExtend 64) due]

/-- `bfpk` in one thread (R180): the block of its elements packed, its own fields kept. -/
def packLane (t : FpTy) (f : Format) (m : W32) (a : Fin 32 → W64) (th : Fin 32) : W64 × BitVec 5 :=
  let fp := fmtOf t
  let w := fp.width
  let n := 64 / w
  let start := th.val * n / f.len * f.len
  let value (e : Nat) : FVal :=
    if h : e / n < 32 then
      if m.getLsbD (e / n) then fp.value (element w (a ⟨e / n, h⟩) (e % n)) else .fin false 0 0
    else .fin false 0 0
  let (scale, fields) := packBlock f ((List.range f.len).map fun k => value (start + k))
  let own := (subs n).map fun k => fields.getD (th.val * n + k - start) (0, false)
  (n64 (scale * 2 ^ 56) ||| packElements f.elBits (own.map (·.1)),
   flagIf (scale = 255) flagNV ||| flagIf (own.any (·.2)) flagNX)

/-- `bfpu` in one thread (R181). -/
def unpackLane (t : FpTy) (f : Format) (a : W64) (l : Lane) : W64 × BitVec 5 :=
  let fp := fmtOf t
  let n := 64 / fp.width
  let r (k : Nat) : Nat × BitVec 5 :=
    fp.ofValue (RMode.ofBits l.frm) (unpackElement f (f64 a 56 8) (element f.elBits a k))
  (packElements fp.width ((subs n).map fun k => (r k).1),
   (subs n).foldl (fun x k => x ||| (r k).2) 0)

/-- `bfpk` (R179, R180). -/
def execBfpk (t : FpTy) (d : LDst) (a b : LSrc) (s : State) : Out :=
  laneBlock (.bfpk t d a b) s t d a b fun f m v th _ => packLane t f m v th

/-- `bfpu` (R179, R181). -/
def execBfpu (t : FpTy) (d : LDst) (a b : LSrc) (s : State) : Out :=
  laneBlock (.bfpu t d a b) s t d a b fun f _ v th l => unpackLane t f (v th) l

end Sys2Proof.Machine
end

