-- ==== Sys2Proof/Machine/Matrix.lean ====
section
/-! DEFINITION. The matrix engine (R182–R198): the baton, `mxq` and its checks, native steps on the
accumulator tiles, code tables, completion and stops, `mxsave` and `mxrest`. -/

namespace Sys2Proof.Machine

/-! ## The baton (R182, R197) -/

/-- A conductor holds the baton at its level: a handler holds it as a supervisor. -/
def State.holdsBaton (s : State) (g : Nat) : Bool :=
  let b := (s.core (gangCore g)).baton
  b.holder = some g && b.super = decide ((s.ctx (.cond g)).level ≠ .u)

/-- The baton of a core, replaced. -/
def State.setBaton (s : State) (core : Nat) (b : Baton) : State := s.setCore core { s.core core with baton := b }

/-- The request, issued before a tick, that the baton goes to: a handler's first, which sets a user holder
aside; else, once free, the first in order. -/
def State.batonNext (s : State) (core before : Nat) : Option Nat :=
  let b := (s.core core).baton
  let asks := ((s.waiters core (· = .baton)).filter fun e => decide (e.2.since < before)).map (·.1)
  let high := asks.filter fun g => (s.ctx (.cond g)).level ≠ .u
  if b.super && b.holder.isSome then none
  else
    match high, asks with
    | g :: _, _ => some g
    | [], g :: _ => if b.holder.isNone then some g else none
    | [], [] => none

/-- The baton given to the request, issued before a tick, that it goes to, if any. -/
def State.grantBaton (s : State) (core before : Nat) : State :=
  match s.batonNext core before with
  | none => s
  | some g =>
    let b := (s.core core).baton
    let b : Baton :=
      if (s.ctx (.cond g)).level = .u then { b with holder := some g, super := false }
      else { holder := some g, super := true, aside := b.holder }
    let s := s.setBaton core b
    let s := if b.super then s.setCore core { s.core core with handed := s.tick } else s
    s.endWait (.cond g) .none 0

/-- `mxctl.take` (R182, R197): it joins the order; the requests of a clock are served from its end on, by
partition and gang slot. -/
def execMxctlTake (s : State) : Out :=
  condInstr .mxctlTake s fun g s =>
    if s.holdsBaton g then s.groupFault (.cond g) 0x02 (firstWord .mxctlTake)
    else s.startWait (.cond g) .baton 0

/-- `mxctl.pass` (R182, R197); a handler's is ready once its operations have completed. -/
def execMxctlPass (s : State) : Out :=
  condInstr .mxctlPass s fun g s =>
    if !s.holdsBaton g then s.groupFault (.cond g) 0x19 0
    else
      let b := (s.core (gangCore g)).baton
      let s := if b.super then s.setCore (gangCore g) ((s.core (gangCore g)).resumeUser s.tick) else s
      (s.setBaton (gangCore g) { holder := b.aside, super := false, aside := none }).advance (.cond g) 1

/-- The freed baton passes on (R182), to a request of an earlier clock. -/
def execBatonGrant (core : Nat) (s : State) : Out := .next (s.grantBaton core s.tick)

/-! ## The parameter block (R184–R187) -/

def mxKind (b : List W64) : Nat := f64 (blockReg b 0) 0 8
def mxM (b : List W64) : Nat := 64 * (f64 (blockReg b 0) 8 2 + 1)
def mxN (b : List W64) : Nat := 64 * (f64 (blockReg b 0) 10 2 + 1)
def mxKeep (b : List W64) : Bool := b64 (blockReg b 0) 12
def mxTransA (b : List W64) : Bool := b64 (blockReg b 0) 13
def mxTransB (b : List W64) : Bool := b64 (blockReg b 0) 14
def mxFirst (b : List W64) : Nat := f64 (blockReg b 0) 16 8
def mxBarrier (b : List W64) : Nat := f64 (blockReg b 0) 24 8
def mxQueue (b : List W64) : Nat := f64 (blockReg b 0) 32 4
def mxK (b : List W64) : Nat := f64 (blockReg b 0) 36 28
def mxTiles (b : List W64) : Nat := mxM b / 64 * (mxN b / 64)

/-- An mma, dense or sparse. -/
def mxMultiplies (b : List W64) : Bool := decide (mxKind b ≤ 1)
def mxSparse (b : List W64) : Bool := mxKind b = 1

/-- Native steps of one tile: the K-steps, or one pass (R189). -/
def mxSteps (b : List W64) : Nat := if mxMultiplies b then mxK b else 1

/-- The format words. -/
def mxFormA (b : List W64) : Option Format := Format.ofWord (blockReg b 1) false
def mxFormB (b : List W64) : Option Format := Format.ofWord (blockReg b 2) true

/-- A descriptor (R186): its registers j and j + 1. -/
structure MxSource where
  base : Nat
  fromRegs : Bool
  space : Space
  rot : Nat
  tilePitch : Nat
  rowPitch : Nat
  deriving DecidableEq, Repr

def mxSource (b : List W64) (j : Nat) : MxSource :=
  let w := blockReg b (j + 1)
  { base := (blockReg b j).toNat, fromRegs := b64 w 63, space := (spaceOf w 52).getD .d, rot := f64 w 48 4,
    tilePitch := f64 w 24 24, rowPitch := f64 w 0 24 }

/-- The second register of a descriptor is legal: its space and its pitches. -/
def mxDescOk (b : List W64) (j : Nat) : Bool :=
  let w := blockReg b j
  let sp := spaceOf w 52
  decide (f64 w 55 8 = 0) && decide (f64 w 24 24 % 4 = 0) && decide (f64 w 0 24 % 4 = 0) &&
    (if mxMultiplies b then sp = some .s else !b64 w 63 && (sp = some .s || sp = some .n || sp = some .g))

/-- Register 0 is legal at a level (R185). -/
def mxHeadOk (b : List W64) (super : Bool) : Bool :=
  let last := mxFirst b + (mxTiles b - 1)
  let regA := mxMultiplies b && (mxSource b 3).fromRegs
  let regB := mxMultiplies b && (mxSource b 5).fromRegs
  decide (mxKind b ≤ 4) && !b64 (blockReg b 0) 15 &&
    (if mxMultiplies b then decide (1 ≤ mxK b) && decide (mxK b ≤ 256) else decide (mxK b = 0)) &&
    (if mxSparse b then decide (mxQueue b ≤ 3) && !mxTransB b else decide (mxQueue b = 0)) &&
    (mxMultiplies b || (!mxKeep b && !mxTransA b && !mxTransB b)) &&
    (decide (mxBarrier b ≤ 95) || decide (mxBarrier b = 255)) &&
    (if super then decide (16 ≤ mxFirst b) && decide (last ≤ 17) else decide (last ≤ 15)) &&
    (!regA || (decide (mxM b = 64) && decide (mxK b = 1) && !mxTransA b)) &&
    (!regB || (decide (mxN b = 64) && decide (mxK b = 1) && !mxTransB b && !mxSparse b))

/-- A format word is legal for its operand. -/
def mxFormOk (b : List W64) (j : Nat) : Bool :=
  let f := if j = 1 then mxFormA b else mxFormB b
  let regs := (mxSource b (2 * j + 1)).fromRegs
  match f with
  | none => false
  | some f =>
    (!regs || (decide (f.width = 8) && !f.fp4 && !f.coded)) &&
      !(decide (j = 2) && mxSparse b && decide (f.len = 32))

/-- The first register of a descriptor is legal: a multiple of 4, or eight declared lane registers. -/
def mxBaseOk (b : List W64) (j lanes : Nat) : Bool :=
  let d := mxSource b j
  if d.fromRegs then decide (d.base ≤ 0x5F) && decide (d.base + 7 < lanes) else decide (d.base % 4 = 0)

/-- The lowest register of a block outside its legal values (R184 row 2). -/
def mxBadReg (b : List W64) (super : Bool) (lanes : Nat) : Option Nat :=
  let zero (j : Nat) : Bool := decide (blockReg b j = 0)
  let ok (j : Nat) : Bool :=
    if j = 0 then mxHeadOk b super
    else if mxMultiplies b then
      match j with
      | 1 => mxFormOk b 1
      | 2 => mxFormOk b 2
      | 3 => mxBaseOk b 3 lanes
      | 4 => mxDescOk b 4
      | 5 => mxBaseOk b 5 lanes
      | 6 => mxDescOk b 6
      | _ => true
    else if mxKind b = 3 || mxKind b = 4 then
      match j with
      | 3 => mxBaseOk b 3 lanes
      | 4 => mxDescOk b 4
      | _ => zero j
    else zero j
  [0, 1, 2, 3, 4, 5, 6, 7].find? fun j => !ok j

/-! ## Where the operands lie (R186) -/

/-- Bits of a mantissa in its plane. -/
def mxBits (f : Option Format) : Nat := (f.map Format.elBits).getD 0

/-- Block length of a format word. -/
def mxLen (f : Option Format) : Nat := (f.map Format.len).getD 8

/-- Offset of row u of K-step s. -/
def MxSource.row (d : MxSource) (u s : Nat) : Nat := d.base + u * d.rowPitch + s * d.tilePitch + u * d.rot % 32 * 16

/-- K values that operand B stores in one step (R186). -/
def mxStored (b : List W64) : Nat := if mxSparse b then 16 else 32

/-- A range of one space: offset and bytes. -/
abbrev Piece := Nat × Nat

/-- The rows of a scratchpad operand: their offsets and bytes. -/
def mxRows (d : MxSource) (rows stored k m : Nat) (trans : Bool) : List Piece :=
  if d.fromRegs then []
  else
    (List.range k).flatMap fun s =>
      (List.range (if trans then 32 else rows)).map fun u =>
        (d.row u s, ceilDiv ((if trans then rows else stored) * m) 8)

/-- Bytes of one row of an operand's exponents. -/
def mxExpRow (k stored len : Nat) : Nat := k * stored / len

/-- The regions of an operation, with their spaces, in the order of the block: A, B, the exponent
arrays; or the tiles' rows. -/
def mxRegions (b : List W64) : List (Space × List Piece) :=
  if mxMultiplies b then
    let k := mxK b
    [(.s, mxRows (mxSource b 3) (mxM b) 32 k (mxBits (mxFormA b)) (mxTransA b)),
     (.s, mxRows (mxSource b 5) (mxN b) (mxStored b) k (mxBits (mxFormB b)) (mxTransB b)),
     (.s, [(f64 (blockReg b 7) 0 32, mxM b * mxExpRow k 32 (mxLen (mxFormA b)))]),
     (.s, [(f64 (blockReg b 7) 32 32, mxN b * mxExpRow k (mxStored b) (mxLen (mxFormB b)))])]
  else if mxKind b = 3 || mxKind b = 4 then
    let d := mxSource b 3
    [(d.space, (List.range (mxM b)).map fun i => (d.base + i * d.rowPitch + i * d.rot % 32 * 16, 4 * mxN b))]
  else []

/-- The first byte of a piece outside its window. -/
def State.firstOutside (s : State) (x : Site) (sp : Space) (p : Piece) : Option Nat :=
  if (s.basinSpans x sp p.1 p.2).isSome then none
  else ((List.range p.2).find? fun k => (s.basinSpans x sp (p.1 + k) 1).isNone).map (p.1 + ·)

/-- The first byte of an operation outside what R203 admits (R184 row 4). -/
def State.mxOutside (s : State) (x : Site) (b : List W64) : Option Nat :=
  (mxRegions b).findSome? fun (sp, ps) => ps.findSome? fun p => s.firstOutside x sp p

/-- The span of a region, from its lowest byte to its highest. -/
def pieceSpan (ps : List Piece) : Option Piece :=
  match ps with
  | [] => none
  | p :: r =>
    let lo := r.foldl (fun n q => min n q.1) p.1
    let hi := r.foldl (fun n q => max n (q.1 + q.2)) (p.1 + p.2)
    some (lo, hi - lo)

/-- The ranges an operation locks (R219). -/
def mxLocks (b : List W64) : List Range :=
  (mxRegions b).filterMap fun (sp, ps) => (pieceSpan ps).map fun (a, n) => (sp, a, n)

/-! ## Issue (R184) -/

/-- Mantissas of a register operand, captured at issue (R187): register j of thread t at 32 j + t. -/
def Gang.mxCapture (x : Gang) (d : MxSource) : List W64 :=
  if !d.fromRegs then []
  else
    (List.range 8).flatMap fun j =>
      slots.map fun t => if x.glive.getLsbD t.val then (x.lane t.val).reg (d.base + j) else 0

/-- Whether a register operand reads a lane register that holds an uncorrectable error. -/
def Gang.mxStruck (x : Gang) (d : MxSource) : Bool :=
  d.fromRegs && (threads x.glive).any fun t => (List.range 8).any fun j => (x.lane t.val).bad.contains (d.base + j)

/-- The fault of an `mxq` (R184). -/
def State.mxFault (s : State) (g : Nat) (x : Site) (b : List W64) (short : Option Nat) : Option Trap :=
  let super := decide (x.level ≠ .u)
  if !super && (mxFirst b = 16 || mxFirst b = 17) then some (0x04, firstWord (.mxq 0 .gz))
  else
    match lowerOf short (mxBadReg b super (s.kernel g).laneRegs) with
    | some j => some (0x02, n64 j)
    | none =>
      if !s.holdsBaton g then some (0x19, 0)
      else (s.mxOutside x b).map fun a => (0x0A, n64 a)

/-- The current bank of the code table (R192). -/
def CoreSt.currentBank (c : CoreSt) : List Byte := if c.bank then c.banks.2 else c.banks.1

/-- `mxq` (R184): ready while fewer than eight operations are queued, the range-lock table has room and
the counter is below 15. -/
def execMxq (p : Fin 192) (d : GDst) (s : State) : Out :=
  condInstr (.mxq p d) s fun g s =>
    match s.siteOf (.cond g) with
    | none => s
    | some x =>
      let b := s.block g p.val 8
      match s.mxFault g x b (blockShort (s.kernel g).groupRegs p.val 8) with
      | some (c, v) => s.groupFault (.cond g) c (if c = 0x04 then firstWord (.mxq p d) else v)
      | none =>
        let s := if mxBarrier b = 255 then s else s.recordPhase g (mxBarrier b)
        let c := s.core x.core
        let n := c.mxSeq + 1
        let y := s.gang g
        let op : MxOp :=
          { seq := n, launch := x.launch, gang := g, site := x, super := decide (x.level ≠ .u), block := b,
            bank := c.currentBank, bankNo := c.bank, regA := y.mxCapture (mxSource b 3), regB := y.mxCapture (mxSource b 5),
            regBad := (y.mxStruck (mxSource b 3), y.mxStruck (mxSource b 5)),
            gen := s.genOf (.cond g), running := false, stopped := false, done := 0, corrected := false,
            after := s.released (.cond g), issued := s.tick, ready := s.tick }
        let locks := (mxLocks b).map (s.lockOf x (.mx n))
        let s := s.setCore x.core { c with mxSeq := n, mx := c.mx ++ [op], locks := c.locks ++ locks }
        s.groupResult (.cond g) 1 (dstG d) (n64 n) 1

/-! ## The scoreboard (R148, R193) -/

/-- Native steps of an operation. -/
def MxOp.total (o : MxOp) : Nat := mxTiles o.block * mxSteps o.block

/-- The tiles of an operation, in order. -/
def MxOp.tiles (o : MxOp) : List Nat := (List.range (mxTiles o.block)).map (mxFirst o.block + ·)

/-- Whether an operation writes its tiles. -/
def MxOp.writes (o : MxOp) : Bool := mxKind o.block ≠ 3

/-- Whether the i-th native tile has set its scoreboard bit: the last sets it with the operation's end. -/
def MxOp.tileDone (o : MxOp) (i : Nat) : Bool :=
  decide ((i + 1) * mxSteps o.block ≤ o.done) && decide (i + 1 < mxTiles o.block)

/-- Whether a tile is pending (R148): from the clock after the issue. -/
def State.tilePending (s : State) (core tile : Nat) : Bool :=
  (s.core core).mx.any fun o =>
    o.writes && decide (o.issued < s.tick) && decide (mxFirst o.block ≤ tile) &&
      decide (tile < mxFirst o.block + mxTiles o.block) && !o.tileDone (tile - mxFirst o.block)

/-- The tile-operation counter of a conductor (R212). -/
def State.tileOpsOf (s : State) (g : Nat) : Nat := ((s.core (gangCore g)).mx.filter fun o => o.gang = g).length

/-- `mxctl.tilewait` (R193): ready once the tile is not pending. -/
def execMxctlTilewait (t : Fin 18) (s : State) : Out :=
  condInstr (.mxctlTilewait t) s fun g s => s.advance (.cond g) 1

/-! ## The code table (R192) -/

/-- `mxctl.ctab` (R192): ready while no queued operation has captured the bank it loads. -/
def execMxctlCtab (p : Fin 192) (s : State) : Out :=
  condInstr (.mxctlCtab p) s fun g s =>
    if !s.holdsBaton g then s.groupFault (.cond g) 0x19 0
    else if (s.kernel g).groupRegs < p.val + 2 then s.groupFault (.cond g) 0x02 (firstWord (.mxctlCtab p))
    else
      let b := s.block g p.val 2
      let table := leBytes 8 (blockReg b 0).toNat ++ leBytes 8 (blockReg b 1).toNat
      let c := s.core (gangCore g)
      let banks := if c.bank then (table, c.banks.2) else (c.banks.1, table)
      (s.setCore (gangCore g) { c with banks := banks, bank := !c.bank }).advance (.cond g) 1

/-! ## Elements and sums (R186, R187, R190, R191) -/

/-- The mantissa at position v of a row of a scratchpad operand. -/
def State.mxField (s : State) (x : Site) (off m v : Nat) : Nat :=
  readLE s.mem (sliceKey x.core (x.scratch + off + v * m / 8)) 2 / 2 ^ (v * m % 8) % 2 ^ m

/-- The mantissa of a register operand: row i, K index κ. -/
def mxRegField (regs : List W64) (i kappa : Nat) : Nat :=
  f64 (regs.getD (32 * (i % 2 * 4 + kappa / 8) + i / 2) 0) (8 * (kappa % 8)) 8

/-- The stored field of one operand: output row or column i, K index κ of step s. -/
def State.mxElement (s : State) (o : MxOp) (d : MxSource) (m : Nat) (trans : Bool) (regs : List W64)
    (i kappa st : Nat) : Nat :=
  if d.fromRegs then mxRegField regs i kappa
  else if trans then s.mxField o.site (d.row kappa st) m i
  else s.mxField o.site (d.row i st) m kappa

/-- An exponent byte: of operand row i, at K index κ of the whole operation. -/
def State.mxExponent (s : State) (o : MxOp) (off row i kappa len : Nat) : Nat :=
  (readByte s.mem (sliceKey o.site.core (o.site.scratch + off + i * row + kappa / len))).toNat

/-- The value of a stored field under an exponent (R176). -/
def mxValue (f : Format) (bank : List Byte) (scale field : Nat) : FVal :=
  if f.coded then
    if scale = 255 then .nan false
    else
      let c := (bank.getD field 0).toInt
      .fin (decide (c < 0)) c.natAbs ((scale : Int) - 134)
  else unpackElement f scale field

/-- The value of A at row i, K index κ of step s. -/
def State.mxA (s : State) (o : MxOp) (i kappa st : Nat) : FVal :=
  let b := o.block
  match mxFormA b with
  | none => .nan false
  | some f =>
    let scale := s.mxExponent o (f64 (blockReg b 7) 0 32) (mxExpRow (mxK b) 32 f.len) i (32 * st + kappa) f.len
    mxValue f [] scale (s.mxElement o (mxSource b 3) f.elBits (mxTransA b) o.regA i kappa st)

/-- The value of B at column j, stored K index κ of step s. -/
def State.mxB (s : State) (o : MxOp) (j kappa st : Nat) : FVal :=
  let b := o.block
  match mxFormB b with
  | none => .nan false
  | some f =>
    let n := mxStored b
    let scale := s.mxExponent o (f64 (blockReg b 7) 32 32) (mxExpRow (mxK b) n f.len) j (n * st + kappa) f.len
    mxValue f o.bank scale (s.mxElement o (mxSource b 5) f.elBits (mxTransB b) o.regB j kappa st)

/-- The four metadata bits of a column's group (R191). -/
def mxMeta (entry : List Byte) (c g : Nat) : Nat := (entry.getD ((c * 8 + g) / 2) 0).toNat / 2 ^ (4 * (g % 2)) % 16

/-- An entry of which some group's higher index is not above its lower. -/
def mxMetaBad (entry : List Byte) : Bool :=
  (List.range 512).any fun k =>
    let v := mxMeta entry (k / 8) (k % 8)
    decide (v / 4 ≤ v % 4)

/-- K index of A that stored value κ of a column pairs with. -/
def mxPaired (entry : List Byte) (c kappa : Nat) : Nat :=
  let v := mxMeta entry c (kappa / 2)
  4 * (kappa / 2) + (if kappa % 2 = 0 then v % 4 else v / 4)

/-- Exact sum of products (R190); none where an element is a NaN. -/
def exactSum (ps : List (FVal × FVal)) : Option (Int × Int) :=
  ps.foldl (fun acc (a, b) =>
    match acc, mulExact a b with
    | some (v, e), some (.fin neg m e2) => some (addExact (decide (v < 0)) v.natAbs e neg m e2)
    | _, _ => none) (some (0, 0))

/-- One output of a native step (R190). -/
def mxOutput (old : W32) (sum : Option (Int × Int)) : W32 :=
  match sum with
  | none => BitVec.ofNat 32 fmtF32.nan
  | some (v, e) =>
    let s : FVal := .fin (decide (v < 0)) v.natAbs e
    BitVec.ofNat 32 (fmtF32.add .rne (fmtF32.value old.toNat) s).1

/-- Whether an exponent of an operand's block in this step is 255: every element of the block is a NaN,
whether or not a product reads it (R190). -/
def State.mxNanRow (s : State) (o : MxOp) (isB : Bool) (i st : Nat) : Bool :=
  (List.range (if isB then mxStored o.block else 32)).any fun k =>
    (if isB then s.mxB o i k st else s.mxA o i k st).isNaN

/-- The products of one output in one step. -/
def State.mxProducts (s : State) (o : MxOp) (entry : List Byte) (i j st : Nat) : List (FVal × FVal) :=
  (List.range (mxStored o.block)).map fun k =>
    let ka := if mxSparse o.block then mxPaired entry (j % 64) k else k
    (s.mxA o i ka st, s.mxB o j k st)

/-- The accumulator with one element written; +0 is not listed. -/
def accPut (k : Nat) (v : W32) (acc : List (Nat × W32)) : List (Nat × W32) := if v = 0 then adel k acc else aput k v acc

/-- A whole tile written. -/
def CoreSt.writeTile (c : CoreSt) (tile : Nat) (f : Nat → Nat → W32) : CoreSt :=
  let acc := (List.range 4096).foldl (fun acc k => accPut (4096 * tile + k) (f (k / 64) (k % 64)) acc) c.acc
  { c with acc := acc }

/-- Tile, K-step, and block row and column of the step an operation stands at (R189). -/
structure MxPlace where
  tile : Nat
  step : Nat
  mi : Nat
  nj : Nat

def MxOp.place (o : MxOp) : MxPlace :=
  let i := o.done / mxSteps o.block
  { tile := mxFirst o.block + i, step := o.done % mxSteps o.block, mi := i / (mxN o.block / 64),
    nj := i % (mxN o.block / 64) }

/-- One native step of an mma (R190): all outputs of its tile. -/
def State.mxMultiply (s : State) (o : MxOp) (entry : List Byte) : State :=
  let p := o.place
  let c := s.core o.site.core
  let fresh := decide (p.step = 0) && !mxKeep o.block
  s.setCore o.site.core
    (c.writeTile p.tile fun r k =>
      let i := 64 * p.mi + r
      let j := 64 * p.nj + k
      let old := if fresh then 0 else c.accBits p.tile r k
      let nan := s.mxNanRow o false i p.step || s.mxNanRow o true j p.step
      mxOutput old (if nan then none else exactSum (s.mxProducts o entry i j p.step)))

/-! ## Drains and loads (R189, R196) -/

/-- Offset of element (i, j) of the logical tile. -/
def MxSource.element (d : MxSource) (i j : Nat) : Nat := d.base + i * d.rowPitch + j * 4 + i * d.rot % 32 * 16

/-- The rows of the native tile an operation stands at. -/
def MxOp.tileRows (o : MxOp) : List Piece :=
  let p := o.place
  (List.range 64).map fun r => ((mxSource o.block 3).element (64 * p.mi + r) (64 * p.nj), 256)

/-- The first offset of the native tile that its space no longer admits. -/
def State.mxRevoked (s : State) (o : MxOp) : Option Nat :=
  if mxKind o.block = 3 || mxKind o.block = 4 then
    o.tileRows.findSome? fun p => s.firstOutside o.site (mxSource o.block 3).space p
  else none

/-- One row of a native tile moved. -/
def State.mxMoveRow (s : State) (o : MxOp) (r : Nat) : State :=
  let p := o.place
  let d := mxSource o.block 3
  (List.range 64).foldl (fun s k =>
    let a := d.element (64 * p.mi + r) (64 * p.nj + k)
    if mxKind o.block = 3 then
      match s.engineReach o.site d.space a 4 .store with
      | (s, .error _) => s
      | (s, .ok q) => s.engineStore o.site.core q.loc (leBytes 4 ((s.core o.site.core).accBits p.tile r k).toNat) o.gen
    else
      match s.engineReach o.site d.space a 4 .load with
      | (s, .error _) => s
      | (s, .ok q) =>
        let (s, bs) := s.loadBytes q.loc 4
        let c := s.core o.site.core
        s.setCore o.site.core { c with acc := accPut (4096 * p.tile + 64 * r + k) (BitVec.ofNat 32 (leNat bs)) c.acc }) s

/-! ## The engine's queue (R183, R188, R197) -/

/-- The user operation whose native step was under way as a handler took the baton: the engine pauses once that step
has ended (R197). One that waits for a sparsity entry stands between its steps. -/
def CoreSt.mxMid (c : CoreSt) : Option MxOp :=
  if !c.baton.super then none
  else
    c.mx.find? fun o => !o.super && o.running && !o.stopped && decide (o.done < o.total) && decide (o.ready < c.handed) &&
      !(mxSparse o.block && (c.sparse.getD (mxQueue o.block) []).isEmpty)

/-- The operation that may run: a native step under way first, then a handler's operation, ahead of the paused user
operations. -/
def CoreSt.mxActive (c : CoreSt) : Option MxOp :=
  match c.mxMid, c.mx.find? (·.super) with
  | some o, _ => some o
  | none, some o => some o
  | none, none => if c.baton.super then none else c.mx.head?

def State.setMx (s : State) (o : MxOp) : State :=
  let c := s.core o.site.core
  s.setCore o.site.core { c with mx := c.mx.map fun y => if y.seq = o.seq then o else y }

/-- The operation that runs. -/
def State.mxRuns (s : State) (core : Nat) : Option MxOp :=
  (s.core core).mxActive.filter fun o => o.running && !o.stopped

/-- The engine starts the next operation (R183, R189): 12 clk of fill. -/
def execMatrixOpStart (core : Nat) (s : State) : Out :=
  match (s.core core).mxActive with
  | none => .next s
  | some o =>
    if o.running || o.stopped || !(s.unperformed o.after).isEmpty then .next s
    else .next (s.setMx { o with running := true, ready := s.tick + 12 })

/-- Element width of A, on which a step's time and energy rest (R189). -/
def MxOp.widthA (o : MxOp) : Nat := mxBits (mxFormA o.block)

/-- Clocks of one native step (R189). -/
def MxOp.stepClocks (o : MxOp) : Nat :=
  if mxSparse o.block then ceilDiv o.widthA 2
  else if mxMultiplies o.block then o.widthA
  else if mxKind o.block = 2 then 1
  else 32

/-- The k × bA that a native step counts for energy (R189). -/
def State.mxWeight (s : State) (o : MxOp) : Nat :=
  if mxMultiplies o.block then o.widthA
  else if mxKind o.block = 2 then 1
  else
    match (mxSource o.block 3).space with
    | .s => 32
    | sp => 160 + 6 * s.launchHops o.launch sp

/-- The status word (R194). -/
def mxStatus (o : MxOp) (cause : Byte) (steps bits : Nat) : Nat :=
  cause.toNat * 2 ^ 24 + steps % 2 ^ 16 * 2 ^ 8 + bits + (if o.corrected then 2 else 0)

/-- The status word written, if the operation names a barrier. -/
def State.mxReport (s : State) (o : MxOp) (cause : Byte) (steps bits : Nat) : State :=
  if mxBarrier o.block = 255 then s
  else s.pokeLE (barKey o.site.core (mxBarrier o.block) + 8) 8 (mxStatus o cause steps bits)

/-- An operation leaves the queue: its locks go, the status word is written, its barrier arrived at. -/
def State.mxLeave (s : State) (o : MxOp) (cause : Byte) (steps bits : Nat) : State :=
  let core := o.site.core
  let s := (s.mxReport o cause steps bits).unlock core (.mx o.seq)
  let c := s.core core
  let s := s.setCore core { c with mx := c.mx.filter fun y => y.seq ≠ o.seq }
  if mxBarrier o.block = 255 then s else s.unitArrival core (mxBarrier o.block) o.launch (s.unperformed o.after)

/-- The launch's quotation charged for a stop. -/
def State.mxCharge (s : State) (o : MxOp) (party : Nat) (v : W64) : State :=
  match s.launch? o.launch with
  | some l => s.charge l.qid party 5 v
  | none => s

/-- The unfinished tiles of an operation marked invalid (R195). -/
def State.mxInvalidate (s : State) (o : MxOp) : State :=
  let bad := (o.tiles.zipIdx.filter fun (_, i) => !o.tileDone i).map (·.1)
  let c := s.core o.site.core
  s.setCore o.site.core { c with invalid := c.invalid ++ bad.filter fun t => !c.invalid.contains t }

/-- An error stop (R195). -/
def State.mxStop (s : State) (o : MxOp) (cause : Byte) (bits : Nat) (v : W64) : State :=
  ((s.mxInvalidate o).mxLeave o cause o.done bits).mxCharge o 3 v

/-- A stop of the sparsity protocol (R191): the caller's. -/
def State.mxProtocol (s : State) (o : MxOp) : State := (s.mxLeave o 0x1A o.done 0x80).mxCharge o 1 0

/-- A step done: the soft errors that the engine met on its way are free values (R195). -/
def State.mxStepped (s : State) (o : MxOp) : State :=
  let s := s.spendEngine o.site (3300 * s.mxWeight o)
  let (v, s) := s.fresh
  let s := if b64 v 0 then s.countError o.site.core else s
  let again := if b64 v 1 && mxMultiplies o.block then o.stepClocks else 0
  s.setMx { o with done := o.done + 1, corrected := o.corrected || b64 v 0, ready := s.tick + again }

/-- The bytes of an operand that a native step of an mma reads: offsets in `.s` with their lengths (R186). -/
def MxOp.operandPieces (o : MxOp) (isB : Bool) : List Piece :=
  let b := o.block
  let p := o.place
  let d := mxSource b (if isB then 5 else 3)
  let first := 64 * (if isB then p.nj else p.mi)
  let m := mxBits (if isB then mxFormB b else mxFormA b)
  let stored := if isB then mxStored b else 32
  let len := mxLen (if isB then mxFormB b else mxFormA b)
  let scales := f64 (blockReg b 7) (if isB then 32 else 0) 32
  (if d.fromRegs then []
   else if (if isB then mxTransB b else mxTransA b) then
     (List.range 32).map fun u => (d.row u p.step + first * m / 8, 8 * m)
   else (List.range 64).map fun u => (d.row (first + u) p.step, ceilDiv (stored * m) 8)) ++
    (List.range 64).map fun u =>
      (scales + (first + u) * mxExpRow (mxK b) stored len + stored * p.step / len, ceilDiv stored len)

/-- Whether pieces of a space hold a word with an uncorrectable error. -/
def State.mxFlawedIn (s : State) (x : Site) (sp : Space) (ps : List Piece) : Bool :=
  !s.flawed.isEmpty && ps.any fun p =>
    match (s.soundSpan x sp p.1 p.2 .load).2 with
    | .error (0x10, _) => true
    | _ => false

/-- The status bit of the uncorrectable error that an operation's next native step meets: in A, or what a drain
or load moves, in B (R195, R201); a register operand's stands in what was captured at the issue (log 77). -/
def State.mxFlaw (s : State) (o : MxOp) : Option Nat :=
  if mxMultiplies o.block then
    if o.regBad.1 || s.mxFlawedIn o.site .s (o.operandPieces false) then some 2
    else if o.regBad.2 || s.mxFlawedIn o.site .s (o.operandPieces true) then some 3
    else none
  else if (mxKind o.block = 3 || mxKind o.block = 4) && s.mxFlawedIn o.site (mxSource o.block 3).space o.tileRows then some 2
  else none

/-- An uncorrectable error stops an operation (R195). -/
def State.mxEcc (s : State) (o : MxOp) (bit : Nat) : State :=
  let l := s.launch? o.launch
  (s.uncorrectable o.site.core ((l.map (·.asid)).getD 0) ((l.map (·.qid)).getD 0) 0).mxStop o 0x10 (2 ^ bit) 0

/-- A tile that a step writes whole is valid (R195). -/
def State.mxValidate (s : State) (o : MxOp) : State :=
  let c := s.core o.site.core
  s.setCore o.site.core { c with invalid := c.invalid.filter (· ≠ o.place.tile) }

/-- The sparsity queue of an operation (R191). -/
def State.mxEntries (s : State) (o : MxOp) : List (List Byte) := (s.core o.site.core).sparse.getD (mxQueue o.block) []

def State.mxPopEntry (s : State) (o : MxOp) : State :=
  let c := s.core o.site.core
  s.setCore o.site.core { c with sparse := c.sparse.setIfInBounds (mxQueue o.block) (s.mxEntries o).tail }

/-- The step of an mma. -/
def State.mxMmaStep (s : State) (o : MxOp) (entry : List Byte) : State :=
  let s := s.mxMultiply o entry
  (if o.place.step = 0 && !mxKeep o.block then s.mxValidate o else s).mxStepped o

/-- What one native step of an operation does, by its op. -/
def State.mxMove (s : State) (o : MxOp) : Nat → State
  | 0 => s.mxMmaStep o []
  | 1 =>
    match s.mxEntries o with
    | [] => s
    | e :: _ =>
      let s := s.mxPopEntry o
      if mxMetaBad e then s.mxProtocol o else s.mxMmaStep o e
  | 2 => ((s.setCore o.site.core ((s.core o.site.core).writeTile o.place.tile fun _ _ => 0)).mxValidate o).mxStepped o
  | 3 => ((List.range 64).foldl (fun s r => s.mxMoveRow o r) s).mxStepped o
  | _ => (((List.range 64).foldl (fun s r => s.mxMoveRow o r) s).mxValidate o).mxStepped o

/-- One native step of the operation that runs (R188–R191): an invalid tile read, or an uncorrectable error in
what it reads or writes, stops it; an empty sparsity queue stalls it. -/
def State.mxStep (s : State) (o : MxOp) : State :=
  let reads := mxKind o.block = 3 || (mxMultiplies o.block && mxKeep o.block)
  if reads && (s.core o.site.core).invalid.contains o.place.tile then s.mxStop o 0x15 0 (n64 o.place.tile)
  else if mxSparse o.block && (s.mxEntries o).isEmpty then s
  else
    match s.mxFlaw o with
    | some bit => s.mxEcc o bit
    | none => s.mxMove o (mxKind o.block)

/-- A native step ends (R188). -/
def execMatrixNativeStep (core : Nat) (s : State) : Out :=
  match s.mxRuns core with
  | none => .next s
  | some o =>
    if o.total ≤ o.done || decide (s.tick < o.ready + o.stepClocks) || (s.mxRevoked o).isSome then .next s
    else .next (s.mxStep o)

/-- The operation ends, 8 clk of drain after its last step (R189, R194). -/
def execMatrixOpComplete (core : Nat) (s : State) : Out :=
  match s.mxRuns core with
  | none => .next s
  | some o =>
    if o.done < o.total || decide (s.tick < o.ready + 8) then .next s else .next (s.mxLeave o 0 0 1)

/-- Which of the errors of R195 an operation can meet: 0 in A, 1 in B, 2 in the accumulator, 3 a residue
mismatch after its retry. -/
def MxOp.canFail (o : MxOp) (bit : Fin 4) : Bool :=
  match mxKind o.block with
  | 0 | 1 => true
  | 3 => bit = 2
  | 4 => bit = 0
  | _ => false

/-- An uncorrectable error or a second residue mismatch stops the operation (R195). -/
def execMatrixErrorStop (core : Nat) (bit : Fin 4) (s : State) : Out :=
  match s.mxRuns core with
  | none => .next s
  | some o =>
    if o.total ≤ o.done || !o.canFail bit then .next s
    else
      .next (if bit = 3 then s.mxStop o 0x10 (2 ^ 5) 0 else s.mxEcc o (2 + bit.val))

/-- A drain or load whose `.g` slot is revoked stops restartably (R196). -/
def execMatrixWindowFault (core : Nat) (s : State) : Out :=
  match s.mxRuns core with
  | none => .next s
  | some o =>
    match s.mxRevoked o with
    | none => .next s
    | some a =>
      if o.total ≤ o.done then .next s
      else
        let s := (s.mxReport o 0x0A o.done 0x40).setMx { o with stopped := true }
        let s := if o.site.level = .u then s.chargeLaunch o.launch 0x0A (n64 a) (decide (mxKind o.block = 3)) else s
        let l := s.launch? o.launch
        .next
          (s.post
            { Record.blank 3 0x0A with
                asid := (l.map (·.asid)).getD 0, core := core, stval := n64 a, info := n64 o.done,
                qid := (l.map (·.qid)).getD 0, part := gangPart o.gang, slot := gangSlot o.gang, pc := n64 o.seq })

/-- A sparsity queue empty for 1 ms stops the operation (R191). -/
def execSparsityQueueTimeout (core : Nat) (s : State) : Out :=
  match s.mxRuns core with
  | none => .next s
  | some o =>
    if mxSparse o.block && decide (o.done < o.total) && (s.mxEntries o).isEmpty &&
        decide (o.ready + 1100000 ≤ s.tick) then
      .next (s.mxProtocol o)
    else .next s

/-! ## Context (R198) -/

def mxAreaBytes : Nat := 263168

/-- The user conductor that holds the baton, or stands aside. -/
def Baton.user (b : Baton) : Option Nat := if b.super then b.aside else b.holder

/-- Sixteen bytes of a bank. -/
def bankBytes (t : List Byte) : List Byte := (List.range 16).map fun i => t.getD i 0

/-- The bytes of the save area. -/
def CoreSt.mxArea (c : CoreSt) : List Byte :=
  let user := match c.baton.user with | some g => 1 + 2 * gangPart g + 32 * gangSlot g | none => 0
  let marks := (List.range 16).foldl (fun n i => if c.invalid.contains i then n + 2 ^ (10 + i) else n) 0
  leBytes 8 (user + (if c.bank then 512 else 0) + marks) ++ bankBytes c.banks.1 ++ bankBytes c.banks.2 ++
    List.replicate 984 0 ++
    (List.range 65536).flatMap fun k => leBytes 4 (c.accBits (k / 4096) (k / 64 % 64) (k % 64)).toNat

/-- The fault of a save area's offset (R198). -/
def mxAreaFault (off word : W64) : Option Trap :=
  if off.toNat % 1024 ≠ 0 then some (0x02, word)
  else if 2 ^ 24 < off.toNat + mxAreaBytes then some (0x0A, off)
  else none

/-- A save area written to a slice; its grant table is written by `.b` stores alone (R202). The instruction in
issue stays as it is. -/
def State.saveArea (s : State) (core off : Nat) (bs : List Byte) (gen : Nat) : State :=
  let top := grantBase + grantBytes - off
  let t := s.storeBytes (.slice core off) (bs.take (grantBase - off)) gen
  { (if bs.length ≤ top then t else t.storeBytes (.slice core (off + top)) (bs.drop top) gen) with issue := s.issue }

/-- `mxctl.mxsave` (R198): ready once the user queue is empty. -/
def execMxsave (a : GSrc) (s : State) : Out :=
  condInstr (.mxsave a) s fun g s =>
    let off := readG s (.cond g) a
    match mxAreaFault off (firstWord (.mxsave a)) with
    | some (c, v) => s.groupFault (.cond g) c v
    | none => (s.advance (.cond g) 1).saveArea (gangCore g) off.toNat (s.core (gangCore g)).mxArea (s.genOf (.cond g))

/-- A core with the user state of an area loaded; a recorded holder whose conductor is not live leaves
the baton free. -/
def CoreSt.mxLoad (c : CoreSt) (bs : List Byte) (core : Nat) (live : Nat → Bool) : CoreSt :=
  let w := n64 (leNat (bs.take 8))
  let g := gangKey core (f64 w 1 4) (f64 w 5 4)
  let user := if b64 w 0 && live g then some g else none
  let baton := if c.baton.super then { c.baton with aside := user } else { c.baton with holder := user }
  let tiles := c.acc.filter fun e => 65536 ≤ e.1
  let words := (List.range 65536).filterMap fun k =>
    let v : W32 := BitVec.ofNat 32 (leNat ((bs.drop (1024 + 4 * k)).take 4))
    if v = 0 then none else some (k, v)
  { c with
      baton := baton
      bank := b64 w 9
      banks := ((bs.drop 8).take 16, (bs.drop 24).take 16)
      acc := words ++ tiles
      invalid := (List.range 16).filter (fun i => b64 w (10 + i)) ++ c.invalid.filter (16 ≤ ·) }

/-- `mxctl.mxrest` (R198): ready once the queue is empty. A word of the area that holds an uncorrectable error gives
0x10, with nothing loaded (R201). -/
def execMxrest (a : GSrc) (s : State) : Out :=
  condInstr (.mxrest a) s fun g s =>
    let off := readG s (.cond g) a
    match mxAreaFault off (firstWord (.mxrest a)) with
    | some (c, v) => s.groupFault (.cond g) c v
    | none =>
      let core := gangCore g
      if s.flawedAt (sliceKey core off.toNat) mxAreaBytes then s.groupEcc (.cond g) (eccValue off)
      else
      let (s, bs) := s.loadBytes (.slice core off.toNat) mxAreaBytes
      let live (k : Nat) : Bool := decide ((s.gang k).cond.st ≠ .exited)
      (s.setCore core ((s.core core).mxLoad bs core live)).advance (.cond g) 1

end Sys2Proof.Machine
end

