-- ==== Sys2Proof/Machine/Watches.lean ====
section
/-! DEFINITION. `watch.arm`, `watch.disarm`, `watch.query` (R256–R259) and the life of a trigger up to a
ready gang (R264, R265, R267). -/

namespace Sys2Proof.Machine

/-! ## Arming (R256, R257) -/

def armBase (b : List W64) : Nat := f64 (blockReg b 0) 0 32
def armCore (b : List W64) : Nat := f64 (blockReg b 0) 24 8
def armOffset (b : List W64) : Nat := f64 (blockReg b 0) 0 24
def armLength (b : List W64) : Nat := f64 (blockReg b 1) 0 32
def armQid (b : List W64) : Nat := f64 (blockReg b 2) 0 32

/-- The first register of an arm block outside its legal values (R256). -/
def armBadReg (b : List W64) : Option Nat :=
  let w := blockReg b 1
  let n := armLength b
  if f64 (blockReg b 0) 32 32 ≠ 0 || armBase b % 64 ≠ 0 then some 0
  else if f64 w 51 13 ≠ 0 || f64 w 43 5 ≠ 0 || f64 w 40 3 = 0 || 1 < f64 w 32 8 || n % 64 ≠ 0 || n < 64 ||
      0x100000 < n then some 1
  else if f64 (blockReg b 2) 32 32 ≠ 0 then some 2
  else none

/-- The first byte of a range that no readable grant of the ASID covers (R257). -/
def State.ungranted (s : State) (core asid off n : Nat) : Option Nat :=
  (List.range n).find? fun k => !granted s.mem core asid (off + k) 1 .load

/-- The fault of an arm (R257). -/
def State.armFault (s : State) (b : List W64) (level : Level) (asid : Nat) : Option Trap :=
  match armBadReg b with
  | some j => some (0x02, n64 j)
  | none =>
    let core := armCore b
    let off := armOffset b
    if !s.present core || decide (0xFF0000 < off + armLength b) then some (0x0A, blockReg b 0)
    else if level ≠ .u then none
    else (s.ungranted core asid off (armLength b)).map fun k => (0x0A, n64 (core * 2 ^ 24 + off + k))

/-- Whether an entry's range overlaps another's. -/
def Watch.meets (w : Watch) (off n : Nat) : Bool := decide (w.base < off + n) && decide (off < w.base + w.len)

/-- The lowest free entry of a table. -/
def CoreSt.freeWatch (c : CoreSt) : Option Nat := (List.range 64).find? fun i => (afind i c.watches).isNone

/-- The code of an arm that no fault stops: the entry it takes, or its failure (R257). -/
def State.armCode (s : State) (b : List W64) (asid : Nat) : Except Int Nat :=
  let c := s.core (armCore b)
  match c.freeWatch with
  | none => .error (-1)
  | some i =>
    if c.watches.any fun (_, w) => w.meets (armOffset b) (armLength b) then .error (-2)
    else
      match s.quote? (armQid b) with
      | none => .error (-3)
      | some q =>
        if q.asid ≠ asid || q.cls ≠ 2 || q.state ≠ 4 then .error (-3)
        else if (q.partOn (armCore b)).isNone then .error (-4)
        else .ok i

/-- The entry that an arm makes (R255). -/
def State.armed (s : State) (b : List W64) (asid : Nat) (launch : Option Nat) : Watch :=
  let w := blockReg b 1
  { serial := s.nextId, state := 1, base := armOffset b, len := armLength b, perRange := f64 w 32 8 = 1,
    limit := f64 w 40 3, scope := Scope.ofCode (w.extractLsb' 48 3), qid := armQid b, arg := blockReg b 3,
    asid := asid, seq := 0, reason := 0, launch := launch, effect := s.tick + 1 }

/-- An entry armed. -/
def State.armEntry (s : State) (i : Nat) (b : List W64) (asid : Nat) (launch : Option Nat) : State :=
  let c := s.core (armCore b)
  { s.setCore (armCore b) { c with watches := aput i (s.armed b asid launch) c.watches } with nextId := s.nextId + 1 }

/-- The registers of a block as any context holds them. -/
def State.blockOf (s : State) (a : Agent) (p n : Nat) : List W64 := (List.range n).map fun j => (s.ctx a).reg (p + j)

/-- The launch of an agent's gang. -/
def State.launchIdOf (s : State) (a : Agent) : Option Nat := (agentGang? a).map fun g => (s.gang g).launch

/-- `watch.arm` (R257). -/
def execWatchArm (d : GDst) (p : Fin 192) (s : State) : Out :=
  groupInstr (.watchArm d p) s fun a s =>
    let b := s.blockOf a p.val 4
    match s.armFault b (s.levelOf a) (s.asidOf a) with
    | some (c, v) => s.groupFault a c v
    | none =>
      match s.armCode b (s.asidOf a) with
      | .error e => if d = .gz then s.groupFault a 0x16 (w64 e) else s.groupResult a 1 (dstG d) (w64 e) 1
      | .ok i => (s.armEntry i b (s.asidOf a) (s.launchIdOf a)).groupResult a 1 (dstG d) (n64 i) 1

/-! ## Disarming and querying (R258, R259) -/

/-- A `disarm` or `query` asked of a core: its result arrives when it takes effect. -/
def watchAsk (i : Instr) (s : State) (d : GDst) (r : GSrc) (disarm : Bool) : Out :=
  groupInstr i s fun a s =>
    let v := readG s a r
    let core := f64 v 8 8
    if f64 v 16 48 ≠ 0 || 63 < f64 v 0 8 then s.groupFault a 0x02 v
    else if !s.present core then s.groupResult a 1 (dstG d) (w64 (-3)) 1
    else
      let c := s.core core
      let ask : WatchAsk :=
        { id := s.nextId, who := a, disarm := disarm, entry := f64 v 0 8, asid := s.asidOf a, since := s.tick }
      let s := { s.setCore core { c with asks := c.asks ++ [ask] } with nextId := s.nextId + 1 }
      (s.awaitG a ask.id (dstG d)).advance a 1

/-- `watch.disarm` (R258). -/
def execWatchDisarm (d : GDst) (a : GSrc) (s : State) : Out := watchAsk (.watchDisarm d a) s d a true

/-- `watch.query` (R259). -/
def execWatchQuery (d : GDst) (a : GSrc) (s : State) : Out := watchAsk (.watchQuery d a) s d a false

/-- The window of a standing quotation that a tick lies in, counted from its acceptance (R267). -/
def Quote.windowAt (q : Quote) (now : Nat) : Nat :=
  (now - q.accepted) / max 1 ((q.kernel.map (·.window)).getD 1)

/-- Triggers that joined in the present window. -/
def Quote.joined (q : Quote) (now : Nat) : Nat := if q.window.1 = q.windowAt now then q.window.2 else 0

/-- What a query reads (R259). -/
def State.watchRead (s : State) (core : Nat) (w : Watch) : W64 :=
  let joins := min 0xFFFF (((s.quote? w.qid).map (·.joined s.tick)).getD 0)
  let held := ((s.core core).triggers.filter fun t => t.watch = w.serial).length
  n64 (joins * 2 ^ 32 + held * 2 ^ 16 + w.reason * 4 + w.state)

/-- A disarm takes effect (R258): the triggers discarded are counted. -/
def State.disarm (s : State) (core entry : Nat) (w : Watch) : State × W64 :=
  let c := s.core core
  let mine (t : Trigger) : Bool := t.watch = w.serial
  let lost := c.triggers.filter fun t => mine t && t.gang.isNone
  let only (f : Forming) : Bool :=
    f.qid = w.qid && (c.triggers.filter fun t => t.gang = some f.serial).all mine
  let s := s.setCore core
    { c with triggers := c.triggers.filter (fun t => !(mine t && t.gang.isNone)), watches := adel entry c.watches }
  ((c.forming.filter only).foldl (fun s f => s.formingReady core f) s, n64 lost.length)

/-- One request takes effect and its result arrives. -/
def State.watchAnswer (s : State) (core : Nat) (k : WatchAsk) : State :=
  let c := s.core core
  let s := s.setCore core { c with asks := c.asks.filter fun y => y.id ≠ k.id }
  let (s, v) : State × W64 :=
    match afind k.entry c.watches with
    | none => (s, if k.disarm then w64 (-3) else 0)
    | some w =>
      if w.asid ≠ k.asid then (s, w64 (-3))
      else if k.disarm then s.disarm core k.entry w
      else (s, s.watchRead core w)
  s.deliver k.who k.id v 0

/-! ## Joins (R264, R265, R267) -/

/-- Forming and ready gangs of a standing quotation on a core. -/
def State.waitingGangs (s : State) (core qid : Nat) : Nat :=
  let c := s.core core
  let ready (t : Task) : Bool :=
    t.origin = .triggered && ((s.launch? t.launch).map (·.qid)).getD 0 = qid
  (c.forming.filter fun f => f.qid = qid).length +
    ((c.parts.toList.map fun p => (p.tasks.filter ready).length).foldl (· + ·) 0)

/-- Triggered gangs of a standing quotation that dispatched on a core in this clock: their places are free from the
next one on (R265). -/
def State.leftNow (s : State) (core qid : Nat) : Nat := ((s.core core).left.filter fun d => d = (qid, s.tick)).length

/-- Whether an unjoined trigger finds a forming gang, or may begin one. -/
def State.canJoin (s : State) (core : Nat) (t : Trigger) : Bool :=
  t.gang.isNone && decide (t.since < s.tick) &&
    ((s.core core).forming.any (fun f => f.qid = t.qid) ||
      decide (s.waitingGangs core t.qid + s.leftNow core t.qid < 16))

/-- A join counted in the window of its quotation. -/
def Quote.countJoin (q : Quote) (now : Nat) : Quote := { q with window := (q.windowAt now, q.joined now + 1) }

/-- The forming gang of a quotation on a core, begun with a trigger where none forms. -/
def State.formingOf (s : State) (core qid : Nat) : State × Forming :=
  let c := s.core core
  match c.forming.find? fun f => f.qid = qid with
  | some f => (s, f)
  | none =>
    let f : Forming := { qid := qid, serial := s.nextId, since := s.tick }
    ({ s.setCore core { c with forming := c.forming ++ [f] } with nextId := s.nextId + 1 }, f)

/-- The entry number of a watch by its serial number. -/
def CoreSt.watchEntry (c : CoreSt) (serial : Nat) : Option Nat := (c.watches.find? fun e => e.2.serial = serial).map (·.1)

/-- A trigger joins (R265), or its watch stops at the budget (R267). -/
def State.joinTrigger (s : State) (core : Nat) (t : Trigger) : State :=
  match s.quote? t.qid with
  | none => s
  | some q =>
    let budget := (q.kernel.map (·.budget)).getD 0
    if budget ≤ q.joined s.tick then
      match (s.core core).watchEntry t.watch with
      | some i => s.stopWatch core i 2
      | none => s
    else
      let s := s.setQuote (q.countJoin s.tick)
      let (s, f) := s.formingOf core t.qid
      let c := s.core core
      let s := s.setCore core
        { c with triggers := c.triggers.map fun y => if y = t then { y with gang := some f.serial } else y }
      let n := ((s.core core).triggers.filter fun y => y.gang = some f.serial).length
      if n = 32 then s.formingReady core f else s

/-- The oldest trigger of a core that may join. -/
def State.nextJoin (s : State) (core : Nat) : Option Trigger := (s.core core).triggers.find? fun t => s.canJoin core t

/-- A pending trigger joins (R265). -/
def execTriggerJoin (core : Nat) (s : State) : Out :=
  match s.nextJoin core with
  | some t => .next (s.joinTrigger core t)
  | none => .next s

/-- Every join that is due, at most one for each entry of the table. -/
def State.joinsDue (s : State) (core : Nat) : Nat → State
  | 0 => s
  | n + 1 =>
    match s.nextJoin core with
    | some t => (s.joinTrigger core t).joinsDue core n
    | none => s

/-- Forming gangs 2,200 clk old are declared ready (R265). -/
def execFormingGangReady (core qid : Nat) (s : State) : Out :=
  match (s.core core).forming.find? fun f => f.qid = qid with
  | some f => if f.since + 2200 ≤ s.tick then .next (s.formingReady core f) else .next s
  | none => .next s

/-- The forming gangs of a core that are due at this clock are declared ready (R265). -/
def State.gangsDue (s : State) (core : Nat) : State :=
  ((s.core core).forming.filter fun f => decide (f.since + 2200 ≤ s.tick)).foldl (fun s f => s.formingReady core f) s

/-- What the watch unit of a core does as a clock begins: gangs declared ready, the joins due, then the requests
of the clock before. -/
def State.watchClock (s : State) (core : Nat) : State :=
  let s := (s.gangsDue core).joinsDue core 512
  ((s.core core).asks.filter fun k => decide (k.since < s.tick)).foldl (fun s k => s.watchAnswer core k) s

end Sys2Proof.Machine
end

