-- ==== Sys2Proof/Machine/Groups.lean ====
section
/-! DEFINITION. Sharing groups (R111–R113), `spawn` (R114) and the Watershed's phase instructions
(R252, R253). -/

namespace Sys2Proof.Machine

/-! ## Sharing groups (R112) -/

/-- Cores of a started block. -/
def Launch.blockCores (l : Launch) (block : Nat) : List Nat := ((l.slotOf block).map fun b => b.cores.map (·.1)).getD []

/-- The cluster that holds every core of a block, if one does. -/
def Launch.blockCluster (l : Launch) (block : Nat) : Option Nat :=
  match l.blockCores block with
  | [] => none
  | c :: r => if r.all fun d => clusterOf d = clusterOf c then some (clusterOf c) else none

/-- Members of a group, by slot. -/
def Launch.members (l : Launch) (cl id : Nat) : List (Nat × Nat) :=
  ((l.groups.find? fun (c, i, _) => c = cl && i = id).map fun (_, _, ms) => ms).getD []

/-- A group's members replaced; a group without members is not listed. -/
def Launch.setMembers (l : Launch) (cl id : Nat) (ms : List (Nat × Nat)) : Launch :=
  let rest := l.groups.filter fun (c, i, _) => !(c = cl && i = id)
  { l with groups := if ms = [] then rest else rest ++ [(cl, id, ms)] }

/-- The lowest free slot of a group. -/
def freeSlot (ms : List (Nat × Nat)) : Option Nat := (List.range 16).find? fun k => (afind k ms).isNone

/-- A block leaves its group. -/
def Launch.leaveGroup (l : Launch) (block : Nat) : Launch :=
  match l.groupOf block with
  | none => l
  | some (cl, id, slot, ms) => l.setMembers cl id (adel slot ms)

/-- A conductor's launch. -/
def State.launchOfGang (s : State) (g : Nat) : Option (Nat × Launch) :=
  (s.launch? (s.gang g).launch).map fun l => ((s.gang g).launch, l)

/-- `share.join` (R112): effective from the clock gd is written. -/
def execShareJoin (d : GDst) (a : GSrc) (s : State) : Out :=
  condInstr (.shareJoin d a) s fun g s =>
    let v := readG s (.cond g) a
    let block := (s.gang g).block
    if f64 v 8 56 ≠ 0 then s.groupFault (.cond g) 0x02 v
    else
      match s.launchOfGang g with
      | none => s
      | some (id, l) =>
        let give (s : State) (n : Int) : State := s.groupResult (.cond g) 1 (dstG d) (w64 n) 1
        match l.blockCluster block with
        | none => give s (-1)
        | some cl =>
          if (l.groupOf block).isSome then give s (-3)
          else
            let ms := l.members cl v.toNat
            match freeSlot ms with
            | none => give s (-2)
            | some k =>
              let l := { l.setMembers cl v.toNat (aput k block ms) with joining := l.joining ++ [block] }
              give (s.setLaunch id l) k

/-- `share.leave` (R112): it waits for the accesses issued through the block's slot. -/
def execShareLeave (d : GDst) (s : State) : Out :=
  condInstr (.shareLeave d) s fun g s =>
    match (s.launchOfGang g).bind fun (_, l) => l.groupOf (s.gang g).block with
    | none => s.groupResult (.cond g) 1 (dstG d) (w64 (-3)) 1
    | some _ => s.startWait (.cond g) (.leave (dstG d)) 0

/-- `share.query` (R112). Of a block whose cores span two clusters, for which no group is one of its cluster's, the
answer is an empty mask and slot 31 (DESIGN CHOICE, log 85). -/
def execShareQuery (d : GDst) (a : GSrc) (s : State) : Out :=
  condInstr (.shareQuery d a) s fun g s =>
    let v := readG s (.cond g) a
    let block := (s.gang g).block
    if f64 v 8 56 ≠ 0 then s.groupFault (.cond g) 0x02 v
    else
      match s.launchOfGang g with
      | none => s
      | some (_, l) =>
        let ms := ((l.blockCluster block).map fun cl => l.members cl v.toNat).getD []
        let mask := ms.foldl (fun n m => n + 2 ^ m.1) 0
        let own := ((ms.find? fun m => m.2 = block).map (·.1)).getD 31
        s.groupResult (.cond g) 1 (dstG d) (n64 (mask + own * 2 ^ 16)) 1

/-- Whether a range that a block's engine work is to reach through `.g` touches a sharing-group slot. -/
def Launch.touches (l : Launch) (block cl id slot : Nat) (r : Range) : Bool :=
  let (sp, a, n) := r
  sp = .g && (cutAt (2 ^ 23) a n).any fun (lo, len) =>
    match l.sharing block lo len with
    | some (_, _, cl', id', slot') => cl' = cl && id' = id && slot' = slot
    | none => false

/-- What a copy has still to reach: its granules from the next one on, at the addresses that its index list gives
where it gathers or scatters, and its completion word. -/
def State.copyRest (s : State) (k : CopyCmd) : List Range :=
  let b := k.block
  let n := copyLength b - 64 * k.done
  let side (sp : Space) (base : Nat) (indexed : Bool) : List Range :=
    if n = 0 || sp ≠ .g then []
    else if !indexed then [(sp, base + 64 * k.done, n)]
    else
      (List.range (copyGranules b - k.done)).filterMap fun i =>
        match (s.copySide k.site b base (k.done + i) true).2 with
        | .ok a => some (sp, a, 64)
        | .error _ => none
  (if copyKind b = 1 then [] else side (copySrcSpace b) (copySrc b) (copyKind b = 3)) ++
    (if copyToQueue b then [] else side (copyDstSpace b) (copyDst b) (copyKind b = 4)) ++
    (if copyCompletes b then [(copyDoneSpace b, copyDoneAt b, 8)] else [])

/-- What a running stream has still to read. -/
def Stream.rest (d : Stream) : List Range :=
  if !d.running || d.space ≠ .g then []
  else (List.range (d.elements - 32 * d.next)).map fun i => (.g, (d.address (32 * d.next + i)).toNat, d.size)

/-- Whether a copy, a matrix operation or a stream that has been issued is still to reach a sharing-group slot: a
stopped one too, since it goes on where it stopped (R224; log 51). -/
def State.copyThrough (s : State) (launch : Nat) (l : Launch) (cl id slot : Nat) : Bool :=
  (s.cores.any fun (_, c) =>
    (c.copies.any fun k => k.launch = launch && (s.copyRest k).any (l.touches k.site.block cl id slot)) ||
      c.mx.any fun y => y.launch = launch && (mxLocks y.block).any (l.touches y.site.block cl id slot)) ||
    s.gangs.any fun (_, x) => x.launch = launch &&
      x.sd.toList.any fun d => d.rest.any (l.touches x.block cl id slot)

/-- Accesses issued through a sharing-group slot are still to be performed (R112). -/
def State.slotBusy (s : State) (launch : Nat) (l : Launch) (cl id slot : Nat) : Bool :=
  s.flight.any (fun f => f.pending && f.via = some (launch, cl, id, slot)) || s.copyThrough launch l cl id slot

/-- Every access issued through the slot has been performed: the slot is revoked and gd written (R112,
R113). -/
def execShareLeaveRevoke (g : Nat) (s : State) : Out :=
  match ((s.gang g).cond.wait.map Wait.kind), s.launchOfGang g with
  | some (WaitKind.leave d), some (id, l) =>
    match l.groupOf (s.gang g).block with
    | none => .next (s.endWait (.cond g) d (w64 (-3)))
    | some (cl, grp, slot, _) =>
      if s.slotBusy id l cl grp slot then .next s
      else .next ((s.setLaunch id (l.leaveGroup (s.gang g).block)).endWait (.cond g) d (n64 slot))
  | _, _ => .next s

/-! ## Spawned gangs (R114) -/

def spawnLane (b : List W64) : Nat := f64 (blockReg b 0) 0 16
def spawnCond (b : List W64) : Nat := f64 (blockReg b 0) 16 16
def spawnCount (b : List W64) : Nat := f64 (blockReg b 1) 0 8
def spawnThreads (b : List W64) : Nat := f64 (blockReg b 1) 8 8
def spawnBar (b : List W64) : Nat := f64 (blockReg b 3) 0 8

/-- A legal spawn block. -/
def spawnOk (b : List W64) : Bool :=
  decide (f64 (blockReg b 0) 32 32 = 0) && decide (f64 (blockReg b 1) 16 48 = 0) && decide (f64 (blockReg b 3) 8 56 = 0) &&
    decide (1 ≤ spawnCount b) && decide (spawnCount b ≤ 12) && decide (1 ≤ spawnThreads b) && decide (spawnThreads b ≤ 32) &&
    (decide (spawnBar b ≤ 95) || decide (spawnBar b = 255))

/-- An index names no function, or one of its own section. -/
def Kernel.spawnEntry (k : Kernel) (cond : Bool) (i : Nat) : Option (Option W32) :=
  if i = 0xFFFF then some none
  else
    match k.funcs[i]? with
    | some f => if f.entry.getLsbD 31 = cond then some (some f.entry) else none
    | none => none

/-- The task of the c-th child. -/
def State.childTask (s : State) (g : Nat) (b : List W64) (lane cond : Option W32) (c : Nat) : Task :=
  let x := s.gang g
  let arg := blockReg b 2
  let gen := s.genOf (.cond g)
  let n := spawnThreads b
  { launch := x.launch, origin := .spawned, laneEntry := lane, condEntry := cond, wid := x.wid, block := x.block,
    index := x.index, depth := x.depth + 1, threads := if lane.isSome then n else 0,
    regs := List.replicate n [arg, n64 c], gregs := [arg, n64 c],
    bar := if h : spawnBar b < 96 then some ⟨spawnBar b, h⟩ else none, gens := List.replicate n gen, cgen := gen,
    serial := 0, after := s.released (.cond g), readyAt := s.tick, wide := false }

/-- Latency of the group memory class at h = 0 (R83). -/
def groupMemoryLatency : Nat := 24

/-- `spawn` (R114). -/
def execSpawn (p : Fin 192) (d : GDst) (s : State) : Out :=
  condInstr (.spawn p d) s fun g s =>
    let b := s.block g p.val 4
    let k := s.kernel g
    let x := s.gang g
    let give (s : State) (n : Int) : State := s.groupResult (.cond g) 1 (dstG d) (w64 n) groupMemoryLatency
    if !spawnOk b then s.groupFault (.cond g) 0x02 (blockReg b 1)
    else if k.spawnDepth < x.depth + 1 then s.groupFault (.cond g) 0x0E (n64 (x.depth + 1))
    else
      match k.spawnEntry false (spawnLane b), k.spawnEntry true (spawnCond b) with
      | some lane, some cond =>
        if lane.isNone && cond.isNone then give s (-1)
        else
          let core := gangCore g
          let part := gangPart g
          let n := spawnCount b
          if 16 < ((s.core core).parts.toList.getD part Part.empty).tasks.length + n then give s (-2)
          else
            let s := if spawnBar b < 96 then s.recordPhase g (spawnBar b) else s
            let s := (List.range n).foldl (fun s c => s.addTask core part (s.childTask g b lane cond c)) s
            give s n
      | _, _ => give s (-1)

/-! ## Watershed phases (R252, R253) -/

/-- A launch stands in a communication step: steps alternate from computation step 0. -/
def Launch.communicates (l : Launch) : Bool := l.step % 2 = 1

/-- A phase instruction that ends the present step, or 0x02. -/
def phaseEnd (i : Instr) (s : State) (communication : Bool) : Out :=
  condInstr i s fun g s =>
    match s.launchOfGang g with
    | none => s
    | some (_, l) =>
      if l.communicates = communication then s.startWait (.cond g) .phase 0
      else s.groupFault (.cond g) 0x02 (firstWord i)

/-- `phase.comp` ends a communication step (R252). -/
def execPhaseComp (s : State) : Out := phaseEnd .phaseComp s true

/-- `phase.comm` ends a computation step (R252). -/
def execPhaseComm (s : State) : Out := phaseEnd .phaseComm s false

/-- A register of a transfer's block outside its legal values: kinds 0 and 2 alone. -/
def xferBadReg (b : List W64) : Option Nat :=
  if copyKind b = 0 || copyKind b = 2 then copyBadReg b else some 0

/-- `phase.xfer` (R253). -/
def execPhaseXfer (p : Fin 192) (t : W32) (s : State) : Out :=
  condInstr (.phaseXfer p t) s fun g s =>
    match s.launchOfGang g, s.siteOf (.cond g) with
    | some (id, l), some x =>
      let b := s.block g p.val 8
      let short := blockShort (s.kernel g).groupRegs p.val 8
      let word := firstWord (.phaseXfer p t)
      if l.communicates then s.groupFault (.cond g) 0x02 word
      else
        match s.copyFault x b (lowerOf short (xferBadReg b)) with
        | some (c, v) => s.groupFault (.cond g) c v
        | none =>
          let c := s.core x.core
          if 16 ≤ (c.xfers.filter fun y => y.launch = id).length then s.groupFault (.cond g) 0x02 word
          else
            let y : Xfer := { at_ := t.toNat, part := gangPart g, gang := g, launch := id, site := x, block := b,
                              gen := s.genOf (.cond g) }
            (s.setCore x.core { c with xfers := c.xfers ++ [y] }).advance (.cond g) 2
    | _, _ => s

/-- Cores that hold a partition of a launch. -/
def Launch.coreList (l : Launch) : List Nat := ((l.slots.flatMap fun b => b.cores.map (·.1))).eraseDups

/-- Gangs of a launch on a core whose conductor has not exited. -/
def State.conductors (s : State) (launch core : Nat) : List (Nat × Gang) :=
  s.gangs.filter fun (g, x) => x.launch = launch && gangCore g = core && x.cond.st ≠ .exited

/-- Whether a core has ended the present step of a launch (R252): its conductors wait, and in a
communication step its transfers have completed. -/
def State.coreEnded (s : State) (launch : Nat) (l : Launch) (core : Nat) : Bool :=
  let c := s.core core
  ((s.conductors launch core).all fun (_, x) => (x.cond.wait.map (·.kind)) = some .phase) &&
    (!l.communicates ||
      (!(c.xfers.any fun y => y.launch = launch) && !(c.copies.any fun k => k.launch = launch && k.xfer)))

/-- Every core of the group has ended the step, and some conductor waits for the next. -/
def State.stepOver (s : State) (launch : Nat) (l : Launch) : Bool :=
  (l.coreList.any fun c => !(s.conductors launch c).isEmpty) && l.coreList.all fun c => s.coreEnded launch l c

/-- The clock at which the last core ended its step is noted as a clock ends. -/
def State.noteStep (s : State) (launch : Nat) : State :=
  match s.launch? launch with
  | none => s
  | some l =>
    if !l.kernel.hasPhase then s
    else
      let ended := if s.stepOver launch l then some (l.stepEnded.getD s.tick) else none
      if ended = l.stepEnded then s else s.setLaunch launch { l with stepEnded := ended }

/-- The tree starts the next step on every core, 32 clk after the last core ended its own (R252). -/
def execPhaseStepStart (launch : Nat) (s : State) : Out :=
  match s.launch? launch with
  | none => .next s
  | some l =>
    match l.stepEnded with
    | none => .next s
    | some t =>
      if s.tick < t + 32 || !s.stepOver launch l || l.phase ≠ .running then .next s
      else
        let s := s.setLaunch launch { l with step := l.step + 1, stepStart := s.tick, stepEnded := none }
        .next
          ((s.gangs.filter fun (_, x) => x.launch = launch && (x.cond.wait.map (·.kind)) = some .phase).foldl
            (fun s (g, _) => s.endWait (.cond g) .none 0) s)

end Sys2Proof.Machine
end

