-- ==== Sys2Proof/Machine/Validate.lean ====
section
/-! DEFINITION. The kernel object (R16–R32) as the walker reads it, and its validation: the rejections
of R33. -/

namespace Sys2Proof.Machine

/-! ## Reading the object -/

/-- The bytes of an object and where it lies. -/
structure Obj where
  base : Nat
  bytes : Array Byte

/-- A little-endian field of `n` bytes. -/
def Obj.u (o : Obj) (off n : Nat) : Nat := leNat ((List.range n).map fun k => o.bytes.getD (off + k) 0)

/-- Where device memory holds an object's byte: its page must be present and readable under the ASID
(R33). -/
def State.readable (s : State) (asid va : Nat) : Option Nat :=
  match walkTable s.mem (s.asidRoot asid) va with
  | some (pte, level, _) =>
    if leafGrants pte .load false then
      match leafLoc pte (2 ^ levelShift level) va with
      | .dev pa => some pa
      | _ => none
    else none
  | none => none

/-- `n` bytes under an ASID, page by page, or the offset of the first that cannot be read. -/
def State.readUnder (s : State) (asid va : Nat) : Nat → Nat → Nat → Except Nat (List Byte)
  | 0, _, _ => .ok []
  | fuel + 1, done, n =>
    if n = 0 then .ok []
    else
      match s.readable asid (va + done) with
      | none => .error done
      | some pa =>
        let head := min n (65536 - (va + done) % 65536)
        (s.readUnder asid va fuel (done + head) (n - head)).map fun r => readBytes s.mem pa head ++ r

/-- Bytes under an ASID. -/
def State.readSpace (s : State) (asid va n : Nat) : Except Nat (List Byte) :=
  s.readUnder asid va (n / 65536 + 2) 0 n

/-! ## The parts of an object -/

/-- An instruction of a section, or the reason it has none. -/
structure Item where
  word : W32
  instr : Dec Instr
  len : Nat

/-- The instructions of a section by word offset; none at a second word (R17). -/
def itemsFrom : Bool → List W32 → List (Option Item)
  | _, [] => []
  | true, _ :: r => none :: itemsFrom false r
  | false, w :: r =>
    let two := twoWords w
    let i : Dec Instr :=
      match two, r with
      | true, [] => .error .short
      | true, x :: _ => decode w x
      | false, _ => decode w 0
    some { word := w, instr := i, len := if two then 2 else 1 } :: itemsFrom two r

/-- A code section: where it begins in the object, its length in words, its instructions. -/
structure Sect where
  cond : Bool
  off : Nat
  count : Nat
  items : Array (Option Item)

/-- A function (R27): its section, first word and length. -/
structure Fn where
  cond : Bool
  start : Nat
  len : Nat
  deriving DecidableEq, Repr, Inhabited

/-- The words of a section that lie in the object. -/
def Obj.words (o : Obj) (off n : Nat) : List W32 :=
  (List.range (min n ((o.bytes.size - off) / 4))).map fun i => BitVec.ofNat 32 (o.u (off + 4 * i) 4)

/-- An entry word, where its section is present (R16). -/
def Obj.entry (o : Obj) (bit off : Nat) (cond : Bool) : Option W32 :=
  if o.u 6 2 / 2 ^ bit % 2 = 1 then some (BitVec.ofNat 32 (o.u off 4 + if cond then 2 ^ 31 else 0)) else none

/-- A list of table rows that lie in the object. -/
def Obj.rows (o : Obj) (field size limit : Nat) : List Nat :=
  let off := o.u field 4
  (List.range (min (o.u (field + 4) 4) (min limit ((o.bytes.size - off) / size)))).map fun i => off + size * i

/-- The kernel as the device keeps it, the walk's results still to come (R16–R32). -/
def Obj.kernel (o : Obj) : Kernel :=
  { object := o.base, objectBytes := o.u 8 8, laneRegs := o.u 24 1, groupRegs := o.u 25 1, depth := o.u 26 1,
    spawnDepth := o.u 27 1, scratch := o.u 28 4, dqDecl := BitVec.ofNat 32 (o.u 32 4),
    uqDecl := BitVec.ofNat 32 (o.u 36 4), barCeiling := BitVec.ofNat 32 (o.u 44 4),
    watch := decide (o.u 6 2 / 4 % 2 = 1), preempt := decide (o.u 6 2 / 8 % 2 = 1), preemptLat := o.u 40 4,
    budget := o.u 48 2, window := o.u 52 4, widths := (List.range 6).map fun k => o.u 16 8 / 2 ^ (6 * k) % 64,
    laneCode := o.words (o.u 64 4) (o.u 68 4), condCode := o.words (o.u 56 4) (o.u 60 4),
    laneEntry := o.entry 1 76 false, condEntry := o.entry 0 72 true,
    funcs := (o.rows 80 16 1024).map fun r => { entry := BitVec.ofNat 32 (o.u r 4), words := o.u (r + 4) 4 },
    points := (o.rows 96 48 4096).map fun r =>
      (BitVec.ofNat 32 (o.u r 4), BitVec.ofNat 96 (o.u (r + 8) 12), BitVec.ofNat 192 (o.u (r + 24) 24)),
    resident := (o.rows 104 16 16).map fun r =>
      (o.u r 8 % 2 ^ 56, 65536 * o.u (r + 8) 4, decide (o.u (r + 12) 4 % 2 = 1)),
    data := o.u 112 4, dataBytes := o.u 116 4, chain := 0, calls := (o.u 88 4, o.u 92 4), hasPhase := false,
    hasMatrix := false, hasAtom := false }

/-- What the walker works on. -/
structure Prog where
  obj : Obj
  k : Kernel
  lanes : Sect
  conds : Sect
  fns : Array Fn
  /-- call-table entries: current target, final function, stub bit -/
  calls : List (W32 × Nat × Bool)

def sectOf (cond : Bool) (off : Nat) (code : List W32) : Sect :=
  { cond := cond, off := off, count := code.length, items := (itemsFrom false code).toArray }

def Obj.prog (o : Obj) : Prog :=
  let k := o.kernel
  { obj := o, k := k, lanes := sectOf false (o.u 64 4) k.laneCode, conds := sectOf true (o.u 56 4) k.condCode,
    fns := (k.funcs.map fun f =>
      { cond := f.entry.getLsbD 31, start := f.entry.toNat % 2 ^ 31, len := f.words }).toArray,
    calls := (o.rows 88 8 1024).map fun r =>
      (BitVec.ofNat 32 (o.u r 4), o.u (r + 4) 2, decide (o.u (r + 6) 1 % 2 = 1)) }

def Prog.sect (p : Prog) (cond : Bool) : Sect := if cond then p.conds else p.lanes

/-- The instruction at a word of a section. -/
def Sect.at? (x : Sect) (a : Nat) : Option Item := x.items.getD a none

/-- The instruction at a code address. -/
def Prog.atCode (p : Prog) (a : Nat) : Option Item :=
  if condBit ≤ a then p.conds.at? (a - condBit) else p.lanes.at? a

/-! ## Control flow -/

/-- What an instruction does to the PC. -/
inductive Flow
  | next
  | branch (off : Int) (falls : Bool)
  | guarded (k : Fin 4) (off : Int) (falls : Bool)
  | call (off : Int)
  | calli
  | ends
  | loop (len bound : Nat)

def flowOf : Instr → Flow
  | .br o => .branch (sx o) false
  | .b o => .branch (sx o) false
  | .brz _ o | .brnz _ o | .bz _ o | .bnz _ o => .branch (sx o) true
  | .bbr k o => .guarded k (sx o) false
  | .bbrz k _ o | .bbrnz k _ o => .guarded k (sx o) true
  | .groupBbr k o => .guarded k (sx o) false
  | .groupBbrz k _ o | .groupBbrnz k _ o => .guarded k (sx o) true
  | .call o => .call (sx o)
  | .groupCall o => .call (sx o)
  | .calli _ | .groupCalli _ => .calli
  | .ret | .groupRet | .exit | .groupExit => .ends
  | .loop _ l b | .groupLoop _ l b => .loop l.toNat b.toNat
  | _ => .next

def Item.flow (i : Item) : Flow :=
  match i.instr with
  | .ok x => flowOf x
  | .error _ => .next

/-- The loops of a section (R133): their words, starts and ends. -/
def Sect.loops (x : Sect) : List (Nat × Nat × Nat) :=
  (List.range x.count).filterMap fun a =>
    match (x.at? a).map Item.flow with
    | some (.loop len _) => some (a, a + 2, a + 2 + len)
    | _ => none

/-- Where a word may be followed: the words after it, with the loops that step there. -/
def succs (loops : List (Nat × Nat × Nat)) (a : Nat) (i : Item) : List Int :=
  let n := a + i.len
  let seq : List Int :=
    (n : Int) :: (loops.filter fun (_, st, en) => decide (en = n) && decide (st ≤ a)).map fun (_, st, _) => (st : Int)
  match i.flow with
  | .next | .call _ | .calli => seq
  | .branch o falls | .guarded _ o falls => (if falls then seq else []) ++ [a + o]
  | .ends => []
  | .loop len _ => seq ++ [((a + 2 + len : Nat) : Int)]

/-- The function at a word of a section. -/
def Prog.fnAt (p : Prog) (cond : Bool) (a : Nat) : Option Nat :=
  p.fns.findIdx? fun f => f.cond = cond && decide (f.start ≤ a) && decide (a < f.start + f.len)

/-- The function that begins at a word of a section. -/
def Prog.fnFrom (p : Prog) (cond : Bool) (a : Nat) : Option Nat :=
  p.fns.findIdx? fun f => f.cond = cond && decide (f.start = a)

/-- The functions of one section that the call table may name (R28). -/
def Prog.named (p : Prog) (cond : Bool) : List Nat :=
  let all := p.calls.flatMap fun (t, fin, _) =>
    (p.fnFrom (t.getLsbD 31) (t.toNat % 2 ^ 31)).toList ++ [fin]
  (all.filter fun i => decide (i < p.fns.size) && ((p.fns.getD i default).cond = cond)).eraseDups

/-- The functions an instruction may call. -/
def Prog.callees (p : Prog) (cond : Bool) (a : Nat) (i : Item) : List Nat :=
  match i.flow with
  | .call o => ((p.fnFrom cond ((a : Int) + o).toNat).filter fun _ => 0 ≤ (a : Int) + o).toList
  | .calli => p.named cond
  | _ => []

/-- A function applied until nothing changes, at most `n` times. -/
def settleOn {α : Type} [DecidableEq α] (f : α → α) : Nat → α → α
  | 0, x => x
  | n + 1, x => let y := f x; if y = x then x else settleOn f n y

/-! ## Guard counters (R23) -/

def guardBit (k : Fin 4) : BitVec 4 := 1 <<< k.val

/-- The counters an instruction presets. -/
def presets (i : Item) : BitVec 4 :=
  match i.instr with
  | .ok (.guard k _) | .ok (.groupGuard k _) => guardBit k
  | _ => 0

/-- The words of a function with an instruction. -/
def Prog.fnItems (p : Prog) (f : Fn) : List (Nat × Item) :=
  (List.range (min f.len ((p.sect f.cond).count - f.start))).filterMap fun j =>
    ((p.sect f.cond).at? (f.start + j)).map fun i => (f.start + j, i)

/-- The functions each function may call. -/
def Prog.edges (p : Prog) : Array (List Nat) :=
  p.fns.map fun f => ((p.fnItems f).flatMap fun (a, i) => p.callees f.cond a i).eraseDups

/-- The counters each function may preset, with those of what it reaches. -/
def Prog.guardSets (p : Prog) (edges : Array (List Nat)) : Array (BitVec 4) :=
  let own := p.fns.map fun f => (p.fnItems f).foldl (fun m (_, i) => m ||| presets i) 0
  let grow (g : Array (BitVec 4)) : Array (BitVec 4) :=
    ((List.range p.fns.size).map fun i =>
      (edges.getD i []).foldl (fun m j => m ||| g.getD j 0) (g.getD i 0)).toArray
  settleOn grow (p.fns.size + 1) own

/-- Counters that a `guard` covers on every path to each reachable word. -/
abbrev Cover := Array (Option (BitVec 4))

/-- What a word leaves covered. -/
def Prog.passes (p : Prog) (sets : Array (BitVec 4)) (cond : Bool) (a : Nat) (i : Item) (m : BitVec 4) : BitVec 4 :=
  (m ||| presets i) &&& ~~~((p.callees cond a i).foldl (fun m j => m ||| sets.getD j 0) 0)

/-- One pass over a section. -/
def Prog.coverPass (p : Prog) (sets : Array (BitVec 4)) (x : Sect) (loops : List (Nat × Nat × Nat)) (c : Cover) :
    Cover :=
  (List.range x.count).foldl (fun c a =>
    match c.getD a none, x.at? a with
    | some m, some i =>
      let out := p.passes sets x.cond a i m
      (succs loops a i).foldl (fun c (t : Int) =>
        if 0 ≤ t && (x.at? t.toNat).isSome then
          c.setIfInBounds t.toNat (some (match c.getD t.toNat none with | some o => o &&& out | none => out))
        else c) c
    | _, _ => c) c

/-- The words execution can reach, from the entry and from every function, and what covers them. -/
def Prog.cover (p : Prog) (sets : Array (BitVec 4)) (x : Sect) : Cover :=
  let entry := if x.cond then p.k.condEntry else p.k.laneEntry
  let roots := (entry.map fun e => e.toNat % 2 ^ 31).toList ++
    (p.fns.toList.filter fun f => f.cond = x.cond).map Fn.start
  let start : Cover := roots.foldl (fun c r => if (x.at? r).isSome then c.setIfInBounds r (some 0) else c)
    (Array.replicate x.count none)
  let loops := x.loops
  settleOn (p.coverPass sets x loops) (5 * x.count + 5) start

/-! ## Call depth and nesting (R23, R25) -/

/-- What the call graph is made of: the calls of reachable words outside functions, and by function. -/
structure Calls where
  /-- word, enclosing function, callees -/
  list : List (Bool × Nat × Option Nat × List Nat)

def Prog.callList (p : Prog) (x : Sect) (c : Cover) : List (Bool × Nat × Option Nat × List Nat) :=
  (List.range x.count).filterMap fun a =>
    match c.getD a none, x.at? a with
    | some _, some i =>
      match i.flow with
      | .call _ | .calli => some (x.cond, a, p.fnAt x.cond a, p.callees x.cond a i)
      | _ => none
    | _, _ => none

/-- The callees of a function, or of the entry code. -/
def Calls.from? (k : Calls) (f : Option Nat) : List Nat :=
  ((k.list.filter fun (_, _, g, _) => g = f).flatMap fun (_, _, _, cs) => cs).eraseDups

/-- The functions reached from a set, by `n` rounds. -/
def reachFrom (next : Nat → List Nat) : Nat → List Nat → List Nat
  | 0, xs => xs
  | n + 1, xs =>
    let ys := (xs ++ xs.flatMap next).eraseDups
    if ys.length = xs.length then xs else reachFrom next n ys

/-- Whether a function lies on a call cycle. -/
def Calls.cyclic (k : Calls) (n f : Nat) : Bool := (reachFrom (fun g => k.from? (some g)) n (k.from? (some f))).contains f

/-- The longest chain of calls below a node in which no function stands twice. -/
def Calls.longest (k : Calls) : Nat → List Nat → Option Nat → Nat
  | 0, _, _ => 0
  | fuel + 1, seen, f =>
    ((k.from? f).filter fun g => !seen.contains g).foldl (fun m g => max m (1 + k.longest fuel (g :: seen) (some g))) 0

/-- The longest chains below each function of a graph without cycles. -/
def Calls.chains (k : Calls) (n : Nat) : Array Nat :=
  let step (d : Array Nat) : Array Nat :=
    ((List.range n).map fun f => (k.from? (some f)).foldl (fun m g => max m (1 + d.getD g 0)) 0).toArray
  settleOn step (n + 1) (Array.replicate n 0)

/-- Where CDEP is 0: the entry code, and where a kernel spawns the functions that its children run (R114). -/
def rootsOf (n : Nat) (spawns : Bool) : List (Option Nat) :=
  none :: if spawns then (List.range n).map some else []

/-- The longest call chain of a kernel (R25). -/
def Calls.chain (k : Calls) (n : Nat) (cycle spawns : Bool) : Nat :=
  let d := k.chains n
  let below (f : Option Nat) : Nat :=
    if cycle then k.longest n f.toList f else (k.from? f).foldl (fun m g => max m (1 + d.getD g 0)) 0
  ((rootsOf n spawns).map below).foldl max 0

/-- The least CDEP at which each function runs; one that nothing calls stands at 1. -/
def Calls.least (k : Calls) (n : Nat) (spawns : Bool) : Array Nat :=
  if spawns then Array.replicate n 0
  else
    let step (d : Array (Option Nat)) : Array (Option Nat) :=
      ((List.range n).map fun f =>
        ((List.range n).filter fun g => (k.from? (some g)).contains f).foldl (fun m g =>
          match m, d.getD g none with
          | some x, some y => some (min x (y + 1))
          | none, some y => some (y + 1)
          | m, none => m) (if (k.from? none).contains f then some 1 else none)).toArray
    (settleOn step (n + 1) (Array.replicate n none)).map fun o => o.getD 1

/-- Loops whose body holds a word. -/
def nesting (loops : List (Nat × Nat × Nat)) (a : Nat) : Nat :=
  (loops.filter fun (_, st, en) => decide (st ≤ a) && decide (a < en)).length

/-- The deepest nesting in a function itself. -/
def Prog.ownDepth (p : Prog) (ll cl : List (Nat × Nat × Nat)) (i : Nat) : Nat :=
  let f := p.fns.getD i default
  let loops := if f.cond then cl else ll
  min 4 (((loops.filter fun (a, _, _) => decide (f.start ≤ a) && decide (a < f.start + f.len)).map
    fun (a, _, _) => nesting loops a + 1).foldl max 0)

/-- The deepest nesting each function reaches with at most some number of calls below it, counting what it calls;
more than three is four. By that number, from `n` down to 0: by the CDEP a function runs at, where `n` is the depth
limit. -/
def Prog.depths (p : Prog) (k : Calls) (ll cl : List (Nat × Nat × Nat)) : Nat → List (Array Nat)
  | 0 => [((List.range p.fns.size).map (p.ownDepth ll cl)).toArray]
  | n + 1 =>
    let ds := p.depths k ll cl n
    let d := ds.headD #[]
    let below (i : Nat) : List Nat :=
      (k.list.filter fun (_, _, g, _) => g = some i).flatMap fun (c, a, _, cs) =>
        cs.map fun j => nesting (if c then cl else ll) a + d.getD j 0
    ((List.range p.fns.size).map fun i => min 4 ((below i).foldl max (p.ownDepth ll cl i))).toArray :: ds

/-! ## Sizes -/

/-- Gangs a partition holds (R104). -/
def Kernel.fit (k : Kernel) : Nat := min 12 (384 / max 1 k.laneRegs)

/-- Queue storage of a declaration (R22). -/
def queueStorage (decl : W32) : Nat :=
  let d := decl.toNat % 65536
  if d = 0 then 0 else ceilDiv (d * (if decl.getLsbD 16 then 256 else 8) + 64) 64 * 64

/-- Queue storage of a gang. -/
def Kernel.gangStore (k : Kernel) : Nat := queueStorage k.dqDecl + queueStorage k.uqDecl

/-- Partitions of a block (R87). -/
def Kernel.perBlock (k : Kernel) (gangs : Nat) : Nat := ceilDiv gangs (max 1 k.fit)

/-- Gangs of a block: level 1 (R19); a watch kernel's is one (R32). -/
def Kernel.blockGangs (k : Kernel) (x : Shape) : Nat := if k.watch then 1 else x.extent 1

/-! ## Findings (R33): offset and code -/

abbrev Finding := Nat × Nat

def failIf (b : Bool) (off code : Nat) : List Finding := if b then [(off, code)] else []

/-- The header without its tables (R16, R18, R21, R22, R26, R32). That an elastic request for a kernel without
pre-emption is reported at byte 6, the flags, is the model's (DESIGN CHOICE, log 62). -/
def Obj.headerFindings (o : Obj) (elastic : Bool) : List Finding :=
  let fl := o.u 6 2
  let k := o.kernel
  let ws := k.widths
  let badQueue (off : Nat) : Bool :=
    let q := o.u off 4
    let d := q % 65536
    decide (q / 2 ^ 17 ≠ 0) || (decide (d ≠ 0) && (decide (d < 2) || decide (1024 < d) || decide (2 ^ Nat.log2 d ≠ d)))
  let w (i : Nat) : Nat := ws.getD i 0
  let widthsOk := decide (w 0 = 5) && decide (w 1 ≤ 7) && decide (ws.sum ≤ 64) &&
    (List.range 5).all fun i => decide (w i ≠ 0) || decide (w (i + 1) = 0)
  failIf (decide (fl / 16 ≠ 0) || decide (fl % 4 = 0)) 6 0x02 ++
  failIf (elastic && !k.preempt && !k.watch) 6 0x11 ++
  failIf (decide (o.u 16 8 / 2 ^ 36 ≠ 0)) 16 0x02 ++
  failIf (!widthsOk) 16 0x04 ++
  failIf (k.watch && decide (ws ≠ [5, 0, 0, 0, 0, 0])) 16 0x13 ++
  failIf (decide (k.laneRegs < 8) || decide (96 < k.laneRegs) || decide (k.laneRegs % 8 ≠ 0)) 24 0x05 ++
  failIf (decide (192 < k.groupRegs)) 25 0x05 ++
  failIf (decide (4 < k.spawnDepth)) 27 0x0E ++
  failIf (decide (k.scratch % 64 ≠ 0) || decide (0x800000 < k.scratch)) 28 0x06 ++
  failIf (badQueue 32) 32 0x06 ++
  failIf (k.watch && decide (o.u 32 2 ≠ 0)) 32 0x13 ++
  failIf (badQueue 36) 36 0x06 ++
  failIf (decide (0 < k.preemptLat) && decide (k.preemptLat < 64)) 40 0x11 ++
  failIf (decide (k.budget ≠ 0) != k.watch) 48 0x13 ++
  failIf (decide (o.u 50 2 ≠ 0)) 50 0x02 ++
  failIf (decide (k.window ≠ 0) != k.watch) 52 0x13 ++
  failIf (decide (fl % 2 = 0) && decide (o.u 60 4 ≠ 0)) 60 0x02 ++
  failIf (decide (fl / 2 % 2 = 0) && decide (o.u 68 4 ≠ 0)) 68 0x02 ++
  failIf (decide (1024 < o.u 84 4)) 84 0x0F ++
  failIf (decide (1024 < o.u 92 4)) 92 0x0F ++
  failIf (decide (4096 < o.u 100 4)) 100 0x10 ++
  failIf (decide (16 < o.u 108 4)) 108 0x12 ++
  failIf (decide (o.u 120 8 ≠ 0)) 120 0x02

/-- The sections and tables the header names: field, unit, alignment. -/
def regionFields : List (Nat × Nat × Nat) :=
  [(56, 4, 4), (64, 4, 4), (80, 16, 16), (88, 8, 16), (96, 48, 16), (104, 16, 16), (112, 1, 1)]

/-- Sections and tables in bounds, aligned and apart (R16); of two that overlap, the later field is at
fault. The offset of a table or section with nothing in it is not looked at (DESIGN CHOICE, log 62). -/
def Obj.regionFindings (o : Obj) : List Finding :=
  (regionFields.foldl (fun (acc : List Finding × List (Nat × Nat)) (f, unit, align) =>
    let off := o.u f 4
    let n := o.u (f + 4) 4 * unit
    if n = 0 then acc
    else
      let bad := decide (off % align ≠ 0) || decide (o.u 8 8 < off + n) ||
        acc.2.any fun (lo, hi) => decide (off < hi) && decide (lo < off + n)
      (acc.1 ++ failIf bad f 0x02, acc.2 ++ [(off, off + n)])) ([], [(0, 128)])).1

/-- Entries: word offsets in their sections, which no value of 2^31 or more is (R16, R17). -/
def Prog.entryFindings (p : Prog) : List Finding :=
  let bad (e : Option W32) (off : Nat) (x : Sect) : Bool := e.isSome && (x.at? (p.obj.u off 4)).isNone
  failIf (bad p.k.condEntry 72 p.conds) 72 0x03 ++ failIf (bad p.k.laneEntry 76 p.lanes) 76 0x03

/-- The function table (R27). An entry whose code address is invalid makes the table invalid: 0x0F, as R33
says of the table, and not the 0x03 of a code address (log 62). The kernel's entry code lies in no
function. -/
def Prog.functionFindings (p : Prog) : List Finding :=
  let o := p.obj
  let row (acc : List Finding × List (Nat × Nat)) (r : Nat) : List Finding × List (Nat × Nat) :=
    let a := o.u r 4
    let n := o.u (r + 4) 4
    let x := p.sect (decide (condBit ≤ a))
    let entry (e : Option W32) : Bool := match e with
      | some e => decide (a ≤ e.toNat) && decide (e.toNat < a + n)
      | none => false
    let bad := (p.atCode a).isNone || decide (n = 0) || decide (x.count < a % condBit + n) ||
      entry p.k.condEntry || entry p.k.laneEntry || acc.2.any fun (lo, hi) => decide (a < hi) && decide (lo < a + n)
    (acc.1 ++ failIf (decide (o.u (r + 8) 8 ≠ 0)) r 0x02 ++ failIf bad r 0x0F, acc.2 ++ [(a, a + n)])
  ((o.rows 80 16 1024).foldl row ([], [])).1

/-- A function whose body is `trap #0x21` and `ret`, and nothing else (R28). -/
def Prog.isStub (p : Prog) (a : Nat) : Bool :=
  let is (j : Nat) (f : Instr → Bool) : Bool :=
    match (p.atCode j).map Item.instr with
    | some (.ok i) => f i
    | _ => false
  is a (fun i => i = .trap 0x21 || i = .groupTrap 0x21) && is (a + 1) (fun i => i = .ret || i = .groupRet) &&
    ((p.fnFrom (decide (condBit ≤ a)) (a % condBit)).map fun g => (p.fns.getD g default).len) = some 2

/-- The call table (R28); an entry whose code address is invalid is 0x0F (log 62). -/
def Prog.callFindings (p : Prog) : List Finding :=
  let o := p.obj
  (o.rows 88 8 1024).flatMap fun r =>
    let t := o.u r 4
    let flags := o.u (r + 6) 2
    let bad := (p.fnFrom (decide (condBit ≤ t)) (t % condBit)).isNone || decide (p.fns.size ≤ o.u (r + 4) 2) ||
      (decide (flags % 2 = 1) && !p.isStub t)
    failIf (decide (flags / 2 ≠ 0)) r 0x02 ++ failIf bad r 0x0F

/-- The pre-emption side table (R29); an entry whose code address is invalid is 0x10 (log 62). -/
def Prog.pointFindings (p : Prog) : List Finding :=
  let o := p.obj
  let row (acc : List Finding × Option Nat) (r : Nat) : List Finding × Option Nat :=
    let a := o.u r 4
    let bad := (p.atCode a).isNone || (match acc.2 with | some b => decide (a ≤ b) | none => false) ||
      decide (2 ^ p.k.laneRegs ≤ o.u (r + 8) 12) || decide (2 ^ p.k.groupRegs ≤ o.u (r + 24) 24)
    (acc.1 ++ failIf (decide (o.u (r + 4) 4 ≠ 0) || decide (o.u (r + 20) 4 ≠ 0)) r 0x02 ++ failIf bad r 0x10, some a)
  ((o.rows 96 48 4096).foldl row ([], none)).1

/-- The resident table (R31). -/
def Prog.residentFindings (p : Prog) : List Finding :=
  let o := p.obj
  let row (acc : List Finding × List (Nat × Nat)) (r : Nat) : List Finding × List (Nat × Nat) :=
    let base := o.u r 8 % 2 ^ 56
    let n := 65536 * o.u (r + 8) 4
    let bad := decide (base % 65536 ≠ 0) || decide (n = 0) || decide (2 ^ 56 < base + n) ||
      acc.2.any fun (lo, hi) => decide (base < hi) && decide (lo < base + n)
    (acc.1 ++ failIf (decide (o.u r 8 / 2 ^ 56 ≠ 0) || decide (o.u (r + 12) 4 / 2 ≠ 0)) r 0x02 ++ failIf bad r 0x12,
      acc.2 ++ [(base, base + n)])
  ((o.rows 104 16 16).foldl row ([], [])).1

/-! ## Findings at instructions -/

/-- Field values that R36 refuses, but for those with a code of their own in R33: a loop's length and
bound, a `waita`'s timeout. -/
def fieldsOk (i : Instr) : Bool :=
  match i with
  | .loop _ _ _ | .groupLoop _ _ _ | .waita _ _ _ _ _ _ | .groupWaita _ _ _ _ _ _ => true
  | i => wellFormed i

/-- Blocks of registers that fitsCounts leaves to their instruction. -/
def blockBelow (groups : Nat) : Instr → Bool
  | .cpy p _ | .mxq p _ | .phaseXfer p _ => decide (p.val + 8 ≤ groups)
  | .mxctlCtab p => decide (p.val + 2 ≤ groups)
  | _ => true

/-- CSR numbers a kernel may name (R43, R271). -/
def csrOk : Instr → Bool
  | .csrr _ c => csrHeld c.toNat .lane
  | .csrw _ c => csrWritable c.toNat .lane
  | .groupCsrr _ c => csrHeld c.toNat .cond
  | .groupCsrw _ c => csrWritable c.toNat .cond
  | _ => true

/-- An illegal encoding or an instruction above U level (R33, 0x08). -/
def Prog.illegal (p : Prog) (cond : Bool) (stops : List W64) (a : Nat) (it : Item) : Bool :=
  let kind : CoreKind := if cond then .cond else .lane
  !legalOn it.word kind || levelOf it.word ≠ .u ||
    (match it.instr with
     | .error .short => false
     | .error _ => true
     | .ok i => !(fieldsOk i && fitsCounts 96 192 i && blockBelow 192 i && csrOk i)) ||
    ((isRoute it.word || isAccsrc it.word) && !cond &&
      (unitFault { p.k with laneRegs := 96, groupRegs := 192 } a stops).isSome)

/-- A register named above the declared count (R21). -/
def Prog.aboveCount (p : Prog) (cond : Bool) (i : Instr) : Bool :=
  let (n, top) := if cond then (p.k.groupRegs, 192) else (p.k.laneRegs, 96)
  ((readsOf i ++ writesOf i).any fun r => decide (n ≤ r) && decide (r < top)) ||
    (fitsCounts 96 192 i && !fitsCounts p.k.laneRegs p.k.groupRegs i)

/-- An instruction that acts on a queue the kernel does not declare (R22). -/
def Prog.queueMissing (p : Prog) (i : Instr) : Bool :=
  let dq := decide (p.k.dqDecl.toNat % 65536 = 0)
  let uq := decide (p.k.uqDecl.toNat % 65536 = 0)
  match i with
  | .groupQpush _ | .qpop _ | .strmgo _ | .qlen _ | .groupQlen false _ => dq
  | .qpush _ | .groupQpop _ | .groupQlen true _ => uq
  | _ => false

/-- What the findings at one section's instructions need. -/
structure Seen where
  x : Sect
  cover : Cover
  loops : List (Nat × Nat × Nat)
  calls : Calls
  /-- the least CDEP of each function, and by the CDEP it runs at the nesting it reaches -/
  least : Array Nat
  depths : List (Array Nat)

/-- Whether a call made at a word inside open loops pushes the nesting beyond three (R33): the callee's loops do,
which its own words do not already, or it calls back to the function of the call. -/
def Seen.deepens (e : Seen) (caller : Option Nat) (a c : Nat) : Bool :=
  let deep := nesting e.loops a
  let at_ := match caller with
    | some f => e.least.getD f 1 + 1
    | none => 1
  let d := (e.depths.getD at_ #[]).getD c 0
  let back := match caller with
    | some f => f = c || (reachFrom (fun g => e.calls.from? (some g)) (e.least.size + 1) [c]).contains f
    | none => false
  decide (0 < deep) && decide (3 < deep + d) && (decide (d ≤ 3) || back)

/-- Findings on control transfers of one instruction (R17, R23, R27, R33, R35). What R23, R27 and R33 say of
paths concerns reachable words; the rest any instruction of the section. A guard on the counter of a branch inside the
branch's own region makes the branch 0x0B, though each path to it passes a guard (DESIGN CHOICE, log 62). -/
def Prog.flowFindings (p : Prog) (e : Seen) (off a : Nat) (it : Item) : List Finding :=
  let x := e.x
  let live := (e.cover.getD a none).isSome
  let ok (t : Int) : Bool := decide (0 ≤ t) && (x.at? t.toNat).isSome
  let past := (succs e.loops a it).any fun t => decide ((x.count : Int) ≤ t)
  let deep := nesting e.loops a
  let calls := p.callees x.cond a it
  failIf (live && (past || (match it.instr with | .error .short => true | _ => false))) off 0x03 ++
  (match it.flow with
   | .branch o _ => failIf (decide (o ≤ 0)) off 0x09 ++ failIf (!ok (a + o)) off 0x03
   | .guarded k o _ =>
     let t := ((a : Int) + o).toNat
     let again := (List.range (a - t)).any fun j =>
       (e.cover.getD (t + j) none).isSome &&
         (match x.at? (t + j) with | some g => decide (presets g &&& guardBit k ≠ 0) | none => false)
     failIf (!ok (a + o)) off 0x03 ++
       failIf (live && (decide ((e.cover.getD a none).getD 0 &&& guardBit k = 0) || again)) off 0x0B
   | .call o => failIf (!ok (a + o) || (p.fnFrom x.cond ((a : Int) + o).toNat).isNone) off 0x03
   | .loop len bound =>
     failIf (decide (len = 0) || decide (bound = 0) || decide (x.count < a + 2 + len) || decide (3 ≤ deep)) off 0x0A
   | _ => []) ++
  failIf (calls.any (e.deepens (p.fnAt x.cond a) a)) off 0x0A ++
  (match p.fnAt x.cond a with
   | none =>
     failIf (live && (succs e.loops a it).any fun t => decide (0 ≤ t) && (p.fnAt x.cond t.toNat).isSome) off 0x0F
   | some i =>
     let f := p.fns.getD i default
     let leaves := (succs e.loops a it).any fun t => decide (t < f.start) || decide (((f.start + f.len : Nat) : Int) ≤ t)
     let exits := match it.instr with | .ok .exit | .ok .groupExit => true | _ => false
     failIf (live && (leaves || exits)) off 0x0F)

/-- Findings at one instruction of a section: an illegal encoding in reachable code (0x08), and what a kernel
may not contain anywhere (R22–R24, R26, R33). -/
def Prog.itemFindings (p : Prog) (e : Seen) (a : Nat) (it : Item) : List Finding :=
  let off := e.x.off + 4 * a
  let cond := e.x.cond
  let live := (e.cover.getD a none).isSome
  let stops := e.loops.map fun (_, _, en) => n64 en
  failIf (live && p.illegal cond stops a it) off 0x08 ++
  failIf (bit it.word 31 != cond && (live || (match it.instr with | .ok _ => true | .error _ => false))) off 0x07 ++
  p.flowFindings e off a it ++
  (match it.instr with
   | .error _ => []
   | .ok i =>
     failIf (p.aboveCount cond i || !blockBelow p.k.groupRegs i && blockBelow 192 i) off 0x05 ++
     failIf (p.queueMissing i) off 0x06 ++
     (match i with
      | .waita _ _ _ _ _ t | .groupWaita _ _ _ _ _ t => failIf (decide (t = 0)) off 0x0C
      | .barWait _ _ | .barSync _ _ | .barTake _ _ => failIf (decide (p.k.barCeiling = 0)) off 0x0C
      | .spawn _ _ => failIf (decide (p.k.spawnDepth = 0)) off 0x0E
      | _ => []))

/-- Findings at a section's instructions. -/
def Prog.sectFindings (p : Prog) (e : Seen) : List Finding :=
  (List.range e.x.count).flatMap fun a =>
    match e.x.at? a with
    | some it => p.itemFindings e a it
    | none => []

/-! ## The whole -/

/-- What the walk goes on with: the kernel, its sections with what is reachable, the calls. -/
structure Valid where
  p : Prog
  lanes : Seen
  conds : Seen
  calls : Calls
  /-- whether a reachable `spawn` makes functions run at CDEP 0 -/
  spawns : Bool

/-- Whether a section has a reachable `spawn`. -/
def spawnsIn (x : Sect) (c : Cover) : Bool :=
  (List.range x.count).any fun a =>
    (c.getD a none).isSome &&
      (match (x.at? a).map Item.instr with
       | some (.ok (.spawn _ _)) => true
       | _ => false)

/-- Whether some function lies on a call cycle. -/
def Calls.anyCycle (k : Calls) (n : Nat) : Bool := (List.range n).any fun f => k.cyclic (n + 1) f

def Prog.valid (p : Prog) : Valid :=
  let sets := p.guardSets p.edges
  let lc := p.cover sets p.lanes
  let cc := p.cover sets p.conds
  let calls : Calls := { list := p.callList p.lanes lc ++ p.callList p.conds cc }
  let n := p.fns.size
  let spawns := spawnsIn p.conds cc
  let top := if p.k.depth = 0 then calls.chain n (calls.anyCycle n) spawns else p.k.depth
  let seen (x : Sect) (c : Cover) : Seen :=
    { x := x, cover := c, loops := x.loops, calls := calls, least := calls.least n spawns
      depths := p.depths calls p.lanes.loops p.conds.loops top }
  { p := p, lanes := seen p.lanes lc, conds := seen p.conds cc, calls := calls, spawns := spawns }

/-- Reachable instructions of both sections. -/
def Valid.reachable (v : Valid) : List Instr :=
  let of (e : Seen) : List Instr := (List.range e.x.count).filterMap fun a =>
    match e.cover.getD a none, e.x.at? a with
    | some _, some it => (match it.instr with | .ok i => some i | .error _ => none)
    | _, _ => none
  of v.lanes ++ of v.conds

def Valid.cycle (v : Valid) : Bool := v.calls.anyCycle v.p.fns.size

/-- The kernel with what the walk adds: the longest chain, and which engines it can use. -/
def Valid.kernel (v : Valid) : Kernel :=
  let is := v.reachable
  { v.p.k with
      chain := v.calls.chain v.p.fns.size v.cycle v.spawns
      hasPhase := is.any fun i => match i with | .phaseComp | .phaseComm | .phaseXfer _ _ => true | _ => false
      hasMatrix := is.any fun i => match i with | .mxq _ _ | .accsrc _ _ _ _ => true | _ => false
      hasAtom := is.any fun i =>
        match i with | .atom _ _ _ _ _ | .groupAtom _ _ _ _ _ | .sigSet _ _ | .sigAdd _ _ => true | _ => false }

/-- Findings on the kernel as a whole (R25, R130, R33 0x14). -/
def Valid.wholeFindings (v : Valid) (x : Shape) : List Finding :=
  let k := v.kernel
  let g := k.blockGangs x
  let room := k.scratch + min k.fit g * k.gangStore
  failIf ((v.cycle && decide (k.depth = 0)) || (decide (k.depth ≠ 0) && decide (k.depth < k.chain))) 26 0x0D ++
  failIf (decide (k.scratch < 6336 * k.perBlock g * (k.maxDepth - 4))) 28 0x06 ++
  failIf (decide (2 ^ 24 < room)) 28 0x14

/-- Every finding of R33 but the extents and the spacing of pre-emption points. -/
def Valid.findings (v : Valid) (x : Shape) : List Finding :=
  let o := v.p.obj
  o.headerFindings x.elastic ++ o.regionFindings ++ v.p.entryFindings ++ v.p.functionFindings ++ v.p.callFindings ++
    v.p.pointFindings ++ v.p.residentFindings ++ v.wholeFindings x ++ v.p.sectFindings v.lanes ++
    v.p.sectFindings v.conds

/-- The first offending item, and of its codes the lowest (R33). -/
def firstFinding (fs : List Finding) : Option Finding :=
  fs.foldl (fun m f =>
    match m with
    | none => some f
    | some g => if f.1 < g.1 ∨ (f.1 = g.1 ∧ f.2 < g.2) then some f else some g) none

/-- The launch extents (R19), or the rectangle of a standing request (R315). -/
def Kernel.extentsOk (k : Kernel) (x : Shape) : Bool :=
  if k.watch then
    let r := x.ext.getD 2 0
    decide (r / 2 ^ 24 = 0) && (x.ext.drop 3).all (fun e => e = 0) &&
      decide (1 ≤ r / 65536 % 256) && decide (r / 65536 % 256 ≤ 12) &&
      decide (1 ≤ r / 256 % 256) && decide (r / 256 % 256 ≤ 16)
  else
    ((List.range 6).all fun i =>
      let e := x.ext.getD i 1
      decide (1 ≤ e) && decide (e ≤ 2 ^ k.widths.getD i 0)) &&
      decide (x.ext.getD 0 1 ≤ 32) && decide (x.ext.getD 1 1 ≤ 128) && (!x.neighbour || decide (x.ext.getD 2 1 ≤ 24))

/-- The object read under an ASID, or its rejection: a bad magic, version, flag or length stands before a
part that cannot be read (R33). -/
def State.readObject (s : State) (asid base : Nat) (elastic : Bool) : Except Finding Obj :=
  match s.readSpace asid base 128 with
  | .error _ => .error (0, 0x01)
  | .ok h =>
    let o : Obj := { base := base, bytes := h.toArray }
    let n := o.u 8 8
    let early := failIf (decide (o.u 0 4 ≠ 0x314B5753)) 0 0x01 ++ failIf (decide (o.u 4 2 ≠ 1)) 4 0x01 ++
      failIf (decide (n < 128) || decide (n % 64 ≠ 0)) 8 0x01
    let flags := (o.headerFindings elastic).filter fun f => f.1 = 6
    match early, firstFinding (early ++ flags) with
    | _ :: _, some f => .error f
    | _, _ =>
      match s.readSpace asid base n with
      | .error k => .error (k, 0x01)
      | .ok bs => .ok { base := base, bytes := bs.toArray }

end Sys2Proof.Machine
end

