-- ==== Sys2Proof/Machine/Walker.lean ====
section
/-! DEFINITION. The Quote Walker's pricing (R82–R87, R93) and its proof of the spacing of pre-emption
points (R30). -/

namespace Sys2Proof.Machine

/-! ## Rates -/

/-- What a placement fixes of the prices (R83, R84). -/
structure Rates where
  /-- latency of a device-memory line, and clocks of each further one -/
  line : Nat
  gran : Nat
  /-- Q of R83 -/
  q : Nat
  /-- hop diameter of the launch's rectangle -/
  hn : Nat
  narrow : Bool
  /-- level-0 extent -/
  l0 : Nat
  /-- partitions the launch holds on a core -/
  parts : Nat
  /-- copies and baton holds of the other gangs of the launch on a core (R84) -/
  copyExtra : Nat
  holdExtra : Nat
  /-- spaces of the streams that may fill dq -/
  streams : List Space
  /-- longest time of an operation of the gang that writes each tile (R148) -/
  tileWork : List (Nat × Nat)
  /-- longest latency of an access through `.g` that the block may make (R112) -/
  sharedWork : Nat

/-- Charged hops (R84). -/
def Rates.hops (r : Rates) : Space → Nat
  | .s | .d => 0
  | .g => 2
  | .n => r.hn
  | .b => 26

/-- Latency and energy of a load or store (R83), of `n` issues, touching `l` device lines. -/
def Rates.access (r : Rates) (lane : Bool) (sp : Space) (n l : Nat) : Nat × Nat :=
  let h := r.hops sp
  let e := if lane then (90 + 30 * h) * n else 15 + 4 * h
  if sp = .d then (r.line + (l - 1) * r.gran, e + 2560 * l) else (if h = 0 then 24 else 32 + 6 * h, e)

/-- Latency and energy of an atomic of `l` threads (R83). -/
def Rates.atomic (r : Rates) (sp : Space) (l : Nat) : Nat × Nat :=
  if sp = .d then (r.line + 6 * 26 + 2 * r.q, (40 + 2560) * l) else (48 + 6 * r.hops sp + 2 * r.q, 40 * l)

/-- Time of a copy of `g` granules between ends (R84). -/
def Rates.copyTime (r : Rates) (ends : List Space) (g : Nat) : Nat :=
  let first (sp : Space) : Nat := (r.access true sp 1 1).1
  let each (sp : Space) : Nat := if sp = .d then r.gran else if r.hops sp = 0 then 1 else 2
  let top (f : Space → Nat) : Nat := (ends.map f).foldl max 0
  30 + top first + (g - 1) * top each * (17 - r.parts) + 8

/-- Energy of a copy (R83). -/
def Rates.copyEnergy (r : Rates) (ends : List Space) (g : Nat) : Nat :=
  g * if ends.contains .d then 2560 else 50 + 30 * (ends.map r.hops).foldl max 0

/-! ## The scoreboard of a path (R82) -/

/-- Where a path stands: clocks, results to come, what its registers must hold, and what it has cost. -/
structure Board where
  t : Nat
  done : Nat
  sto : Nat
  ld : Nat
  cp : Nat
  /-- latency end of the accesses through `.g` (R112), and of the latest floating-point instruction (R165) -/
  shared : Nat
  flags : Nat
  /-- completion of the operations that write each tile; key 18 for any -/
  tiles : List (Nat × Nat)
  ready : List (Nat × Nat)
  /-- results whose register an index register names -/
  wild : Nat
  pJ : Nat
  consts : List (Nat × W64)
  /-- completion of the copy whose completion address a register holds (R86) -/
  copyAt : List (Nat × Nat)
  guards : List (Nat × Nat)
  /-- entries of the stream a descriptor was loaded with -/
  strm : List (Nat × Nat)
  copies : Nat
  /-- since when the baton is held, and how long it was held before -/
  holdFrom : Option Nat
  hold : Nat
  comms : Nat
  /-- largest clock plus copy time of the transfers of the next communication step -/
  xfer : Nat
  stepFrom : Option Nat
  /-- clocks of the steps that have ended, and since when the present one runs; none behind a region whose
  passes hold steps -/
  steps : List Nat
  stepAt : Option Nat
  /-- children that spawns create: those the partition bound counts, and all -/
  kids : Nat
  kidsAll : Nat
  /-- longest time of one operation that writes a tile (R148) -/
  tileWork : List (Nat × Nat)
  device : Bool
  mesh : Bool

def Board.start : Board :=
  { t := 0, done := 0, sto := 0, ld := 0, cp := 0, shared := 0, flags := 0, tiles := [], ready := [], wild := 0, pJ := 0,
    consts := [], copyAt := [], guards := [], strm := [], copies := 0, holdFrom := none, hold := 0, comms := 0, xfer := 0,
    stepFrom := none, steps := [], stepAt := some 0, kids := 0, kidsAll := 0, tileWork := [], device := false, mesh := false }

/-- The clock at which everything a path began has ended. -/
def Board.drained (b : Board) : Nat := max b.t b.done

/-- How long a path has held the baton (R84). -/
def Board.held (b : Board) : Nat := b.hold + match b.holdFrom with | some f => b.t - f | none => 0

/-- The larger value at each key. -/
def maxAt (x y : List (Nat × Nat)) : List (Nat × Nat) :=
  y.foldl (fun m (k, v) => aput k (max v (aget 0 k m)) m) x

/-- The keys that two lists hold, each with the larger value. -/
def bothAt (x y : List (Nat × Nat)) : List (Nat × Nat) :=
  x.filterMap fun (k, v) => (afind k y).map fun w => (k, max v w)

/-- The charges that do not depend on which of two paths is taken, each at its larger, and the facts that
hold on both (R84–R87). -/
def Board.agree (x y : Board) : Board :=
  { x with
      pJ := max x.pJ y.pJ
      consts := x.consts.filter fun (r, v) => afind r y.consts = some v
      copyAt := bothAt x.copyAt y.copyAt, guards := maxAt x.guards y.guards, strm := bothAt x.strm y.strm
      copies := max x.copies y.copies, hold := max x.hold y.hold, comms := max x.comms y.comms
      xfer := max x.xfer y.xfer, kids := max x.kids y.kids, kidsAll := max x.kidsAll y.kidsAll
      tileWork := maxAt x.tileWork y.tileWork, device := x.device || y.device, mesh := x.mesh || y.mesh }

/-- Whether no continuation of `x` can end later than the same one of `y`. -/
def Board.below (x y : Board) : Bool :=
  let each (f : Board → Nat) : Bool := decide (f x ≤ f y)
  let lists (f : Board → List (Nat × Nat)) : Bool :=
    (f x).all fun (k, v) => decide (v ≤ y.t) || decide (v ≤ aget 0 k (f y))
  each Board.t && each Board.done && each Board.sto && each Board.ld && each Board.cp && each Board.shared &&
    each Board.flags && each Board.wild && lists Board.tiles && lists Board.ready && x.stepFrom = y.stepFrom &&
    x.steps = y.steps && x.stepAt = y.stepAt &&
    (match x.holdFrom, y.holdFrom with
     | none, _ => true
     | some f, some g => decide (g ≤ f)
     | some _, none => false)

/-- A board among others, unless one of them stands for it. -/
def keepBoard (kept : List Board) (b : Board) : List Board :=
  if kept.any b.below then kept else b :: kept.filter fun k => !k.below b

/-- A path that stands everywhere some clocks later. -/
def Board.later (b : Board) (d : Nat) : Board :=
  let all (l : List (Nat × Nat)) : List (Nat × Nat) := l.map fun (k, v) => (k, v + d)
  { b with
      t := b.t + d, done := b.done + d, sto := b.sto + d, ld := b.ld + d, cp := b.cp + d, shared := b.shared + d
      flags := b.flags + d, wild := b.wild + d, tiles := all b.tiles, ready := all b.ready, copyAt := all b.copyAt
      holdFrom := b.holdFrom.map (· + d), stepFrom := b.stepFrom.map (· + d)
      stepAt := b.stepAt.map (· + d) }

/-- The larger clocks of each step. -/
def stepsMax : List Nat → List Nat → List Nat
  | [], y => y
  | x, [] => x
  | a :: x, b :: y => max a b :: stepsMax x y

/-- Paths of which each step costs the largest over all of them (R85). -/
def alignSteps (bs : List Board) : List Board :=
  let m := (bs.map (·.steps)).foldl stepsMax []
  bs.map fun b =>
    let top := m.take b.steps.length
    { b.later (top.sum - b.steps.sum) with steps := top }

/-- Paths that meet: each keeps its clocks, and all share what R84–R87 take over every path. -/
def meetAll (bs : List Board) : List Board :=
  match alignSteps bs with
  | [] => []
  | b :: r => ((b :: r).map fun x => (b :: r).foldl Board.agree x).foldl keepBoard []

/-- A walk of a region starts from a drained scoreboard (R85). -/
def Board.rest (b : Board) : Board :=
  { b with done := b.t, sto := 0, ld := 0, cp := 0, shared := 0, flags := 0, tiles := [], ready := [], wild := 0 }

/-- A board from which the latest result counts only what issues after it. -/
def Board.own (b : Board) : Board := { b with done := b.t }

/-- A board inside a region that writes some registers, whatever pass it is. -/
def Board.inside (b : Board) (written : List Nat) : Board :=
  { b with
      consts := b.consts.filter fun (r, _) => !written.contains r
      copyAt := b.copyAt.filter fun (r, _) => !written.contains r }

/-- What a further pass over a region starts with, of what a pass that ends at some boards may have changed: the
descriptors, guards and transfers at their larger, and the latest start of a step, by the clocks before the end
(R84, R85). -/
def Board.again (b : Board) (ends : List Board) : Board :=
  { b with
      strm := ends.foldl (fun m e => bothAt m e.strm) b.strm, guards := ends.foldl (fun m e => maxAt m e.guards) b.guards
      xfer := (ends.map Board.xfer).foldl max b.xfer
      stepFrom := (b.stepFrom.toList ++ ends.filterMap fun e => e.stepFrom.map fun s => s + b.t - e.drained).max? }

/-- Whether nothing that `again` sets differs. -/
def Board.sameFacts (x y : Board) : Bool :=
  x.strm = y.strm && x.guards = y.guards && x.xfer = y.xfer && x.stepFrom = y.stepFrom

/-- `n` walks of a region charged to the path that enters it with `b`. The first ends at one of `first`, and
each further one, from the drained board `b0`, at one of `again`; a walk counts until its last result is
ready. `once` says that at least one pass is made. -/
def Board.fold (b : Board) (first : List Board) (b0 : Board) (again : List Board) (n : Nat) (written : List Nat)
    (once : Bool) : Board :=
  match first ++ again with
  | [] => b
  | e :: r =>
    let all := r.foldl Board.agree e
    let top (f : Board → Nat) (bs : List Board) : Nat := (bs.map f).foldl max 0
    let span := top Board.drained again - b0.t
    let t := if n = 0 then b.t else max b.t (top Board.drained first) + (n - 1) * span
    let out {α : Type} (l : List (Nat × α)) : List (Nat × α) := l.filter fun (k, _) => !written.contains k
    let keep := all.consts.filter fun (k, v) => once || afind k b.consts = some v
    let times (f : Board → Nat) : Nat := f b + n * (f all - f b)
    { b with
        t := t, done := max b.done t, ready := out b.ready, pJ := times Board.pJ
        consts := keep.foldl (fun c (k, v) => aput k v c) (out b.consts)
        copyAt := if once then all.copyAt.foldl (fun c (k, v) => aput k (max v t) c) (out b.copyAt) else out b.copyAt
        guards := if once then all.guards else maxAt b.guards all.guards
        strm := if once then all.strm else b.strm.filter fun (k, v) => afind k all.strm = some v
        copies := times Board.copies, hold := b.held + n * (top Board.held (first ++ again) - b.held)
        comms := times Board.comms
        holdFrom := if (e :: r).any fun x => x.holdFrom.isSome then some t else none
        xfer := if once then all.xfer else max b.xfer all.xfer
        stepFrom := ((e :: r).filterMap Board.stepFrom).max?.map fun f =>
          if b.stepFrom = some f then f else f + (n - 1) * span
        stepAt := if (e :: r).all fun x => x.stepAt = b.stepAt then b.stepAt else none
        kids := times Board.kids, kidsAll := times Board.kidsAll
        tileWork := maxAt b.tileWork all.tileWork
        device := b.device || all.device, mesh := b.mesh || all.mesh }

/-! ## Constants (R84) -/

def constOf (c : List (Nat × W64)) : GSrc → Option W64
  | .g n => afind n.val c
  | .gz => some 0
  | _ => none

def constDst (c : List (Nat × W64)) : GDst → Option W64
  | .g n => afind n.val c
  | .gz => some 0

/-- A GA operation on two constants. -/
def constGa (c : List (Nat × W64)) (a b : GSrc) (w : Bool) (op : ElementOp) : Option W64 :=
  (constOf c a).bind fun x => (constOf c b).map fun y => wordOp op w x y

/-- A GI operation on a constant. -/
def constGi (c : List (Nat × W64)) (a : GSrc) (v : W64) (op : ElementOp) : Option W64 :=
  (constOf c a).map fun x => op 64 x v 0

/-- The constant an instruction writes, where the walker can compute it. -/
def constValue (c : List (Nat × W64)) : Instr → Option W64
  | .movw _ i => some (i.signExtend 64)
  | .lim _ i => some (i.signExtend 64)
  | .limh d i => (constDst c d).map fun v => i ++ v.truncate 32
  | .groupAdd _ a b w => constGa c a b w elAdd
  | .groupSub _ a b w => constGa c a b w elSub
  | .groupMul _ a b w => constGa c a b w elMul
  | .groupMulhs _ a b w => constGa c a b w elMulhs
  | .groupMulhu _ a b w => constGa c a b w elMulhu
  | .divs _ a b w => constGa c a b w elDivs
  | .divu _ a b w => constGa c a b w elDivu
  | .rems _ a b w => constGa c a b w elRems
  | .remu _ a b w => constGa c a b w elRemu
  | .groupMins _ a b w => constGa c a b w elMins
  | .groupMinu _ a b w => constGa c a b w elMinu
  | .groupMaxs _ a b w => constGa c a b w elMaxs
  | .groupMaxu _ a b w => constGa c a b w elMaxu
  | .groupAnd _ a b w => constGa c a b w elAnd
  | .groupOr _ a b w => constGa c a b w elOr
  | .groupXor _ a b w => constGa c a b w elXor
  | .groupShl _ a b w => constGa c a b w elShl
  | .groupShru _ a b w => constGa c a b w elShru
  | .groupShrs _ a b w => constGa c a b w elShrs
  | .groupCeq _ a b w => constGa c a b w elOneEq
  | .groupCne _ a b w => constGa c a b w elOneNe
  | .groupClts _ a b w => constGa c a b w elOneLts
  | .groupCltu _ a b w => constGa c a b w elOneLtu
  | .sel d a b =>
    (constDst c d).bind fun z => (constOf c a).bind fun x => (constOf c b).map fun y => if z ≠ 0 then x else y
  | .groupAddi _ a i => constGi c a (i.signExtend 64) elAdd
  | .groupAndi _ a i => constGi c a (i.signExtend 64) elAnd
  | .groupOri _ a i => constGi c a (i.signExtend 64) elOr
  | .groupXori _ a i => constGi c a (i.signExtend 64) elXor
  | .groupShli _ a i => constGi c a (i.zeroExtend 64) elShl
  | .groupShrui _ a i => constGi c a (i.zeroExtend 64) elShru
  | .groupShrsi _ a i => constGi c a (i.zeroExtend 64) elShrs
  | _ => none

/-! ## What an instruction reaches -/

inductive Reach | load | store | atom
  deriving DecidableEq, Repr

/-- The space of a memory instruction. -/
def memOf : Instr → Option (Reach × Space)
  | .ld _ _ _ sp _ | .ldacq _ _ _ sp _ | .groupLd _ _ sp _ | .groupLdacq _ _ sp _ => some (.load, sp)
  | .st _ _ _ sp _ | .strel _ _ _ sp _ | .groupSt _ _ sp _ | .groupStrel _ _ sp _ => some (.store, sp)
  | .atom _ _ _ sp _ | .groupAtom _ _ _ sp _ => some (.atom, sp)
  | .sigSet _ _ | .sigAdd _ _ => some (.atom, .d)
  | _ => none

/-- The spaces an instruction names. -/
def spacesOf (i : Instr) : List Space :=
  match memOf i, i with
  | some (_, sp), _ => [sp]
  | none, .waita _ _ _ sp _ _ | none, .groupWaita _ _ _ sp _ _ => [waitSpace sp]
  | none, .strm _ _ _ sp => [sp]
  | _, _ => []

/-- `.b`, `.n` and `.g` go over the mesh (R91). -/
def overMesh (sp : Space) : Bool := sp = .b || sp = .n || sp = .g

/-! ## Engine operations (R84, R189) -/

/-- Ends and granules of a copy, as far as its registers are known: else one end in `.d`, and the other where a
granule and the first latency take longest (R84). -/
def copyEnds (c : List (Nat × W64)) (p : Nat) : List Space × Nat :=
  let n := match afind (p + 3) c with | some v => ceilDiv (f64 v 0 32) 64 | none => 0x4000000
  match afind p c with
  | none => ([.d, .b], n)
  | some w =>
    let b := [w]
    ((if copyKind b = 1 then [] else [copySrcSpace b]) ++ (if copyToQueue b then [] else [copyDstSpace b]), n)

/-- The spaces a copy reaches: its ends, its index list, and where its completion is written (R91). -/
def copyReach (c : List (Nat × W64)) (p : Nat) : List Space :=
  match afind p c with
  | none => [.d, .b, .n, .g]
  | some w =>
    let b := [w]
    (copyEnds c p).1 ++ (if copyIndexed b then [.s] else []) ++ if copyCompletes b then [copyDoneSpace b] else []

/-- k × bA over the whole of a matrix operation, as far as its registers are known. -/
def mxCost (r : Rates) (c : List (Nat × W64)) (p : Nat) : Nat :=
  match afind p c with
  | none => 16 * 256 * 8
  | some w =>
    let b := (List.range 8).map fun j => aget 0 (p + j) c
    let wide : Nat := if (afind (p + 1) c).isSome then max 1 (mxBits (mxFormA b)) else 8
    let far (sp : Space) : Nat := if sp = .s then 32 else 160 + 6 * r.hops sp
    let move : Nat := if (afind (p + 4) c).isSome then far (mxSource b 3).space else max (far .n) (far .g)
    mxTiles [w] *
      (if mxMultiplies [w] then mxK [w] * wide else if mxKind [w] = 2 then 1 else move)

/-- The spaces of a matrix operation's descriptors. -/
def mxSpaces (c : List (Nat × W64)) (p : Nat) : List Space :=
  [3, 5].map fun j => match afind (p + j + 1) c with | some _ => (mxSource ((List.range 8).map fun j => aget 0 (p + j) c) j).space | none => .n

/-- Tiles a matrix operation may write. -/
def mxWrites (c : List (Nat × W64)) (p : Nat) : List Nat :=
  match afind p c with
  | none => List.range 19
  | some w => if mxKind [w] = 3 then [18] else 18 :: (List.range (mxTiles [w])).map (mxFirst [w] + ·)

/-! ## One instruction (R82, R83, R86) -/

/-- What the walk of one section works with. -/
structure Pricer where
  v : Valid
  e : Seen
  r : Rates
  /-- listed pre-emption points at which a path ends (R30) -/
  points : List Nat

/-- Prefixes that stand before a word and that a path reaches; a branch past them reaches the word
unprefixed (R47). -/
def Pricer.prefixes (w : Pricer) (a : Nat) : List Item :=
  let pre (j : Nat) : Option Item :=
    if j ≤ a && (w.e.cover.getD (a - j) none).isSome then
      (w.e.x.at? (a - j)).filter fun i => isRoute i.word || isAccsrc i.word
    else none
  match pre 1 with
  | none => []
  | some i => i :: (pre 2).toList

/-- The clock at which a register an instruction reads is ready. -/
def Board.readyAt (b : Board) (lane : Bool) (k : Nat) : Nat :=
  if lane && decide (96 ≤ k) then (b.ready.map (·.2)).foldl max b.wild else max b.wild (aget 0 k b.ready)

/-- The clock at which what an instruction waits for, beyond its registers, is over (R82, R86, R112, R165,
R192). -/
def Board.waits (b : Board) (r : Rates) (lane root : Bool) (i : Instr) : Nat :=
  let when (p : Bool) (n : Nat) : Nat := if p then n else 0
  let tileAt (n : Nat) : Nat := aget 0 n b.tiles
  match i with
  | .strel _ _ _ _ _ | .groupStrel _ _ _ _ => b.sto
  | .fence k _ | .groupFence k _ =>
    max (when (k = .rel || k = .acqrel) b.sto) (when (k = .acq || k = .acqrel) b.ld)
  | .waitc l s => max (when (l ≠ 15) b.ld) (when (s ≠ 15) b.sto)
  | .groupWaitc l s c t =>
    max (max (when (l ≠ 15) b.ld) (when (s ≠ 15) b.sto)) (max (when (c ≠ 15) b.cp) (when (t ≠ 15) (tileAt 18)))
  | .exit | .ret => when (root || i = .exit) (max b.sto b.ld)
  | .groupExit | .groupRet => when ((root || i = .groupExit) && !lane) (max (max b.sto b.ld) (max b.cp (tileAt 18)))
  | .mxctlTilewait t => tileAt t.val
  | .mxctlCtab _ => tileAt 18
  | .shareLeave _ => max b.shared (b.t + r.sharedWork)
  | .csrr _ c | .csrw _ c => when (c = 2) b.flags
  | _ => 0

/-- Latency and energy of an instruction beyond what its class gives for itself. -/
def Pricer.cost (w : Pricer) (lane : Bool) (it : Item) (i : Instr) : Nat × Nat :=
  let r := w.r
  let l := if lane then r.l0 else 1
  match memOf i with
  | some (.atom, sp) => r.atomic sp l
  | some (_, sp) =>
    let two := match i with | .ld .qw _ _ _ _ | .st .qw _ _ _ _ => 2 | _ => 1
    r.access lane sp two l
  | none =>
    match i with
    | .quoteReq _ _ | .quoteAcc _ _ | .quoteDec _ _ | .quoteActual _ _ | .submit _ _ | .spawn _ _ => (24, 0)
    | .qpop _ =>
      let cs := r.streams.map fun sp => ((r.access true sp 1 4).1, r.copyEnergy [sp] 4)
      (cs.foldl (fun m c => max m c.1) 2, cs.foldl (fun m c => max m c.2) 0)
    | _ => ((classOf it.word).latency it.word, 0)

/-- A step ends at a phase instruction. -/
def Board.stepped (b : Board) : Board :=
  match b.stepAt with
  | some s => { b with steps := b.steps ++ [b.t - s], stepAt := some b.t }
  | none => b

/-- What an instruction leaves behind beyond its own issue: waits charged, engine work, guards. -/
def Pricer.special (w : Pricer) (b : Board) (i : Instr) (t0 : Nat) : Board :=
  let wait (b : Board) (until_ : Nat) (ds : List Nat) : Board :=
    { b with t := max b.t until_, done := max b.done until_,
             ready := ds.foldl (fun m d => aput d (max until_ (aget 0 d m)) m) b.ready }
  let ceiling (d : GDst) : Board := wait b (t0 + w.v.p.k.barCeiling.toNat) d.keys
  match i with
  | .guard k n | .groupGuard k n => { b with guards := aput k.val n.toNat b.guards }
  | .waita _ d _ _ _ n => wait b (t0 + n.toNat) d.keys
  | .groupWaita a d c _ _ n =>
    let full := t0 + n.toNat
    let until_ := match afind a.val b.copyAt with
      | some u => if c = .sys ∨ c = .fab then full else min full u
      | none => full
    wait b until_ [d.val]
  | .barWait _ d | .barSync _ d | .barTake _ d => ceiling d
  | .mxctlTake =>
    let b := wait b (t0 + w.r.holdExtra) []
    { b with holdFrom := some b.t }
  | .mxctlPass =>
    match b.holdFrom with
    | some f => { b with hold := b.hold + (b.t - f), holdFrom := none }
    | none => b
  | .cpy p _ =>
    let (ends, g) := copyEnds b.consts p.val
    let time := w.r.copyTime ends g
    let done := t0 + time + w.r.copyExtra
    let finish := match afind p.val b.consts with | some x => copyCompletes [x] | none => true
    { b with
        cp := max b.cp done, done := max b.done done, copies := b.copies + time
        pJ := b.pJ + w.r.copyEnergy ends g
        copyAt := if finish then aput (p.val + 5) done b.copyAt else b.copyAt
        shared := if ends.contains .g then max b.shared done else b.shared
        device := b.device || (copyReach b.consts p.val).contains .d
        mesh := b.mesh || (copyReach b.consts p.val).any overMesh }
  | .phaseXfer p t =>
    let (ends, g) := copyEnds b.consts p.val
    { b with
        xfer := max b.xfer (t.toNat + w.r.copyTime ends g), pJ := b.pJ + w.r.copyEnergy ends g
        device := b.device || (copyReach b.consts p.val).contains .d
        mesh := b.mesh || (copyReach b.consts p.val).any overMesh }
  | .phaseComm =>
    let t := b.t + 32
    { b with t := t, done := max b.done t, stepFrom := some t, comms := b.comms + 1 }.stepped
  | .phaseComp =>
    let t := max b.t ((b.stepFrom.getD b.t) + b.xfer) + 32
    { b with t := t, done := max b.done t, stepFrom := none, xfer := 0 }.stepped
  | .strm k p _ _ =>
    let n := match afind (p.val + 1) b.consts with
      | some c => ceilDiv (f64 c 0 16 * f64 c 16 16 * f64 c 32 16) 32
      | none => ceilDiv (65535 ^ 3) 32
    { b with strm := aput k.val n b.strm }
  | .strmgo k =>
    let n := 4 * aget (ceilDiv (65535 ^ 3) 32) k.val b.strm
    let time := (w.r.streams.map fun sp => w.r.copyTime [sp] n).foldl max 0
    let done := t0 + time + w.r.copyExtra
    { b with cp := max b.cp done, done := max b.done done, copies := b.copies + time }
  | .mxq p _ =>
    let c := mxCost w.r b.consts p.val
    let done := t0 + 12 + c + 8
    let tiles := mxWrites b.consts p.val
    { b with
        done := max b.done done, pJ := b.pJ + 3300 * c
        tiles := maxAt b.tiles (tiles.map fun t => (t, done))
        tileWork := maxAt b.tileWork (tiles.map fun t => (t, 12 + c + 8))
        mesh := b.mesh || (mxSpaces b.consts p.val).any overMesh }
  | .spawn p _ =>
    let n := match afind (p.val + 1) b.consts with | some c => f64 c 0 8 | none => 12
    { b with kids := b.kids + min n w.v.p.k.fit, kidsAll := b.kidsAll + n }
  | _ => b

/-- The tiles whose fragments a prefix names (R147). -/
def Item.tile? (i : Item) : Option Nat :=
  match i.instr with
  | .ok (.accsrc t _ _ _) => some t.toNat
  | _ => none

/-- One instruction issues (R82); `root` says that its path is not inside a function. A fragment of a tile
that the gang's operations write is waited for as `mxctl.tilewait` does (R148). -/
def Pricer.issue (w : Pricer) (b : Board) (a : Nat) (it : Item) (i : Instr) (root : Bool) : Board :=
  let lane := !w.e.x.cond
  if isRoute it.word && lane || isAccsrc it.word && lane then b
  else
    let pre := if lane && isAluWord it.word then w.prefixes a else []
    let reads := readsOf i ++ pre.flatMap fun p => match p.instr with | .ok j => readsOf j | .error _ => []
    let t0 := (reads.map (b.readyAt lane)).foldl max (max b.t (b.waits w.r lane root i))
    let t0 := t0 + ((pre.filterMap Item.tile?).map fun n => aget 0 n w.r.tileWork).foldl max 0
    let perms := (pre.map fun p => match p.instr with
      | .ok (.route x y _) => 1 + [x, y].countP fun s => match s with | .perm _ => true | _ => false
      | .ok (.accsrc _ _ _ _) => 2
      | _ => 0).sum
    let (lat, extra) := w.cost lane it i
    let two := match i with | .ld .qw _ _ _ _ | .st .qw _ _ _ _ => 2 | _ => 1
    let (full, narrow) := (classOf it.word).issue
    let n := (if w.r.narrow then narrow else full) * two
    let done := t0 + lat + perms
    let value := if lane then none else constValue b.consts i
    let ds := writesOf i
    let store := match memOf i with | some (.store, _) | some (.atom, _) => true | _ => false
    let load := match memOf i with | some (.load, _) | some (.atom, _) => true | _ => false
    let shared := match memOf i with | some (_, .g) => true | _ => false
    let float := match classOf it.word with | .laneFp | .laneTrans | .pack => true | _ => false
    let b : Board :=
      { b with
          t := t0 + n, done := max b.done (max done (t0 + n))
          ready := ds.foldl (fun m d => if lane && decide (96 ≤ d) then m else aput d done m) b.ready
          wild := if lane && ds.any (fun d => decide (96 ≤ d)) then max b.wild done else b.wild
          sto := if store then max b.sto done else b.sto
          ld := if load then max b.ld done else b.ld
          shared := if shared then max b.shared done else b.shared
          flags := if float then done else b.flags
          pJ := b.pJ + issueEnergy it.word + extra + (pre.map fun p => issueEnergy p.word).sum
          copyAt := b.copyAt.filter fun (k, _) => !ds.contains k
          consts := ds.foldl (fun c d => match value with | some v => aput d v c | none => adel d c) b.consts
          device := b.device || (spacesOf i).contains .d
          mesh := b.mesh || (spacesOf i).any overMesh }
    w.special b i t0

/-! ## Regions -/

/-- The guarded regions that begin at a word: their branches and counters. -/
def Pricer.regionsAt (w : Pricer) (a : Nat) : List (Nat × Fin 4) :=
  (List.range w.e.x.count).filterMap fun b =>
    match w.e.cover.getD b none, (w.e.x.at? b).map Item.flow with
    | some _, some (.guarded k o _) => if (b : Int) + o = a ∧ a ≤ b then some (b, k) else none
    | _, _ => none

/-- The functions that may run under a call from a range of words. -/
def Pricer.under (w : Pricer) (lo n : Nat) : List Nat :=
  let direct := (List.range n).flatMap fun j =>
    match w.e.x.at? (lo + j) with
    | some it => w.v.p.callees w.e.x.cond (lo + j) it
    | none => []
  reachFrom (fun f => w.v.calls.from? (some f)) (w.v.p.fns.size + 1) direct.eraseDups

/-- The registers that the words of a range write themselves. -/
def Pricer.ownWrites (w : Pricer) (lo n : Nat) : List Nat :=
  (List.range n).flatMap fun j =>
    match (w.e.x.at? (lo + j)).map Item.instr with
    | some (.ok i) => writesOf i
    | _ => []

/-- The registers written in a range of words, with those of what it calls. -/
def Pricer.writes (w : Pricer) (lo n : Nat) : List Nat :=
  (w.ownWrites lo n ++ (w.under lo n).flatMap fun g =>
    let f := w.v.p.fns.getD g default
    w.ownWrites f.start f.len).eraseDups

/-- Whether a range of words, or what it calls, holds a point. -/
def Pricer.hasPoint (w : Pricer) (lo hi : Nat) : Bool :=
  let own (lo hi : Nat) : Bool := w.points.any fun q => decide (lo ≤ q) && decide (q < hi)
  own lo hi || (w.points ≠ [] && (w.under lo (hi - lo)).any fun g =>
    let f := w.v.p.fns.getD g default
    own f.start (f.start + f.len))

/-! ## The walk of a range of words (R85) -/

/-- Where a walk of a range got to: the boards that reach words outside it, those at the branch that closes
it, those at a `ret` or `exit`, those that end at a point, and in lane code the board so far. -/
structure Reached where
  outs : List (Nat × Board)
  backs : List Board
  rets : List Board
  ended : List Board
  last : Board

def Reached.from (b : Board) : Reached := { outs := [], backs := [], rets := [], ended := [], last := b }

/-- The frame of a walk: a range of words in one function or in the entry code, its call depth, the levels
that recursion around it adds, the functions entered, the regions open. -/
structure Span_ where
  lo : Nat
  hi : Nat
  fn : Option Nat
  depth : Nat
  extra : Nat
  stack : List Nat
  act : List (Nat × Nat)
  /-- whether a `ret` of the frame is at CDEP 0 and so an `exit` -/
  top : Bool

/-- A walk: frame, word, the boards there, the boards that branch ahead, and what was reached before. -/
abbrev Go := Span_ → Nat → List Board → List (Nat × Board) → Reached → Reached

/-- The boards at which a walk of a region is over. -/
def Reached.over (x : Reached) (lane : Bool) : List Board :=
  if lane then [x.last] else meetAll (x.outs.map (·.2) ++ x.backs)

/-- `n` passes over a region that writes the registers `ws`, entered with `b`: a loop starts each from a
drained scoreboard, a guarded region only those after the first; a further pass starts with what a pass may leave
behind. The board after them, and what the last
pass reached, at that time. -/
def Pricer.passes (w : Pricer) (go : Go) (f : Span_) (b : Board) (loop : Bool) (n : Nat) (ws : List Nat) :
    Board × Reached :=
  let lane := !w.e.x.cond
  let walk (x : Board) : Reached := go f f.lo [x] [] (.from x)
  let start := (if loop then b.rest else b.own).inside ws
  let one := walk start
  let rest := (b.rest.inside ws).again (one.over lane)
  let again := if loop && rest.sameFacts start then one else walk rest
  let first := if loop then again else one
  let folded := b.fold (first.over lane) rest (again.over lane) n ws (!loop)
  let before := folded.t - ((again.over lane).map Board.drained).foldl max b.t
  (folded, { first with
              rets := first.rets ++ again.rets.map fun r => (r.later before).agree folded
              ended := first.ended ++ again.ended })

/-- The walk goes on behind a region: `at_` if control may fall there, and where its branches lead. -/
def Pricer.goOn (w : Pricer) (go : Go) (f : Span_) (at_ : Nat) (falls : Bool) (rs : List (Board × Reached))
    (inc : List (Nat × Board)) (acc : Reached) : Reached :=
  let targets := rs.flatMap fun (b, x) => (x.outs.map (·.1)).eraseDups.map fun t => (t, b)
  let here := rs.filterMap fun (b, x) => if falls || x.outs.any (fun o => o.1 = at_) then some b else none
  let away := targets.filter fun o => o.1 ≠ at_
  go f at_ here (inc ++ away.filter fun o => decide (o.1 < f.hi))
    { acc with
        outs := acc.outs ++ away.filter fun o => decide (f.hi ≤ o.1)
        rets := acc.rets ++ rs.flatMap fun (_, x) => x.rets
        ended := acc.ended ++ rs.flatMap fun (_, x) => x.ended
        last := if w.e.x.cond then acc.last else (rs.map (·.1)).getLast?.getD acc.last }

/-- Whether two functions lie on one call cycle. -/
def Valid.together (v : Valid) (f g : Nat) : Bool :=
  let below (x : Nat) : List Nat :=
    reachFrom (fun y => v.calls.from? (some y)) (v.p.fns.size + 1) (v.calls.from? (some x))
  (below f).contains g && (below g).contains f

/-- Time and energy added to a board. -/
def Board.plus (b : Board) (clk pJ : Nat) : Board :=
  let t := b.t + clk
  { b with t := t, done := max b.done t, pJ := b.pJ + pJ }

/-- One function entered by a call from a frame: what it reaches, its boards at `ret` (R85). -/
def Pricer.enter (w : Pricer) (go : Go) (f : Span_) (viaTable : Bool) (b : Board) (g : Nat) : Reached :=
  let p := w.v.p
  let fn := p.fns.getD g default
  let top := w.v.kernel.maxDepth
  let stub := viaTable && p.calls.any fun (t, _, s) => s && p.fnFrom (t.getLsbD 31) (t.toNat % 2 ^ 31) = some g
  let b := if stub then b.plus 2200 200000 else b
  let cyc := w.v.calls.cyclic (p.fns.size + 1) g && !((f.fn.map fun h => f.stack.contains h && w.v.together h g).getD false)
  let mult := if cyc then top else 1
  let frame : Span_ :=
    { lo := fn.start, hi := fn.start + fn.len, fn := some g, depth := f.depth + 1, extra := f.extra + (mult - 1),
      stack := g :: f.stack, act := [], top := false }
  let deepest := min (f.depth + f.extra + mult) (max top (f.depth + 1))
  if cyc then
    let spills := (deepest - 4) - (f.depth - 4)
    let ws := w.writes fn.start fn.len
    let walk (x : Board) : Reached := go frame fn.start [x] [] (.from x)
    let ends (x : Reached) : List Board := if w.e.x.cond then meetAll x.rets else [x.last]
    let sub := walk (b.own.inside ws)
    let rest := (b.rest.inside ws).again (ends sub)
    let out := (b.fold (ends sub) rest (ends (walk rest)) mult ws true).plus (48 * spills) (180 * spills)
    { sub with rets := if sub.rets = [] then [] else [out], last := out }
  else
    let spill (b : Board) : Board := if 4 < deepest then b.plus 24 90 else b
    let b := spill b
    let sub := go frame fn.start [b] [] (.from b)
    { sub with rets := sub.rets.map spill, last := spill sub.last }

/-- A call: its own issue, then its callees, in sum in lane code, at their larger in conductor code. A call
that closes a cycle costs nothing (R85). -/
def Pricer.call (w : Pricer) (go : Go) (f : Span_) (a : Nat) (it : Item) (i : Instr) (bs : List Board)
    (inc : List (Nat × Board)) (acc : Reached) : Reached :=
  let cond := w.e.x.cond
  let viaTable := match flowOf i with | .calli => true | _ => false
  let (closing, fs) := (w.v.p.callees cond a it).partition f.stack.contains
  let ws := closing.flatMap fun g => let fn := w.v.p.fns.getD g default; w.writes fn.start fn.len
  let bs := if fs = [] && closing ≠ [] then bs else bs.map fun b => w.issue b a it i f.top
  let back := if closing = [] && fs ≠ [] then [] else bs.map fun b => b.inside ws
  if cond then
    let rs := bs.flatMap fun b => fs.map (w.enter go f viaTable b)
    go f (a + it.len) (meetAll (back ++ rs.flatMap (·.rets))) inc
      { acc with ended := acc.ended ++ rs.flatMap (·.ended) }
  else
    let b := bs.headD acc.last
    let (last, rets, ended) := fs.foldl (fun (o : Board × List Board × List Board) g =>
      let x := w.enter go f viaTable o.1 g
      (x.last, o.2.1 ++ x.rets, o.2.2 ++ x.ended)) (b, back, [])
    go f (a + it.len) (if rets = [] then [] else [last]) inc { acc with ended := acc.ended ++ ended, last := last }

/-- A loop (R85), and one whose body holds a point (R30). -/
def Pricer.loop (w : Pricer) (go : Go) (f : Span_) (st en bound : Nat) (bs : List Board) (inc : List (Nat × Board))
    (acc : Reached) : Reached :=
  let lane := !w.e.x.cond
  let body : Span_ := { f with lo := st, hi := en }
  if w.hasPoint st en then
    let rs := bs.map fun b =>
      let one := go body st [b] [] (.from b)
      let round := (one.outs.filter fun o => o.1 = en).map fun (_, x) =>
        let x := if lane then one.last else x
        go body st [x] [] (.from x)
      (one, round)
    let ended := rs.flatMap fun (one, round) => one.ended ++ round.flatMap (·.ended)
    let outs := rs.flatMap fun (one, _) => if lane then one.outs.map fun (t, _) => (t, one.last) else one.outs
    let (after, away) := outs.partition fun o => o.1 = en
    go f en (meetAll (bs ++ after.map (·.2))) (inc ++ away.filter fun o => decide (o.1 < f.hi))
      { acc with
          ended := acc.ended ++ ended, outs := acc.outs ++ away.filter fun o => decide (f.hi ≤ o.1)
          rets := acc.rets ++ rs.flatMap fun (one, _) => one.rets
          last := if lane then ((rs.map fun (one, _) => one.last).getLast?).getD acc.last else acc.last }
  else
    let ws := w.writes st (en - st)
    w.goOn go f en true (bs.map fun b => w.passes go body b true bound ws) inc acc

/-- A guarded region [t, e] walked as many times as its guard admits (R85). -/
def Pricer.region (w : Pricer) (go : Go) (f : Span_) (t e : Nat) (k : Fin 4) (falls : Bool) (bs : List Board)
    (inc : List (Nat × Board)) (acc : Reached) : Reached :=
  let ws := w.writes t (e + 1 - t)
  let body : Span_ := { f with lo := t, hi := e + 1, act := (t, e) :: f.act }
  w.goOn go f (e + 1) falls
    (bs.map fun b => w.passes go body b false (aget 0x3FFFF k.val b.guards + 1) ws) inc acc

/-- The walk at one word. In lane code every word in order, both arms of a branch in sum; in conductor code
each path, and where two meet what `meetAll` keeps. -/
def Pricer.atWord (w : Pricer) (go : Go) (f : Span_) (a : Nat) (cur : List Board) (inc : List (Nat × Board))
    (acc : Reached) : Reached :=
  let cond := w.e.x.cond
  let next (n : Nat) (bs : List Board) : Reached :=
    go f (a + n) bs inc (if cond then acc else { acc with last := bs.headD acc.last })
  let onward (t : Nat) (bs : List Board) : List (Nat × Board) := bs.map fun b => (t, b)
  match (if (w.e.cover.getD a none).isSome && w.v.p.fnAt w.e.x.cond a = f.fn then w.e.x.at? a else none) with
  | none => go f (a + 1) cur inc acc
  | some it =>
    if w.points.contains a && cur.any (fun b => decide (0 < b.t)) then
      go f (a + 1) [] inc { acc with ended := acc.ended ++ cur }
    else
      let open_ := (w.regionsAt a).filter fun (e, _) =>
        decide (e < f.hi) && !f.act.contains (a, e) && !w.hasPoint a (e + 1)
      match open_.foldl (fun (m : Option (Nat × Fin 4)) x => match m with
          | some y => if y.1 < x.1 then some x else some y
          | none => some x) none, it.instr with
      | some (e, k), _ => w.region go f a e k false cur inc acc
      | none, .error _ => go f (a + 1) cur inc acc
      | none, .ok i =>
        let bs := cur.map fun b => w.issue b a it i f.top
        let acc' := if cond then acc else { acc with last := bs.headD acc.last }
        let ahead (o : Int) (falls : Bool) : Reached :=
          let t := ((a : Int) + o).toNat
          let on := if falls then bs else []
          if t < f.hi then go f (a + it.len) on (inc ++ onward t bs) acc'
          else go f (a + it.len) on inc { acc' with outs := acc'.outs ++ onward t bs }
        match flowOf i with
        | .next => next it.len bs
        | .ends => go f (a + it.len) [] inc { acc' with rets := acc'.rets ++ bs }
        | .branch o falls => ahead o falls
        | .guarded k o falls =>
          let t := ((a : Int) + o).toNat
          if 0 < o then ahead o falls
          else if f.act.contains (t, a) then
            go f (a + it.len) (if falls then bs else []) inc { acc' with backs := acc'.backs ++ bs }
          else if w.hasPoint t (a + 1) then
            let back := bs.map fun b => go { f with act := (t, a) :: f.act } t [b] [] (.from b)
            go f (a + it.len) (if falls then bs else []) inc { acc' with ended := acc'.ended ++ back.flatMap (·.ended) }
          else w.region go f t a k falls bs inc acc'
        | .loop len bound => w.loop go f (a + 2) (a + 2 + len) bound bs inc acc'
        | .call _ | .calli => w.call go f a it i cur inc acc

/-- The walk of a range of words from `a`. -/
def Pricer.run (w : Pricer) : Nat → Go
  | 0, _, _, _, _, acc => acc
  | fuel + 1, f, a, cur, inc, acc =>
    if f.hi ≤ a then { acc with outs := acc.outs ++ (cur.map fun b => (a, b)) ++ inc.filter fun o => decide (f.hi ≤ o.1) }
    else
      let meets := (inc.filter fun o => o.1 = a).map (·.2)
      let cur := if w.e.x.cond then (if meets = [] then cur else meetAll (cur ++ meets))
        else if cur = [] && meets = [] then [] else [acc.last]
      if cur = [] then w.run fuel f (a + 1) [] inc acc
      else w.atWord (w.run fuel) f a cur inc acc

/-- Fuel for a walk: no chain of regions and calls holds more words. -/
def Pricer.fuel (w : Pricer) : Nat :=
  let n := w.v.lanes.x.count + w.v.conds.x.count + 2
  2 * n * n

/-- The words of a function, or of the entry code. -/
def Pricer.frame (w : Pricer) (fn : Option Nat) : Span_ :=
  let (lo, hi) := match fn with
    | some g => let f := w.v.p.fns.getD g default; (f.start, f.start + f.len)
    | none => (0, w.e.x.count)
  { lo := lo, hi := hi, fn := fn, depth := 0, extra := 0, stack := [], act := [], top := true }

/-- The costliest of the paths that end: their charges, and the latest clock. -/
def costliest (bs : List Board) : Board :=
  match alignSteps bs with
  | [] => Board.start
  | b :: r =>
    { r.foldl Board.agree b with
        t := ((b :: r).map (·.t)).foldl max 0, hold := ((b :: r).map Board.held).foldl max 0, holdFrom := none }

/-- The board of a path from a word to its end (R87). -/
def Pricer.path (w : Pricer) (fn : Option Nat) (a : Nat) : Board :=
  let r := w.run w.fuel (w.frame fn) a [Board.start] [] (.from Board.start)
  costliest (if w.e.x.cond then r.rets else [r.last])

/-! ## A gang (R87, R114) -/

/-- What the walks of a gang's code give. -/
structure Priced where
  lane : Nat
  cond : Nat
  pJ : Nat
  comms : Nat
  /-- children the partition bound counts, with the bound and the energy of one -/
  kids : Nat
  kidsAll : Nat
  kidClk : Nat
  kidPJ : Nat
  device : Bool
  mesh : Bool

/-- The gang bound. -/
def Priced.gang (p : Priced) : Nat := p.lane + p.cond

/-- The spaces of the streams of a kernel that starts any. -/
def Valid.streamSpaces (v : Valid) : List Space :=
  let is := v.reachable
  if is.any fun i => match i with | .strmgo _ => true | _ => false then
    (is.filterMap fun i => match i with | .strm _ _ _ sp => some sp | _ => none).eraseDups
  else []

/-- The longest latency of an access through `.g` that the kernel may make. -/
def Valid.sharedWork (v : Valid) (r : Rates) : Nat :=
  (v.reachable.map fun i =>
    match memOf i with
    | some (.atom, .g) => (r.atomic .g r.l0).1
    | some (_, .g) => (r.access true .g 1 1).1
    | _ => 0).foldl max 0

/-- Bound and energy of a child, with those of the children it may create, `n` levels deep (R26, R114). -/
def kidCost (lane : Nat × Nat) (conds : List Board) : Nat → Nat × Nat
  | 0 => (0, 0)
  | n + 1 =>
    let (t, e) := kidCost lane conds n
    (lane.1 + (conds.map fun b => b.t + b.kids * t).foldl max 0,
      lane.2 + (conds.map fun b => b.pJ + b.kidsAll * e).foldl max 0)

/-- The walk of a section at some rates. -/
def Valid.walk (v : Valid) (e : Seen) (r : Rates) : Pricer := { v := v, e := e, r := r, points := [] }

/-- The path from an entry. -/
def Valid.root (v : Valid) (e : Seen) (r : Rates) (a : Option W32) : Board :=
  match a with
  | some a => (v.walk e r).path none (a.toNat % 2 ^ 31)
  | none => Board.start

/-- The paths of the functions of a section. -/
def Valid.functions (v : Valid) (e : Seen) (r : Rates) : List Board :=
  (List.range v.p.fns.size).filterMap fun g =>
    let f := v.p.fns.getD g default
    if f.cond = e.x.cond then some ((v.walk e r).path (some g) f.start) else none

/-- The rates of conductor code: `peers` other gangs of the launch can share a core, with their copies and baton
holds (R84). -/
def Valid.condRates (v : Valid) (r : Rates) (peers : Nat) : Rates :=
  let r := { r with streams := v.streamSpaces, sharedWork := v.sharedWork r }
  let r1 := { r with copyExtra := peers * (v.root v.conds r v.p.k.condEntry).copies }
  { r1 with holdExtra := peers * (v.root v.conds r1 v.p.k.condEntry).hold }

/-- The rates of lane code, which waits for the tiles that conductor code writes (R148). -/
def Valid.laneRates (r : Rates) (cond : Board) (conds : List Board) : Rates :=
  { r with tileWork := conds.foldl (fun m b => maxAt m b.tileWork) cond.tileWork }

/-- The walk of the two sections at the rates given; `peers` other gangs of the launch can share a core. -/
def Valid.price (v : Valid) (r : Rates) (peers : Nat) : Priced :=
  let r := v.condRates r peers
  let cond := v.root v.conds r v.p.k.condEntry
  let conds := if cond.kidsAll = 0 then [] else v.functions v.conds r
  let r3 := Valid.laneRates r cond conds
  let lane := v.root v.lanes r3 v.p.k.laneEntry
  let lanes := if cond.kidsAll = 0 then [] else v.functions v.lanes r3
  let top (f : Board → Nat) : Nat := (lanes.map f).foldl max 0
  let (kt, ke) := if cond.kidsAll = 0 then (0, 0)
    else kidCost (top Board.t, top Board.pJ) (if conds = [] then [Board.start] else conds) v.p.k.spawnDepth
  let all := lane :: cond :: (lanes ++ conds)
  { lane := lane.t, cond := cond.t, pJ := lane.pJ + cond.pJ, comms := cond.comms, kids := cond.kids,
    kidsAll := cond.kidsAll, kidClk := kt, kidPJ := ke, device := all.any Board.device, mesh := all.any Board.mesh }

/-! ## The spacing of pre-emption points (R30) -/

/-- The words after the calls of a section that name a function, with the function that holds them. -/
def Pricer.sites (w : Pricer) (g : Nat) : List (Nat × Option Nat) :=
  w.v.calls.list.filterMap fun (c, a, h, gs) =>
    if c = w.e.x.cond && gs.contains g then (w.e.x.at? a).map fun it => (a + it.len, h) else none

/-- Words of a section from which a path to the next point is measured: the entry, the points, the words
after calls, and where a kernel spawns the functions that its children run. -/
def Pricer.starts (w : Pricer) (entry : Option W32) : List Nat :=
  (entry.map fun a => a.toNat % 2 ^ 31).toList ++ w.points ++
    (if w.v.spawns then (w.v.p.fns.toList.filter fun f => f.cond = w.e.x.cond).map Fn.start else []) ++
    w.v.calls.list.filterMap fun (c, a, _, _) =>
      if c = w.e.x.cond then (w.e.x.at? a).map fun it => a + it.len else none

/-- What walks from a word reach, one for each board there: the boards at a next point or at `exit`, and those at
a `ret` of its function; `top` says that this `ret` is an `exit` itself. Inside a loop with a point the path may go
round to it. -/
def Pricer.onward (w : Pricer) (top : Bool) (a : Nat) (bs : List Board) : List Board × List Board :=
  let f := { w.frame (w.v.p.fnAt w.e.x.cond a) with top := top }
  let loops := w.e.loops.filter fun (_, st, en) => decide (st ≤ a) && decide (a < en)
  let each (b : Board) : Reached :=
    let ahead := w.run w.fuel f a [b] [] (.from b)
    let round := loops.flatMap fun (_, st, en) =>
      let body := { f with lo := st, hi := en }
      (w.run w.fuel body a [b] [] (.from b)).outs.flatMap fun (_, x) => (w.run w.fuel body st [x] [] (.from x)).ended
    { ahead with ended := ahead.ended ++ round }
  let xs := bs.map each
  (xs.flatMap (·.ended), xs.flatMap (·.rets))

/-- The latest of some boards. -/
def latest (bs : List Board) : Nat := (bs.map (·.t)).foldl max 0

/-- Paths that stand at the `ret` of some functions go on behind every call of them, through as many returns as
calls can nest: the costliest to the next point or to `exit`. -/
def Pricer.returns (w : Pricer) : Nat → List (Nat × List Board) → Nat → Nat
  | 0, _, m => m
  | n + 1, rs, m =>
    let outs := rs.flatMap fun (g, bs) => (w.sites g).map fun (a, h) => (h, w.onward h.isNone a bs)
    let ended := outs.flatMap fun (h, e, r) => if h.isNone then e ++ r else e
    let next := (outs.filterMap (·.1)).eraseDups.map fun h =>
      (h, meetAll (outs.flatMap fun (g, _, r) => if g = some h then r else []))
    w.returns n (next.filter fun x => !x.2.isEmpty) (max m (latest ended))

/-- The costliest path from a word to the next point or to `exit` (R30), where kernels spawn also one whose
function returns at CDEP 0. -/
def Pricer.costFrom (w : Pricer) (a : Nat) : Nat :=
  match w.v.p.fnAt w.e.x.cond a with
  | none =>
    let (e, r) := w.onward true a [Board.start]
    latest (e ++ r)
  | some g =>
    let (e, r) := w.onward false a [Board.start]
    let child := if w.v.spawns then latest (w.onward true a [Board.start]).2 else 0
    w.returns w.v.kernel.maxDepth [(g, meetAll r)] (max child (latest e))

/-- Whether every path of a section of a pre-emptible kernel meets a point in time. -/
def Pricer.inTime (w : Pricer) (entry : Option W32) : Bool :=
  (w.starts entry).all fun a => decide (w.costFrom a ≤ w.v.p.k.preemptLat)

/-- Whether every path of a pre-emptible kernel meets a point in time (R30), at the rates of its walk. -/
def Valid.spaced (v : Valid) (r : Rates) (peers : Nat) : Bool :=
  let pts (c : Bool) : List Nat :=
    (v.p.k.points.filter fun (a, _) => a.getLsbD 31 = c).map fun (a, _) => a.toNat % 2 ^ 31
  let of (e : Seen) (r : Rates) : Pricer := { v.walk e r with points := pts e.x.cond }
  let r := v.condRates r peers
  let cond := v.root v.conds r v.p.k.condEntry
  let conds := if cond.kidsAll = 0 then [] else v.functions v.conds r
  (of v.lanes (Valid.laneRates r cond conds)).inTime v.p.k.laneEntry && (of v.conds r).inTime v.p.k.condEntry

end Sys2Proof.Machine
end

