-- ==== Sys2Proof/Machine/Pool.lean ====
section
/-! DEFINITION. The Saddle pool's structures: the event queue and its ordering locks (R71, R72), signals
(R75), the queue directory (R64) and the completion of packets (R65, R67). -/

namespace Sys2Proof.Machine

/-! ## Events (R71) -/

/-- An event's 64 bits. -/
def eventWord (kind arg : Nat) (queue : Option Nat) : W64 :=
  n64 (arg % 2 ^ 48 * 65536 + kind * 8192 + (match queue with | some q => 4096 + q % 4096 | none => 0))

def evKind (e : W64) : Nat := f64 e 13 3
def evArg (e : W64) : Nat := f64 e 16 48
def evQueue (e : W64) : Option Nat := if b64 e 12 then some (f64 e 0 12) else none

def State.setEvents (s : State) (l : List W64) : State := { s with dev := { s.dev with events := l } }

/-- A wake posted (R68, R69): at most one pending for a queue, with the larger index. DESIGN CHOICE (log 80):
a wake or a signal-changed event enters a full queue all the same, since R71 holds only the other sources
back. -/
def State.enterWake (s : State) (q idx : Nat) : State :=
  let mine (e : W64) : Bool := evKind e = 1 && evQueue e = some q
  if s.dev.events.any mine then
    s.setEvents (s.dev.events.map fun e => if mine e then eventWord 1 (max (evArg e) (idx % 2 ^ 48)) (some q) else e)
  else s.setEvents (s.dev.events ++ [eventWord 1 idx (some q)])

/-- A signal-changed event: at most one pending for a signal's address (R71). -/
def State.postSignalEvent (s : State) (pa : Nat) (queue : Option Nat) : State :=
  let e := eventWord 2 pa queue
  if s.dev.events.any fun x => evKind x = 2 && evArg x = evArg e then s else s.setEvents (s.dev.events ++ [e])

/-- An event of another source, held back while the queue of 8,192 is full (R71). -/
def State.postEvent (s : State) (kind arg : Nat) (queue : Option Nat) : State :=
  let e := eventWord kind arg queue
  if s.dev.events.length < 8192 then s.setEvents (s.dev.events ++ [e])
  else { s with dev := { s.dev with heldEvents := s.dev.heldEvents ++ [e] } }

/-- An event held back as it is posted: a periodic tick bears the tick of its posting (R71). -/
def State.stamped (s : State) (e : W64) : W64 := if evKind e = 4 then eventWord 4 s.tick none else e

/-- An event taken from the queue: one held back may enter. -/
def State.takeEvent (s : State) (e : W64) : State :=
  let left := s.dev.events.erase e
  if left.length < 8192 then
    { s with dev :=
        { s.dev with events := left ++ (s.dev.heldEvents.take 1).map s.stamped, heldEvents := s.dev.heldEvents.drop 1 } }
  else s.setEvents left

/-! ## Ordering locks (R72) -/

/-- The ordering lock of a queue. -/
def lockOfQueue (q : Nat) : Nat := q % 256

def State.lockHolder (s : State) (n : Nat) : Option Nat := afind n s.dev.locks
def State.grantLock (s : State) (n core : Nat) : State := { s with dev := { s.dev with locks := aput n core s.dev.locks } }
def State.freeLock (s : State) (n : Nat) : State := { s with dev := { s.dev with locks := adel n s.dev.locks } }

/-- Whether delivery may hand out an event: it names no queue, or the lock of its queue is free (R72). -/
def State.deliverable (s : State) (e : W64) : Bool :=
  !s.dev.suspended &&
    match evQueue e with
    | none => true
    | some q => (s.lockHolder (lockOfQueue q)).isNone

/-! ## The directory (R64) -/

def State.dirKey (s : State) (q : Nat) : Nat := s.dev.qdir + 64 * q

/-- A field of a queue's entry. -/
def State.dirU (s : State) (q off n : Nat) : Nat := readLE s.mem (s.dirKey q + off) n

def State.setDir (s : State) (q off n v : Nat) : State := s.writeDev (s.dirKey q + off) (leBytes n v)

def State.qOwner (s : State) (q : Nat) : Nat := s.dirU q 12 2
def State.qFlags (s : State) (q : Nat) : Nat := s.dirU q 14 2
def State.qFlag (s : State) (q bit : Nat) : Bool := (s.qFlags q).testBit bit
def State.qSize (s : State) (q : Nat) : Nat := max 1 (s.dirU q 8 4)
def State.qWrite (s : State) (q : Nat) : Nat := s.dirU q 16 8
def State.qRead (s : State) (q : Nat) : Nat := s.dirU q 24 8
def State.qRetire (s : State) (q : Nat) : Nat := s.dirU q 32 8

/-- A flag of a queue's entry set or cleared. -/
def State.setFlag (s : State) (q bit : Nat) (on : Bool) : State :=
  let f := s.qFlags q
  let without := if f.testBit bit then f - 2 ^ bit else f
  s.setDir q 14 2 (if on then without + 2 ^ bit else without)

/-- Address of packet i under the owner ASID. -/
def State.slotVa (s : State) (q i : Nat) : Nat := s.dirU q 0 7 + 64 * (i % s.qSize q)

/-- Whether a queue's entry has a nonzero reserved field (R13, R64). -/
def State.dirBad (s : State) (q : Nat) : Bool :=
  decide (s.dirU q 7 1 ≠ 0) || decide (32 ≤ s.qFlags q) || decide (s.dirU q 48 16 ≠ 0)

/-- The stopped flag set and the index recorded (R64, R67). -/
def State.stopQueue (s : State) (q i : Nat) : State := (s.setFlag q 3 true).setDir q 40 8 i

/-- The same after a packet's error: the queue then awaits a new submission too (R67). -/
def State.haltQueue (s : State) (q i : Nat) : State :=
  let s := s.stopQueue q i
  { s with dev := { s.dev with halted := (q :: s.dev.halted).eraseDups } }

/-- A queue announced again, its stopped flag clear, may start packets (R67). -/
def State.unhalt (s : State) (q : Nat) : State :=
  if s.qFlag q 3 then s else { s with dev := { s.dev with halted := s.dev.halted.filter (· ≠ q) } }

/-- A submission (R68), or a store to a wake register (R70). -/
def State.postWake (s : State) (q idx : Nat) : State := (s.unhalt q).enterWake q idx

/-! ## Packets -/

def Packet.u (p : Packet) (off n : Nat) : Nat := leNat ((p.bytes.drop off).take n)

/-- The barrier bit, and signal on completion (R65). -/
def Packet.barred (p : Packet) : Bool := (p.u 1 1).testBit 0
def Packet.signals (p : Packet) : Bool := (p.u 1 1).testBit 1

def State.packet? (s : State) (q i : Nat) : Option Packet := s.dev.packets.find? fun p => p.queue = q && p.index = i

/-- Signal addresses of a BARRIER packet (R66). -/
def Packet.barrierAddrs (p : Packet) : List Nat := (List.range (p.u 8 4 / 2 % 8)).map fun k => p.u (16 + 8 * k) 8

/-! ## Signals (R75) -/

/-- Queues with a BARRIER packet that waits on the signal at a physical address. -/
def State.barrierQueues (s : State) (pa : Nat) : List Nat :=
  ((s.dev.packets.filter fun p =>
    p.kind = 7 && p.barrierAddrs.any fun a => s.place (s.qOwner p.queue) a = some (.dev pa)).map (·.queue)).eraseDups

/-- A vector posted to a Steppe core; its local interrupt file gets it later (R282). -/
def State.postVector (s : State) (core vector : Nat) : State :=
  { s with dev := { s.dev with msis := s.dev.msis ++ [(core, vector, s.tick)] } }

/-- Steps 2 and 3 of an update that changed a signal's value (R75). DESIGN CHOICE (log 80): the event names the
queue whose BARRIER packet waits longest, and no queue where none waits. -/
def State.signalChange (s : State) (pa : Nat) (new : W64) : State :=
  let d := n64 (readLE s.mem (pa + 8) 8)
  let s := if b64 d 0 && (!b64 d 16 || decide (new.toInt ≤ 0)) then s.postVector (f64 d 1 3) (f64 d 8 8) else s
  if b64 d 17 then s.postSignalEvent pa (s.barrierQueues pa).head? else s

/-- Whether the descriptor of a signal has a nonzero reserved field (R13, R75). Bits [7:4] of its second word stand in
no field of R75: what they hold is ignored (DESIGN CHOICE, log 80). -/
def State.signalBad (s : State) : Loc → Bool
  | .dev pa => decide (2 ^ 18 ≤ readLE s.mem (pa + 8) 8)
  | _ => false

/-- A signal's value updated in device memory: unchanged, it posts nothing (R75). -/
def State.signalUpdate (s : State) (pa : Nat) (f : W64 → W64) : State :=
  let old := n64 (readLE s.mem pa 8)
  let new := f old
  let s := s.storeBytes (.dev pa) (leBytes 8 new.toNat) 1
  if new = old then s else s.signalChange pa new

/-- The place of a signal that the pool may update under an ASID: 16-byte aligned, writable, on the device. -/
def State.signalPlace (s : State) (asid va : Nat) : Option Nat :=
  if va % 16 ≠ 0 then none
  else
    match walkTable s.mem (s.asidRoot asid) va with
    | some (pte, level, _) =>
      if leafGrants pte .store false then
        match leafLoc pte (2 ^ levelShift level) va with
        | .dev pa => some pa
        | _ => none
      else none
    | none => none

/-- The leaf of an address marked accessed and dirty before the pool stores through it (R205). -/
def State.dirtyVa (s : State) (asid va : Nat) : State :=
  match walkTable s.mem (s.asidRoot asid) va with
  | some (pte, _, at_) => if b64 pte 6 && b64 pte 7 then s else s.markLeaf at_ true
  | none => s

/-- An update by the pool. DESIGN CHOICE (log 80): a completion signal at a place where the pool can update
none is skipped. -/
def State.poolSignal (s : State) (asid va : Nat) (f : W64 → W64) : State :=
  match s.signalPlace asid va with
  | some pa => (s.dirtyVa asid va).signalUpdate pa f
  | none => s

/-- The value of a signal as the pool reads it. -/
def State.signalValue (s : State) (asid va : Nat) : Option W64 := (s.readVa asid va 8).map n64

/-! ## Mapping (R73) -/

/-- Whether a packet has been read and has not started. -/
def State.unstarted (s : State) (p : Packet) : Bool := decide (s.qRead p.queue ≤ p.index)

/-- Whether a mapped queue may give up its slot: no started, incomplete packet, and its lock is free. -/
def State.canUnmap (s : State) (q : Nat) : Bool :=
  (s.dev.packets.all fun p => p.queue ≠ q || s.unstarted p) && (s.lockHolder (lockOfQueue q)).isNone

/-- Whether a packet of a queue may start: the queue registered and mapped, not stopped, its lock free and
events delivered (R64, R67, R73, R78). -/
def State.mayStart (s : State) (q : Nat) : Bool :=
  decide (q < 4096) && s.qFlag q 0 && s.dev.mapped.contains q && !s.qFlag q 3 && !s.dev.halted.contains q &&
    (s.lockHolder (lockOfQueue q)).isNone && !s.dev.suspended

/-- A queue takes a slot it can take: its flag, its place as the latest served. -/
def State.takeSlot (s : State) (q : Nat) : State :=
  let s := { s with dev := { s.dev with mapped := s.dev.mapped.filter (· ≠ q) ++ [q] } }
  (s.setFlag q 1 true).setFlag q 2 false

/-- A queue is unmapped. DESIGN CHOICE (log 80): with packets available that have not started it keeps a wake
pending, so that no wake is lost (R74). -/
def State.unmap (s : State) (q : Nat) : State :=
  let s := ({ s with dev := { s.dev with mapped := s.dev.mapped.filter (· ≠ q) } }).setFlag q 1 false
  if s.qRead q < s.qWrite q then s.setFlag q 2 true else s

/-- A queue mapped on demand; with no slot to take, its wake-pending flag is set. -/
def State.mapQueue (s : State) (q : Nat) : State :=
  if s.dev.mapped.contains q || s.dev.mapped.length < 1024 then s.takeSlot q
  else
    match s.dev.mapped.find? s.canUnmap with
    | some old => (s.unmap old).takeSlot q
    | none => s.setFlag q 2 true

/-- The next queue with a pending wake after one, wrapping round (R73). It is counted from the queue whose slot is
taken, which the spec does not say (DESIGN CHOICE, log 80). -/
def State.pendingAfter (s : State) (q : Nat) : Option Nat :=
  ((List.range 4096).map fun k => (q + 1 + k) % 4096).find? fun n => s.qFlag n 0 && s.qFlag n 2

/-- A slot that may be taken again goes to the next queue with a pending wake. -/
def State.remap (s : State) : State :=
  if s.dev.mapped.length < 1024 then s
  else
    match s.dev.mapped.find? s.canUnmap with
    | none => s
    | some old =>
      match s.pendingAfter old with
      | some q => (s.unmap old).takeSlot q
      | none => s

/-! ## Starting and completing (R67) -/

/-- A packet has started: the read index passes it. -/
def State.startPacket (s : State) (q i : Nat) : State := if s.qRead q ≤ i then s.setDir q 24 8 (i + 1) else s

/-- The retire index: the lowest packet not yet completed (R64). -/
def State.retirePackets (s : State) (q : Nat) : State :=
  let open_ := (s.dev.packets.filter fun p => p.queue = q).map (·.index)
  s.setDir q 32 8 (open_.foldl min (s.qRead q))

/-- A packet completes: the status, then the completion signal's add, both under the owner ASID; a status
of 0x8001 or above stops the queue (R67). The pool is told of completed work (R71): that the event's argument is the
packet's index, and that it names the queue, is the model's (DESIGN CHOICE, log 64). -/
def State.complete (s : State) (q i status : Nat) : State :=
  match s.packet? q i with
  | none => s
  | some p =>
    let asid := s.qOwner q
    let s := s.writeVa asid (s.slotVa q i + 2) 2 status
    let s := if p.signals then s.poolSignal asid (p.u 48 8) fun v => v + n64 (p.u 56 8) else s
    let s := { s with dev := { s.dev with packets := s.dev.packets.filter fun x => !(x.queue = q && x.index = i) } }
    let s := (s.startPacket q i).retirePackets q
    let s := if 0x8001 ≤ status then s.haltQueue q i else s
    (s.postEvent 3 i (some q)).remap

end Sys2Proof.Machine
end

