-- ==== Sys2Proof/Machine/Placement.lean ====
section
/-! DEFINITION. What quotations hold (R91, R103, R104) and where the walker places a launch (R105, R106,
R109, R315, R316). -/

namespace Sys2Proof.Machine

/-! ## What is held -/

/-- A quotation that holds resources (R89). -/
def Quote.holds (q : Quote) : Bool := decide (1 ≤ q.state) && decide (q.state ≤ 4)

/-- A launch set aside for pre-emption holds its partitions no longer than its gangs (R290, R291). -/
def State.setAside (s : State) (qid : Nat) : Bool :=
  match s.launchOf qid with
  | some (_, l) => l.phase = .stopping || l.phase = .saved
  | none => false

/-- A running elastic launch, whose partitions a firm request may count as free (R93). -/
def State.runsElastic (s : State) (qid : Nat) : Bool :=
  match s.quote? qid, s.launchOf qid with
  | some q, some (_, l) => q.cls = 1 && q.state = 4 && l.phase = .running
  | _, _ => false

/-- Whether a quotation's claim counts, for a request that may or may not pre-empt. -/
def State.claimCounts (s : State) (preempts : Bool) (q : Quote) : Bool :=
  q.holds && !s.setAside q.id && !(preempts && s.runsElastic q.id)

/-- Partitions of a core that a quotation claims. -/
def Quote.partsOn (q : Quote) (core : Nat) : List Nat := (afind core q.cores).getD []

/-- The partition of a core that its cluster's service gang occupies (R103). -/
def servicePart (core : Nat) : Option Nat := if core / 16 % 2 = 0 ∧ core % 2 = 0 then some 15 else none

def CoreSt.part (c : CoreSt) (p : Nat) : Part := if h : p < 16 then c.parts[p] else Part.empty

/-- Whether a partition is free for a request (R103). -/
def State.freePart (s : State) (preempts : Bool) (core p : Nat) : Bool :=
  servicePart core ≠ some p &&
    (match ((s.core core).part p).qid with
     | some q => preempts && s.runsElastic q
     | none => true) &&
    !(s.quotes.any fun q => s.claimCounts preempts q && (q.partsOn core).contains p)

def State.freeParts (s : State) (preempts : Bool) (core : Nat) : List Nat :=
  (List.range 16).filter fun p => s.freePart preempts core p

/-- Whether the matrix engine of a core is free (R91). -/
def State.engineFree (s : State) (preempts : Bool) (core : Nat) : Bool :=
  !(s.quotes.any fun q => s.claimCounts preempts q && ((q.kernel.map (·.hasMatrix)).getD false) && q.partsOn core ≠ [])

/-- Gangs of a block on one core of its slot (R106). -/
def BlockSlot.gangsOn (b : BlockSlot) (gangs perPart core : Nat) : Nat :=
  let parts := b.cores.flatMap fun (c, ps) => ps.map fun _ => c
  ((List.range gangs).filter fun j => parts[j / max 1 perPart]? = some core).length

/-- ⌈g / p_b⌉: gangs of one partition (R106). -/
def Kernel.perPart (k : Kernel) (gangs : Nat) : Nat := ceilDiv gangs (max 1 (k.perBlock gangs))

/-- A length rounded up to a multiple of 64. -/
def up64 (n : Nat) : Nat := ceilDiv n 64 * 64

/-- Bytes of slice storage a slot takes on a core: the scratch and the queue storage of its gangs (R104). -/
def Kernel.areaBytes (k : Kernel) (x : Shape) (b : BlockSlot) (core : Nat) : Nat :=
  let g := k.blockGangs x
  up64 k.scratch + b.gangsOn g (k.perPart g) core * k.gangStore

/-- Slice storage in use on a core: start and bytes (R316). A pre-empted launch keeps its own (R291); a
spawned gang's queues stand in storage of their own. -/
def State.areasOn (s : State) (core : Nat) : List (Nat × Nat) :=
  ((s.gangs ++ s.launches.flatMap fun (_, l) => l.saved).filterMap fun (g, x) =>
    if gangCore g = core && x.origin = .spawned then some (x.store, x.storeBytes) else none) ++
  (s.quotes.filter Quote.holds).flatMap fun q =>
    match q.kernel with
    | none => []
    | some k => q.slots.filterMap fun b => (afind core b.bases).map fun base => (base, k.areaBytes q.shape b core)

/-- The lowest place for `n` bytes, a multiple of 64, clear of what is in use, of the reserved top and of
core 0's firmware region (R316). -/
def fitArea (core n : Nat) (used : List (Nat × Nat)) : Option Nat :=
  let low := if core = 0 then 0x10000 else 0
  let clear (o : Nat) : Bool := used.all fun (b, l) => decide (o + n ≤ b) || decide (b + l ≤ o) || decide (l = 0)
  let starts := low :: (used.map fun (b, l) => max low (up64 (b + l)))
  ((starts.filter fun o => clear o && decide (o + n ≤ grantBase)).min?)

/-- Grants held and not yet written on a core: all, and those of an ASID (R104). -/
def State.heldGrants (s : State) (core : Nat) (asid : Option Nat) : Nat :=
  ((s.quotes.filter fun q => decide (1 ≤ q.state) && decide (q.state ≤ 3)).map fun q =>
    if (asid = none || asid = some q.asid) && decide (0 < (q.kernel.map (·.scratch)).getD 0) then
      (q.slots.filter fun b => b.cores.any fun (c, _) => c = core).length
    else 0).sum

/-- Valid grants of a slice that name an ASID (R202). -/
def grantsOf (mem : List Host.Cell) (core asid : Nat) : Nat :=
  ((grantEntries mem core).filter fun i => readLE mem (sliceKey core (grantBase + 16 * i) + 8) 2 = asid).length

/-- Whether a slice's grant table takes one more scratch grant beside `n` of the same placement (R104). -/
def State.grantRoom (s : State) (k : Kernel) (core asid n : Nat) : Bool :=
  decide (k.scratch = 0) ||
    (decide ((grantEntries s.mem core).length + s.heldGrants core none + n < 1024) &&
      decide (grantsOf s.mem core asid + s.heldGrants core (some asid) + n < 16))

/-- Whether a core's instruction cache takes the code (R116): 224 KiB of locked lines, those of every
quotation that holds partitions of the core included, whose code its launch will lock. -/
def State.codeRoom (s : State) (w : Kernel × Nat) (core : Nat) : Bool :=
  let held := (s.quotes.filter fun q => q.holds && q.partsOn core ≠ []).filterMap fun q => q.kernel.map fun k => (q.asid, k)
  let open_ := (s.launches.filter fun (_, l) => l.slots.any fun b => b.cores.any fun (c, _) => c = core).map
    fun (_, l) => (l.asid, l.kernel)
  decide (codeLines (held ++ open_ ++ [(w.2, w.1)]) ≤ 3584)

/-! ## A request -/

/-- What a placement is sought for. -/
structure Want where
  k : Kernel
  asid : Nat
  shape : Shape
  preempts : Bool

def Want.gangs (w : Want) : Nat := w.k.blockGangs w.shape
def Want.perBlock (w : Want) : Nat := w.k.perBlock w.gangs
def Want.perPart (w : Want) : Nat := w.k.perPart w.gangs

/-- Blocks of the launch: the product of the extents of levels 2 to 5 (R87). -/
def Shape.blocks (x : Shape) : Nat := x.extent 2 * x.extent 3 * x.extent 4 * x.extent 5

/-- What a placement has taken: slots, and the rectangles of neighbourhoods. -/
structure Taken where
  slots : List BlockSlot
  boxes : List (List Nat)

/-- Partitions of a core that a placement has not taken. -/
def State.left (s : State) (w : Want) (t : Taken) (core : Nat) : List Nat :=
  if s.present core && s.codeRoom (w.k, w.asid) core && (!w.k.hasMatrix || s.engineFree w.preempts core) then
    let used := t.slots.flatMap fun b => (afind core b.cores).getD []
    (s.freeParts w.preempts core).filter fun p => !used.contains p
  else []

/-- The base of one more slot's region on a core, if the core can take it (R104, R316). -/
def State.areaFor (s : State) (w : Want) (t : Taken) (b : BlockSlot) (core : Nat) : Option Nat :=
  let mine := t.slots.filterMap fun x => (afind core x.bases).map fun base => (base, w.k.areaBytes w.shape x core)
  if s.grantRoom w.k core w.asid mine.length then
    fitArea core (w.k.areaBytes w.shape b core) (s.areasOn core ++ mine)
  else none

/-- A slot over the partitions given, with its regions; none where a core cannot take it. -/
def State.slotOver (s : State) (w : Want) (t : Taken) (cores : List (Nat × List Nat)) : Option BlockSlot :=
  let b : BlockSlot := { cores := cores, bases := [], block := none, last := none }
  let bases := cores.map fun (c, _) => (s.areaFor w t b c).map fun o => (c, o)
  if bases.all Option.isSome then some { b with bases := bases.filterMap id } else none

/-- One more slot taken. -/
def Taken.add (t : Taken) (b : BlockSlot) : Taken := { t with slots := t.slots ++ [b] }

/-! ## A plain launch (R105) -/

/-- Slots of at most 16 partitions formed on one core. -/
def State.slotsOn (s : State) (w : Want) (core top : Nat) : Nat → Taken → Taken
  | 0, t => t
  | fuel + 1, t =>
    let free := s.left w t core
    if top ≤ t.slots.length || free.length < w.perBlock then t
    else
      match s.slotOver w t [(core, free.take w.perBlock)] with
      | some b => s.slotsOn w core top fuel (t.add b)
      | none => t

/-- The run of adjacent cores from a first one that gives `n` partitions. -/
def State.runFrom (s : State) (w : Want) (t : Taken) (row : Nat) : Nat → Nat → Nat → Option (List (Nat × List Nat))
  | 0, _, _ => none
  | fuel + 1, core, n =>
    let free := s.left w t core
    if core / 16 ≠ row || free = [] then none
    else if n ≤ free.length then some [(core, free.take n)]
    else (s.runFrom w t row fuel (core + 1) (n - free.length)).map fun r => (core, free) :: r

/-- Slots of more than 16 partitions, by their first core. -/
def State.runSlots (s : State) (w : Want) (top : Nat) (t : Taken) (core : Nat) : Taken :=
  if top ≤ t.slots.length then t
  else
    match (s.runFrom w t (core / 16) 16 core w.perBlock).bind (s.slotOver w t) with
    | some b => t.add b
    | none => t

def State.placePlain (s : State) (w : Want) : Taken :=
  let top := w.shape.blocks
  let none_ : Taken := { slots := [], boxes := [] }
  if w.perBlock ≤ 16 then (List.range 192).foldl (fun t c => s.slotsOn w c top 16 t) none_
  else (List.range 192).foldl (fun t c => s.runSlots w top t c) none_

/-! ## Neighbourhoods (R109) -/

/-- The rectangle of n blocks: the smallest area, then the smaller w + h, then the larger w. -/
def rectOf (n : Nat) : Nat × Nat :=
  let all := (List.range 16).flatMap fun w => (List.range 12).map fun h => (w + 1, h + 1)
  let key (r : Nat × Nat) : Nat := r.1 * r.2 * 1024 + (r.1 + r.2) * 32 + (16 - r.1)
  (all.filter fun r => decide (n ≤ r.1 * r.2)).foldl (fun m r => if key r < key m then r else m) (16, 12)

/-- Cores of a rectangle in row-major order; none where it leaves the mesh. -/
def boxCores (corner : Nat) (r : Nat × Nat) : Option (List Nat) :=
  if corner % 16 + r.1 ≤ 16 ∧ corner / 16 + r.2 ≤ 12 then
    some ((List.range (r.1 * r.2)).map fun i => corner + i / r.1 * 16 + i % r.1)
  else none

/-- A neighbourhood's slots over the first cores of a rectangle. -/
def State.slotsOver (s : State) (w : Want) (t : Taken) : List Nat → Option Taken
  | [] => some t
  | c :: r =>
    let free := s.left w t c
    if free.length < w.perBlock then none
    else
      match s.slotOver w t [(c, free.take w.perBlock)] with
      | some b => s.slotsOver w (t.add b) r
      | none => none

def State.placeBox (s : State) (w : Want) (n : Nat) (r : Nat × Nat) (t : Taken) (corner : Nat) : Taken :=
  if w.shape.blocks ≤ t.slots.length then t
  else
    match boxCores corner r with
    | none => t
    | some cs =>
      if t.boxes.any fun b => b.any cs.contains then t
      else
        match s.slotsOver w t (cs.take n) with
        | some u => { u with boxes := cs :: u.boxes }
        | none => t

def State.placeNear (s : State) (w : Want) : Taken :=
  let n := w.shape.extent 2
  let none_ : Taken := { slots := [], boxes := [] }
  if 16 < w.perBlock then none_ else (List.range 192).foldl (s.placeBox w n (rectOf n)) none_

/-! ## A standing quotation (R264, R315) -/

/-- The rectangle a standing request names: top-left core, width, height. -/
def Shape.standing (x : Shape) : Nat × Nat × Nat :=
  let r := x.ext.getD 2 0
  (r % 256, r / 256 % 256, r / 65536 % 256)

/-- The k storage slots of one core, over its lowest free partition. -/
def State.storageOn (s : State) (w : Want) (core p : Nat) : Nat → Taken → Option Taken
  | 0, t => some t
  | n + 1, t =>
    match s.slotOver w t [(core, [p])] with
    | some b => s.storageOn w core p n (t.add b)
    | none => none

def State.placeStanding (s : State) (w : Want) : Taken :=
  let (corner, wd, ht) := w.shape.standing
  let none_ : Taken := { slots := [], boxes := [] }
  match boxCores corner (wd, ht) with
  | none => none_
  | some cs =>
    let step (t : Option Taken) (c : Nat) : Option Taken :=
      t.bind fun t => (s.left w t c).head?.bind fun p => s.storageOn w c p w.k.fit t
    (cs.foldl step (some none_)).getD none_

/-! ## The placement -/

/-- A placement: the slots, and the rectangle its hops are charged over (R84). -/
structure Placed where
  slots : List BlockSlot
  rect : Nat × Nat

def State.place? (s : State) (w : Want) : Placed :=
  if w.k.watch then
    let (_, wd, ht) := w.shape.standing
    { slots := (s.placeStanding w).slots, rect := (wd, ht) }
  else if w.shape.neighbour then { slots := (s.placeNear w).slots, rect := rectOf (w.shape.extent 2) }
  else { slots := (s.placePlain w).slots, rect := (1, 1) }

/-- Cores with the partitions taken there, ascending. -/
def heldCores (bs : List BlockSlot) : List (Nat × List Nat) :=
  (bs.flatMap (·.cores)).foldl (fun m (c, ps) => aput c ((((afind c m).getD []) ++ ps).eraseDups) m) []

end Sys2Proof.Machine
end

