-- ==== Sys2Proof/Machine/Quotes.lean ====
section
/-! DEFINITION. Quotations: the request and the walk (R81, R87–R95), acceptance, decline and expiry (R90,
R96, R97), `quote.actual` (R98). -/

namespace Sys2Proof.Machine

/-! ## Figures (R87, R93) -/

/-- Cores that a placement holds; those of R89 where there is none. -/
def Want.coreCount (w : Want) (p : Placed) : Nat :=
  if w.k.watch then p.rect.1 * p.rect.2
  else if p.slots = [] then ceilDiv w.perBlock 16
  else (heldCores p.slots).length

/-- Partitions on each core of a placement. -/
def Want.partCounts (w : Want) (p : Placed) : List Nat :=
  if p.slots = [] then [min w.perBlock 16] else (heldCores p.slots).map fun (_, ps) => ps.length

/-- Threads of a gang: the level-0 extent, 32 for a watch kernel (R315). -/
def Want.threads (w : Want) : Nat := if w.k.watch then 32 else w.shape.extent 0

/-- Blocks: one for a watch kernel. -/
def Want.blocks (w : Want) : Nat := if w.k.watch then 1 else w.shape.blocks

/-- Other gangs of the launch that the placement can put on one core (R84, R93). -/
def Want.peers (w : Want) (p : Placed) : Nat :=
  if w.k.watch then w.k.fit - 1
  else min ((w.partCounts p).foldl max 0 * w.perPart) (w.blocks * w.gangs) - 1

/-- The rates of a placement with the channels present (R83, R84, R297). -/
def Want.rates (w : Want) (p : Placed) (channels : Nat) : Rates :=
  let c := max 1 (w.coreCount p)
  { line := 700 + ceilDiv 36864 (max 1 channels * c), gran := ceilDiv 4 c,
    q := if w.k.watch then 256 else min 256 (w.threads * w.gangs * w.blocks),
    hn := p.rect.1 - 1 + (p.rect.2 - 1), narrow := decide (w.threads ≤ 16), l0 := w.threads,
    parts := ((w.partCounts p).min?).getD 1, copyExtra := 0, holdExtra := 0, streams := [],
    tileWork := [], sharedWork := 0 }

/-- The bounds of a walk and its retry allowance (R87). -/
structure Figures where
  tmax : Nat
  emax : Nat
  retry : Nat

/-- 64-byte lines of code beyond 64 KiB (R84). -/
def Kernel.farLines (k : Kernel) : Nat := ceilDiv (4 * (k.laneCode.length + k.condCode.length) - 65536) 64

/-- The bounds of R87, or of R93 for a watch kernel. -/
def Want.figures (w : Want) (p : Placed) (r : Rates) (c : Priced) : Figures :=
  let n := w.coreCount p
  let gangPJ := c.pJ + c.kidsAll * c.kidPJ
  if w.k.watch then
    let a := ceilDiv c.gang 128
    { tmax := clkToNs (c.gang + a), retry := a, emax := pJToNJ (w.k.budget * gangPJ + 455 * n * w.k.window) }
  else
    let waves := ceilDiv w.blocks (max 1 p.slots.length)
    let bound := waves * w.perPart * c.gang + c.kids * c.kidClk
    let a := ceilDiv bound 128 + 110 * c.comms
    let far := w.k.farLines
    let t := 3300 + bound + 1100 + a + far * r.line
    { tmax := clkToNs t, retry := a,
      emax := pJToNJ (2000000 + w.blocks * w.gangs * gangPJ + 455 * n * t + far * 2560) }

/-! ## Admission (R91, R92) -/

/-- Mean power of a quotation as nJ over ns (R92). -/
def Quote.power (q : Quote) : Nat × Nat :=
  let ns := if q.cls = 2 then clkToNs ((q.kernel.map (·.window)).getD 0) else q.tmax
  (q.emax, max 1 ns)

/-- Present cores that hold no reserved partition. -/
def State.idleCores (s : State) : Nat :=
  ((List.range 192).filter fun c => s.present c &&
    !(s.quotes.any fun q => q.holds && !s.setAside q.id && q.partsOn c ≠ []) &&
    !(((s.core c).parts.toList).any fun p => p.qid.isSome)).length

/-- Whether the quotations in states 1–4 fit an envelope in W (R92). -/
def State.powerFits (s : State) (envelope : Nat) : Bool :=
  let fixed := 120 + s.idleCores
  let (num, den) := (s.quotes.filter Quote.holds).foldl (fun (a : Nat × Nat) q =>
    let (e, t) := q.power
    (a.1 * t + e * a.2, a.2 * t)) (0, 1)
  decide (fixed * den + 2 * num ≤ 2 * envelope * den)

/-- The lowest service-gang stream that no quotation holds (R241). -/
def State.freeStream (s : State) : Option Nat :=
  (List.range 31).find? fun n => !(s.quotes.any fun q => q.holds && q.stream = some n)

/-- Shares of 192 that other quotations leave (R91). -/
def State.sharesFit (s : State) (dev mesh : Nat) : Bool :=
  let held := s.quotes.filter Quote.holds
  decide ((held.map (·.devShare)).sum + dev ≤ 192) && decide ((held.map (·.meshShare)).sum + mesh ≤ 192)

/-! ## Packets that wait on a quotation (R66, R96) -/

/-- The status of a waiting packet once its quotation stands in a state; none while it waits on. -/
def Quote.packetStatus (q : Quote) (kind : Nat) : Option Nat :=
  if kind = 4 then
    if q.state = 2 || q.state = 3 || (q.state = 4 && q.cls ≠ 2) then none else some 0x8004
  else if q.state = 2 then none
  else if q.state = 3 || q.state = 4 then some 0x0001
  else some 0x8004

/-- Waiting packets completed as the state of their quotation gives. -/
def State.answer (s : State) (id : Nat) : State :=
  match s.quote? id with
  | none => s
  | some q =>
    let go := q.packets.filterMap fun (n, i, k) => (q.packetStatus k).map fun st => (n, i, st)
    let s := s.setQuote { q with packets := q.packets.filter fun (_, _, k) => (q.packetStatus k).isNone }
    go.foldl (fun s (n, i, st) => s.complete n i st) s

/-- A quotation changes its state: its record and the packets that wait on it follow. -/
def State.moveQuote (s : State) (q : Quote) (state : Nat) : State :=
  let q := if state = 3 || state = 2 then { q with state := state } else { q with state := state, pendingLaunch := none }
  (s.putQuote q).answer q.id

/-- A quotation expires (R90): a lapse from state 3 sets the caller and voids nothing else. -/
def State.expire (s : State) (q : Quote) : State :=
  s.moveQuote { q with party := if q.state = 3 ∧ q.party = 0 then 1 else q.party } 7

/-- Whether a quotation's deadline has passed while it still counts (R90). -/
def Quote.lapsed (q : Quote) (tick : Nat) : Bool :=
  decide (1 ≤ q.state) && decide (q.state ≤ 3) && decide (q.deadline ≤ tick)

/-! ## The request (R95) -/

/-- Whether an address is writable device memory under an ASID. -/
def State.writableUnder (s : State) (asid va : Nat) (user : Bool) : Bool :=
  match walkTable s.mem (s.asidRoot asid) va with
  | some (pte, level, _) =>
    leafGrants pte .store user && (match leafLoc pte (2 ^ levelShift level) va with | .dev _ => true | _ => false)
  | none => false

/-- Whether a quotation entry is free: fewer than 4,096 in states 0–4. -/
def State.entryFree (s : State) : Bool := decide ((s.quotes.filter fun q => q.state ≤ 4).length < 4096)

/-- The first record of a request: id, state 0, the class as requested, zero elsewhere (R88). -/
def State.firstRecord (s : State) (asid record id cls : Nat) : State :=
  ((s.writeVa asid record 64 0).writeVa asid record 4 id).writeVa asid (record + 6) 1 cls

/-- A request taken: the id, or a negative code (R94, R95). -/
def State.request (s : State) (asid object record : Nat) (shape : Shape) (validity : Nat) (auto user : Bool) : Int × State :=
  if object % 64 ≠ 0 then (-6, s)
  else if record % 64 ≠ 0 || !s.writableUnder asid record user then (-2, s)
  else if !s.entryFree then (-1, s)
  else
    let id := s.nextQid
    let cls := if shape.elastic then 1 else 0
    let q : Quote :=
      { id := id, record := record, asid := asid, state := 0, cls := cls, party := 0, diag := 0, object := object,
        shape := shape, validity := if validity = 0 then 55000 else validity, deadline := 0, tmax := 0, emax := 0,
        cores := [], perCore := 0, devShare := 0, meshShare := 0, retry := 0, actT := 0, actE := 0, auto := auto,
        voided := false, kernel := none, slots := [], rect := (1, 1), stream := none, packets := [],
        pendingLaunch := none, accepted := 0, envelope := s.dev.envelope, window := (0, 0) }
    let s := { s with quotes := s.quotes ++ [q], nextQid := id % 0xFFFFFFFF + 1, walkQueue := s.walkQueue ++ [id] }
    (id, s.firstRecord asid record id cls)

/-- `quote.req` (R95). -/
def execQuoteReq (d : GDst) (p : Fin 192) (s : State) : Out :=
  groupInstr (.quoteReq d p) s fun a s =>
    let r (j : Nat) : W64 := (s.ctx a).reg (p.val + j)
    let w := r 2
    let v := f64 w 32 32
    if f64 w 18 14 ≠ 0 || 5500000 < v then s.groupFault a 0x02 w
    else
      let shape : Shape :=
        { ext := [f64 w 0 8, f64 w 8 8, f64 (r 3) 0 32, f64 (r 3) 32 32], elastic := b64 w 16, neighbour := b64 w 17 }
      let (n, s) := s.request (s.asidOf a) (r 0).toNat (r 1).toNat shape v false (s.levelOf a = .u)
      s.groupResult a 1 (dstG d) (w64 n) 24

/-! ## The walk (R81) -/

/-- The kernel and shape for which a placement is sought. -/
def Quote.want (q : Quote) (k : Kernel) : Want := { k := k, asid := q.asid, shape := q.shape, preempts := false }

/-- The object read and validated, or its rejection (R33). -/
def State.examine (s : State) (q : Quote) : Except Finding Valid :=
  match s.readObject q.asid q.object q.shape.elastic with
  | .error f => .error f
  | .ok o =>
    let v := o.prog.valid
    match firstFinding (v.findings q.shape) with
    | some f => .error f
    | none => .ok v

/-- The bytes of an object that can be read under the requester's ASID, and whether they are all that its
length names. -/
def State.objectSeen (s : State) (q : Quote) : List Byte × Bool :=
  let read (n : Nat) : List Byte × Bool :=
    match s.readSpace q.asid q.object n with
    | .ok bs => (bs, true)
    | .error k =>
      match s.readSpace q.asid q.object k with
      | .ok bs => (bs, false)
      | .error _ => ([], false)
  match s.readSpace q.asid q.object 128 with
  | .error _ => read 128
  | .ok h => read (max 128 (leNat ((h.drop 8).take 8)))

/-- The cached walk of a request, a rejection too, if its object stands unchanged (R34). The cache is kept by
the requester's ASID beside the object's address and the shape, because an address names an object only
under an ASID (log 72). -/
def State.cachedWalk (s : State) (q : Quote) : Option Walk :=
  (s.walks.find? fun w => w.object = q.object && w.asid = q.asid && w.shape = q.shape).filter
    fun w => s.objectSeen q = (w.bytes, w.whole)

/-- Instruction words of an object's sections. -/
def State.objectWords (s : State) (q : Quote) : Nat :=
  match s.readSpace q.asid q.object 128 with
  | .error _ => 0
  | .ok h => leNat ((h.drop 60).take 4) + leNat ((h.drop 68).take 4)

/-- Whether a QUOTE packet may start now (R67, R73). -/
def State.mayWalk (s : State) (id : Nat) : Bool :=
  match s.quote? id with
  | none => true
  | some q => q.packets.all fun (n, _, k) => k ≠ 1 || s.mayStart n

/-- A free engine takes the oldest request, validates the object and notes by when the walk ends. -/
def execQuoteWalkStart (s : State) : Out :=
  match s.walkQueue.find? s.mayWalk, decide (s.walking.length < 4) with
  | some id, true =>
    match s.quote? id with
    | none => .next { s with walkQueue := s.walkQueue.erase id }
    | some q =>
      let cached := (s.cachedWalk q).isSome
      let limit := s.tick + 2200 + if cached then 0 else s.objectWords q
      let s := (q.packets.filter fun (_, _, k) => k = 1).foldl (fun s (n, i, _) => s.startPacket n i) s
      let s := { s with walkQueue := s.walkQueue.erase id, walking := s.walking ++ [(id, limit)] }
      match cached, s.examine q with
      | false, .error (off, code) =>
        .next ({ s with refused := s.refused ++ [(id, s.objectSeen q)] }.setQuote { q with diag := code, tmax := off })
      | _, _ => .next s
  | _, _ => .next s

/-- The walk's figures in the record: bytes [6:63], then the status (R88). -/
def State.writeRecord (s : State) (q : Quote) : State :=
  let cores := q.cores.length + 65536 * q.perCore + 2 ^ 32 * q.devShare + 2 ^ 48 * q.meshShare
  let v (off n x : Nat) (s : State) : State := s.writeVa q.asid (q.record + off) n x
  let s := v 6 1 q.cls (v 7 1 q.diag (v 8 8 q.tmax (v 16 8 q.emax (v 24 8 cores s))))
  let s := v 32 8 q.deadline (v 40 8 q.retry (v 48 8 0 (v 56 8 0 s)))
  v 4 2 q.status s

/-- The record of a walk whose C is not the cores it holds: a refused one (R89). -/
def State.writeCores (s : State) (q : Quote) (c : Nat) : State :=
  s.writeVa q.asid (q.record + 24) 2 c

/-- The placement of a request; a firm one that finds none counts running elastic launches as free (R93). -/
def State.seek (s : State) (w : Want) (firm : Bool) : Placed :=
  let p := s.place? w
  if p.slots = [] && firm then s.place? { w with preempts := true } else p

/-- A rejection: the code, and the offset in the T_max field (R33). -/
def WalkFound.reject (f : Finding) : WalkFound :=
  { diag := f.2, tmax := f.1, emax := 0, retry := 0, kernel := none, device := false, mesh := false }

/-- A walk of the object as it stands: validated, then priced for the placement it would have now (R81, R87).
That the points of a pre-emptible kernel stand too far apart names no item of the object: it is found after
every item, and reported at the latency field, offset 40 (log 62). -/
def State.freshWalk (s : State) (q : Quote) : WalkFound :=
  if q.diag ≠ 0 then .reject (q.tmax, q.diag)
  else
    match s.examine q with
    | .error f => .reject f
    | .ok v =>
      let w := q.want v.kernel
      let p := s.seek w (decide (q.shape.elastic = false ∧ w.k.watch = false))
      let r := w.rates p s.dev.channels
      if w.k.preempt && !v.spaced r (w.peers p) then .reject (40, 0x11)
      else if !w.k.extentsOk q.shape then .reject (16, 0x15)
      else
        let c := v.price r (w.peers p)
        let f := w.figures p r c
        { diag := 0, tmax := f.tmax, emax := f.emax, retry := f.retry, kernel := some w.k, device := c.device,
          mesh := c.mesh }

/-- The reservation sought for what a walk found, and the C of its record (R81, R88–R92): a hot die refuses
every new quotation (R304). -/
def State.reserve (s : State) (q : Quote) (f : WalkFound) : Quote × Nat :=
  let q := { q with deadline := s.tick + q.validity, diag := f.diag, tmax := f.tmax, emax := f.emax, retry := f.retry }
  match f.kernel with
  | none => ({ q with state := 8 }, 0)
  | some k =>
    let w := q.want k
    let q := { q with cls := if k.watch then 2 else q.cls }
    let p := s.seek w (decide (q.cls = 0))
    let n := w.coreCount p
    let q :=
      { q with
          kernel := some k, perCore := (w.partCounts p).foldl max 0, devShare := if f.device then n else 0
          meshShare := if f.mesh then n else 0, rect := p.rect }
    let stream := s.freeStream
    let held :=
      { q with state := 1, slots := p.slots, cores := heldCores p.slots, stream := if k.hasAtom then stream else none }
    if s.dev.hot then ({ q with state := 11 }, n)
    else if p.slots = [] || (k.hasAtom && stream.isNone) then ({ q with state := 9 }, n)
    else if !s.sharesFit q.devShare q.meshShare then ({ q with state := 10 }, n)
    else if !(s.setQuote held).powerFits q.envelope then ({ q with state := 11 }, n)
    else (held, n)

/-- Whether the flags of an object's bytes name a watch kernel (R16, R32), whatever else is amiss with it. -/
def flaggedWatch (bytes : List Byte) : Bool := (bytes.getD 6 0).getLsbD 2

/-- How a walk comes out: the quotation with its state, the C of its record, and what the cache keeps. A
cached walk gives its time and energy figures again, whatever placement the request finds (log 72). A rejection
found as the walk started stands for the bytes it was found in. -/
def State.walked (s : State) (q : Quote) : Quote × Nat × Walk :=
  let (f, bytes, whole) := match s.cachedWalk q with
    | some w => (w.found, w.bytes, w.whole)
    | none => (s.freshWalk q, (afind q.id s.refused).getD (s.objectSeen q))
  let (r, n) := s.reserve q f
  let r := if f.kernel.isNone && flaggedWatch bytes then { r with cls := 2 } else r
  (r, n, { object := q.object, asid := q.asid, shape := q.shape, bytes := bytes, whole := whole, found := f })

/-! ## Acceptance (R96) -/

/-- Pages of the pin set: number and whether they must be writable (R31, R96). -/
def Kernel.pinSet (k : Kernel) : List (Nat × Bool) :=
  let pages (base n : Nat) : List Nat := (List.range ((base + n - 1) / 65536 + 1 - base / 65536)).map (base / 65536 + ·)
  (pages k.object k.objectBytes).map (·, false) ++
    k.resident.flatMap fun (b, n, w) => (pages b n).map (·, w)

def State.isPinned (s : State) (asid : Nat) (p : Nat × Bool) : Bool :=
  s.pins.any fun (a, n, w) => a = asid && n = p.1 && (w || !p.2)

/-- Whether the operating system can pin a page (R31, R206): on the device, for user reads, and for writes
where the range says so. -/
def State.pinnable (s : State) (asid : Nat) (p : Nat × Bool) : Bool :=
  match walkTable s.mem (s.asidRoot asid) (p.1 * 65536) with
  | some (pte, level, _) =>
    leafGrants pte .load true && (!p.2 || leafGrants pte .store true) &&
      (match leafLoc pte (2 ^ levelShift level) (p.1 * 65536) with | .dev _ => true | _ => false)
  | none => false

/-- Keys of a slice range read zero. -/
def State.zeroSlice (s : State) (core off n : Nat) : State :=
  let lo := sliceKey core off
  { s with
      mem := s.mem.filter fun e => decide (e.1 < lo) || decide (lo + n ≤ e.1)
      flawed := cleansed lo n s.flawed }

/-- One read-write grant in the lowest free entry of a slice's table (R202). -/
def State.writeGrant (s : State) (core base n asid : Nat) : State :=
  let used := grantEntries s.mem core
  match (List.range 1024).find? fun i => !used.contains i with
  | none => s
  | some i =>
    s.pokeBytes (sliceKey core (grantBase + 16 * i)) (leBytes 4 base ++ leBytes 4 n ++ leBytes 2 asid ++ leBytes 6 7)

/-- The grant of a region cleared, as placement wrote it. -/
def State.clearGrant (s : State) (core base asid : Nat) : State :=
  (grantEntries s.mem core).foldl (fun s i =>
    let e := sliceKey core (grantBase + 16 * i)
    if readLE s.mem e 4 = base ∧ readLE s.mem (e + 8) 2 = asid then s.pokeLE e 16 0 else s) s

/-- The regions of a placement: core and base of each. -/
def slotBases (bs : List BlockSlot) : List (Nat × Nat) := bs.flatMap (·.bases)

/-- The partitions of a placement bear a quotation, or none. -/
def State.markParts (s : State) (cores : List (Nat × List Nat)) (qid : Option Nat) : State :=
  cores.foldl (fun s (c, ps) =>
    let x := s.core c
    let mark (v : Vector Part 16) (p : Nat) : Vector Part 16 :=
      if h : p < 16 then v.set p { v[p] with qid := qid } else v
    s.setCore c { x with parts := ps.foldl mark x.parts }) s

/-- A core's matrix engine as a launch's reservation of it begins (R148, R183, R192). -/
def CoreSt.freshEngine (c : CoreSt) : CoreSt :=
  { c with
      acc := c.acc.filter fun e => 65536 ≤ e.1
      invalid := c.invalid.filter (16 ≤ ·)
      mxSeq := 0
      banks := ([], [])
      bank := false
      baton := { holder := none, super := false, aside := none } }

/-- The resources of an accepted quotation become those of a launch: grants, partitions, engines (R107,
R202, R264). -/
def State.openLaunch (s : State) (q : Quote) (k : Kernel) (arg : W64) (packet : Option (Nat × Nat)) : Nat × State :=
  let l : Launch :=
    { qid := q.id, asid := q.asid, kernel := k, shape := q.shape, arg := arg, slots := q.slots, started := 0,
      rect := q.rect, groups := [], joining := [], stream := q.stream.getD 31, step := 0, stepStart := s.tick,
      stepEnded := none, pJ := if k.watch then 0 else k.farLines * 2560, start := s.tick, phase := .running, gone := 0, halt := 0, lost := 0, moved := 0, saved := [],
      savedTasks := [], savedMx := [], savedOps := [], copySeq := [], retries := 0, packet := packet }
  let id := s.nextLaunch
  let s := { s with launches := s.launches ++ [(id, l)], nextLaunch := id + 1 }
  let s := if k.scratch = 0 then s
    else (slotBases q.slots).foldl (fun s (c, base) => s.writeGrant c base (up64 k.scratch) q.asid) s
  let s := s.markParts q.cores (some q.id)
  let s := if k.hasMatrix then q.cores.foldl (fun s (c, _) => s.setCore c (s.core c).freshEngine) s else s
  (id, s)

/-- Running elastic launches that hold partitions a firm quotation needs are pre-empted whole (R93, R290). -/
def State.preemptFor (s : State) (q : Quote) : State :=
  let hit (l : Launch) : Bool := l.phase = .running && s.runsElastic l.qid &&
    (match s.quote? l.qid with
     | some e => q.cores.any fun (c, ps) => ps.any (e.partsOn c).contains
     | none => false)
  { s with launches := s.launches.map fun (id, l) => (id, if hit l then { l with phase := .stopping } else l) }

/-- An accepted quotation reaches state 3, or state 4 if it is standing (R93, R96). -/
def State.accepted (s : State) (q : Quote) : State :=
  match q.kernel with
  | none => s
  | some k =>
    if q.cls = 2 then
      let (_, s) := s.openLaunch q k 0 none
      let s := q.slots.foldl (fun s b => b.bases.foldl (fun s (c, base) =>
        s.zeroSlice c base (k.areaBytes q.shape b c)) s) s
      s.moveQuote { q with accepted := s.tick } 4
    else
      let s := if q.cls = 0 then s.preemptFor q else s
      s.moveQuote { q with accepted := s.tick } 3

/-- `quote.acc` on an id (R96, R274). -/
def State.accept (s : State) (asid id : Nat) : Int × State :=
  match s.quotes.find? fun q => q.id = id && q.asid = asid with
  | none => (-3, s)
  | some q =>
    if q.lapsed s.tick then (-5, s.expire q)
    else if q.state = 7 then (-5, s)
    else if q.state ≠ 1 || vectorBase s.dev.ctvb = 0 || s.dev.satb = 0 then (-4, s)
    else
      match q.kernel with
      | none => (-4, s)
      | some k =>
        if k.pinSet.all fun p => s.isPinned asid p then (0, s.accepted q)
        else (1, s.moveQuote q 2)

/-- The walk ends (R88): the record, the reservation, and the packets that asked. -/
def execQuoteWalkEnd (qid : Nat) (s : State) : Out :=
  match s.quote? qid with
  | none => .next s
  | some q =>
    if !s.walking.any (fun w => w.1 = qid) || q.state ≠ 0 then .next s
    else
      let (r, cores, mine) := s.walked q
      let s := { s with walking := s.walking.filter fun w => w.1 ≠ qid, refused := adel qid s.refused }
      let others := s.walks.filter fun w => !(w.object = q.object && w.asid = q.asid && w.shape = q.shape)
      let s := { s with walks := others ++ [mine] }
      let s := ((s.setQuote r).writeRecord r).writeCores r cores
      let asked := r.packets.filter fun (_, _, k) => k = 1
      if r.auto && r.state = 1 then
        let (n, s) := s.accept r.asid qid
        if n < 0 then .next (asked.foldl (fun s (p, i, _) => s.complete p i 0x8004) s) else .next s
      else
        let st := if r.state = 8 then 0x8002 else if r.auto then 0x8004 else 0x0001
        let s := s.setQuote { r with packets := r.packets.filter fun (_, _, k) => k ≠ 1 }
        .next (asked.foldl (fun s (p, i, _) => s.complete p i st) s)

/-- The operating system finishes or refuses pinning (R96); a page it cannot pin is a refusal. -/
def execPinDone (qid : Nat) (ok : Bool) (s : State) : Out :=
  match s.quote? qid with
  | none => .next s
  | some q =>
    if q.state ≠ 2 then .next s
    else if q.lapsed s.tick then .next (s.expire q)
    else
      match q.kernel with
      | none => .next s
      | some k =>
        let new := k.pinSet.filter fun p => !s.isPinned q.asid p
        if ok && new.all (fun p => s.pinnable q.asid p) then
          let pinned : List (Nat × Nat × Bool) := new.map fun (p : Nat × Bool) => (q.asid, p.1, p.2)
          .next ({ s with pins := s.pins ++ pinned }.accepted q)
        else .next (s.moveQuote q 1)

/-- A deadline passes before a launch (R90). -/
def execValidityDeadline (qid : Nat) (s : State) : Out :=
  match s.quote? qid with
  | none => .next s
  | some q => .next (if q.lapsed s.tick then s.expire q else s)

/-- An instruction that takes an id: bits [63:32] raise 0x02 (R94). -/
def quoteId (i : Instr) (s : State) (d : GDst) (r : GSrc) (go : State → Agent → Nat → Int × State) : Out :=
  groupInstr i s fun a s =>
    let v := readG s a r
    if f64 v 32 32 ≠ 0 then s.groupFault a 0x02 (firstWord i)
    else
      let (n, s) := go s a v.toNat
      s.groupResult a 1 (dstG d) (w64 n) 24

/-- `quote.acc` (R96). -/
def execQuoteAcc (d : GDst) (r : GSrc) (s : State) : Out :=
  quoteId (.quoteAcc d r) s d r fun s a id => s.accept (s.asidOf a) id

/-! ## Decline (R97) -/

/-- Whether anything names or runs under a standing quotation (R97, R264). -/
def State.standingBusy (s : State) (qid : Nat) : Bool :=
  let mine := s.launches.filterMap fun (id, l) => if l.qid = qid then some id else none
  (s.cores.any fun (_, c) =>
    (c.watches.any fun (_, w) => w.qid = qid && w.state ≠ 0) || (c.forming.any fun f => f.qid = qid) ||
      c.parts.toList.any fun p => p.tasks.any fun t => mine.contains t.launch) ||
    s.gangs.any fun (_, g) => mine.contains g.launch

/-- The barriers a launch owns, by core and number. -/
def State.barsOf (s : State) (id : Nat) : List (Nat × Nat) :=
  s.cores.flatMap fun (c, x) => (x.bars.filter fun (_, b) => b.owner = some id).map fun (n, _) => (c, n)

/-- What a launch held is given back: grants, barriers with word and status zero (R250), transfers that no
step reached (R293). -/
def State.closeLaunch (s : State) (id : Nat) (l : Launch) : State :=
  let s := if l.kernel.scratch = 0 then s
    else (slotBases l.slots).foldl (fun s (c, base) => s.clearGrant c base l.asid) s
  let s := (s.barsOf id).foldl (fun s (c, n) => s.zeroSlice c (0xFF4000 + 16 * n) 16) s
  let unowned (b : Bar) : Bar := if b.owner = some id then { b with owner := none } else b
  let clear (x : CoreSt) : CoreSt :=
    { x with bars := x.bars.map fun (n, b) => (n, unowned b), xfers := x.xfers.filter fun t => t.launch ≠ id }
  { s with cores := (s.cores.map fun (c, x) => (c, clear x)) }

/-- A launch's entry leaves. -/
def State.dropLaunch (s : State) (id : Nat) : State := { s with launches := adel id s.launches }

/-- `quote.dec` on an id (R97). -/
def State.decline (s : State) (asid id : Nat) : Int × State :=
  match s.quotes.find? fun q => q.id = id && q.asid = asid with
  | none => (-3, s)
  | some q =>
    if q.lapsed s.tick then (-4, s.expire q)
    else if 1 ≤ q.state ∧ q.state ≤ 3 then (0, s.moveQuote q 6)
    else if q.state = 4 && q.cls = 2 && !s.standingBusy id then
      let s := match s.launchOf id with
        | some (n, l) => (s.closeLaunch n l).dropLaunch n
        | none => s
      (0, s.moveQuote q 5)
    else (-4, s)

/-- `quote.dec` (R97). -/
def execQuoteDec (d : GDst) (r : GSrc) (s : State) : Out :=
  quoteId (.quoteDec d r) s d r fun s a id => s.decline (s.asidOf a) id

/-! ## Actual figures (R98, R100) -/

/-- Energy counted for a launch so far, in nJ (R100); a standing quotation has no launch constant (R93). -/
def State.countedNJ (s : State) (q : Quote) (l : Launch) : Nat :=
  pJToNJ ((if q.cls = 2 then 0 else 2000000) + l.pJ + 455 * q.cores.length * (s.tick - l.start))

/-- What `quote.actual` reads. -/
def State.actual (s : State) (asid id : Nat) : W64 × W64 :=
  match s.quotes.find? fun q => q.id = id && q.asid = asid with
  | none => (w64 (-3), 0)
  | some q =>
    if q.state = 5 then
      (n64 ((s.readVa q.asid (q.record + 48) 8).getD q.actT), n64 ((s.readVa q.asid (q.record + 56) 8).getD q.actE))
    else if q.state = 4 then
      match s.launchOf id with
      | some (_, l) => (n64 (clkToNs (s.tick - l.start)), n64 (s.countedNJ q l))
      | none => (0, 0)
    else (0, 0)

/-- `quote.actual` (R98). -/
def execQuoteActual (d : GDst) (r : GSrc) (s : State) : Out :=
  groupInstr (.quoteActual d r) s fun a s =>
    let v := readG s a r
    if f64 v 32 32 ≠ 0 then s.groupFault a 0x02 (firstWord (.quoteActual d r))
    else
      let (t, e) := s.actual (s.asidOf a) v.toNat
      let s := s.groupResult a 1 (dstG d) t 24
      let c := s.ctx a
      s.setCtx a { c with pend := c.pend ++ [result (nextDst d) (BitVec.allOnes 64) e (s.tick + 24)] }

end Sys2Proof.Machine
end

