-- ==== Sys2Proof/Machine/Launches.lean ====
section
/-! DEFINITION. The life of a launch: gangs and blocks that start (R106–R109), ready tasks dispatched
(R115, R264, R266), gangs that end (R114, R120) and retirement (R100, R293). -/

namespace Sys2Proof.Machine

/-! ## A gang's first state (R108, R130) -/

/-- What a gang starts with. -/
structure Start where
  origin : Origin
  block : Nat
  index : Nat
  wid : W64
  depth : Nat
  core : Nat
  part : Nat
  /-- position of the partition within its block slot -/
  pos : Nat
  scratch : Nat
  store : Nat
  /-- live threads' first registers, a list for each -/
  regs : List (List W64)
  gregs : List W64
  laneEntry : Option W32
  condEntry : Option W32
  bar : Option (Fin 96)
  gens : List Nat
  cgen : Nat
  after : List Nat

/-- The spill slot of thread `t` (the conductor's is 32) of a gang (R130). -/
def Kernel.spillStart (k : Kernel) (pos slot t : Nat) : W64 :=
  w64 ((k.scratch : Int) - (33 * (12 * pos + slot) + t + 1) * 16 * (k.maxDepth - 4 : Nat))

/-- The first values of a register file. -/
def firstRegs {n : Nat} (count : Nat) (vs : List W64) : Vector W64 n :=
  Vector.ofFn fun i => if i.val < count then vs.getD i.val 0 else 0

/-- A lane thread at its first issue. -/
def Kernel.startLane (k : Kernel) (x : Start) (slot t : Nat) : Lane :=
  match x.laneEntry, x.regs[t]? with
  | some e, some vs =>
    { Lane.empty with
        st := .live, pc := BitVec.ofNat 32 (e.toNat % condBit), v := firstRegs k.laneRegs vs
        tsp := k.spillStart x.pos slot t, gen := x.gens.getD t 1, after := x.after }
  | _, _ => Lane.empty

/-- A conductor at its first issue; one without an entry is exited. It counts as having issued at the clock its gang
is placed (R121; DESIGN CHOICE, log 87). -/
def Kernel.startCond (k : Kernel) (x : Start) (slot tick : Nat) : Ctx :=
  let c := Ctx.empty .u (if x.condEntry.isSome then .live else .exited)
  { c with
      pc := ((x.condEntry.getD 0).zeroExtend 64), g := firstRegs k.groupRegs x.gregs
      tsp := k.spillStart x.pos slot 32, lastIssue := tick, gen := x.cgen, after := x.after }

/-- A declared queue at its base (R149). -/
def startQueue (decl : W32) (base : Nat) : Queue :=
  let d := decl.toNat % 65536
  if d = 0 then Queue.none
  else { cfg := n64 (base + d * 2 ^ 24 + (if decl.getLsbD 16 then 2 ^ 35 else 0)), first := 0, entries := [] }

/-- Gang slots of a partition that hold no gang, ascending. -/
def State.freeSlots (s : State) (core part : Nat) : List Nat :=
  (List.range 12).filter fun k => (afind (gangKey core part k) s.gangs).isNone

/-- A gang placed in the lowest free slot of its partition. It issues from the next clock on, so that the gangs
of a block, which start together, issue from the same clock (R107). -/
def State.startGang (s : State) (launch : Nat) (l : Launch) (x : Start) : State :=
  match s.freeSlots x.core x.part with
  | [] => s
  | slot :: _ =>
    let k := l.kernel
    let g := gangKey x.core x.part slot
    let gang : Gang :=
      { Gang.empty with
          launch := launch, origin := x.origin, block := x.block, index := x.index, wid := x.wid, depth := x.depth
          lanes := Vector.ofFn fun t : Fin 32 => k.startLane x slot t.val, cond := k.startCond x slot s.tick
          dq := startQueue k.dqDecl x.store, uq := startQueue k.uqDecl (x.store + queueStorage k.dqDecl)
          scratch := x.scratch, store := x.store, storeBytes := k.gangStore, bar := x.bar, begun := s.tick + 1 }
    let s := s.setGang g gang
    let s := if gang.dq.depth = 0 then s else s.writeControl g false
    if gang.uq.depth = 0 then s else s.writeControl g true

/-! ## Blocks (R106, R107) -/

/-- The gang WID of a gang of a block: level 2 changes fastest (R20, R107). -/
def Kernel.blockWid (k : Kernel) (x : Shape) (block index : Nat) : W64 :=
  let digit (n level : Nat) : Nat := n % x.extent level
  let b3 := block / x.extent 2
  let b4 := b3 / x.extent 3
  let f := [0, index, digit block 2, digit b3 3, digit b4 4, b4 / x.extent 4]
  let lo (level : Nat) : Nat := (k.widths.take level).sum
  n64 (((List.range 6).map fun j => f.getD j 0 % 2 ^ k.widths.getD j 0 * 2 ^ lo j).sum)

/-- The places of a slot's partitions, in the order of R106. -/
def BlockSlot.places (b : BlockSlot) : List (Nat × Nat) := b.cores.flatMap fun (c, ps) => ps.map fun p => (c, p)

/-- First offset of a gang's queue storage: the storages of the gangs on a core follow the region in
level-1 order (R316). -/
def Kernel.storeAt (k : Kernel) (base before : Nat) : Nat := base + up64 k.scratch + before * k.gangStore

/-- One block starts in a slot: the scratch zero-filled, every gang in its partition (R106, R108). -/
def State.startBlock (s : State) (launch slot block : Nat) : State :=
  match s.launch? launch with
  | none => s
  | some l =>
    match l.slots[slot]? with
    | none => s
    | some b =>
      let k := l.kernel
      let n := k.blockGangs l.shape
      let per := k.perPart n
      let l := { l with slots := modAt (fun b => { b with block := some block }) slot l.slots }
      let s := s.setLaunch launch l
      let s := b.bases.foldl (fun s (c, base) => s.zeroSlice c base k.scratch) s
      let data : W64 := if k.dataBytes = 0 then 0 else n64 (k.object + k.data)
      (List.range n).foldl (fun s j =>
        match b.places[j / max 1 per]? with
        | none => s
        | some (core, part) =>
          let base := aget 0 core b.bases
          let before := ((List.range j).filter fun i => (b.places[i / max 1 per]?.map (·.1)) = some core).length
          s.startGang launch l
            { origin := .launched, block := block, index := j, wid := k.blockWid l.shape block j, depth := 0,
              core := core, part := part, pos := j / max 1 per, scratch := base, store := k.storeAt base before,
              regs := List.replicate (l.shape.extent 0) [l.arg, data], gregs := [l.arg, data],
              laneEntry := k.laneEntry, condEntry := k.condEntry, bar := none, gens := [], cgen := 1, after := [] }) s

/-- Blocks that start together: a neighbourhood, or one (R109). -/
def Launch.unit (l : Launch) : Nat := if l.shape.neighbour then l.shape.extent 2 else 1

/-- The lowest-numbered unit of slots that is free. -/
def Launch.freeUnit (l : Launch) : Option Nat :=
  (List.range (l.slots.length / max 1 l.unit)).find? fun u =>
    ((l.slots.drop (u * l.unit)).take l.unit).all fun b => b.block.isNone

/-- The lowest-numbered unstarted blocks take the lowest-numbered free unit of slots (R107). -/
def State.startNext (s : State) (launch : Nat) : State :=
  match s.launch? launch with
  | none => s
  | some l =>
    match l.freeUnit with
    | none => s
    | some u =>
      if l.kernel.watch || l.phase ≠ .running || l.shape.blocks ≤ l.started then s
      else
        let n := min l.unit (l.shape.blocks - l.started)
        let s := s.setLaunch launch { l with started := l.started + n }
        (List.range n).foldl (fun s i => s.startBlock launch (u * l.unit + i) (l.started + i)) s

/-- A freed slot takes the next block. -/
def execBlockStart (launch : Nat) (s : State) : Out := .next (s.startNext launch)

/-- Whether every partition of a placement holds no gang of another launch. -/
def State.partsClear (s : State) (cores : List (Nat × List Nat)) : Bool :=
  cores.all fun (c, ps) => ps.all fun p => ((s.core c).part p).qid.isNone

/-- A LAUNCH starts on an accepted quotation: state 4, code and grants in place, the first blocks in their
slots (R89, R100, R107). -/
def execLaunchStart (qid : Nat) (s : State) : Out :=
  match s.quote? qid with
  | none => .next s
  | some q =>
    if q.lapsed s.tick then .next (s.expire q)
    else
      let packet := (q.packets.find? fun (_, _, k) => k = 4).map fun (n, i, _) => (n, i)
      let may := match packet with | some (n, _) => s.mayStart n | none => true
      match q.pendingLaunch, q.kernel, decide (q.state = 3) && may && s.partsClear q.cores with
      | some arg, some k, true =>
        let s := match packet with | some (n, i) => s.startPacket n i | none => s
        let (id, s) := s.openLaunch q k arg packet
        let s := s.moveQuote { q with packets := q.packets.filter fun (_, _, k) => k ≠ 4 } 4
        let waves := q.slots.length / max 1 (if q.shape.neighbour then q.shape.extent 2 else 1)
        .next ((List.range waves).foldl (fun s _ => s.startNext id) s)
      | _, _, _ => .next s

/-! ## Ready tasks (R115) -/

/-- The first task in the order of R115. A partition holds tasks of one launch, whose code is locked in
its core's cache, so the first two tiers never tell two of them apart: the oldest goes first, then the lower
position. -/
def firstTask (ts : List Task) : Option (Nat × Task) :=
  (List.range ts.length).foldl (fun m i =>
    match ts[i]?, m with
    | some t, some (j, u) => if t.readyAt < u.readyAt then some (i, t) else some (j, u)
    | some t, none => some (i, t)
    | none, m => m) none

/-- The position of a partition within the slot of a block (R130). -/
def Launch.partPos (l : Launch) (block core part : Nat) : Nat :=
  ((l.slotOf block).bind fun b => b.places.findIdx? fun x => x = (core, part)).getD 0

/-- A storage slot of a standing quotation on a core that no gang has taken (R264). -/
def Launch.freeStorage (l : Launch) (core : Nat) : Option Nat :=
  (List.range l.slots.length).find? fun i =>
    match l.slots[i]? with
    | some b => b.block.isNone && b.cores.any fun (c, _) => c = core
    | none => false

/-- A task whose start is an acquire at scope `.clu` or wider invalidates the line cache of its core (R208,
R233, R268). -/
def State.startAcquire (s : State) (core : Nat) (t : Task) : State := if t.wide then s.dropLines core else s

/-- A task starts as a gang: a child in its parent's block, or a triggered gang in a storage slot. -/
def State.startTask (s : State) (core part : Nat) (t : Task) : Option State :=
  let s := s.startAcquire core t
  match s.launch? t.launch with
  | none => none
  | some l =>
    let k := l.kernel
    let start (block pos scratch store : Nat) : Start :=
      { origin := t.origin, block := block, index := t.index, wid := t.wid, depth := t.depth, core := core, part := part,
        pos := pos, scratch := scratch, store := store, regs := t.regs.take t.threads, gregs := t.gregs,
        laneEntry := t.laneEntry, condEntry := t.condEntry, bar := t.bar, gens := t.gens, cgen := t.cgen,
        after := t.after }
    match t.origin with
    | .triggered =>
      (l.freeStorage core).map fun i =>
        let base := ((l.slots[i]?).map fun b => aget 0 core b.bases).getD 0
        let l := { l with slots := modAt (fun b => { b with block := some i }) i l.slots }
        let c := s.core core
        let s := s.setCore core
          { c with
              triggers := c.triggers.filter fun x => x.gang ≠ some t.serial
              left := (c.left.filter fun d => d.2 = s.tick) ++ [(l.qid, s.tick)] }
        (s.setLaunch t.launch l).startGang t.launch l (start i 0 base (k.storeAt base 0))
    | _ =>
      let scratch := ((l.slotOf t.block).map fun b => aget 0 core b.bases).getD 0
      (if k.gangStore = 0 then some 0 else fitArea core k.gangStore (s.areasOn core)).map fun store =>
        s.startGang t.launch l (start t.block (l.partPos t.block core part) scratch store)

/-- A free gang slot takes the first ready task (R115). -/
def execReadyTaskDispatch (core part : Nat) (s : State) : Out :=
  let c := s.core core
  let p := c.part part
  match firstTask p.tasks, s.freeSlots core part with
  | some (i, t), _ :: _ =>
    let runs := match s.launch? t.launch with | some l => l.phase = .running | none => false
    let fits := match s.launch? t.launch with
      | some l => (12 - (s.freeSlots core part).length) < l.kernel.fit
      | none => false
    if !runs || !fits then .next s
    else
      match s.startTask core part t with
      | none => .next s
      | some s =>
        let c := s.core core
        .next (s.setCore core
          { c with parts := if h : part < 16 then c.parts.set part { c.parts[part] with tasks := p.tasks.eraseIdx i } else c.parts })
  | _, _ => .next s

/-! ## The end of a gang (R107, R114, R120) -/

/-- Whether a gang has ended: its conductor and every slot exited or absent, no stream of it under way. -/
def Gang.ended (x : Gang) : Bool :=
  x.cond.st = .exited && (slots.all fun t => (x.lane t.val).st = .exited || (x.lane t.val).st = .absent) &&
    x.sd.toList.all fun d => !d.running

/-- Whether anything of a block is left: a gang, or a child not yet dispatched. -/
def State.blockLive (s : State) (launch block : Nat) : Bool :=
  (s.gangs.any fun (_, x) => x.launch = launch && x.block = block) ||
    s.cores.any fun (_, c) => c.parts.toList.any fun p => p.tasks.any fun t =>
      t.launch = launch && t.block = block && t.origin = .spawned

/-- A block ends: it leaves its sharing group, its slot frees and keeps its region for its neighbourhood; a
storage slot is zero-filled (R107, R110, R111, R264). -/
def State.endBlock (s : State) (launch block : Nat) : State :=
  match s.launch? launch with
  | none => s
  | some l =>
    let mine (b : BlockSlot) : Bool := b.block = some block
    let s := if l.kernel.watch then
        (l.slots.filter mine).foldl (fun s b => b.bases.foldl (fun s (c, base) =>
          s.zeroSlice c base (l.kernel.areaBytes l.shape b c)) s) s
      else s
    s.setLaunch launch
      { l.leaveGroup block with
          slots := l.slots.map fun b => if mine b then { b with block := none, last := some block } else b }

/-- Whether a block has ended: nothing of it is left and, as for `share.leave`, every access through its
sharing-group slot has been performed (R111, R112). -/
def State.blockOver (s : State) (id : Nat) (l : Launch) (block : Nat) : Bool :=
  !s.blockLive id block &&
    match l.groupOf block with
    | some (cl, grp, slot, _) => !s.slotBusy id l cl grp slot
    | none => true

/-- The blocks that have ended free their slots from the next clock on (R107). -/
def State.endBlocks (s : State) : State :=
  s.launches.foldl (fun s (id, l) =>
    if l.phase = .saved then s
    else (l.slots.filterMap (·.block)).foldl (fun s b => if s.blockOver id l b then s.endBlock id b else s) s) s

/-- The agents of a gang. -/
def gangAgents (g : Nat) : List Agent := .cond g :: (List.range 32).map (Agent.lane g)

/-- Whether an access of a gang's threads is in flight. -/
def State.gangFlies (s : State) (g : Nat) : Bool := s.flight.any fun f => agentGang? f.who = some g

/-- A gang that has ended, its accesses performed, leaves its slot: a child arrives at its completion barrier,
ordered after its stores (R114, R120, R294). -/
def State.reap (s : State) (g : Nat) : State :=
  match afind g s.gangs with
  | none => s
  | some x =>
    if !x.ended || s.gangFlies g then s
    else
      let core := gangCore g
      let s := match x.origin, x.bar with
        | .spawned, some b => s.unitArrival core b.val x.launch ((gangAgents g).flatMap s.released).eraseDups
        | _, _ => s
      let s := s.dropBaton (.cond g)
      let s := { s with gangs := adel g s.gangs }
      let c := s.core core
      let part := gangPart g
      let object := ((s.launch? x.launch).map fun l => l.kernel.object)
      s.setCore core
        { c with parts := if h : part < 16 then c.parts.set part { c.parts[part] with lastObject := object } else c.parts }

/-! ## Retirement (R293) -/

/-- Whether nothing of a launch is left to run. -/
def State.allDone (s : State) (id : Nat) (l : Launch) : Bool :=
  decide (l.shape.blocks ≤ l.started) && !l.kernel.watch && l.saved = [] && l.savedTasks = [] &&
    !(s.gangs.any fun (_, x) => x.launch = id) &&
    s.cores.all fun (_, c) =>
      !(c.parts.toList.any fun p => p.tasks.any fun t => t.launch = id) && !(c.copies.any fun k => k.launch = id) &&
        !(c.mx.any fun o => o.launch = id)

/-- A settlement above a bound with no fault of the caller or the operating system is a breach by the
device, with the excess (R100, R101, R295). -/
def State.settleBound (s : State) (qid kind actual bound : Nat) : State :=
  match s.quote? qid with
  | none => s
  | some q => if bound < actual && q.party ≠ 1 && q.party ≠ 2 then s.charge qid 3 kind (n64 (actual - bound)) else s

/-- What pre-emptions have added to the bounds of an elastic quotation: ns and nJ; to those of another nothing (R93,
R100, R292). -/
def Quote.grown (q : Quote) (l : Launch) : Nat × Nat := if q.cls = 1 then (clkToNs l.lost, 40 * l.moved) else (0, 0)

/-- The settlement: actual T and E, then state 5 (R100). An elastic launch's bounds have grown with its
pre-emptions (R93). -/
def State.settleQuote (s : State) (q : Quote) (l : Launch) : State :=
  let t := clkToNs (s.tick - l.start)
  let e := s.countedNJ q l
  let s := s.settleBound q.id 1 t (q.tmax + (q.grown l).1)
  let s := s.settleBound q.id 2 e (q.emax + (q.grown l).2)
  match s.quote? q.id with
  | none => s
  | some q =>
    let s := (s.writeVa q.asid (q.record + 48) 8 t).writeVa q.asid (q.record + 56) 8 e
    s.moveQuote { q with actT := t, actE := e } 5

/-- A launch retires (R293): what it held is given back and the quotation settled; then the LAUNCH packet
completes (R67). Its partitions are offered from the clock after the settlement (R103). -/
def execRetirement (launch : Nat) (s : State) : Out :=
  match s.launch? launch with
  | none => .next s
  | some l =>
    match l.phase, l.packet with
    | .retired, some (n, i) => .next ((s.dropLaunch launch).complete n i 0x0001)
    | .retired, none => .next (s.dropLaunch launch)
    | _, packet =>
      if !s.allDone launch l then .next s
      else
        match s.quote? l.qid with
        | none => .next s
        | some q =>
          let s := (s.closeLaunch launch l).settleQuote q l
          .next (if packet.isNone then s.dropLaunch launch
            else s.setLaunch launch { l with phase := .retired, slots := [], groups := [] })

/-- Partitions whose quotation holds nothing any more are free from the next clock (R103). -/
def State.freeRetired (s : State) : State :=
  let gone (q : Nat) : Bool := match s.quote? q with | some x => !x.holds | none => true
  let clear (p : Part) : Part := match p.qid with | some q => if gone q then { p with qid := none, tasks := [] } else p | none => p
  { s with cores := s.cores.map fun (c, x) => (c, { x with parts := x.parts.map clear }) }

end Sys2Proof.Machine
end

