-- ==== Sys2Proof/Machine/Packets.lean ====
section
/-! DEFINITION. The packets of a queue (R65–R67, R96, R97, R260), the service of events (R69, R71–R74),
wake registers (R70) and the ticks the device posts (R71). -/

namespace Sys2Proof.Machine

/-! ## Wakes (R69) -/

/-- The index a served wake brings. -/
def State.serveIndex (s : State) (q idx : Nat) : State :=
  if idx ≤ s.qWrite q then s
  else if s.qRetire q + s.qSize q < idx then
    let i := s.qRead q
    (s.writeVa (s.qOwner q) (s.slotVa q i + 2) 2 0x8007).stopQueue q i
  else s.setDir q 16 8 idx

/-- A wake served on a registered queue. DESIGN CHOICE (log 80): one for a queue that is not registered, which
a wake register admits, is dropped. -/
def State.serveWake (s : State) (q idx : Nat) : State :=
  if s.qFlag q 0 then (s.serveIndex q idx).mapQueue q else s

/-- Events of the same lock that stand before an event. -/
def eventsBefore (e : W64) (es : List W64) : List W64 :=
  (es.takeWhile (· ≠ e)).filter fun x =>
    match evQueue x, evQueue e with
    | some p, some q => lockOfQueue p = lockOfQueue q
    | _, _ => false

/-- The oldest deliverable event of a kind, when every event of its lock before it tells only of completed
work, which the pool has already acted on (R72). -/
def State.nextEvent (s : State) (kind : Nat) : Option W64 :=
  (s.dev.events.find? fun e => evKind e = kind && s.deliverable e).filter fun e =>
    (eventsBefore e s.dev.events).all fun x => evKind x = 3

/-- An event taken with those of its lock before it. -/
def State.takeWith (s : State) (e : W64) : State :=
  ((eventsBefore e s.dev.events).foldl State.takeEvent s).takeEvent e

/-- Service of a wake by a Saddle core, under the lock of its queue. -/
def execWakeEvent (core : Nat) (s : State) : Out :=
  match s.nextEvent 1, decide (core < 12) with
  | some e, true =>
    let s := s.takeWith e
    match evQueue e with
    | some q => .next (s.serveWake q (evArg e))
    | none => .next s
  | _, _ => .next s

/-! ## Barriers of packets (R66) -/

/-- A signal is satisfied at 0 or below. DESIGN CHOICE (log 80): one that cannot be read is not satisfied. -/
def State.satisfied (s : State) (asid va : Nat) : Bool :=
  match s.signalValue asid va with
  | some v => decide (v.toInt ≤ 0)
  | none => false

/-- Whether a BARRIER packet's condition holds. -/
def State.barrierHolds (s : State) (p : Packet) : Bool :=
  let asid := s.qOwner p.queue
  if (p.u 8 1).testBit 0 then p.barrierAddrs.any (s.satisfied asid) else p.barrierAddrs.all (s.satisfied asid)

/-- Bit 17 of a signal's descriptor: named by a BARRIER packet (R75). -/
def State.nameSignal (s : State) (asid va : Nat) (on : Bool) : State :=
  match s.signalPlace asid va with
  | none => s
  | some pa =>
    let d := n64 (readLE s.mem (pa + 8) 8)
    let d := if on then d ||| 0x20000 else d &&& ~~~0x20000
    (s.dirtyVa asid va).storeBytes (.dev (pa + 8)) (leBytes 8 d.toNat) 1

/-- A BARRIER packet completes: a signal that no other names loses its bit. -/
def State.barrierDone (s : State) (p : Packet) : State :=
  let asid := s.qOwner p.queue
  let s := s.complete p.queue p.index 0x0001
  p.barrierAddrs.foldl (fun s a =>
    match s.signalPlace asid a with
    | some pa => if s.barrierQueues pa = [] then s.nameSignal asid a false else s
    | none => s) s

/-- Service of a signal-changed event: every BARRIER packet that names the signal is evaluated again, and the
queue that the event names counts as served, mapped if it was not (R71, R73, R74). -/
def execSignalChanged (core : Nat) (s : State) : Out :=
  match s.nextEvent 2, decide (core < 12) with
  | some e, true =>
    let names (p : Packet) : Bool := p.kind = 7 && !s.unstarted p &&
      p.barrierAddrs.any fun a => (s.signalPlace (s.qOwner p.queue) a).map (· % 2 ^ 48) = some (evArg e)
    let open_ := s.dev.packets.filter names
    let s := open_.foldl (fun s p => if s.barrierHolds p then s.barrierDone p else s) (s.takeWith e)
    match evQueue e with
    | some q => .next (if s.qFlag q 0 then s.mapQueue q else s)
    | none => .next s
  | _, _ => .next s

/-! ## Reading a packet (R65, R67) -/

/-- What stands at a queue's read index. -/
inductive Slot
  | none
  | unreadable
  | packet (p : Packet)
  deriving DecidableEq, Repr

/-- The packet a queue may start now: the queue may start one, a packet is available that has not been read, and
none of the earlier ones is open where the barrier bit asks it. -/
def State.slot (s : State) (q : Nat) : Slot :=
  let i := s.qRead q
  if !s.mayStart q || decide (s.qWrite q ≤ i) || (s.packet? q i).isSome then .none
  else
    match s.readSpace (s.qOwner q) (s.slotVa q i) 64 with
    | .error _ => .unreadable
    | .ok bs =>
      let p : Packet := { queue := q, index := i, kind := (bs.getD 0 0).toNat, bytes := bs, done := 0, stopped := false }
      if p.barred && s.qRetire q < i then .none else .packet p

/-- Zero bytes in a packet. -/
def Packet.zero (p : Packet) (off n : Nat) : Bool := p.u off n = 0

/-- A header and a completion signal without fault (R65). -/
def Packet.headOk (p : Packet) : Bool :=
  decide (p.u 1 1 / 4 = 0) && p.zero 4 4 && (if p.signals then decide (p.u 48 8 % 16 = 0) else p.zero 48 8)

/-- A body without fault: reserved fields zero, addresses aligned (R66). DESIGN CHOICE (log 80): the address that
a WATCH packet names for its code is 8-byte aligned, and the ends of a COPY may lie anywhere. -/
def Packet.bodyOk (p : Packet) : Bool :=
  match p.kind with
  | 1 => decide (p.u 8 8 % 64 = 0) && decide (p.u 16 8 % 64 = 0) && decide (p.u 24 4 / 2 ^ 19 = 0) &&
         decide (p.u 28 4 ≤ 5500000)
  | 2 | 3 => decide (p.u 8 8 % 64 = 0) && p.zero 16 32
  | 4 => decide (p.u 8 8 % 64 = 0) && p.zero 40 8
  | 5 => decide (p.u 24 8 % 64 = 0) && decide (p.u 32 4 / 64 = 0) && p.zero 36 12 &&
         [0, 1].contains (p.u 32 4 % 8) && [0, 1].contains (p.u 32 4 / 8 % 8)
  | 6 => decide (p.u 8 8 % 16 = 0) && decide (p.u 24 4 / 2 = 0) && p.zero 28 20
  | 7 => decide (1 ≤ p.u 8 4 / 2 % 8) && decide (p.u 8 4 / 2 % 8 ≤ 4) && decide (p.u 8 4 / 16 = 0) && p.zero 12 4 &&
         p.barrierAddrs.all (fun a => decide (a % 16 = 0)) && p.zero (16 + 8 * (p.u 8 4 / 2 % 8)) (32 - 8 * (p.u 8 4 / 2 % 8))
  | 8 => decide (p.u 40 8 % 8 = 0)
  | _ => false

/-- A packet that has been read, and not yet completed. -/
def State.openPacket (s : State) (p : Packet) : State := { s with dev := { s.dev with packets := s.dev.packets ++ [p] } }

/-- A packet of one of the kinds given, at the read index of a queue: a slot that cannot be read stops the
queue; a malformed packet completes so; else `go` (R65, R67). -/
def packetArm (q : Nat) (kinds : Nat → Bool) (s : State) (go : Packet → State → State) : Out :=
  match s.slot q with
  | .none => .next s
  | .unreadable => .next (s.stopQueue q (s.qRead q))
  | .packet p =>
    if !kinds p.kind then .next s
    else
      let t := s.openPacket p
      if p.headOk && p.bodyOk then .next (go p t)
      else .next (t.complete q p.index 0x8001)

/-- A packet whose effect is done when it is read. -/
def State.finish (s : State) (p : Packet) (status : Nat) : State := s.complete p.queue p.index status

/-- INVALID: kind 0 or reserved (R65). -/
def execInvalid (q : Nat) (s : State) : Out :=
  packetArm q (fun k => decide (k = 0) || decide (9 ≤ k)) s fun p s => s.finish p 0x8001

/-! ## Quotations (R66, R96, R97) -/

/-- The quotation a packet names: the id its record holds now. -/
def State.namedId (s : State) (p : Packet) : Nat := (s.readVa (s.qOwner p.queue) (p.u 8 8) 4).getD 0

/-- A packet waits on a quotation. -/
def State.waitOn (s : State) (id : Nat) (p : Packet) : State :=
  match s.quote? id with
  | some q => s.setQuote { q with packets := q.packets ++ [(p.queue, p.index, p.kind)] }
  | none => s

/-- QUOTE (R66): it waits while no quotation entry is free. -/
def execQuote (q : Nat) (s : State) : Out :=
  packetArm q (· = 1) s fun p t =>
    if !t.entryFree then s
    else
      let w := p.u 24 4
      let shape : Shape :=
        { ext := [w % 256, w / 256 % 256, p.u 32 4, p.u 36 4, p.u 40 4, p.u 44 4], elastic := w.testBit 16,
          neighbour := w.testBit 17 }
      let (n, t) := t.request (t.qOwner q) (p.u 8 8) (p.u 16 8) shape (p.u 28 4) (w.testBit 18) true
      if n < 0 then t.finish p 0x8001 else t.waitOn n.toNat p

/-- ACCEPT (R96). -/
def execAccept (q : Nat) (s : State) : Out :=
  packetArm q (· = 2) s fun p s =>
    let id := s.namedId p
    let (n, s) := s.accept (s.qOwner q) id
    if n < 0 then s.finish p 0x8004
    else if n = 0 then s.finish p 0x0001
    else (s.startPacket q p.index).waitOn id p

/-- DECLINE (R97). -/
def execDecline (q : Nat) (s : State) : Out :=
  packetArm q (· = 3) s fun p s =>
    let (n, s) := s.decline (s.qOwner q) (s.namedId p)
    s.finish p (if n < 0 then 0x8004 else 0x0001)

/-- Whether a quotation's figures pass a LAUNCH's ceilings; zero is no limit. -/
def Quote.passes (q : Quote) (t e : Nat) : Bool :=
  (decide (t = 0) || decide (q.tmax ≤ t)) && (decide (e = 0) || decide (q.emax ≤ e))

/-- A LAUNCH waits for its start on an accepted quotation, or for the acceptance. -/
def State.awaitStart (s : State) (id : Nat) (p : Packet) : State :=
  match s.quote? id with
  | some q =>
    s.setQuote { q with pendingLaunch := some (n64 (p.u 16 8)), packets := q.packets ++ [(p.queue, p.index, 4)] }
  | none => s

/-- LAUNCH (R66). -/
def execLaunch (q : Nat) (s : State) : Out :=
  packetArm q (· = 4) s fun p s =>
    let id := s.namedId p
    let asid := s.qOwner q
    let (t, e) := (p.u 24 8, p.u 32 8)
    let s := match s.quote? id with
      | some x => if x.asid = asid && x.lapsed s.tick then s.expire x else s
      | none => s
    match s.quotes.find? fun x => x.id = id && x.asid = asid with
    | none => s.finish p 0x8004
    | some x =>
      let ceilings := t ≠ 0 || e ≠ 0
      if x.kernel.isNone then s.finish p 0x8004
      else if ceilings && !x.passes t e then (s.decline asid id).2.finish p 0x8003
      else if x.pendingLaunch.isSome then s.finish p 0x8004
      else if x.state = 3 then s.awaitStart id p
      else if ceilings && x.state = 1 then
        let (n, s) := s.accept asid id
        if n < 0 || x.cls = 2 then s.finish p 0x8004 else s.awaitStart id p
      else s.finish p 0x8004

/-! ## The other packets (R66, R260) -/

/-- Space of a COPY packet's end. -/
def poolSpace (code : Nat) : Space := if code = 0 then .d else .b

/-- Pieces of a granule under an ASID, checked as at U level: `.d` is cut at pages. -/
def State.poolSpan (s : State) (asid : Nat) (sp : Space) (addr n : Nat) (acc : Acc) :
    State × Except Trap (List (Loc × Nat)) :=
  let head := if sp = .d then min n (65536 - addr % 65536) else n
  let one (s : State) (a m : Nat) : State × Except Trap (Loc × Nat) :=
    match s.reach 200 asid (s.asidRoot asid) .u none sp a m acc with
    | (s, .ok x) => (s, .ok (x.loc, m))
    | (s, .error c) => (s, .error (c, n64 a))
  let found : State × Except Trap (List (Loc × Nat)) :=
    match one s addr head with
    | (s, .error f) => (s, .error f)
    | (s, .ok x) =>
      if head = n then (s, .ok [x])
      else
        match one s (addr + head) (n - head) with
        | (s, .error f) => (s, .error f)
        | (s, .ok y) => (s, .ok [x, y])
  match found with
  | (s, .error f) => (s, .error f)
  | (s, .ok ps) =>
    match s.flawedSpan addr ps with
    | some a => (s, .error (0x10, n64 a))
    | none => (s, .ok ps)

/-- A started packet's progress. -/
def State.setPacket (s : State) (p : Packet) : State :=
  let same (x : Packet) : Bool := x.queue = p.queue && x.index = p.index
  { s with dev := { s.dev with packets := s.dev.packets.map fun x => if same x then p else x } }

/-- The channel of a COPY packet stops (R223, R224): it posts a record, and the packet waits until the record is
resolved. DESIGN CHOICE (log 64): the record names core 0xFFFF, the packet's index as issue sequence number, and
the queue in the partition and gang-slot bytes. -/
def State.poolHalt (s : State) (p : Packet) (f : Trap) : State :=
  let asid := s.qOwner p.queue
  let s := if f.1 = 0x10 then s.log 0x07 0xFF 0xFFFF asid 0 f.2 else s
  (s.setPacket { p with stopped := true }).post
    { Record.blank 1 f.1.toNat with
        asid := asid, core := 0xFFFF, stval := f.2, info := n64 p.done, part := p.queue % 256, slot := p.queue / 256,
        pc := n64 p.index }

/-- One granule of a COPY packet: every check comes before any byte moves. The last one completes it. -/
def State.poolGranule (s : State) (p : Packet) : State :=
  let asid := s.qOwner p.queue
  let w := p.u 32 4
  let at_ (base : Nat) : Nat := (base + 64 * p.done) % 2 ^ 64
  let over_ (s : State) (p : Packet) : State := if p.u 24 8 / 64 ≤ p.done then s.complete p.queue p.index 0x0001 else s
  if p.u 24 8 / 64 ≤ p.done then over_ s p
  else
    match s.poolSpan asid (poolSpace (w % 8)) (at_ (p.u 8 8)) 64 .load with
    | (s, .error f) => s.poolHalt p f
    | (s, .ok ps) =>
      match s.poolSpan asid (poolSpace (w / 8 % 8)) (at_ (p.u 16 8)) 64 .store with
      | (s, .error f) => s.poolHalt p f
      | (s, .ok qs) =>
        let (s, bs) := s.readSpan ps
        let p := { p with done := p.done + 1 }
        over_ ((s.writeSpan 200 1 qs bs).setPacket p) p

/-- The oldest COPY packet of a queue that the channel moves. -/
def State.copyOpen (s : State) (q : Nat) : Option Packet :=
  s.dev.packets.find? fun p => p.queue = q && p.kind = 5 && !p.stopped && !s.unstarted p

/-- COPY (R66, R67): on the pool's own channel a packet starts, and a started one moves by granules to its
completion; which comes first is free. -/
def execCopy (q : Nat) (s : State) : Out :=
  let start (s : State) : Out := packetArm q (· = 5) s fun p s => s.startPacket q p.index
  let starts := match s.slot q with | .packet p => decide (p.kind = 5) | _ => false
  match s.copyOpen q, starts with
  | none, _ => start s
  | some p, false => .next (s.poolGranule p)
  | some p, true =>
    let (v, s) := s.fresh
    if v.getLsbD 0 then start s else .next (s.poolGranule p)

/-- SIGNAL (R66): an address at which the pool can update no signal is as a misaligned one, and a descriptor with
a nonzero reserved field as one of the packet (R13, R75). -/
def execSignal (q : Nat) (s : State) : Out :=
  packetArm q (· = 6) s fun p s =>
    let asid := s.qOwner q
    let v := n64 (p.u 16 8)
    match s.signalPlace asid (p.u 8 8) with
    | none => s.finish p 0x8001
    | some pa =>
      if s.signalBad (.dev pa) then s.finish p 0x8001
      else
        let s := s.dirtyVa asid (p.u 8 8)
        (s.signalUpdate pa fun old => if p.u 24 4 % 2 = 0 then v else old + v).finish p 0x0001

/-- BARRIER (R66, R75): evaluated when it starts, and again when a signal it names changes. -/
def execBarrier (q : Nat) (s : State) : Out :=
  packetArm q (· = 7) s fun p s =>
    let asid := s.qOwner q
    let s := p.barrierAddrs.foldl (fun s a => s.nameSignal asid a true) (s.startPacket q p.index)
    if s.barrierHolds p then s.barrierDone p else s

/-- WATCH (R260). -/
def execWatch (q : Nat) (s : State) : Out :=
  packetArm q (· = 8) s fun p s =>
    let asid := s.qOwner q
    let b := (List.range 4).map fun k => n64 (p.u (8 + 8 * k) 8)
    let tell (s : State) (v : Int) : State := s.writeVa asid (p.u 40 8) 8 (w64 v).toNat
    match s.armFault b .u asid with
    | some (c, _) => (tell s (if c = 0x02 then -2 else -5)).finish p 0x8001
    | none =>
      match s.armCode b asid with
      | .error e => (tell s e).finish p 0x8006
      | .ok i => (tell (s.armEntry i b asid none) i).finish p 0x0001

/-! ## Wakes from outside, and the device's own events (R70, R71) -/

/-- A store to a wake register: dropped in normal service, with an entry (R70). -/
def State.wakeStore (s : State) (q : Nat) (idx : W64) : State :=
  if s.dev.fslot.extractLsb' 5 2 = 0 then s.log 0x05 0xFF 0xFFFF 0 0 (n64 q) else s.postWake (q % 4096) (f64 idx 0 48)

def execWakeRegisterStore (q : Nat) (idx : W64) (s : State) : Out :=
  if q < 4096 && !s.dev.dark then .next (s.wakeStore q idx) else .next s

/-- Clocks between periodic ticks. -/
def Dev.tickEvery (d : Dev) : Nat := if d.fwdt = 0 then 1100000 else ceilDiv d.fwdt.toNat 4

/-- A periodic tick that falls due (R71): dropped while one waits undelivered. -/
def execPeriodicTick (s : State) : Out :=
  let due := s.dev.tickBase + s.dev.tickEvery
  if s.tick < due then .next s
  else
    let waits := (s.dev.events ++ s.dev.heldEvents).any fun e => evKind e = 4
    let s := { s with dev := { s.dev with tickBase := due } }
    .next (if waits then s else s.postEvent 4 s.tick none)

/-- A management request reaches the event queue (R71). -/
def execManagementRequest (arg : BitVec 48) (s : State) : Out := .next (s.postEvent 5 arg.toNat none)

end Sys2Proof.Machine
end

