-- ==== Sys2Proof/Machine/System.lean ====
section
/-! DEFINITION. `submit`, `sig` and `sys` (R68, R72, R76, R78, R282–R288), the fault queue, the pool's
`idle`, and the firmware writes that an event makes (R79, R128, R283, R302). -/

namespace Sys2Proof.Machine

/-! ## `submit` and `sig` (R68, R76) -/

/-- `submit` (R68): ready once the thread's earlier accesses are performed. A reserved field of the queue's entry
that is not zero is an illegal operand (R13), with the handle in STVAL (log 80). -/
def execSubmit (q w : GSrc) (s : State) : Out :=
  groupInstr (.submit q w) s fun a s =>
    let v := readG s a q
    let n := f64 v 0 12
    if f64 v 12 52 ≠ 0 then s.groupFault a 0x02 v
    else if !s.qFlag n 0 || s.qOwner n ≠ s.asidOf a then s.groupFault a 0x13 (n64 n)
    else if s.dirBad n then s.groupFault a 0x02 v
    else (s.postWake n (f64 (readG s a w) 0 48)).advance a 1

/-- A signal updated by an instruction (R76): a release at `.sys`, checked as a store of its 16-byte object,
outside the range locks that R220 names. A reserved field of its descriptor that is not zero is an illegal
operand (R13), with the address in STVAL (log 80). -/
def signalInstr (i : Instr) (s : State) (a b : GSrc) (add : Bool) : Out :=
  groupMemory i s .d 16 .store false (fun _ => true) 0 (fun s g => readG s g a) fun s g p =>
    if s.signalBad p.loc then s.groupFault g 0x02 p.va
    else
      let s := s.spendWork g (40 + 2560 * deviceLines [p.loc])
      (s.issueAccess g p 8 (.sig add (readG s g b)) false true .sys true []).advance g 1

/-- `sig.set` (R76). -/
def execSigSet (a b : GSrc) (s : State) : Out := signalInstr (.sigSet a b) s a b false

/-- `sig.add` (R76). -/
def execSigAdd (a b : GSrc) (s : State) : Out := signalInstr (.sigAdd a b) s a b true

/-! ## Translation control (R287, R288) -/

/-- Whether `tlbinv` drops an entry. -/
def TlbEntry.dropped (e : TlbEntry) (mode va asid : Nat) : Bool :=
  match mode with
  | 0 => (e.asid = none || e.asid = some asid) && decide (e.base ≤ va) && decide (va < e.base + e.bytes)
  | 1 => e.asid = some asid
  | _ => true

/-- Translations dropped on every unit (R207). -/
def State.dropTlb (s : State) (mode va asid : Nat) : State :=
  let clear (x : CoreSt) : CoreSt := { x with tlb := x.tlb.filter fun e => !e.dropped mode va asid }
  { s with cores := s.cores.map fun (c, x) => (c, clear x) }

/-- Pages of a quotation's pin set that an invalidation names and that no table maps any more. -/
def State.unmapped (s : State) (mode va asid : Nat) (q : Quote) : List Nat :=
  let named (n : Nat) : Bool :=
    match mode with
    | 0 => decide (q.asid = asid) && decide (n = va / 65536)
    | 1 => decide (q.asid = asid)
    | _ => true
  (((q.kernel.map Kernel.pinSet).getD []).map (·.1)).filter fun n => named n && (s.place q.asid (n * 65536)).isNone

/-- Resident memory of a running quotation unmapped: an act of the operating system (R101). DESIGN CHOICE
(log 75): it is charged as its translation is invalidated. -/
def State.noteUnmapped (s : State) (mode va asid : Nat) : State :=
  (s.quotes.filter fun q => q.state = 4).foldl (fun s q =>
    match s.unmapped mode va asid q with
    | n :: _ => s.charge q.id 2 5 (n64 (n * 65536))
    | [] => s) s

/-- `sys.tlbinv` (R287): ready once the thread's store counter is zero. -/
def execSysTlbinv (a b : GSrc) (f : BitVec 2) (s : State) : Out :=
  let i : Instr := .sysTlbinv a b f
  groupInstr i s fun g s =>
    let v := readG s g b
    if f = 3 || (f.toNat < 2 && f64 v 16 48 ≠ 0) then s.groupFault g 0x02 (firstWord i)
    else
      let va := (readG s g a).toNat
      ((s.dropTlb f.toNat va (f64 v 0 16)).noteUnmapped f.toNat va (f64 v 0 16)).advance g 1

/-- `sys.asid` (R288). -/
def execSysAsid (a : GSrc) (s : State) : Out :=
  groupInstr (.sysAsid a) s fun g s =>
    let v := readG s g a
    if f64 v 16 48 ≠ 0 then s.groupFault g 0x02 (firstWord (.sysAsid a))
    else (s.setCtx g { s.ctx g with sasid := v.truncate 16 }).advance g 1

/-! ## The fault queue (R283–R286) -/

def State.fqBase (s : State) : Nat := s.dev.sfqb.toNat
def State.fqU (s : State) (off n : Nat) : Nat := readLE s.mem (s.fqBase + off) n
def State.fqEntries (s : State) : Nat := max 1 (s.fqU 16 4)

/-- Physical address of the slot of index i. -/
def State.fqSlot (s : State) (i : Nat) : Nat := s.fqBase + 64 + 64 * (i % s.fqEntries)

/-- The next valid record, or 0 (R285). -/
def State.fqNext (s : State) : Nat :=
  let r := s.fqU 8 8
  if s.fqBase = 0 || s.fqU 0 8 = r || readByte s.mem (s.fqSlot r) = 0 then 0 else s.fqSlot r

/-- `sys.fqpop` (R285). -/
def execSysFqpop (d : GDst) (s : State) : Out :=
  groupInstr (.sysFqpop d) s fun a s =>
    let pa := s.fqNext
    let r := s.fqU 8 8
    let s := if pa = 0 then s else s.writeDev (s.fqBase + 8) (leBytes 8 (r + 1))
    s.groupResult a 1 (dstG d) (n64 pa) 1

/-- Whether a physical address is a slot of the fault queue. -/
def State.isFqSlot (s : State) (pa : Nat) : Bool :=
  s.fqBase ≠ 0 && decide (pa % 64 = 0) && decide (s.fqBase + 64 ≤ pa) && decide (pa < s.fqBase + 64 + 64 * s.fqEntries)

/-- A gang stopped by a double fault: its conductor is held inside the handler (R278). -/
def Gang.doubled (x : Gang) : Bool := x.cond.st = .held && x.cond.inHandler

/-- The threads and the conductor of a forwarded fault resume (R286): whether any was still held. -/
def State.resumeHeld (s : State) (g : Nat) (mask : W32) (cond : Bool) (pc : W64) : State × Bool :=
  let x := s.gang g
  if x.doubled then (s, false)
  else if cond then
    let c := x.cond
    if c.st ≠ .held then (s, false)
    else
      let level : Level := if f64 (c.sstat.zeroExtend 64) 0 2 = 0 then .u else .s
      (s.setCtx (.cond g) { c with st := .live, pc := pc, level := level }, true)
  else
    let held := maskOf fun t => mask.getLsbD t.val && (x.lane t.val).held && (x.lane t.val).st = .parkedFault
    (s.mapLanes g held fun _ l => { l with st := .live, held := false }, decide (held ≠ 0))

/-- A stopped copy or transfer restarts at its granule (R224): the command whose stop posted the record, wherever
its gang stands by now. -/
def State.resumeCopy (s : State) (core gang qid seq index : Nat) : State × Bool :=
  let hit (k : CopyCmd) : Bool :=
    k.stopped && k.seq = seq && k.noted = gang && k.done = index &&
      ((s.launch? k.launch).map (·.qid)).getD 0 = qid
  match (s.core core).copies.find? hit with
  | none => (s, false)
  | some k => (s.setCopy { k with stopped := false }, true)

/-- A stopped COPY packet's record is resolved (R224): the packet completes. -/
def State.resumePool (s : State) (queue index done : Nat) : State × Bool :=
  match s.packet? queue index with
  | some p => if p.stopped && p.done = done then (s.complete queue index 0x8005, true) else (s, false)
  | none => (s, false)

/-- Whether a gang's stream stands stopped at an entry, as the record of a gang's key names it. -/
def Gang.stoppedAt (x : Gang) (k : Fin 4) (gang index : Nat) : Bool :=
  let d := x.sd[k]
  d.running && d.stopped && d.next = index && d.noted = gang

/-- A stopped stream goes on. -/
def Gang.restream (x : Gang) (k : Fin 4) : Gang := x.setStream k { x.sd[k] with stopped := false }

/-- A stopped stream restarts at its entry (R224), that of a gang set aside too. -/
def State.resumeStream (s : State) (gang qid : Nat) (k : Fin 4) (index : Nat) : State × Bool :=
  match s.gangs.find? fun (g, x) => x.stoppedAt k gang index && s.qidOf g = qid with
  | some (g, x) => (s.setGang g (x.restream k), true)
  | none =>
    match s.launches.find? fun (_, l) => l.qid = qid && l.saved.any fun e => e.2.stoppedAt k gang index with
    | some (id, l) =>
      let again (e : Nat × Gang) : Nat × Gang := if e.2.stoppedAt k gang index then (e.1, e.2.restream k) else e
      (s.setLaunch id { l with saved := l.saved.map again }, true)
    | none => (s, false)

/-- A stopped matrix operation restarts at its native tile (R196), one set aside too. -/
def State.resumeMx (s : State) (core qid seq : Nat) : State × Bool :=
  let hit (o : MxOp) : Bool := o.stopped && o.seq = seq
  match (s.core core).mx.find? fun o => hit o && ((s.launch? o.launch).map (·.qid)).getD 0 = qid with
  | some o => (s.setMx { o with stopped := false, ready := s.tick }, true)
  | none =>
    match s.launches.find? fun (_, l) => l.qid = qid && l.savedOps.any fun e => e.1 = core && e.2.any hit with
    | some (id, l) =>
      let again (o : MxOp) : MxOp := if hit o then { o with stopped := false, ready := s.tick } else o
      let ops := l.savedOps.map fun (e : Nat × List MxOp) => if e.1 = core then (e.1, e.2.map again) else e
      (s.setLaunch id { l with savedOps := ops }, true)
    | none => (s, false)

/-- A gang stopped by a double fault ends (R278): every live thread and the conductor exit. -/
def State.endGang (s : State) (g : Nat) : State × Bool :=
  let x := s.gang g
  if !x.doubled then (s, false)
  else
    let y := x.exitLanes x.glive
    ((s.setGang g { y with slanes := 0, stubs := [] }).exitCtx (.cond g), true)

/-- What `sys.eresume` does for the record at a place (R286): whether there was something to resume. -/
def State.resumeRecord (s : State) (pa : Nat) : State × Bool :=
  let u (off n : Nat) : Nat := readLE s.mem (pa + off) n
  let core := u 6 2
  let g := gangKey core (u 28 1) (u 29 1)
  let here := (afind g s.gangs).isSome && decide (s.qidOf g = u 24 4)
  let info := u 16 8
  if u 3 1 ≠ 0 then (s, false)
  else
    match u 1 1 with
    | 0 => if here then s.resumeHeld g (BitVec.ofNat 32 info) (info.testBit 32) (n64 (u 32 8)) else (s, false)
    | 1 =>
      if core = 0xFFFF then s.resumePool (u 28 1 + 256 * u 29 1) (u 32 8) info
      else s.resumeCopy core g (u 24 4) (u 32 8) info
    | 2 => s.resumeStream g (u 24 4) (Fin.ofNat 4 (u 30 1)) info
    | 3 => s.resumeMx core (u 24 4) (u 32 8)
    | 5 => if here then s.endGang g else (s, false)
    | _ => (s, false)

/-- The act of `sys.eresume` on a record, and the record's status byte (R286). -/
def State.actResume (s : State) (pa : Nat) : State :=
  let (s, done) := s.resumeRecord pa
  s.writeDev (pa + 3) (leBytes 1 (if done then 1 else 2))

/-- The acts that fall due with the next clock. -/
def State.actResumes (s : State) : State :=
  s.dev.resumes.foldl State.actResume { s with dev := { s.dev with resumes := [] } }

/-- `sys.eresume` (R286): its act takes effect at the next clock. -/
def execSysEresume (a : GSrc) (s : State) : Out :=
  groupInstr (.sysEresume a) s fun g s =>
    let pa := (readG s g a).toNat
    if !s.isFqSlot pa then s.groupFault g 0x02 (firstWord (.sysEresume a))
    else ({ s with dev := { s.dev with resumes := s.dev.resumes ++ [pa] } }).advance g 1

/-- `sys.msi` (R282). -/
def execSysMsi (a b : GSrc) (s : State) : Out :=
  groupInstr (.sysMsi a b) s fun g s =>
    let core := readG s g a
    let v := readG s g b
    if 7 < core.toNat || 255 < v.toNat then s.groupFault g 0x02 (firstWord (.sysMsi a b))
    else (s.postVector core.toNat v.toNat).advance g 1

/-! ## The pool (R72, R78) -/

/-- The Saddle core an agent is. -/
def saddleOf : Agent → Nat
  | .saddle k => k
  | _ => 0

/-- `sys.evqpop` (R72). -/
def execSysEvqpop (d : GDst) (s : State) : Out :=
  groupInstr (.sysEvqpop d) s fun a s =>
    match s.dev.events.find? s.deliverable with
    | none => s.groupResult a 1 (dstG d) 0 12
    | some e =>
      let s := s.takeEvent e
      let s := match evQueue e with | some q => s.grantLock (lockOfQueue q) (saddleOf a) | none => s
      s.groupResult a 1 (dstG d) e 12

/-- A free lock goes to the core that asked first (R72). -/
def State.serveLock (s : State) (n : Nat) : State :=
  match s.lockHolder n, s.dev.lockOrder.find? (·.1 = n) with
  | none, some (_, c) =>
    let s := s.grantLock n c
    let order := s.dev.lockOrder.filter fun x => !(x.1 = n && x.2 = c)
    ({ s with dev := { s.dev with lockOrder := order } }).endWait (.saddle c) .none 0
  | _, _ => s

/-- `sys.qlk` (R72). -/
def execSysQlk (a : GSrc) (s : State) : Out :=
  groupInstr (.sysQlk a) s fun g s =>
    let v := readG s g a
    let n := v.toNat
    if 255 < n || s.lockHolder n = some (saddleOf g) then s.groupFault g 0x02 v
    else
      let s := { s with dev := { s.dev with lockOrder := s.dev.lockOrder ++ [(n, saddleOf g)] } }
      (s.startWait g (.lock n) 0).serveLock n

/-- `sys.qulk` (R72). -/
def execSysQulk (a : GSrc) (s : State) : Out :=
  groupInstr (.sysQulk a) s fun g s =>
    let v := readG s g a
    let n := v.toNat
    if 255 < n || s.lockHolder n ≠ some (saddleOf g) then s.groupFault g 0x02 v
    else (((s.freeLock n).serveLock n).remap).advance g 1

/-- `sys.hbeat` (R78). -/
def execSysHbeat (s : State) : Out :=
  groupInstr .sysHbeat s fun a s => (s.heartbeat (saddleOf a)).advance a 1

/-- Whether the pool may switch to a slot (R78). -/
def Dev.maySwitch (d : Dev) (v : W64) : Bool :=
  decide (v.toNat ≤ 1) && decide (v.getLsbD 0 ≠ d.fslot.getLsbD 0) &&
    !d.fslot.getLsbD (1 + v.toNat) && d.fslot.getLsbD 7

/-- `sys.slot` (R78): event delivery is suspended and the core waits for the others to idle. -/
def execSysSlot (a : GSrc) (s : State) : Out :=
  groupInstr (.sysSlot a) s fun g s =>
    let v := readG s g a
    if !s.dev.maySwitch v then s.groupFault g 0x02 (firstWord (.sysSlot a))
    else ({ s with dev := { s.dev with suspended := true } }).startWait g (.slot v.toNat) 0

/-! ## Writes of registers as events -/

/-- A conductor's write of a lane mask (R128). -/
def execMaskWrite (g : Nat) (k : Fin 12) (v : W64) (s : State) : Out :=
  if (afind g s.gangs).isSome then .next (s.writeMask g k v) else .next s

/-- A write of FSLOT (R79). -/
def execFslotWrite (v : W64) (s : State) : Out := .next (s.writeFslot v)

/-- A write of FWDT (R79). -/
def execFwdtWrite (v : W64) (s : State) : Out := .next (s.writeFwdt v)

/-- A write of SFQB (R274, R283). -/
def execSfqbWrite (v : W64) (s : State) : Out := .next (s.writeSfqb v)

/-- SECCMD 1 (R302). -/
def execSecDigest (core : Nat) (s : State) : Out := .next (s.secStart core 1)

/-- SECCMD 2 (R302). -/
def execSecVerify (core : Nat) (s : State) : Out := .next (s.secStart core 2)

/-- SECCMD 3 (R302). -/
def execSecExtend (core : Nat) (s : State) : Out := .next (s.secStart core 3)

/-- SECCMD 4 (R302). -/
def execSecResetSponge (core : Nat) (s : State) : Out := .next (s.secStart core 4)

/-- SECCMD 5 (R302). -/
def execSecAbsorb (core : Nat) (s : State) : Out := .next (s.secStart core 5)

/-- SECCMD 6 (R302). -/
def execSecSqueeze (core : Nat) (s : State) : Out := .next (s.secStart core 6)

/-- A security command completes (R321). -/
def execSecCommandDone (s : State) : Out := .next s.secDone

/-! ## Idle (R136) -/

/-- Whether the wake condition of a thread in `idle` holds. -/
def State.wakes (s : State) (a : Agent) : Bool :=
  match a with
  | .saddle _ => s.dev.events.any s.deliverable
  | .steppe c _ => decide (s.dev.files.getD c 0 ≠ 0)
  | .cond g => decide ((s.gang g).splanes ≠ 0)
  | .lane _ _ => false

/-- A thread in `idle` goes on. -/
def State.wakeIdle (s : State) (a : Agent) : State :=
  match (s.ctx a).wait.map Wait.kind with
  | some .idle => s.endWait a .none 0
  | _ => s

/-- A thread in `idle` resumes. -/
def execIdleWake (who : Agent) (s : State) : Out := if s.wakes who then .next (s.wakeIdle who) else .next s

/-- A record has entered the fault queue: every compute conductor in `idle` goes on (R136). -/
def State.wakeConductors (s : State) : State := s.gangs.foldl (fun s (g, _) => s.wakeIdle (.cond g)) s

/-! ## Results (R137) -/

/-- A destination whose latency has ended is written. -/
def execRegisterWriteback (who : Agent) (s : State) : Out := .next (s.settle who)

end Sys2Proof.Machine
end

