-- ==== Sys2Proof/Machine/Performing.lean ====
section
/-! DEFINITION. Accesses performed at their memory: loads, stores, the steps of service gangs and their
replies (R212, R225, R237, R241–R246), and the waits on an address (R249). -/

namespace Sys2Proof.Machine

/-! ## Atomic functions (R244) -/

def signedBits (w v : Nat) : Int := (BitVec.ofNat w v).toInt

/-- F of R244 on operands of w bits; none where nothing is written. -/
def atomValue (op : Aop) (w old b c : Nat) : Option Nat :=
  match op with
  | .add => some ((old + b) % 2 ^ w)
  | .fadd => some (elFadd fmtF32 .rne old b 0).1
  | .mins => some (if signedBits w b < signedBits w old then b else old)
  | .minu => some (min old b)
  | .maxs => some (if signedBits w old < signedBits w b then b else old)
  | .maxu => some (max old b)
  | .and => some (old &&& b)
  | .or => some (old ||| b)
  | .xor => some (old ^^^ b)
  | .exch => some b
  | .cas => if old = b then some c else none
  | .incw => some (if c ≤ old then 0 else (old + 1) % 2 ^ w)

/-! ## Performing one access -/

/-- A flight replaced. -/
def State.setFlight (s : State) (f : Flight) : State :=
  { s with flight := s.flight.map fun x => if x.id = f.id then f else x }

/-- The physical address of a load that the line cache of its core may serve (R208). -/
def State.cachedRead (s : State) (f : Flight) : Option Nat :=
  match f.loc with
  | .dev pa => if f.uncached || !cached (agentUnit f.who) || decide (s.dev.memBytes < pa + f.size) then none else some pa
  | _ => none

/-- Whether the line cache of its core holds the line of a load. -/
def State.cacheHit (s : State) (f : Flight) : Bool :=
  match s.cachedRead f with
  | some pa => (afind (pa / 64) (s.core (agentUnit f.who)).lines).isSome
  | none => false

/-- The value a load reads: through the line cache of its core where it may (R208); a line with a marked word
is not kept. -/
def State.readFlight (s : State) (f : Flight) : State × List Byte :=
  match s.cachedRead f with
  | some pa =>
    if !s.cacheHit f && s.flawedAt (pa / 64 * 64) 64 then s.loadBytes f.loc f.size
    else s.loadCached (agentUnit f.who) pa f.size
  | none => s.loadBytes f.loc f.size

/-- A load performed: its value waits for those of the same instruction. -/
def State.performLoad (s : State) (f : Flight) (z : LSize) : State :=
  let (s, bs) := s.readFlight f
  let v := leNat bs
  let s := if f.acq then (s.acquired f.who f.scope).sync f.who else s
  let lo := if z = .qw then n64 v else extendLoad z v
  (s.setFlight { f with reply := some lo, high := n64 (v / 2 ^ 64) }).landBatch f.batch

/-- A cached copy of the writer's own core kept in step (R208); the bytes of the information block that a write leaves
alone stay in the copy too (R296). -/
def State.cacheWrite (s : State) (unit : Nat) (loc : Loc) (bs : List Byte) : State :=
  match loc, cached unit with
  | .dev pa, true =>
    let k := s.dev.infoHeld pa
    s.setCore unit { s.core unit with lines := cacheStore (pa + k) (bs.drop k) (s.core unit).lines }
  | _, _ => s

/-- A store performed. -/
def State.performStore (s : State) (f : Flight) (v : BitVec 128) : State :=
  let bs := leBytes f.size v.toNat
  ((s.cacheWrite (agentUnit f.who) f.loc bs).storeFrom (decide (f.level = Level.s)) f.loc bs f.gen).removeFlight f.id

/-- The line of an atomic's address leaves the cache of the issuing core (R208), by its physical address, as the
atomic is performed (DEDUCED, log 14). -/
def State.dropFor (s : State) (a : Agent) (loc : Loc) : State :=
  match loc, cached (agentUnit a) with
  | .dev pa, true => s.dropLine (agentUnit a) pa
  | _, _ => s

/-- An atomic performed: the old value is its reply. -/
def State.performAtom (s : State) (f : Flight) (op : Aop) (z : ASize) (b c : W64) : State :=
  let n := aSizeBytes z
  let (s, bs) := s.loadBytes f.loc n
  let old := leNat bs
  let new := atomValue op (8 * n) old (b.toNat % 2 ^ (8 * n)) (c.toNat % 2 ^ (8 * n))
  let s := match new with
    | some v => s.storeFrom (decide (f.level = Level.s)) f.loc (leBytes n v) f.gen
    | none => s
  let s := (s.dropFor f.who f.loc).setFlight { f with reply := some (n64 old) }
  if f.acq then (s.acquired f.who f.scope).sync f.who else s

/-- A signal updated for a thread (R75, R76); one behind a host or peer page is that agent's. -/
def State.performSig (s : State) (f : Flight) (add : Bool) (v : W64) : State :=
  let s :=
    match f.loc with
    | .dev pa => s.signalUpdate pa fun old => if add then old + v else v
    | _ => s
  (s.dropFor f.who f.loc).removeFlight f.id

/-! ## Uncorrectable errors met by an access (R201) -/

/-- A soft error in the word of memory at a place. -/
def State.strike (s : State) (loc : Loc) : State :=
  match loc.key with
  | some k => { s with flawed := (k / 8 :: s.flawed).eraseDups }
  | none => s

/-- Whether an agent has exited. -/
def State.departed (s : State) (a : Agent) : Bool :=
  !s.exists_ a ||
    match a with
    | .lane g t => ((s.gang g).lane t).st = .exited
    | a => (s.ctx a).st = .exited

/-- Whether the reader of a word may take a fault for it: it runs on at the level it read at, and waits for
nothing. -/
def State.mayFault (s : State) (f : Flight) : Bool :=
  match f.who with
  | .lane g t =>
    let l := (s.gang g).lane t
    l.st = .live && l.wait.isNone
  | a => (s.ctx a).st = .live && (s.ctx a).level = f.level && (s.ctx a).wait.isNone && (s.ctx a).fault.isNone

/-- The reader's destination keeps its value, and it takes 0x10 with its PC at the instruction (R276). -/
def State.readError (s : State) (f : Flight) : State :=
  let v := eccValue f.va
  let s := (s.removeFlight f.id).landBatch f.batch
  let lost (ps : List Pend) : List Pend := ps.filter fun p => p.src ≠ some f.id
  match f.who with
  | .lane g t =>
    let l := (s.gang g).lane t
    let l : Lane := { l with pc := f.pc.truncate 32, pend := lost l.pend }
    (s.setGang g ((s.gang g).setLane t l)).laneFaultBy g (oneHot t) 0x10 fun _ => v
  | a =>
    let c := s.ctx a
    (s.setCtx a { c with pc := f.pc, pend := lost c.pend }).groupEcc a v

/-- An access that meets a marked word: its reader faults, once it may; one of a thread that has exited ends. -/
def State.metError (s : State) (f : Flight) : State :=
  if s.departed f.who then (s.removeFlight f.id).landBatch f.batch
  else if s.mayFault f then s.readError f
  else s

/-- What a service gang does with a request. -/
def State.performRmw (s : State) (f : Flight) : State :=
  if f.op.isAtom && s.flawedLoc f.loc f.size then s.metError f
  else
    match f.op with
    | .atom op z b c => s.performAtom f op z b c
    | .sig add v => s.performSig f add v
    | .load _ | .store _ => s

/-! ## The events -/

def State.flight? (s : State) (id : Nat) : Option Flight := s.flight.find? fun f => f.id = id

/-- A load returns (R212): its value is written to its registers, or its reader faults; a soft error may strike
the word as it is read. -/
def execLoadReturn (id : Nat) (ecc : Bool) (s : State) : Out :=
  match s.flight? id with
  | none => .next s
  | some f =>
    match f.op with
    | .load z =>
      if !f.pending || !s.depsMet f then .next s
      else
        let s := if ecc && !s.cacheHit f then s.strike f.loc else s
        .next (if !s.cacheHit f && s.flawedLoc f.loc f.size then s.metError f else s.performLoad f z)
    | _ => .next s

/-- A store is performed (R212). -/
def execStorePerformed (id : Nat) (s : State) : Out :=
  match s.flight? id with
  | none => .next s
  | some f =>
    match f.op with
    | .store v => .next (if s.depsMet f then s.performStore f v else s)
    | _ => .next s

/-- The head request of a stream at a home: the first that has reached it. -/
def State.headRequest (s : State) (cluster stream : Nat) : Option Flight :=
  s.flight.find? fun f =>
    f.op.isAtom && f.pending && f.stream = stream && s.depsMet f && s.homeCluster f.loc = some cluster

/-- One step of a service gang (R241): the head of every stream, in ascending stream number. -/
def execServiceGangStep (cluster : Nat) (s : State) : Out :=
  let heads := (List.range 32).filterMap fun n => s.headRequest cluster n
  .next (heads.foldl (fun s f => s.performRmw f) s)

/-- An atomic's reply reaches its destination; a request that left the die is performed there (R241,
R246). -/
def execAtomicReply (id : Nat) (s : State) : Out :=
  match s.flight? id with
  | none => .next s
  | some f =>
    match f.op.isAtom, f.reply with
    | false, _ => .next s
    | true, some v => .next ((s.deliver f.who id v 0).removeFlight id)
    | true, none =>
      if s.depsMet f && (s.homeCluster f.loc).isNone then .next (s.performRmw f) else .next s

/-! ## Waiting on an address (R249) -/

/-- The wait of an agent; a gang stopped for pre-emption keeps its waits as they are (R291). -/
def State.waitOf (s : State) (a : Agent) : Option Wait :=
  if (agentGang? a).any s.frozen then none
  else
    match a with
    | .lane g t => ((s.gang g).lane t).wait
    | a => (s.ctx a).wait

/-- Whether a read of a place by an agent may be performed now: nothing of its own stands before it, nor, where it
reads a barrier's word, what the arrivals there follow (R230). -/
def State.mayRead (s : State) (a : Agent) (loc : Loc) : Bool :=
  (s.unperformed (s.afterOf a)).isEmpty && (s.unperformed (s.barriersAfter loc 8)).isEmpty &&
    !(s.flight.any fun f => f.who = a && f.pending && (f.acq || overlaps f.loc f.size loc 8))

/-- A wait on an address ends with the value read. -/
def State.endAddrWait (s : State) (a : Agent) (d : Dst) (v : W64) : State :=
  match a with
  | .lane g t =>
    let l := (s.gang g).lane t
    let l := { l with wait := none }.finish 2 [result d (BitVec.allOnes 64) v (s.tick + 1)]
    s.setGang g ((s.gang g).setLane t l)
  | a =>
    let c := s.ctx a
    let s := (s.setCtx a { c with wait := none }).groupResult a 2 d v 1
    s.setCtx a { s.ctx a with lastIssue := c.lastIssue }

/-- The place of the word that a thread waits on: in `.d` it is translated anew at every read, so that an
invalidated translation is used no more (R207). -/
def State.waitPlace (s : State) (a : Agent) (loc : Loc) (dotD : Bool) (va : W64) : State × Except Byte Loc :=
  if dotD then
    let (s, r) := s.translate (agentUnit a) (s.asidOf a) (s.rootOf a) va.toNat .load (s.levelOf a = .u)
    (s, r.map (·.1))
  else (s, .ok loc)

/-- A re-read that finds no page to read, or a marked word: the thread faults at its `waita`. -/
def State.waitFault (s : State) (a : Agent) (cause : Byte) (va : W64) : State :=
  match a, decide (cause = 0x10) with
  | .lane g t, true => s.laneFaultBy g (oneHot t) 0x10 fun _ => eccValue va
  | .lane g t, false => s.laneFaultOf g (oneHot t) cause va false
  | a, ecc =>
    let s := s.setCtx a { s.ctx a with wait := none }
    if ecc then s.groupEcc a (eccValue va) else s.groupFaultOf a cause va false

/-- One observation of a waiting thread: it ends the wait when the test holds, or at its deadline. -/
def State.observe (s : State) (a : Agent) (w : Wait) (final : Bool) : State :=
  match w.kind with
  | .addr loc dotD expected d eq scope va =>
    if !s.mayRead a loc then s
    else
      match s.waitPlace a loc dotD va with
      | (t, .error c) => t.waitFault a c va
      | (t, .ok place) =>
        if t.flawedLoc place 8 then t.waitFault a 0x10 va
        else
          let (t, bs) := t.loadBytes place 8
          let v := n64 (leNat bs)
          let ok := decide (v = expected) == eq
          if ok then ((t.endAddrWait a d v).acquired a scope).sync a
          else if final then t.endAddrWait a d v
          else t
  | _ => s

/-- Whether a thread that waits re-reads its word in this clock: in `.d` every 64 clk; in a slice as it
changes. -/
def Wait.rereads (w : Wait) (now : Nat) : Bool :=
  match w.kind with
  | .addr _ dotD _ _ _ _ _ => !dotD || decide ((now - w.since) % 64 = 0)
  | _ => false

/-- A waiting thread reads its word again. -/
def execWaitaReread (who : Agent) (s : State) : Out :=
  match s.waitOf who with
  | some w => .next (if w.rereads s.tick then s.observe who w false else s)
  | none => .next s

/-- The final read of a wait whose deadline has come. -/
def State.finalRead (s : State) (a : Agent) : State :=
  match s.waitOf a with
  | some w => if w.deadline ≤ s.tick then s.observe a w true else s
  | none => s

/-- The final reads at the end of a clock: they see every write performed at or before it (R249). -/
def State.finalReads (s : State) : State :=
  let s := s.gangs.foldl (fun s (g, _) => (gangAgents g).foldl State.finalRead s) s
  let s := s.steppes.foldl (fun s (n, _) => s.finalRead (.steppe (n / 4) (n % 4))) s
  s.saddles.foldl (fun s (n, _) => s.finalRead (.saddle n)) s

/-- A deadline that has passed: its clock made the final read, unless an earlier access of the thread stood
before it; then it follows here. -/
def execWaitaTimeout (who : Agent) (s : State) : Out :=
  match s.waitOf who with
  | some w => .next (if w.deadline < s.tick then s.observe who w true else s)
  | none => .next s

end Sys2Proof.Machine
end

