-- ==== Sys2Proof/Machine/Events.lean ====
section
/-! DEFINITION. What a core, its engines and the pool do on their own: traps taken (R276, R277), interrupts
(R281, R282), records posted (R283), code fetched (R117), copies, transfers and streams (R215–R218, R223,
R253, R254), slot switches (R78, R320). -/

namespace Sys2Proof.Machine

/-! ## Traps of a conductor (R276, R277) -/

/-- What a trap leaves of the wait it abandons: the instruction, its deadline and its recorded phase. -/
def Ctx.abandoned (c : Ctx) : Option (W64 × Nat × Bool) :=
  match c.wait with
  | none => c.resumed
  | some w => some (c.pc, w.deadline, match w.kind with | .bar _ p _ => p | _ => false)

/-- A conductor enters the handler at S in the clock after the one at whose end its trap was found, instead of
issuing (R276, R277, R289): an exited one with SEPC 0 and SSTAT.ce 1. A trap without
reported threads leaves SLPC at a value the manual does not state (log 4). -/
def State.enterHandler (s : State) (g : Nat) (cause : Byte) (stval : W64) (lanes : Option Parked) : State :=
  let x := s.gang g
  let c := x.cond
  let gone := decide (c.st = .exited)
  let (v, s) := s.fresh
  let cw : W64 := cause.zeroExtend 64
  let c := { c with resumed := if gone then none else c.abandoned }
  let c := c.enter (s.tick + 1) .s cw stval (if gone then 0 else c.pc) (vectorBase s.dev.ctvb + cw * 64) gone false
  s.setGang g
    { x with
        cond := { c with lastIssue := s.tick }
        slanes := (lanes.map Parked.mask).getD 0
        slpc := (lanes.map Parked.pc).getD (v.truncate 32) }

/-- The trap a gang takes at the end of a clock (R276): the conductor's own fault, a halt request, or the
oldest lane fault. None is taken inside a handler, by a conductor that is held, or while the launch is being
pre-empted (R290). -/
def State.takeTrap (s : State) (g : Nat) : State :=
  let x := s.gang g
  let c := x.cond
  if c.inHandler || c.st = .held || s.stopping g || vectorBase s.dev.ctvb = 0 then s
  else
    match c.fault, x.debug, x.parked.find? fun p => p.mask ≠ 0 with
    | some (cause, v), _, _ => s.enterHandler g cause v none
    | none, true, _ =>
      let s := s.chargeFault g 0x1F 0 false
      (s.setGang g { s.gang g with debug := false }).enterHandler g 0x1F 0 none
    | none, false, some p =>
      let low := x.lane ((threads p.mask).headD 0).val
      (s.setGang g { x with parked := x.parked.filter fun q => q.mask ≠ 0 && q ≠ p }).enterHandler g low.cause low.stval
        (some p)
    | none, false, none => s

/-- A trap is taken (R277). -/
def execTrapEntry (g : Nat) (s : State) : Out := if (afind g s.gangs).isSome then .next (s.takeTrap g) else .next s

/-- A halt request of the management controller (R275, R301). -/
def execDebugHalt (g : Nat) (s : State) : Out :=
  if (afind g s.gangs).isSome then .next (s.setGang g { s.gang g with debug := true }) else .next s

/-- A lazy binding's allowance of 2,200 clk passes: the operating system is at fault (R101, R289). -/
def execLazyBindingAllowanceExpiry (g : Nat) (s : State) : Out := .next (s.expireStubs g)

/-! ## Interrupts of a Steppe thread (R281, R282) -/

/-- A posted vector reaches its interrupt file. -/
def execMsiDelivery (n : Nat) (s : State) : Out :=
  match s.dev.msis[n]? with
  | none => .next s
  | some (core, v, _) =>
    let file := s.dev.files.getD core 0 ||| BitVec.ofNat 256 (2 ^ (v % 256))
    .next { s with dev := { s.dev with msis := s.dev.msis.eraseIdx n, files := s.dev.files.setIfInBounds core file } }

/-- The lowest vector pending for a hardware thread. -/
def State.pendingVector (s : State) (core thr : Nat) : Option Nat :=
  let f := s.dev.files.getD core 0
  (List.range 256).find? fun v => v % 4 = thr && f.getLsbD v

/-- A Steppe thread enters its handler for a vector: a `waita` issues again with its deadline, an `idle`
completes. -/
def State.interrupted (s : State) (a : Agent) (v : Nat) : State :=
  let idle := decide ((s.ctx a).wait.map Wait.kind = some WaitKind.idle)
  let s := if idle then s.endWait a .none 0 else s
  let c := s.ctx a
  let c := { c with resumed := if idle then c.resumed else c.abandoned }
  s.setCtx a (c.enter s.tick .s (0x8000000000000000 ||| n64 v) 0 c.pc (vectorBase c.stvb + 0x800) false true)

/-- The vector that a Steppe thread takes at its next instruction boundary: the lowest pending, with IE 1,
outside a handler (R281). -/
def State.vectorDue (s : State) (core thr : Nat) : Option Nat :=
  let c := s.ctx (.steppe core thr)
  if core < 8 && thr < 4 && c.st = .live && decide (c.from_ ≤ s.tick) && c.sstat.getLsbD 3 && !c.inHandler &&
      vectorBase c.stvb ≠ 0 then
    s.pendingVector core thr
  else none

/-- A Steppe thread takes its lowest pending vector (R281). -/
def execSteppeInterrupt (core thr : Nat) (s : State) : Out :=
  match s.vectorDue core thr with
  | none => .next s
  | some v =>
    let file := s.dev.files.getD core 0 &&& ~~~BitVec.ofNat 256 (2 ^ v)
    let s := { s with dev := { s.dev with files := s.dev.files.setIfInBounds core file } }
    .next (s.interrupted (.steppe core thr) v)

/-! ## Posting a record (R283, R284) -/

/-- The 64 bytes of a record as posted at a tick, the valid byte clear. -/
def Record.bytes (r : Record) (tick : Nat) : List Byte :=
  leBytes 1 0 ++ leBytes 1 r.kind ++ leBytes 1 r.cause ++ leBytes 1 0 ++ leBytes 2 r.asid ++ leBytes 2 r.core ++
    leBytes 8 r.stval.toNat ++ leBytes 8 r.info.toNat ++ leBytes 4 r.qid ++ leBytes 1 r.part ++ leBytes 1 r.slot ++
    leBytes 1 r.sd ++ leBytes 1 0 ++ leBytes 8 r.pc.toNat ++ leBytes 8 tick ++ leBytes 16 0

/-- The interrupt of the queue, if enabled. -/
def State.fqInterrupt (s : State) : State :=
  let w := s.fqU 20 4
  if w.testBit 0 then s.postVector (w / 2 % 8) (w / 256 % 256) else s

/-- A poster claims its slot; once the slot is free it writes its record, the valid byte last. Slots are
claimed in the order the records arose. -/
def State.postRecord (s : State) (n : Nat) (r : Record) : State :=
  match r.claimed with
  | none =>
    if (s.dev.records.take n).any fun x => x.claimed.isNone then s
    else
      let i := s.fqU 0 8
      let s := s.writeDev s.fqBase (leBytes 8 (i + 1))
      { s with dev := { s.dev with records := modAt (fun r => { r with claimed := some i }) n s.dev.records } }
  | some i =>
    if s.fqU 8 8 + s.fqEntries ≤ i || readByte s.mem (s.fqSlot i) = 1 then s
    else
      let s := (s.writeDev (s.fqSlot i) (r.bytes s.tick)).writeDev (s.fqSlot i) [1]
      let s := { s with dev := { s.dev with records := s.dev.records.eraseIdx n } }
      s.fqInterrupt.wakeConductors

/-- A poster goes on (R283); with SFQB zero it holds its record (R274). -/
def execFaultRecordPost (n : Nat) (s : State) : Out :=
  match s.dev.records[n]? with
  | some r => if s.fqBase = 0 then .next s else .next (s.postRecord n r)
  | none => .next s

/-! ## Code fetched on demand (R117) -/

/-- A missing line fills the unlocked part of the cache. -/
def execInstructionFetchFill (who : Agent) (s : State) : Out :=
  match s.missingLine who with
  | none => .next s
  | some loc =>
    let u := agentUnit who
    let line : Loc := match loc with
      | .dev pa => .dev (pa / 64 * 64)
      | .host pa => .host (pa / 64 * 64)
      | .peer n pa => .peer n (pa / 64 * 64)
      | .slice c o => .slice c (o / 64 * 64)
    let (s, bs) := s.loadBytes line 64
    let c := s.core u
    let struck := (List.range 8).filterMap fun w =>
      if s.flawedLoc (line.plus (8 * w)) 8 then some (8 * codeLine loc + w) else none
    .next (s.setCore u
      { c with
          icache := icacheFill (s.unlockedRoom u) (codeLine loc) bs c.icache
          codeBad := (c.codeBad.filter fun k => k / 8 ≠ codeLine loc) ++ struck })

/-! ## Copies (R215, R216, R223) -/

/-- The engine starts the first command of a launch (R215). -/
def execCopyStart (core launch : Nat) (s : State) : Out :=
  match (s.core core).copyHead launch with
  | none => .next s
  | some c =>
    if c.running || c.stopped || !(s.unperformed c.after).isEmpty then .next s
    else .next (s.setCopy { c with running := true })

/-- A transfer that completes late is charged (R254). What the retries that held it account for is nobody's here:
beyond A they are charged as they arise. The rest is the caller's of a transfer that stood behind an earlier command
of its core and launch, which software must space, and else the device's. -/
def State.chargeLate (s : State) (c : CopyCmd) : State :=
  if !c.xfer || c.due = 0 || s.tick ≤ c.due + c.retried then s
  else
    match s.launch? c.launch with
    | none => s
    | some l =>
      let late := n64 (s.tick - c.due - c.retried)
      if c.behind then s.charge l.qid 1 5 late else s.charge l.qid 3 4 late

/-- A command runs on: all that is left of it, or one granule of its turn while other launches share the
engine (R215); after its last granule the completion write is made. -/
def State.copyFinish (s : State) (core launch : Nat) (c : CopyCmd) : State × Stepped :=
  let top := copyGranules c.block
  let n := s.copySpanNow core c
  if c.done < top && !s.copyTurn core launch then (s, .wait)
  else
    match s.copyRun core launch n with
    | (s, .done) => if top ≤ c.done + n then s.copyWriteDone c else (s, .wait)
    | r => r

/-- A command completes (R216); with data or room missing it goes as far as it can. -/
def execCopyCompletion (core launch : Nat) (s : State) : Out :=
  match s.copyRuns core launch with
  | none => .next s
  | some c =>
    match s.copyFinish core launch c with
    | (t, .done) => .next ((t.copyLeave c).chargeLate c)
    | (t, .wait) => .next t
    | (_, .fault _ _ _) => .next s

/-- A soft error in the word of memory with a key. -/
def State.struck (s : State) (key : Option Nat) : State :=
  match key with
  | some k => { s with flawed := (k / 8 :: s.flawed).eraseDups }
  | none => s

/-- A command stops at its first granule that faults (R223), once a soft error may have struck a word. -/
def execCopyStop (core launch : Nat) (ecc : Option Nat) (s : State) : Out :=
  let u := s.struck ecc
  match u.copyRuns core launch with
  | none => .next s
  | some c =>
    match u.copyFinish core launch c with
    | (t, .fault cause v writes) =>
      match (t.core core).copyHead launch with
      | some k => .next (t.copyHalt k cause v writes)
      | none => .next s
    | _ => .next s

/-! ## Transfers (R253, R254) -/

/-- Hops between two cores (R200). -/
def hopsBetween (c d : Nat) : Nat :=
  ((c / 16 : Int) - (d / 16 : Int)).natAbs + ((c % 16 : Int) - (d % 16 : Int)).natAbs

/-- The core whose slice an address of a space lies in; none in `.d`. -/
def State.endCore (s : State) (x : Site) (sp : Space) (addr : Nat) : Option Nat :=
  match sp with
  | .d => none
  | .s => some x.core
  | .b => some (addr / 2 ^ 24)
  | sp =>
    match s.slicePlace (some x) x.level 0 sp addr 1 .load with
    | some (.slice c _, _) => some c
    | _ => none

/-- The copy time of a transfer at the hops it travels (R84, R254). -/
def State.xferTime (s : State) (x : Site) (b : List W64) : Nat :=
  let q := ((s.launch? x.launch).bind fun l => s.quote? l.qid)
  let share := max 1 ((q.map (·.devShare)).getD 1)
  let parts := ((q.map fun q => (q.partsOn x.core).length).getD 1)
  let from_ := s.endCore x (copySrcSpace b) (copySrc b)
  let to_ := s.endCore x (copyDstSpace b) (copyDst b)
  let h := hopsBetween (from_.getD x.core) (to_.getD x.core)
  let line := 700 + ceilDiv 36864 (max 1 s.dev.channels * share)
  let side (e : Option Nat) : Nat × Nat :=
    match e with
    | none => (line, ceilDiv 4 share)
    | some c => if c = x.core then (24, 1) else (32 + 6 * h, 2)
  let f := max (side from_).1 (side to_).1
  let r := max (side from_).2 (side to_).2
  30 + f + (copyGranules b - 1) * r * (17 - parts) + 8

/-- The transfer of a core that enters its engine next: its clock has come in a communication step. -/
def State.nextXfer (s : State) (core : Nat) : Option Xfer :=
  let due (x : Xfer) : Bool :=
    match s.launch? x.launch with
    | some l => l.communicates && decide (l.stepStart + x.at_ ≤ s.tick)
    | none => false
  ((s.core core).xfers.filter due).foldl (fun m x =>
    match m with
    | some y => if x.at_ < y.at_ then some x else some y
    | none => some x) none

/-- A scheduled transfer enters the copy engine (R253), once its partition has a place there and the
range-lock table room (R215). -/
def execXferStart (core : Nat) (s : State) : Out :=
  match s.nextXfer core with
  | none => .next s
  | some x =>
    let c := s.core core
    let taken := (c.copies.filter fun k => k.part = x.part).length
    if 16 ≤ taken || c.freeLocks < (copyLocks x.block).length then .next s
    else
      let ahead := c.copies.filter fun k => k.launch = x.launch
      let start := ((s.launch? x.launch).map (·.stepStart)).getD s.tick
      let (n, s) := s.nextCopy x.launch (192 + core)
      let c := s.core core
      let s := s.setCore core { c with xfers := c.xfers.erase x }
      let cmd := copyCmd n x.part x.gang x.site x.block x.gen true (s.released (.cond x.gang))
      .next (s.copyEnter { cmd with
        due := start + x.at_ + s.xferTime x.site x.block
        behind := !ahead.isEmpty
        retried := (ahead.getLast?.map (·.retried)).getD 0 })

/-! ## Streams (R218, R223) -/

/-- An entry's data arrives, and it is claimed. -/
def execStreamEntryClaim (g : Nat) (k : Fin 4) (s : State) : Out :=
  if s.stopping g then .next s else .next (s.streamClaim g k)

/-- A stream stops (R223), once a soft error may have struck a word. -/
def execStreamStop (g : Nat) (k : Fin 4) (ecc : Option Nat) (s : State) : Out :=
  if s.stopping g || !(s.struck ecc).streamStops g k then .next s else .next ((s.struck ecc).streamHalt g k)

/-! ## The pool (R78, R320) -/

/-- The core that waits in `sys.slot`, and the slot it names, once the other eleven are in `idle`. -/
def State.slotReady (s : State) : Option (Nat × Nat) :=
  saddleCores.findSome? fun c =>
    match (s.ctx (.saddle c)).wait.map Wait.kind with
    | some (.slot n) =>
      let idle (k : Nat) : Bool := k = c || (s.ctx (.saddle k)).wait.map Wait.kind = some WaitKind.idle
      if saddleCores.all idle then some (c, n) else none
    | _ => none

/-- The pool is reset into the new slot. -/
def execSlotSwitch (s : State) : Out :=
  match s.slotReady with
  | some (c, n) => .next (s.switchSlot c n)
  | none => .next s

/-- The window closes with FSLOT[3] still set. -/
def execRollBack (s : State) : Out :=
  match s.dev.windowEnd with
  | some t => if t ≤ s.tick && s.dev.fslot.getLsbD 3 then .next s.rollBack else .next s
  | none => .next s

/-- An FWDT period passes in normal service without a heartbeat. -/
def execWatchdogExpiry (s : State) : Out :=
  let d := s.dev
  if d.fwdt = 0 || d.fslot &&& 0x68 ≠ 0 || decide (s.tick < d.watchdog + d.fwdt.toNat) then .next s
  else .next (s.firmwareFault 0x04 0xFF (if d.fslot.getLsbD 0 then 1 else 0))

end Sys2Proof.Machine
end

