-- ==== Sys2Proof/Machine/Outside.lean ====
section
/-! DEFINITION. What the world outside does: the host and peers (R299, R300), mesh retries (R254), image
slots (R79), boot and resets (R296, R297, R303), power and temperature (R304), the side-band port (R298,
R301). -/

namespace Sys2Proof.Machine

/-! ## Host and peers -/

/-- Bytes that an access from outside has read. -/
def State.answered (s : State) (bs : List Byte) : State := { s with dev := { s.dev with answers := s.dev.answers ++ [bs] } }

/-- Bytes of device memory as an access from outside reads them: zero beyond its size (R299). -/
def State.outsideRead (s : State) (addr n : Nat) : List Byte :=
  (List.range n).map fun k => if addr + k < s.dev.memBytes then readByte s.mem (addr + k) else 0

/-- A write of device memory from outside: bytes beyond its size are dropped (R299). -/
def State.outsideWrite (s : State) (addr n : Nat) (v : W64) : State :=
  s.storeBytes (.dev addr) ((leBytes n v.toNat).take (s.dev.memBytes - addr)) 1

/-- A read or write of device memory of 1 to 8 bytes from outside. -/
def State.outsideAccess (s : State) (addr n : Nat) (wr : Option W64) : State :=
  if n = 0 || 8 < n then s
  else
    match wr with
    | some v => s.outsideWrite addr n v
    | none => s.answered (s.outsideRead addr n)

/-- Size of BAR 4. -/
def bar4Bytes : Nat := 2 ^ 38

/-- What BAR 0 reads: the device information block, then zero (R299). -/
def State.bar0Read (s : State) (off n : Nat) : List Byte :=
  (List.range n).map fun k => if off + k < 4096 then readByte s.mem (off + k) else 0

/-- A host access of 1 to 8 bytes through BAR 4 or, at offsets from the size of BAR 4 on, through BAR 0, which
admits no write (log 81). -/
def execHostBar4Access (addr n : Nat) (wr : Option W64) (s : State) : Out :=
  if s.dev.dark then .next s
  else if addr < bar4Bytes then .next (s.outsideAccess addr n wr)
  else if wr.isSome || n = 0 || 8 < n || bar4Bytes + 65536 < addr + n then .next s
  else .next (s.answered (s.bar0Read (addr - bar4Bytes) n))

/-- A PCIe AtomicOp of the host: FetchAdd, Swap or CAS on an aligned word of device memory (R299); it returns the
old value. -/
def execHostAtomicop (addr : Nat) (z : ASize) (op : Aop) (b c : W64) (s : State) : Out :=
  let n := aSizeBytes z
  if s.dev.dark || addr % n ≠ 0 || !hostAtomOk (.host addr) op then .next s
  else
    let bs := s.outsideRead addr n
    let s := s.answered bs
    match atomValue op (8 * n) (leNat bs) (b.toNat % 2 ^ (8 * n)) (c.toNat % 2 ^ (8 * n)) with
    | some v => .next (s.outsideWrite addr n (n64 v))
    | none => .next s

/-- Offset of the wake registers among a device's peer offsets (R300). -/
def peerWakes : Nat := 0x0F0000000000

/-- A peer's access to device memory or to a wake register (R300, R70). -/
def execPeerAccess (_peer addr n : Nat) (wr : Option W64) (s : State) : Out :=
  if s.dev.dark then .next s
  else if peerWakes ≤ addr ∧ addr < peerWakes + 0x8000 then
    match wr with
    | some v => if n = 8 ∧ addr % 8 = 0 then .next (s.wakeStore ((addr - peerWakes) / 8) v) else .next s
    | none => .next s
  else .next (s.outsideAccess addr n wr)

/-- The clocks of a retry hold what a launch has in a core's copy engine: the command under way and those behind. -/
def State.retryCopies (s : State) (launch core clk : Nat) : State :=
  let c := s.core core
  if 192 ≤ core then s
  else
    s.setCore core { c with copies := c.copies.map fun k =>
      if k.launch = launch then { k with retried := k.retried + clk } else k }

/-- A flit is retried on the mesh or a link, for at most 64 clk (R300): one of the copy engine of a core, or of other
traffic where `core` is none of the part's. Beyond the retry allowance A the device has broken its word (R101, R295). -/
def execMeshOrLinkRetry (launch : Nat) (retry : Retry) (s : State) : Out :=
  match s.launch? launch with
  | none => .next s
  | some l =>
    let clk := retry.clk
    let n := l.retries + clk
    let t := (s.setLaunch launch { l with retries := n }).retryCopies launch retry.core clk
    let s := if clk ≤ 64 then t else s
    match if clk ≤ 64 then s.quote? l.qid else none with
    | some q => if q.retry < n && clk ≠ 0 then .next (s.charge l.qid 3 3 (n64 (n - q.retry))) else .next s
    | none => .next s

/-! ## Image slots (R79) -/

/-- Bytes written over a list from an offset, zeros where it was shorter. -/
def overwrite (old : List Byte) (off : Nat) (bs : List Byte) : List Byte :=
  let front := old.take off
  front ++ List.replicate (off - front.length) 0 ++ bs ++ old.drop (off + bs.length)

/-- A write to an image slot clears FSLOT[7]. -/
def execSlotImageWrite (slotB : Bool) (off : Nat) (bytes : List Byte) (s : State) : Out :=
  let d := s.dev
  let image : Image := { bytes := overwrite (d.image slotB).bytes off bytes }
  let d := if slotB then { d with imageB := image } else { d with imageA := image }
  .next { s with dev := { d with fslot := d.fslot &&& ~~~0x80 } }

/-! ## Resets (R274, R303) -/

/-- What a reset of the main side at a tick leaves of a device: the part it is, its image slots, FSLOT in
start-up mode with what is left of a switch window, and what the management controller keeps. -/
def Dev.afterReset (d : Dev) (tick : Nat) : Dev :=
  { Dev.reset with
      cores := d.cores, channels := d.channels, channelMask := d.channelMask, memBytes := d.memBytes
      envelope := d.envelope, imageA := d.imageA, imageB := d.imageB
      fslot := (d.fslot &&& 0x9F) ||| 0x20, oldSlot := d.oldSlot, windowEnd := d.windowEnd.map (· - tick)
      box := d.box, frozen := d.frozen, hot := d.hot, sideband := d.sideband, owed := d.owed,
      answers := d.answers, notices := d.notices }

/-- The machine after a reset of its main side; the model's own fields go on. -/
def State.afterReset (s : State) : State :=
  { State.reset with dev := s.dev.afterReset s.tick, agenda := s.agenda, moves := s.moves, free := s.free }

/-- A boot stage begins, and is logged. -/
def State.stage (s : State) (n : Nat) : State :=
  ({ s with dev := { s.dev with booted := n } }).log 0x01 0xFF 0xFFFF 0 0 (n64 n)

/-- Power-on: the first stage begins. -/
def execPowerOn (s : State) : Out :=
  let s := s.afterReset
  .next (({ s with dev := { s.dev with box := [], frozen := false, owed := [] } }).stage 1)

/-- A reset of the main side: its entry, then the ring freezes and the stages begin anew. -/
def State.resetMain (s : State) (cause : Nat) : State :=
  let s := s.log 0x0B 0xFF 0xFFFF 0 0 (n64 cause)
  let s := s.afterReset
  ({ s with dev := { s.dev with frozen := true } }).stage 1

/-- A reset by command, thermal or power. -/
def execMainSideReset (cause : Fin 3) (s : State) : Out := .next (s.resetMain cause.val)

/-! ## Boot (R303) -/

/-- Stage 2: the running slot is digested and verified; if that fails it is marked failed and the other is tried,
whatever its failed bit says from before; if both fail, the device halts. -/
def State.bootVerify (s : State) : State :=
  let d := s.dev
  let slotB := d.fslot.getLsbD 0
  if d.dark then s
  else
    let x := d.image slotB
    let ok := Config.falcon (shake256 x.body) x.trailer
    let s := s.log 0x0C 0 0xFFFF 0 0 (n64 ((if slotB then 1 else 0) + if ok then 2 else 0))
    if ok then s.stage 3
    else
      let f := d.fslot ||| (if slotB then 0x04 else 0x02)
      { s with dev := { s.dev with fslot := if d.bootFails = 0 then f ^^^ 1 else f, bootFails := d.bootFails + 1 } }

/-- Channels that failing pairs leave. -/
def lostMask (pairs : BitVec 12) : BitVec 24 :=
  (List.range 12).foldl (fun m k => if pairs.getLsbD k then m ||| BitVec.ofNat 24 (3 * 4 ^ k) else m) 0

/-- Stage 3: a failing pair of channels is mapped out (R297). -/
def State.bootTrain (s : State) (pairs : BitVec 12) : State :=
  let d := s.dev
  let mask := d.channelMask &&& ~~~lostMask pairs
  let n := ((List.range 24).filter fun k => mask.getLsbD k).length
  ({ s with dev := { d with channelMask := mask, channels := n, memBytes := n * 2 ^ 33 } }).stage 4

/-- The cores of absent clusters, which go in whole clusters (R5, R297). -/
def lostCores (clusters : BitVec 48) : BitVec 192 :=
  (List.range 192).foldl (fun m c => if clusters.getLsbD (clusterOf c) then m ||| BitVec.ofNat 192 (2 ^ c) else m) 0

/-- Stage 4: absent clusters are recorded. -/
def State.bootMesh (s : State) (clusters : BitVec 48) : State :=
  ({ s with dev := { s.dev with cores := s.dev.cores &&& ~~~lostCores clusters } }).stage 5

/-- The device information block (R296). -/
def Dev.info (d : Dev) : List Byte :=
  leBytes 4 0x49445753 ++ leBytes 2 1 ++ leBytes 2 ((List.range 192).filter fun c => d.cores.getLsbD c).length ++
    leBytes 24 d.cores.toNat ++ leBytes 4 d.channelMask.toNat ++ leBytes 2 d.channels ++ leBytes 2 d.envelope ++
    leBytes 8 d.qdir ++ leBytes 8 d.memBytes ++ leBytes 8 0

/-- Stage 5: reserved slice areas cleared, the directory zeroed, the information block written. -/
def State.bootTables (s : State) : State :=
  let d := s.dev
  let reserved (k : Nat) : Bool := decide (2 ^ 60 ≤ k) && decide (grantBase ≤ (k - 2 ^ 60) % 2 ^ 24)
  let gone (k : Nat) : Bool :=
    reserved k || (decide (d.qdir ≤ k) && decide (k < d.qdir + 4096 * 64)) || decide (k < 4096)
  let mem := s.mem.filter fun e => !gone e.1
  (({ s with mem := mem, flawed := s.flawed.filter fun w => !gone (8 * w) }).pokeBytes 0 d.info).stage 6

/-- Stage 6: the Steppe operating system is loaded. What the host brings comes through BAR 4 meanwhile. -/
def State.bootLoad (s : State) : State := Config.steppeImage.foldl (fun s e => s.pokeDev e.1 e.2) s

/-- Stage 7 begins: Steppe threads start at S, the Saddle image enters at F, FTVB as the ROM leaves it; the
management controller posts the breaches it owes (R304). -/
def State.bootStart (s : State) : State :=
  let s := s.stage 7
  let s := { s with dev := { s.dev with ftvb := Config.romVector } }
  let thread (n : Nat) : Nat × Ctx :=
    (n, { Ctx.empty .s .live with pc := Config.steppeEntry, lastIssue := s.tick })
  let s := ({ s with steppes := (List.range 32).map thread }).resetPool
  let owed := s.dev.owed
  let s := { s with dev := { s.dev with owed := [] } }
  owed.foldl (fun s (q, a, t) => s.breach q a 6 (n64 t)) s

/-- A boot stage finishes and the next begins. -/
def execBootStageReached (lostPairs : BitVec 12) (lostClusters : BitVec 48) (s : State) : Out :=
  match s.dev.booted with
  | 0 => .next (s.stage 1)
  | 1 => .next (s.stage 2)
  | 2 => .next s.bootVerify
  | 3 => .next (s.bootTrain lostPairs)
  | 4 => .next (s.bootMesh lostClusters)
  | 5 => .next s.bootTables
  | 6 => .next s.bootLoad.bootStart
  | _ => .next s

/-! ## Error counters (R296) -/

/-- A core's counters are written to the information block. -/
def execErrorCounterUpdate (core : Nat) (s : State) : Out :=
  if core < 192 ∧ 6 ≤ s.dev.booted then
    let c := s.core core
    let s := s.setCore core { c with errsShown := c.errs }
    .next ((s.pokeLE (64 + 8 * core) 4 c.errs.1.toNat).pokeLE (68 + 8 * core) 4 c.errs.2.toNat)
  else .next s

/-! ## Temperature and envelope (R304) -/

/-- The die reaches 105 °C: new quotations are refused. -/
def execThermalTrip (temp : BitVec 16) (s : State) : Out :=
  if temp.toNat < 105 || s.dev.hot then .next s
  else .next (({ s with dev := { s.dev with hot := true } }).log 0x08 0xFF 0xFFFF 0 0 (temp.zeroExtend 64))

/-- The die falls below 95 °C. -/
def execThermalRecovery (temp : BitVec 16) (s : State) : Out :=
  if temp.toNat < 95 then .next { s with dev := { s.dev with hot := false } } else .next s

/-- The die reaches 115 °C: the main side is reset, and every quotation in state 4 is owed a breach. -/
def execThermalEmergency (temp : BitVec 16) (s : State) : Out :=
  if temp.toNat < 115 then .next s
  else
    let s := s.log 0x08 0xFF 0xFFFF 0 0 (temp.zeroExtend 64)
    let owed := (s.quotes.filter fun q => q.state = 4).map fun q => (q.id, q.asid, temp.toNat)
    .next (({ s with dev := { s.dev with hot := true, owed := s.dev.owed ++ owed } }).resetMain 1)

/-- A setting of the envelope: 900 W to 1,500 W in steps of 25 W. -/
def execSetEnvelope (watts : Nat) (s : State) : Out :=
  if 900 ≤ watts ∧ watts ≤ 1500 ∧ watts % 25 = 0 then
    .next (({ s with dev := { s.dev with envelope := watts } }).log 0x0A 0xFF 0xFFFF 0 0 (n64 watts))
  else .next s

/-! ## The side-band port (R298, R301) -/

/-- A reply sent through the side-band port. -/
def State.reply (s : State) (kind : Nat) (ws : List W64) : State :=
  { s with dev := { s.dev with sideband := s.dev.sideband ++ [(kind, ws)] } }

/-- An SPDM request answered by the management controller (log 18). -/
def State.spdm (s : State) (kind : Nat) : State :=
  ({ s with free := s.free + 1 }).reply kind (Config.spdmAnswer kind s.free)

/-- GET_VERSION. -/
def execGetVersion (s : State) : Out := .next (s.spdm 0)

/-- GET_CAPABILITIES. -/
def execGetCapabilities (s : State) : Out := .next (s.spdm 1)

/-- NEGOTIATE_ALGORITHMS. -/
def execNegotiateAlgorithms (s : State) : Out := .next (s.spdm 2)

/-- GET_DIGESTS. -/
def execGetDigests (s : State) : Out := .next (s.spdm 3)

/-- GET_CERTIFICATE. -/
def execGetCertificate (s : State) : Out := .next (s.spdm 4)

/-- CHALLENGE. -/
def execChallenge (s : State) : Out := .next (s.spdm 5)

/-- Bytes as 64-bit words, the last filled with zeros. -/
def wordsOf (bs : List Byte) : List W64 := (List.range (ceilDiv bs.length 8)).map fun k => n64 (leNat ((bs.drop (8 * k)).take 8))

/-- GET_MEASUREMENTS of one index. -/
def execGetMeasurements (idx : Fin 16) (s : State) : Out :=
  .next (s.reply 6 (n64 idx.val :: wordsOf (s.dev.sec.measure.getD idx.val [])))

/-- Telemetry: the information block, temperature and power per rail. -/
def execTelemetryRead (s : State) : Out :=
  .next (({ s with free := s.free + 1 }).reply 7 (wordsOf (readBytes s.mem 0 4096) ++ Config.telemetry s.free))

/-- An entry of the black box as its 32 bytes (R298). -/
def BoxEntry.words (e : BoxEntry) : List W64 :=
  [n64 e.tick, n64 (e.kind + 256 * e.io + 65536 * e.core + 2 ^ 32 * e.asid), n64 e.qid, e.detail]

/-- The black box is read, and unfrozen. -/
def execBlackBoxRead (s : State) : Out :=
  .next (({ s with dev := { s.dev with frozen := false } }).reply 8 (s.dev.box.flatMap BoxEntry.words))

end Sys2Proof.Machine
end

