-- ==== Sys2Proof/Machine/Ready.lean ====
section
/-! DEFINITION. When a thread's next instruction can issue (R119): its operands' latencies ended (R137),
no stall condition of the instruction holds, and no pre-emption stops the thread at a point (R290). -/

namespace Sys2Proof.Machine

/-! ## Operands (R137, R139) -/

/-- The lane register a key names (`readsOf`): an index register is read as it stands (R142). -/
def Lane.keyReg (l : Lane) (k : Nat) : Nat :=
  let named (j : Nat) : Nat := if h : j < 4 then l.x[j].base.toNat + l.x[j].cur.toNat else 0
  if k < 96 then k else if k < 100 then named (k - 96) else named (k - 100) + 1

/-- No result of a lane register is still to come. -/
def Lane.landed (l : Lane) (k : Nat) : Bool := !(l.pend.any fun p => p.dst = .reg (l.keyReg k))

/-- No result of a group register is still to come. -/
def Ctx.landed (c : Ctx) (k : Nat) : Bool := !(c.pend.any fun p => p.dst = .reg k)

/-- No flags of an earlier instruction are still to come (R165). -/
def Lane.flagsLanded (l : Lane) : Bool := !(l.pend.any fun p => p.dst = .ffl)

/-! ## Requests in flight (R209, R241) -/

/-- Request slots in use on a core: accesses of its threads that have not been answered. -/
def State.requestsOn (s : State) (core : Nat) : Nat :=
  (s.flight.filter fun f => match agentGang? f.who with | some g => gangCore g = core | none => false).length

def requestSlots : Nat := 8192

/-- The home of an atomic at an address, if its checks pass. -/
def State.homeOf (s : State) (a : Agent) (sp : Space) (addr : W64) (z : Nat) : Option Nat :=
  match (s.checkAccess a sp addr z .atom true fun _ => true).2 with
  | .ok p => s.homeCluster p.loc
  | .error _ => none

/-- Requests of a stream that a home holds. -/
def State.streamLoad (s : State) (stream home : Nat) : Nat :=
  (s.flight.filter fun f => f.op.isAtom && f.pending && f.stream = stream && s.homeCluster f.loc = some home).length

/-- Whether an agent's atomic finds room in its stream beside `n` that go to the same home before it. -/
def State.streamRoom (s : State) (a : Agent) (home : Option Nat) (n : Nat) : Bool :=
  match home with
  | some h => decide (s.streamLoad (s.streamOf a) h + n < 256)
  | none => true

/-- Neither counter of an atomic would pass 15 (R212). -/
def State.atomCounters (s : State) (a : Agent) : Bool := decide (s.loadsOf a < 15) && decide (s.storesOf a < 15)

/-- What a fence waits for (R248). -/
def State.fenceReady (s : State) (a : Agent) (k : FenceKind) : Bool :=
  match k with
  | .zero => true
  | .acq => s.loadsOf a = 0
  | .rel => s.storesOf a = 0
  | .acqrel => s.drained a

/-- No acquire of a thread is pending while its core holds range locks: an access that waited for the acquire of a
completion write never meets that command's locks (R232; log 79). -/
def State.lockFree (s : State) (a : Agent) : Bool :=
  !(s.flight.any fun f => f.who = a && f.pending && f.acq) || (s.core (agentUnit a)).locks.isEmpty

/-! ## Lane threads -/

/-- The instruction or prefix unit at a lane PC: the words before the last, and the last with the fields
an accumulator fragment replaces read as `vz` (R46). -/
def Kernel.unitAt (k : Kernel) (pc : Nat) : List W32 × W32 :=
  match unitWords k.laneCode [] 3 pc [] with
  | some (pres, w) =>
    (pres, pres.foldl (fun w p =>
      if !isAccsrc p then w
      else if bit p 14 then (w &&& ~~~0xFE) ||| 0xC8
      else (w &&& ~~~0x7F00) ||| 0x6400) w)
  | none => ([], k.laneCode.getD pc 0)

/-- The instruction of a word, its second word from the section. -/
def Kernel.decodeAt (k : Kernel) (pc : Nat) (w : W32) : Option Instr :=
  match decode w (k.laneCode.getD (pc + 1) 0) with
  | .ok i => some i
  | .error _ => none

/-- The instructions a lane thread issues together at its PC. -/
def Kernel.unitInstrs (k : Kernel) (pc : Nat) : List Instr :=
  let (pres, w) := k.unitAt pc
  (pres ++ [w]).filterMap fun x => k.decodeAt pc x

/-- No stall condition of a lane instruction holds for a thread (R119). -/
def State.laneMay (s : State) (g t : Nat) (i : Instr) : Bool :=
  let a : Agent := .lane g t
  let x := s.gang g
  let l := x.lane t
  match i with
  | .ld _ _ _ _ _ | .ldacq _ _ _ _ _ => decide (s.loadsOf a < 15) && s.lockFree a
  | .st _ _ _ _ _ => decide (s.storesOf a < 15) && s.lockFree a
  | .strel _ _ _ _ _ => s.storesOf a = 0 && s.lockFree a
  | .atom _ _ _ _ _ => s.atomCounters a && s.lockFree a
  | .qpop _ => x.dq.depth = 0 || x.dqHas t
  | .qpush _ => x.uq.depth = 0 || x.uqRoom t
  | .fence k _ => s.fenceReady a k
  | .waitc n m => decide (s.loadsOf a ≤ n.toNat) && decide (s.storesOf a ≤ m.toNat)
  | .exit => s.drained a
  | .ret => l.cdep ≠ 0 || s.drained a
  | .csrr _ c | .csrw _ c => c ≠ 2 || l.flagsLanded
  | .accsrc tile _ _ sup => !s.tilePending (gangCore g) (fragTile tile sup)
  | _ => true

/-- A launch is being pre-empted and lists a point at a code address (R290). -/
def State.stopsAt (s : State) (g pc : Nat) : Bool := s.stopping g && (s.kernel g).points.any fun e => e.1.toNat = pc

/-- A lane thread's operands are ready. -/
def State.laneLanded (s : State) (g t : Nat) : Bool :=
  let l := (s.gang g).lane t
  ((s.kernel g).unitInstrs l.pc.toNat).all fun i => (readsOf i).all l.landed

/-- A lane thread can issue now, but for what its issue group as a whole needs. -/
def State.laneReady (s : State) (g t : Nat) : Bool :=
  let x := s.gang g
  let l := x.lane t
  l.st = .live && !s.synced.contains (.lane g t) && !l.held && l.wait.isNone && !x.frozen && decide (x.begun ≤ s.tick) && !s.stopsAt g l.pc.toNat && s.laneLanded g t &&
    ((s.kernel g).unitInstrs l.pc.toNat).all (s.laneMay g t)

/-- The threads of a mask whose atomics find room in their streams, taken in ascending order (R241). -/
def State.roomy (s : State) (g : Nat) (m : W32) (sp : Space) (z : Nat) (addr : Fin 32 → W64) : W32 :=
  ((threads m).foldl (fun (kept, homes) t =>
    let home := s.homeOf (.lane g t.val) sp (addr t) z
    if s.streamRoom (.lane g t.val) home (homes.filter fun h => h = home).length then
      (kept ||| oneHot t.val, home :: homes)
    else (kept, homes)) ((0 : W32), ([] : List (Option Nat)))).1

/-- The issue group that the ready threads of a PC form (R209, R241). -/
def State.groupOf (s : State) (g pc : Nat) (m : W32) : W32 :=
  match (s.kernel g).decodeAt pc ((s.kernel g).laneCode.getD pc 0) with
  | some (.ld _ _ _ _ _) | some (.ldacq _ _ _ _ _) =>
    if requestSlots < s.requestsOn (gangCore g) + popcount m then 0 else m
  | some (.atom z d a sp f) =>
    let e := laneEnv s g (.atom z d a sp f)
    s.roomy g m sp (aSizeBytes z) fun t => okOr 0 (readSrc e t ((s.gang g).lane t.val) a)
  | _ => m

/-- The issue groups of a gang: each PC, ascending, with its ready threads. -/
def State.laneGroups (s : State) (g : Nat) : List (Nat × W32) :=
  let ready := slots.filter fun t => s.laneReady g t.val
  let byPc := ready.foldl (fun m t =>
    let pc := ((s.gang g).lane t.val).pc.toNat
    aput pc (aget 0 pc m ||| oneHot t.val) m) ([] : List (Nat × W32))
  (byPc.map fun (pc, m) => (pc, s.groupOf g pc m)).filter fun e => e.2 ≠ 0

/-! ## Conductors, Steppe threads and Saddle cores -/

/-- Whether a core's engine queue holds nothing of its users. -/
def CoreSt.userQueueEmpty (c : CoreSt) : Bool := c.mx.all (·.super)

/-- Commands of a partition in its copy engine (R214). -/
def CoreSt.copiesIn (c : CoreSt) (part : Nat) : Nat := (c.copies.filter fun k => k.part = part).length

/-- A queue instruction of a conductor finds room or an entry, or a depth of 0 that faults (R150–R152). -/
def Gang.queueReady (x : Gang) (up : Bool) : Bool :=
  decide ((x.queue up).depth = 0) || (if up then x.uqHas else x.dqRoom)

/-- Nothing that a `bar` of a core must follow is pending, of its conductor's own or of what the conductor's
acquires have seen released: an acquire, or an access to the barrier's words (R225, R236; log 79). -/
def State.barFree (s : State) (g b : Nat) : Bool :=
  !(s.flight.any fun f => (f.who = .cond g || (s.afterOf (.cond g)).contains f.id) && f.pending &&
    (f.acq || overlaps f.loc f.size (.slice (gangCore g) (barArea + 16 * b)) 16))

/-- The descriptor of the signal that a thread updates is not behind a store of its own (R13, R228). -/
def State.signalFree (s : State) (a : Agent) (addr : W64) : Bool :=
  match (s.checkAccess a .d addr 16 .store false fun _ => true).2 with
  | .ok p => !(s.flight.any fun f => f.who = a && f.pending && !f.op.isLoad && overlaps f.loc f.size p.loc 16)
  | .error _ => true

/-- None of a core's atomics is pending (R230, R323). -/
def State.atomsDone (s : State) (a : Agent) : Bool := !(s.flight.any fun f => f.who = a && f.pending && f.op.isAtom)

/-- No stall condition of a conductor's engine and queue instructions holds. -/
def State.conductorMay (s : State) (g : Nat) (i : Instr) : Bool :=
  let x := s.gang g
  let c := s.core (gangCore g)
  match i with
  | .groupQpush _ => x.queueReady false
  | .groupQpop _ => x.queueReady true
  | .strm k _ _ _ => !x.sd[k].running
  | .strmgo k => !x.sd[k].running && decide (s.copiesOf g < 15) && decide (1 ≤ c.freeLocks)
  | .mxq p _ =>
    decide (c.mx.length < 8) && decide (s.tileOpsOf g < 15) && decide ((mxLocks (s.block g p.val 8)).length ≤ c.freeLocks)
  | .mxctlTilewait t => !s.tilePending (gangCore g) t.val
  | .mxctlCtab p =>
    !s.holdsBaton g || decide ((s.kernel g).groupRegs ≤ p.val + 1) || !(c.mx.any fun o => o.bankNo ≠ c.bank)
  | .mxctlPass => x.cond.level = .u || !s.holdsBaton g || !(c.mx.any (·.super))
  | .mxsave _ => x.cond.level = .u || c.userQueueEmpty
  | .mxrest _ => x.cond.level = .u || c.mx.isEmpty
  | .barInit b _ | .barArrive b | .barWait b _ | .barSync b _ | .barPost b _ | .barTake b _ | .barStat b _ =>
    s.barFree g b.val
  | .cpy p _ =>
    decide (c.copiesIn (gangPart g) < 16) && decide (s.copiesOf g < 15) &&
      decide ((copyLocks (s.block g p.val 8)).length ≤ c.freeLocks)
  | .groupExit => s.copiesOf g = 0 && s.tileOpsOf g = 0
  | .groupRet => x.cond.cdep ≠ 0 || (s.copiesOf g = 0 && s.tileOpsOf g = 0)
  | .groupWaitc _ _ n m => decide (s.copiesOf g ≤ n.toNat) && decide (s.tileOpsOf g ≤ m.toNat)
  | _ => true

/-- A core has a request slot left for one thread; Steppe and Saddle cores have no such table. -/
def State.slotLeft (s : State) (a : Agent) : Bool :=
  match a with
  | .cond g => decide (s.requestsOn (gangCore g) < requestSlots)
  | _ => true

/-- No stall condition of a group instruction's accesses holds (R212, R241, R247, R248). -/
def State.groupMay (s : State) (a : Agent) (i : Instr) : Bool :=
  match i with
  | .groupLd _ _ _ _ | .groupLdacq _ _ _ _ => decide (s.loadsOf a < 15) && s.slotLeft a && s.lockFree a
  | .groupSt _ _ _ _ => decide (s.storesOf a < 15) && s.lockFree a
  | .groupStrel _ _ _ _ => s.storesOf a = 0 && s.lockFree a
  | .groupAtom z _ r sp _ => s.atomCounters a && s.lockFree a && s.streamRoom a (s.homeOf a sp (readG s a r) (aSizeBytes z)) 0
  | .sigSet r _ | .sigAdd r _ => s.signalFree a (readG s a r) && s.atomCounters a && s.streamRoom a (s.homeOf a .d (readG s a r) 16) 0
  | .groupFence k _ => s.fenceReady a k
  | .groupWaitc n m _ _ => decide (s.loadsOf a ≤ n.toNat) && decide (s.storesOf a ≤ m.toNat)
  | .submit _ _ => s.released a = []
  | .sysTlbinv _ _ _ | .sysSlot _ => s.storesOf a = 0
  | .sysQulk _ | .sysHbeat => s.atomsDone a
  | .groupExit => s.drained a
  | .groupRet => (s.ctx a).cdep ≠ 0 || s.drained a
  | _ => true

/-- A context whose thread may issue: live, in no wait, with no fault to report, not stopped for
pre-emption. -/
def State.ctxRuns (s : State) (a : Agent) : Bool :=
  let c := s.ctx a
  c.st = .live && !s.synced.contains a && c.wait.isNone && c.fault.isNone && decide (c.from_ ≤ s.tick) &&
    match a with
    | .cond g => (afind g s.gangs).isSome && !(s.gang g).frozen && decide ((s.gang g).begun ≤ s.tick) && !(c.level = .u && s.stopsAt g c.pc.toNat)
    | .steppe k t => decide (k < 8) && decide (t < 4)
    | .saddle k => decide (k < 12)
    | .lane _ _ => false

/-- What a context finds at its PC can issue. -/
def State.foundMay (s : State) (a : Agent) (f : Found) : Bool :=
  match f with
  | .stall => false
  | .fault _ _ => true
  | .instr i =>
    (readsOf i).all (s.ctx a).landed && s.groupMay a i && (match a with | .cond g => s.conductorMay g i | _ => true)

/-- Whether a conductor, Steppe thread or Saddle core can issue now. -/
def State.ctxReady (s : State) (a : Agent) : Bool := s.ctxRuns a && s.foundMay a (s.fetch a 0).2

end Sys2Proof.Machine
end

