-- ==== Sys2Proof/Machine/Preempt.lean ====
section
/-! DEFINITION. Pre-emption of an elastic launch (R93, R290–R292): when it has stopped, what is saved, how
it resumes. -/

namespace Sys2Proof.Machine

/-! ## Stopped (R290) -/

/-- An instruction that holds a thread until others act: a queue, `waitc` or `tilewait`. -/
def holdsThread : Instr → Bool
  | .qpop _ | .qpush _ | .waitc _ _ | .groupQpop _ | .groupQpush _ | .groupWaitc _ _ _ _ | .mxctlTilewait _ => true
  | _ => false

/-- A lane thread has stopped: at a listed point, or as it stands. -/
def State.laneStopped (s : State) (g t : Nat) : Bool :=
  let l := (s.gang g).lane t
  if l.st ≠ .live || l.wait.isSome || s.stopsAt g l.pc.toNat then true
  else
    match ((s.kernel g).unitInstrs l.pc.toNat).head? with
    | some i => holdsThread i && s.laneLanded g t && !s.laneMay g t i
    | none => false

/-- A conductor has stopped: outside a handler, at a listed point or as it stands. -/
def State.condStopped (s : State) (g : Nat) : Bool :=
  let c := s.ctx (.cond g)
  if c.inHandler then false
  else if c.st ≠ .live || c.wait.isSome || c.fault.isSome || s.stopsAt g c.pc.toNat then true
  else
    match (s.fetch (.cond g) 0).2 with
    | .instr i => holdsThread i && (readsOf i).all c.landed && !s.foundMay (.cond g) (.instr i)
    | _ => false

/-- Every result of a gang has landed. -/
def Gang.settled (x : Gang) : Bool := x.cond.pend = [] && slots.all fun t => (x.lane t.val).pend = []

/-- Gangs of a launch. -/
def State.gangsOf (s : State) (launch : Nat) : List (Nat × Gang) := s.gangs.filter fun e => e.2.launch = launch

/-- A gang has stopped with nothing in flight. -/
def State.gangStopped (s : State) (g : Nat) (x : Gang) : Bool :=
  x.settled && s.condStopped g && (slots.all fun t => s.laneStopped g t.val) &&
    !(s.flight.any fun f => agentGang? f.who = some g)

/-- The engines of a core have run a launch's operations to completion or to a stop. -/
def enginesStopped (id : Nat) (l : Launch) (c : CoreSt) : Bool :=
  (match c.copies.find? fun k => k.launch = id with | some k => k.stopped | none => true) &&
    (match c.mx.find? fun o => o.launch = id with | some o => o.stopped | none => true) &&
    !(l.communicates && c.xfers.any fun y => y.launch = id)

/-- A launch has stopped on every core. -/
def State.launchStopped (s : State) (id : Nat) (l : Launch) : Bool :=
  ((s.gangsOf id).all fun (g, x) => s.gangStopped g x) && s.cores.all fun (_, c) => enginesStopped id l c

/-- Every gang of a launch has reached its point, or stands as it is taken. -/
def State.atPoints (s : State) (id : Nat) : Bool :=
  (s.gangsOf id).all fun (g, _) => s.condStopped g && slots.all fun t => s.laneStopped g t.val

/-- The pre-empted interval begins at the clock the last gang reaches its point (R93): noted as a clock ends. -/
def State.notePoints (s : State) : State :=
  { s with
      launches := s.launches.map fun (id, l) =>
        if l.phase ≠ .stopping || l.halt ≠ 0 then (id, l)
        else if !s.atPoints id then (id, { l with gone := 0 })
        else (id, if l.gone = 0 then { l with gone := s.tick + 1 } else l) }

/-- The launch's gangs go no further. -/
def State.freeze (s : State) (id : Nat) (l : Launch) : State :=
  let s := s.setLaunch id { l with gone := if l.gone = 0 then s.tick + 1 else l.gone, halt := s.tick + 1 }
  { s with gangs := s.gangs.map fun (g, x) => (g, if x.launch = id then { x with frozen := true } else x) }

/-! ## The save (R291) -/

/-- The live masks of a point. -/
def Kernel.liveAt (k : Kernel) (pc : Nat) : Option (BitVec 96 × BitVec 192) :=
  (k.points.find? fun e => e.1.toNat = pc).map (·.2)

/-- Registers outside a live mask read zero after the restore. -/
def liveOnly {n : Nat} (m : BitVec n) (v : Vector W64 n) : Vector W64 n :=
  Vector.ofFn fun i => if m.getLsbD i.val then v[i] else 0

/-- The live mask of the point at which a lane thread stands; none where it is taken as it stands. -/
def Lane.savedMask (l : Lane) (k : Kernel) : Option (BitVec 96) :=
  if l.st ≠ .live || l.wait.isSome then none else (k.liveAt l.pc.toNat).map (·.1)

/-- That of a conductor. -/
def Ctx.savedMask (c : Ctx) (k : Kernel) : Option (BitVec 192) :=
  if c.st ≠ .live || c.wait.isSome || c.fault.isSome then none else (k.liveAt c.pc.toNat).map (·.2)

/-- A lane thread as it is saved. -/
def Lane.save (l : Lane) (k : Kernel) : Lane :=
  match l.savedMask k with
  | some m => { l with v := liveOnly m l.v }
  | none => l

/-- A conductor as it is saved. -/
def Ctx.save (c : Ctx) (k : Kernel) : Ctx :=
  match c.savedMask k with
  | some m => { c with g := liveOnly m c.g }
  | none => c

def Gang.save (x : Gang) (k : Kernel) : Gang :=
  { x with lanes := x.lanes.map fun l => l.save k, cond := x.cond.save k }

/-- Registers set in a live mask. -/
def liveCount {n : Nat} (m : BitVec n) : Nat := (List.range n).countP fun i => m.getLsbD i

/-- Lane registers that a thread's save writes: its live ones at a point, else every declared one; none of a thread
that has exited or was never there. -/
def Lane.savedRegs (l : Lane) (k : Kernel) : Nat :=
  if l.st = .absent || l.st = .exited then 0 else ((l.savedMask k).map liveCount).getD k.laneRegs

/-- Group registers that a conductor's save writes. -/
def Ctx.savedRegs (c : Ctx) (k : Kernel) : Nat := ((c.savedMask k).map liveCount).getD k.groupRegs

/-- Clocks of a gang's save: 64 and one for each 128 bytes saved. DESIGN CHOICE (log 55): the spec gives the rest of a
gang's save no length, so it is a free value for a number of threads. -/
def Gang.saveClocks (x : Gang) (k : Kernel) : Nat :=
  let there := slots.filter fun t => decide ((x.lane t.val).st ≠ .absent) && decide ((x.lane t.val).st ≠ .exited)
  let regs := (there.map fun t => (x.lane t.val).savedRegs k).foldl (· + ·) (x.cond.savedRegs k)
  64 + ceilDiv (8 * regs + Config.savedContext there.length) 128

/-- Clocks of a launch's save: the gangs of a partition save one after another. -/
def State.saveClocks (s : State) (id : Nat) (l : Launch) : Nat :=
  let parts := (s.gangsOf id).foldl (fun m (g, x) =>
    aput (g / 12) (aget 0 (g / 12) m + x.saveClocks l.kernel) m) ([] : List (Nat × Nat))
  (parts.map (·.2)).foldl max 0

/-- Ready tasks of a launch, by 16 × core + partition. -/
def State.tasksOf (s : State) (cores : List (Nat × List Nat)) : List (Nat × List Task) :=
  (cores.flatMap fun (c, ps) => ps.map fun p => (16 * c + p, ((s.core c).part p).tasks)).filter fun e => e.2 ≠ []

/-- The user state of an engine as it is saved, with the launch's issue count behind it. -/
def CoreSt.mxSaved (c : CoreSt) : List Byte := c.mxArea ++ leBytes 8 c.mxSeq

/-- Partitions given back. -/
def CoreSt.releaseParts (c : CoreSt) (ps : List Nat) : CoreSt :=
  { c with
      parts := Vector.ofFn fun i : Fin 16 =>
        if ps.contains i.val then { c.parts[i] with qid := none, tasks := [] } else c.parts[i] }

/-- The control words of a gang's queues written again (R149). -/
def State.saveControls (s : State) (g : Nat) : State :=
  let s := if (s.gang g).dq.depth = 0 then s else s.writeControl g false
  if (s.gang g).uq.depth = 0 then s else s.writeControl g true

/-- Operations of a launch that stand in an engine, the head of them stopped. -/
def CoreSt.opsOf (c : CoreSt) (id : Nat) : List MxOp := c.mx.filter fun o => o.launch = id

/-- The launch is set aside: its gangs, tasks and matrix state in the save area, its partitions free. -/
def State.saveLaunch (s : State) (id : Nat) (l : Launch) : State :=
  let s := (s.gangsOf id).foldl (fun s (g, _) => s.saveControls g) s
  let cores := heldCores l.slots
  let l' : Launch :=
    { l with
        phase := .saved
        saved := (s.gangsOf id).map fun (g, x) => (g, x.save l.kernel)
        savedTasks := s.tasksOf cores
        savedMx := if l.kernel.hasMatrix then cores.map fun (c, _) => (c, (s.core c).mxSaved) else []
        savedOps := cores.map fun (c, _) => (c, (s.core c).opsOf id) }
  let s := { s with gangs := s.gangs.filter fun e => e.2.launch ≠ id }
  let give (s : State) (e : Nat × List Nat) : State :=
    let c := (s.core e.1).releaseParts e.2
    let c := { c with mx := c.mx.filter fun o => o.launch ≠ id }
    s.setCore e.1 (if l.kernel.hasMatrix then { c with baton := { c.baton with holder := none } } else c)
  (cores.foldl give s).setLaunch id l'

/-- A stopping launch stops; then, once its save has taken its time, it is set aside. -/
def execPreemptionSave (launch : Nat) (s : State) : Out :=
  match s.launch? launch with
  | none => .next s
  | some l =>
    if l.phase ≠ .stopping then .next s
    else if l.halt = 0 then (if s.launchStopped launch l then .next (s.freeze launch l) else .next s)
    else if s.tick + 1 < l.halt + s.saveClocks launch l then .next s
    else .next (s.saveLaunch launch l)

/-! ## The resumption (R292) -/

/-- The partitions a launch may take on the cores it held, as many on each as it had; none while some
core lacks them, or its engine. -/
def State.newParts (s : State) (l : Launch) : Option (List (Nat × List (Nat × Nat))) :=
  ((heldCores l.slots).map fun (c, ps) =>
    let free := s.freeParts false c
    if ps.length ≤ free.length && (!l.kernel.hasMatrix || s.engineFree false c) then
      some (c, ps.zip (free.take ps.length))
    else none).mapM id

/-- A partition's new number. -/
def newPart (m : List (Nat × List (Nat × Nat))) (core part : Nat) : Nat :=
  match afind core m with
  | some ps => (afind part ps).getD part
  | none => part

/-- A gang's new key. -/
def newGang (m : List (Nat × List (Nat × Nat))) (g : Nat) : Nat :=
  gangKey (gangCore g) (newPart m (gangCore g) (gangPart g)) (gangSlot g)

/-- A core's partition list in new numbers. -/
def movedParts (m : List (Nat × List (Nat × Nat))) (e : Nat × List Nat) : Nat × List Nat :=
  (e.1, e.2.map fun p => newPart m e.1 p)

def BlockSlot.move (m : List (Nat × List (Nat × Nat))) (b : BlockSlot) : BlockSlot :=
  { b with cores := b.cores.map fun e => movedParts m e }

/-- A wait with its remaining time. -/
def Wait.later (w : Wait) (n : Nat) : Wait := { w with since := w.since + n, deadline := w.deadline + n }

/-- A lane thread as it resumes. -/
def Lane.restore (l : Lane) (n : Nat) : Lane := { l with wait := l.wait.map fun w => w.later n, held := false }

/-- A conductor as it resumes: a forwarded fault of its own is reported again. -/
def Ctx.restore (c : Ctx) (n : Nat) : Ctx :=
  let c := { c with wait := c.wait.map fun w => w.later n, resumed := c.resumed.map fun r => (r.1, r.2.1 + n, r.2.2) }
  if c.st = .held then
    { c with st := .live, fault := some (c.scause.truncate 8, c.stval)
             level := if f64 (c.sstat.zeroExtend 64) 0 2 = 0 then .u else .s }
  else c

/-- Lane threads whose forwarded fault is reported again, by PC. -/
def Gang.reparked (x : Gang) : List Parked :=
  let held := slots.filter fun t => (x.lane t.val).held
  let byPc := held.foldl (fun m t =>
    let pc := (x.lane t.val).pc.toNat
    aput pc (aget 0 pc m ||| oneHot t.val) m) ([] : List (Nat × W32))
  byPc.map fun (pc, m) => { mask := m, pc := BitVec.ofNat 32 pc }

/-- A gang as it resumes, `n` clocks after it stopped. -/
def Gang.restore (x : Gang) (n : Nat) : Gang :=
  { x with
      parked := x.parked ++ x.reparked
      lanes := x.lanes.map fun l => l.restore n
      cond := x.cond.restore n
      stubs := x.stubs.map fun e => (e.1, e.2 + n)
      frozen := false }

/-- What a core's units hold of a launch, in new numbers. -/
def CoreSt.move (c : CoreSt) (m : List (Nat × List (Nat × Nat))) (id : Nat) (gangs : List Nat) : CoreSt :=
  let owner (o : LockOwner) : LockOwner :=
    match o with
    | .stream g k => if gangs.contains g then .stream (newGang m g) k else .stream g k
    | o => o
  let core (x : Site) (p : Nat) : Nat := newPart m x.core p
  { c with
      copies := c.copies.map fun k =>
        if k.launch = id then { k with part := core k.site k.part, gang := newGang m k.gang } else k
      xfers := c.xfers.map fun y =>
        if y.launch = id then { y with part := core y.site y.part, gang := newGang m y.gang } else y
      locks := c.locks.map fun k => { k with owner := owner k.owner } }

/-- Partitions taken again, with their ready tasks. -/
def CoreSt.takeParts (c : CoreSt) (core qid : Nat) (ps : List (Nat × Nat)) (tasks : List (Nat × List Task)) : CoreSt :=
  { c with
      parts := Vector.ofFn fun i : Fin 16 =>
        match ps.find? fun e => e.2 = i.val with
        | some (old, _) => { c.parts[i] with qid := some qid, tasks := aget [] (16 * core + old) tasks }
        | none => c.parts[i] }

/-- The engine's user state restored; a recorded holder whose conductor is not live leaves the baton
free. -/
def CoreSt.mxRestored (c : CoreSt) (bs : List Byte) (core : Nat) (live : Nat → Bool) (m : List (Nat × List (Nat × Nat))) :
    CoreSt :=
  let c := c.mxLoad bs core live
  { c with
      mxSeq := leNat (bs.drop mxAreaBytes)
      baton := if c.baton.super then { c.baton with aside := c.baton.aside.map (newGang m) }
               else { c.baton with holder := c.baton.holder.map (newGang m) } }

/-- One core of a resumed launch. -/
def State.resumeCore (s : State) (id : Nat) (l : Launch) (m : List (Nat × List (Nat × Nat)))
    (e : Nat × List (Nat × Nat)) : State :=
  let live (g : Nat) : Bool := match afind g l.saved with | some x => x.cond.st ≠ .exited | none => false
  let c := ((s.core e.1).move m id (l.saved.map (·.1))).takeParts e.1 l.qid e.2 l.savedTasks
  let ops := (aget [] e.1 l.savedOps).map fun o => { o with gang := newGang m o.gang, ready := s.tick }
  let c := { c with mx := c.mx ++ ops }
  s.setCore e.1 (match afind e.1 l.savedMx with | some bs => c.mxRestored bs e.1 live m | none => c)

/-- A pre-empted launch runs on in the partitions it has been given; the interval and 40 nJ for each gang
extend its bounds (R93). -/
def State.resumeLaunch (s : State) (id : Nat) (l : Launch) (m : List (Nat × List (Nat × Nat))) : State :=
  let away := s.tick + 1 - l.gone
  let n := l.saved.length
  let s := m.foldl (fun s e => s.resumeCore id l m e) s
  let s := l.saved.foldl (fun s (g, x) => s.setGang (newGang m g) (x.restore (s.tick + 1 - l.halt))) s
  let s := match s.quote? l.qid with
    | some q => s.setQuote { q with cores := q.cores.map fun e => movedParts m e, slots := q.slots.map (BlockSlot.move m) }
    | none => s
  s.setLaunch id
    { l with
        phase := .running, gone := 0, halt := 0, lost := l.lost + away, moved := l.moved + n, pJ := l.pJ + 40000 * n
        slots := l.slots.map (BlockSlot.move m), saved := [], savedTasks := [], savedMx := [], savedOps := [] }

/-- A pre-empted launch resumes. -/
def execPreemptionResume (launch : Nat) (s : State) : Out :=
  match s.launch? launch with
  | none => .next s
  | some l =>
    if l.phase ≠ .saved then .next s
    else
      match s.newParts l with
      | some m => .next (s.resumeLaunch launch l m)
      | none => .next s

end Sys2Proof.Machine
end

