-- ==== Sys2Proof/Machine/Dispatch.lean ====
section
/-! DEFINITION. One arm for each constructor of `Instr`: its meaning. -/

namespace Sys2Proof.Machine

/-- What an instruction word in issue, or an event of the device, does to the machine. -/
def exec (i : Instr) (s : State) : Host.Outcome State Fault Refusal :=
  match i with
  | .add t d a b => Sys2Proof.Machine.execAdd t d a b s
  | .sub t d a b => Sys2Proof.Machine.execSub t d a b s
  | .mul t d a b => Sys2Proof.Machine.execMul t d a b s
  | .mulhs t d a b => Sys2Proof.Machine.execMulhs t d a b s
  | .mulhu t d a b => Sys2Proof.Machine.execMulhu t d a b s
  | .mad t d a b => Sys2Proof.Machine.execMad t d a b s
  | .mins t d a b => Sys2Proof.Machine.execMins t d a b s
  | .minu t d a b => Sys2Proof.Machine.execMinu t d a b s
  | .maxs t d a b => Sys2Proof.Machine.execMaxs t d a b s
  | .maxu t d a b => Sys2Proof.Machine.execMaxu t d a b s
  | .and t d a b => Sys2Proof.Machine.execAnd t d a b s
  | .or t d a b => Sys2Proof.Machine.execOr t d a b s
  | .xor t d a b => Sys2Proof.Machine.execXor t d a b s
  | .shl t d a b => Sys2Proof.Machine.execShl t d a b s
  | .shru t d a b => Sys2Proof.Machine.execShru t d a b s
  | .shrs t d a b => Sys2Proof.Machine.execShrs t d a b s
  | .addss t d a b => Sys2Proof.Machine.execAddss t d a b s
  | .addus t d a b => Sys2Proof.Machine.execAddus t d a b s
  | .subss t d a b => Sys2Proof.Machine.execSubss t d a b s
  | .subus t d a b => Sys2Proof.Machine.execSubus t d a b s
  | .ceq t d a b => Sys2Proof.Machine.execCeq t d a b s
  | .cne t d a b => Sys2Proof.Machine.execCne t d a b s
  | .clts t d a b => Sys2Proof.Machine.execClts t d a b s
  | .cltu t d a b => Sys2Proof.Machine.execCltu t d a b s
  | .cles t d a b => Sys2Proof.Machine.execCles t d a b s
  | .cleu t d a b => Sys2Proof.Machine.execCleu t d a b s
  | .bsel t d a b => Sys2Proof.Machine.execBsel t d a b s
  | .not t d a => Sys2Proof.Machine.execNot t d a s
  | .neg t d a => Sys2Proof.Machine.execNeg t d a s
  | .abs t d a => Sys2Proof.Machine.execAbs t d a s
  | .popc t d a => Sys2Proof.Machine.execPopc t d a s
  | .clz t d a => Sys2Proof.Machine.execClz t d a s
  | .ctz t d a => Sys2Proof.Machine.execCtz t d a s
  | .brev t d a => Sys2Proof.Machine.execBrev t d a s
  | .bswap t d a => Sys2Proof.Machine.execBswap t d a s
  | .addi t d a imm => Sys2Proof.Machine.execAddi t d a imm s
  | .andi t d a imm => Sys2Proof.Machine.execAndi t d a imm s
  | .ori t d a imm => Sys2Proof.Machine.execOri t d a imm s
  | .xori t d a imm => Sys2Proof.Machine.execXori t d a imm s
  | .shli t d a imm => Sys2Proof.Machine.execShli t d a imm s
  | .shrui t d a imm => Sys2Proof.Machine.execShrui t d a imm s
  | .shrsi t d a imm => Sys2Proof.Machine.execShrsi t d a imm s
  | .movi t d imm => Sys2Proof.Machine.execMovi t d imm s
  | .fadd t d a b => Sys2Proof.Machine.execFadd t d a b s
  | .fsub t d a b => Sys2Proof.Machine.execFsub t d a b s
  | .fmul t d a b => Sys2Proof.Machine.execFmul t d a b s
  | .ffma t d a b => Sys2Proof.Machine.execFfma t d a b s
  | .fmin t d a b => Sys2Proof.Machine.execFmin t d a b s
  | .fmax t d a b => Sys2Proof.Machine.execFmax t d a b s
  | .fceq t d a b => Sys2Proof.Machine.execFceq t d a b s
  | .fclt t d a b => Sys2Proof.Machine.execFclt t d a b s
  | .fcle t d a b => Sys2Proof.Machine.execFcle t d a b s
  | .fcun t d a b => Sys2Proof.Machine.execFcun t d a b s
  | .fneg t d a => Sys2Proof.Machine.execFneg t d a s
  | .fabs t d a => Sys2Proof.Machine.execFabs t d a s
  | .fsqrt t d a => Sys2Proof.Machine.execFsqrt t d a s
  | .frcp t d a => Sys2Proof.Machine.execFrcp t d a s
  | .frsq t d a => Sys2Proof.Machine.execFrsq t d a s
  | .fexp2 t d a => Sys2Proof.Machine.execFexp2 t d a s
  | .flog2 t d a => Sys2Proof.Machine.execFlog2 t d a s
  | .fsinpi t d a => Sys2Proof.Machine.execFsinpi t d a s
  | .fcospi t d a => Sys2Proof.Machine.execFcospi t d a s
  | .ftanh t d a => Sys2Proof.Machine.execFtanh t d a s
  | .ffloor t d a => Sys2Proof.Machine.execFfloor t d a s
  | .fceil t d a => Sys2Proof.Machine.execFceil t d a s
  | .ftrunc t d a => Sys2Proof.Machine.execFtrunc t d a s
  | .frint t d a => Sys2Proof.Machine.execFrint t d a s
  | .fclass t d a => Sys2Proof.Machine.execFclass t d a s
  | .cvt dt d a st ssgn r dsgn => Sys2Proof.Machine.execCvt dt d a st ssgn r dsgn s
  | .bfpk t d a b => Sys2Proof.Machine.execBfpk t d a b s
  | .bfpu t d a b => Sys2Proof.Machine.execBfpu t d a b s
  | .route x y own => Sys2Proof.Machine.execRoute x y own s
  | .accsrc tile frag onB sup => Sys2Proof.Machine.execAccsrc tile frag onB sup s
  | .ld z d a sp o => Sys2Proof.Machine.execLd z d a sp o s
  | .st z v a sp o => Sys2Proof.Machine.execSt z v a sp o s
  | .ldacq z d a sp c => Sys2Proof.Machine.execLdacq z d a sp c s
  | .strel z v a sp c => Sys2Proof.Machine.execStrel z v a sp c s
  | .atom z d a sp f => Sys2Proof.Machine.execAtom z d a sp f s
  | .xset k base count cur => Sys2Proof.Machine.execXset k base count cur s
  | .xadd k imm => Sys2Proof.Machine.execXadd k imm s
  | .qpop d => Sys2Proof.Machine.execQpop d s
  | .qpush a => Sys2Proof.Machine.execQpush a s
  | .qlen d => Sys2Proof.Machine.execQlen d s
  | .br o => Sys2Proof.Machine.execBr o s
  | .call o => Sys2Proof.Machine.execCall o s
  | .brz a o => Sys2Proof.Machine.execBrz a o s
  | .brnz a o => Sys2Proof.Machine.execBrnz a o s
  | .calli a => Sys2Proof.Machine.execCalli a s
  | .ret => Sys2Proof.Machine.execRet s
  | .exit => Sys2Proof.Machine.execExit s
  | .join m => Sys2Proof.Machine.execJoin m s
  | .leave m => Sys2Proof.Machine.execLeave m s
  | .wait m => Sys2Proof.Machine.execWait m s
  | .loop c len bound => Sys2Proof.Machine.execLoop c len bound s
  | .bbr k o => Sys2Proof.Machine.execBbr k o s
  | .bbrz k a o => Sys2Proof.Machine.execBbrz k a o s
  | .bbrnz k a o => Sys2Proof.Machine.execBbrnz k a o s
  | .guard k bound => Sys2Proof.Machine.execGuard k bound s
  | .waita a b c sp eq timeout => Sys2Proof.Machine.execWaita a b c sp eq timeout s
  | .waitc l st => Sys2Proof.Machine.execWaitc l st s
  | .fence k c => Sys2Proof.Machine.execFence k c s
  | .trap code => Sys2Proof.Machine.execTrap code s
  | .getwid d l => Sys2Proof.Machine.execGetwid d l s
  | .csrr d c => Sys2Proof.Machine.execCsrr d c s
  | .csrw a c => Sys2Proof.Machine.execCsrw a c s
  | .nop => Sys2Proof.Machine.execNop s
  | .groupAdd d a b w => Sys2Proof.Machine.execGroupAdd d a b w s
  | .groupSub d a b w => Sys2Proof.Machine.execGroupSub d a b w s
  | .groupMul d a b w => Sys2Proof.Machine.execGroupMul d a b w s
  | .groupMulhs d a b w => Sys2Proof.Machine.execGroupMulhs d a b w s
  | .groupMulhu d a b w => Sys2Proof.Machine.execGroupMulhu d a b w s
  | .divs d a b w => Sys2Proof.Machine.execDivs d a b w s
  | .divu d a b w => Sys2Proof.Machine.execDivu d a b w s
  | .rems d a b w => Sys2Proof.Machine.execRems d a b w s
  | .remu d a b w => Sys2Proof.Machine.execRemu d a b w s
  | .groupMins d a b w => Sys2Proof.Machine.execGroupMins d a b w s
  | .groupMinu d a b w => Sys2Proof.Machine.execGroupMinu d a b w s
  | .groupMaxs d a b w => Sys2Proof.Machine.execGroupMaxs d a b w s
  | .groupMaxu d a b w => Sys2Proof.Machine.execGroupMaxu d a b w s
  | .groupAnd d a b w => Sys2Proof.Machine.execGroupAnd d a b w s
  | .groupOr d a b w => Sys2Proof.Machine.execGroupOr d a b w s
  | .groupXor d a b w => Sys2Proof.Machine.execGroupXor d a b w s
  | .groupShl d a b w => Sys2Proof.Machine.execGroupShl d a b w s
  | .groupShru d a b w => Sys2Proof.Machine.execGroupShru d a b w s
  | .groupShrs d a b w => Sys2Proof.Machine.execGroupShrs d a b w s
  | .groupCeq d a b w => Sys2Proof.Machine.execGroupCeq d a b w s
  | .groupCne d a b w => Sys2Proof.Machine.execGroupCne d a b w s
  | .groupClts d a b w => Sys2Proof.Machine.execGroupClts d a b w s
  | .groupCltu d a b w => Sys2Proof.Machine.execGroupCltu d a b w s
  | .sel d a b => Sys2Proof.Machine.execSel d a b s
  | .groupAddi d a imm => Sys2Proof.Machine.execGroupAddi d a imm s
  | .groupAndi d a imm => Sys2Proof.Machine.execGroupAndi d a imm s
  | .groupOri d a imm => Sys2Proof.Machine.execGroupOri d a imm s
  | .groupXori d a imm => Sys2Proof.Machine.execGroupXori d a imm s
  | .groupShli d a imm => Sys2Proof.Machine.execGroupShli d a imm s
  | .groupShrui d a imm => Sys2Proof.Machine.execGroupShrui d a imm s
  | .groupShrsi d a imm => Sys2Proof.Machine.execGroupShrsi d a imm s
  | .movw d imm => Sys2Proof.Machine.execMovw d imm s
  | .lim d imm => Sys2Proof.Machine.execLim d imm s
  | .limh d imm => Sys2Proof.Machine.execLimh d imm s
  | .groupLd d a sp o => Sys2Proof.Machine.execGroupLd d a sp o s
  | .groupSt v a sp o => Sys2Proof.Machine.execGroupSt v a sp o s
  | .groupLdacq d a sp c => Sys2Proof.Machine.execGroupLdacq d a sp c s
  | .groupStrel v a sp c => Sys2Proof.Machine.execGroupStrel v a sp c s
  | .groupAtom z d a sp f => Sys2Proof.Machine.execGroupAtom z d a sp f s
  | .b o => Sys2Proof.Machine.execB o s
  | .groupCall o => Sys2Proof.Machine.execGroupCall o s
  | .bz a o => Sys2Proof.Machine.execBz a o s
  | .bnz a o => Sys2Proof.Machine.execBnz a o s
  | .groupCalli a => Sys2Proof.Machine.execGroupCalli a s
  | .groupRet => Sys2Proof.Machine.execGroupRet s
  | .groupExit => Sys2Proof.Machine.execGroupExit s
  | .groupLoop c len bound => Sys2Proof.Machine.execGroupLoop c len bound s
  | .groupBbr k o => Sys2Proof.Machine.execGroupBbr k o s
  | .groupBbrz k a o => Sys2Proof.Machine.execGroupBbrz k a o s
  | .groupBbrnz k a o => Sys2Proof.Machine.execGroupBbrnz k a o s
  | .groupGuard k bound => Sys2Proof.Machine.execGroupGuard k bound s
  | .groupWaitc l st c t => Sys2Proof.Machine.execGroupWaitc l st c t s
  | .groupWaita a b c sp eq timeout => Sys2Proof.Machine.execGroupWaita a b c sp eq timeout s
  | .groupFence k c => Sys2Proof.Machine.execGroupFence k c s
  | .groupTrap code => Sys2Proof.Machine.execGroupTrap code s
  | .groupCsrr d c => Sys2Proof.Machine.execGroupCsrr d c s
  | .groupCsrw a c => Sys2Proof.Machine.execGroupCsrw a c s
  | .eret => Sys2Proof.Machine.execEret s
  | .eretLanes => Sys2Proof.Machine.execEretLanes s
  | .groupNop => Sys2Proof.Machine.execGroupNop s
  | .idle => Sys2Proof.Machine.execIdle s
  | .qcfg up a => Sys2Proof.Machine.execQcfg up a s
  | .groupQpush a => Sys2Proof.Machine.execGroupQpush a s
  | .groupQpop d => Sys2Proof.Machine.execGroupQpop d s
  | .groupQlen up d => Sys2Proof.Machine.execGroupQlen up d s
  | .strm k p z sp => Sys2Proof.Machine.execStrm k p z sp s
  | .strmgo k => Sys2Proof.Machine.execStrmgo k s
  | .mxq p d => Sys2Proof.Machine.execMxq p d s
  | .mxctlTake => Sys2Proof.Machine.execMxctlTake s
  | .mxctlPass => Sys2Proof.Machine.execMxctlPass s
  | .mxctlTilewait t => Sys2Proof.Machine.execMxctlTilewait t s
  | .mxctlCtab p => Sys2Proof.Machine.execMxctlCtab p s
  | .mxsave a => Sys2Proof.Machine.execMxsave a s
  | .mxrest a => Sys2Proof.Machine.execMxrest a s
  | .cpy p d => Sys2Proof.Machine.execCpy p d s
  | .barInit b a => Sys2Proof.Machine.execBarInit b a s
  | .barArrive b => Sys2Proof.Machine.execBarArrive b s
  | .barWait b d => Sys2Proof.Machine.execBarWait b d s
  | .barSync b d => Sys2Proof.Machine.execBarSync b d s
  | .barPost b a => Sys2Proof.Machine.execBarPost b a s
  | .barTake b d => Sys2Proof.Machine.execBarTake b d s
  | .barStat b d => Sys2Proof.Machine.execBarStat b d s
  | .watchArm d p => Sys2Proof.Machine.execWatchArm d p s
  | .watchDisarm d a => Sys2Proof.Machine.execWatchDisarm d a s
  | .watchQuery d a => Sys2Proof.Machine.execWatchQuery d a s
  | .spawn p d => Sys2Proof.Machine.execSpawn p d s
  | .shareJoin d a => Sys2Proof.Machine.execShareJoin d a s
  | .shareLeave d => Sys2Proof.Machine.execShareLeave d s
  | .shareQuery d a => Sys2Proof.Machine.execShareQuery d a s
  | .phaseComp => Sys2Proof.Machine.execPhaseComp s
  | .phaseComm => Sys2Proof.Machine.execPhaseComm s
  | .phaseXfer p t => Sys2Proof.Machine.execPhaseXfer p t s
  | .quoteReq d p => Sys2Proof.Machine.execQuoteReq d p s
  | .quoteAcc d a => Sys2Proof.Machine.execQuoteAcc d a s
  | .quoteDec d a => Sys2Proof.Machine.execQuoteDec d a s
  | .quoteActual d a => Sys2Proof.Machine.execQuoteActual d a s
  | .submit q w => Sys2Proof.Machine.execSubmit q w s
  | .sigSet a b => Sys2Proof.Machine.execSigSet a b s
  | .sigAdd a b => Sys2Proof.Machine.execSigAdd a b s
  | .sysTlbinv a b f => Sys2Proof.Machine.execSysTlbinv a b f s
  | .sysAsid a => Sys2Proof.Machine.execSysAsid a s
  | .sysEresume a => Sys2Proof.Machine.execSysEresume a s
  | .sysFqpop d => Sys2Proof.Machine.execSysFqpop d s
  | .sysMsi a b => Sys2Proof.Machine.execSysMsi a b s
  | .sysEvqpop d => Sys2Proof.Machine.execSysEvqpop d s
  | .sysQlk a => Sys2Proof.Machine.execSysQlk a s
  | .sysQulk a => Sys2Proof.Machine.execSysQulk a s
  | .sysHbeat => Sys2Proof.Machine.execSysHbeat s
  | .sysSlot a => Sys2Proof.Machine.execSysSlot a s
  | .maskWrite gang k v => Sys2Proof.Machine.execMaskWrite gang k v s
  | .fslotWrite v => Sys2Proof.Machine.execFslotWrite v s
  | .fwdtWrite v => Sys2Proof.Machine.execFwdtWrite v s
  | .secDigest core => Sys2Proof.Machine.execSecDigest core s
  | .secVerify core => Sys2Proof.Machine.execSecVerify core s
  | .secExtend core => Sys2Proof.Machine.execSecExtend core s
  | .secResetSponge core => Sys2Proof.Machine.execSecResetSponge core s
  | .secAbsorb core => Sys2Proof.Machine.execSecAbsorb core s
  | .secSqueeze core => Sys2Proof.Machine.execSecSqueeze core s
  | .secCommandDone => Sys2Proof.Machine.execSecCommandDone s
  | .invalid q => Sys2Proof.Machine.execInvalid q s
  | .quote q => Sys2Proof.Machine.execQuote q s
  | .accept q => Sys2Proof.Machine.execAccept q s
  | .decline q => Sys2Proof.Machine.execDecline q s
  | .launch q => Sys2Proof.Machine.execLaunch q s
  | .copy q => Sys2Proof.Machine.execCopy q s
  | .signal q => Sys2Proof.Machine.execSignal q s
  | .barrier q => Sys2Proof.Machine.execBarrier q s
  | .watch q => Sys2Proof.Machine.execWatch q s
  | .wakeRegisterStore q idx => Sys2Proof.Machine.execWakeRegisterStore q idx s
  | .wakeEvent core => Sys2Proof.Machine.execWakeEvent core s
  | .signalChanged core => Sys2Proof.Machine.execSignalChanged core s
  | .periodicTick => Sys2Proof.Machine.execPeriodicTick s
  | .idleWake who => Sys2Proof.Machine.execIdleWake who s
  | .quoteWalkStart => Sys2Proof.Machine.execQuoteWalkStart s
  | .quoteWalkEnd qid => Sys2Proof.Machine.execQuoteWalkEnd qid s
  | .pinDone qid ok => Sys2Proof.Machine.execPinDone qid ok s
  | .validityDeadline qid => Sys2Proof.Machine.execValidityDeadline qid s
  | .launchStart qid => Sys2Proof.Machine.execLaunchStart qid s
  | .blockStart launch => Sys2Proof.Machine.execBlockStart launch s
  | .readyTaskDispatch core part => Sys2Proof.Machine.execReadyTaskDispatch core part s
  | .retirement launch => Sys2Proof.Machine.execRetirement launch s
  | .preemptionSave launch => Sys2Proof.Machine.execPreemptionSave launch s
  | .preemptionResume launch => Sys2Proof.Machine.execPreemptionResume launch s
  | .registerWriteback who => Sys2Proof.Machine.execRegisterWriteback who s
  | .loadReturn id ecc => Sys2Proof.Machine.execLoadReturn id ecc s
  | .storePerformed id => Sys2Proof.Machine.execStorePerformed id s
  | .serviceGangStep cluster => Sys2Proof.Machine.execServiceGangStep cluster s
  | .atomicReply id => Sys2Proof.Machine.execAtomicReply id s
  | .instructionFetchFill who => Sys2Proof.Machine.execInstructionFetchFill who s
  | .trapEntry gang => Sys2Proof.Machine.execTrapEntry gang s
  | .steppeInterrupt core thr => Sys2Proof.Machine.execSteppeInterrupt core thr s
  | .msiDelivery n => Sys2Proof.Machine.execMsiDelivery n s
  | .faultRecordPost n => Sys2Proof.Machine.execFaultRecordPost n s
  | .waitaReread who => Sys2Proof.Machine.execWaitaReread who s
  | .waitaTimeout who => Sys2Proof.Machine.execWaitaTimeout who s
  | .barWaitTimeout gang => Sys2Proof.Machine.execBarWaitTimeout gang s
  | .batonGrant core => Sys2Proof.Machine.execBatonGrant core s
  | .shareLeaveRevoke gang => Sys2Proof.Machine.execShareLeaveRevoke gang s
  | .copyStart core launch => Sys2Proof.Machine.execCopyStart core launch s
  | .copyCompletion core launch => Sys2Proof.Machine.execCopyCompletion core launch s
  | .copyStop core launch ecc => Sys2Proof.Machine.execCopyStop core launch ecc s
  | .xferStart core => Sys2Proof.Machine.execXferStart core s
  | .streamEntryClaim gang k => Sys2Proof.Machine.execStreamEntryClaim gang k s
  | .streamStop gang k ecc => Sys2Proof.Machine.execStreamStop gang k ecc s
  | .phaseStepStart launch => Sys2Proof.Machine.execPhaseStepStart launch s
  | .matrixOpStart core => Sys2Proof.Machine.execMatrixOpStart core s
  | .matrixNativeStep core => Sys2Proof.Machine.execMatrixNativeStep core s
  | .matrixOpComplete core => Sys2Proof.Machine.execMatrixOpComplete core s
  | .matrixErrorStop core bit => Sys2Proof.Machine.execMatrixErrorStop core bit s
  | .matrixWindowFault core => Sys2Proof.Machine.execMatrixWindowFault core s
  | .sparsityQueueTimeout core => Sys2Proof.Machine.execSparsityQueueTimeout core s
  | .triggerJoin core => Sys2Proof.Machine.execTriggerJoin core s
  | .formingGangReady core qid => Sys2Proof.Machine.execFormingGangReady core qid s
  | .slotSwitch => Sys2Proof.Machine.execSlotSwitch s
  | .rollBack => Sys2Proof.Machine.execRollBack s
  | .watchdogExpiry => Sys2Proof.Machine.execWatchdogExpiry s
  | .errorCounterUpdate core => Sys2Proof.Machine.execErrorCounterUpdate core s
  | .hostBar4Access addr size wr => Sys2Proof.Machine.execHostBar4Access addr size wr s
  | .hostAtomicop addr z op b c => Sys2Proof.Machine.execHostAtomicop addr z op b c s
  | .peerAccess peer addr size wr => Sys2Proof.Machine.execPeerAccess peer addr size wr s
  | .slotImageWrite slotB off bytes => Sys2Proof.Machine.execSlotImageWrite slotB off bytes s
  | .powerOn => Sys2Proof.Machine.execPowerOn s
  | .mainSideReset cause => Sys2Proof.Machine.execMainSideReset cause s
  | .thermalTrip temp => Sys2Proof.Machine.execThermalTrip temp s
  | .thermalRecovery temp => Sys2Proof.Machine.execThermalRecovery temp s
  | .thermalEmergency temp => Sys2Proof.Machine.execThermalEmergency temp s
  | .setEnvelope watts => Sys2Proof.Machine.execSetEnvelope watts s
  | .getVersion => Sys2Proof.Machine.execGetVersion s
  | .getCapabilities => Sys2Proof.Machine.execGetCapabilities s
  | .negotiateAlgorithms => Sys2Proof.Machine.execNegotiateAlgorithms s
  | .getDigests => Sys2Proof.Machine.execGetDigests s
  | .getCertificate => Sys2Proof.Machine.execGetCertificate s
  | .challenge => Sys2Proof.Machine.execChallenge s
  | .getMeasurements idx => Sys2Proof.Machine.execGetMeasurements idx s
  | .telemetryRead => Sys2Proof.Machine.execTelemetryRead s
  | .blackBoxRead => Sys2Proof.Machine.execBlackBoxRead s
  | .debugHalt gang => Sys2Proof.Machine.execDebugHalt gang s
  | .managementRequest arg => Sys2Proof.Machine.execManagementRequest arg s
  | .sfqbWrite v => Sys2Proof.Machine.execSfqbWrite v s
  | .meshOrLinkRetry launch retry => Sys2Proof.Machine.execMeshOrLinkRetry launch retry s
  | .lazyBindingAllowanceExpiry gang => Sys2Proof.Machine.execLazyBindingAllowanceExpiry gang s
  | .bootStageReached lostPairs lostClusters => Sys2Proof.Machine.execBootStageReached lostPairs lostClusters s

end Sys2Proof.Machine
end

