-- ==== Sys2Proof/Machine/Moves.lean ====
section
/-! DEFINITION. What a step can do: the picker of a partition (R121, R122), a Steppe or Saddle thread's own
instruction, an event, a granule of a copy, and the end of a clock (R128, R129, R152, R276). -/

namespace Sys2Proof.Config

/-- What the machine does next where the agenda names nothing (log 5): free. -/
opaque freeMove : Nat → Machine.Move

end Sys2Proof.Config

namespace Sys2Proof.Machine

/-! ## Issue (R35, R47, R117) -/

/-- A fetch fault (R35, R117): the threads of the issue group park, or the context traps. -/
def State.fetchFault (s : State) (a : Agent) (cause : Byte) (stval : W64) : State :=
  match a with
  | .lane g _ => s.laneFaultOf g s.issue.mask cause stval false
  | a => if cause = 0x10 then s.groupEcc a stval else s.groupFaultOf a cause stval false

/-- The words of one instruction or prefix unit in turn: after a prefix the next word follows (R47). -/
def runUnit (a : Agent) : Nat → State → Out
  | 0, s => .next s
  | n + 1, s =>
    match s.fetch a s.issue.words with
    | (t, .stall) => .next t
    | (t, .fault c v) => .next (t.fetchFault a c v)
    | (t, .instr i) =>
      match exec i t with
      | .next u =>
        if s.issue.words < u.issue.words then runUnit a n { u with issue := { u.issue with who := some a } } else .next u
      | o => o

/-- What an agent, or the issue group of a lane thread, finds at its PC issues now. -/
def State.issueAs (s : State) (a : Agent) (m : W32) : Out :=
  match runUnit a 3 { s with issue := { Issue.idle with who := some a, mask := m } } with
  | .next t => .next { t with issue := Issue.idle }
  | o => o

/-! ## The picker (R121, R122) -/

/-- A partition's state replaced. -/
def State.setPart (s : State) (core part : Nat) (f : Part → Part) : State :=
  let c := s.core core
  if h : part < 16 then s.setCore core { c with parts := c.parts.set part (f c.parts[part]) } else s

/-- The first of some gang slots, from a pointer on and round past slot 11. -/
def takenFrom (ptr : Nat) (ks : List Nat) : Option Nat :=
  ((List.range 12).map fun i => (ptr + i) % 12).find? fun k => ks.contains k

/-- Whether the words at a lane PC load or store two registers (R40), which takes the lane pipe twice as
long. -/
def Kernel.widePair (k : Kernel) (pc : Nat) : Bool :=
  match (k.unitInstrs pc).getLast? with
  | some (.ld .qw _ _ _ _) | some (.st .qw _ _ _ _) => true
  | _ => false

/-- Clocks an issue group keeps the lane pipe busy (R83, R121, R170, R181). -/
def Kernel.pipeClocks (k : Kernel) (pc threads : Nat) : Nat :=
  let (full, narrow) := (classOf (k.unitAt pc).2).issue
  (if threads ≤ 16 then narrow else full) * if k.widePair pc then 2 else 1

/-- The group a gang issues (R122): the lowest PC that holds a thread of age 16; else the one with the
most threads, the lower PC first. -/
def Gang.chosen (x : Gang) (gs : List (Nat × W32)) : Option (Nat × W32) :=
  match gs.find? fun e => (threads e.2).any fun t => decide (16 ≤ (x.lane t.val).age) with
  | some e => some e
  | none =>
    gs.foldl (fun m e =>
      match m with
      | none => some e
      | some b => if popcount b.2 < popcount e.2 then some e else some b) none

/-- Ages after an issue of a gang (R122): of ready threads that it left out, one more, at most 16; of those
that issue, zero. -/
def Gang.aged (x : Gang) (gs : List (Nat × W32)) (issued : W32) : Gang :=
  let ready := gs.foldl (fun m e => m ||| e.2) (0 : W32)
  x.mapLanes ready fun t l => { l with age := if issued.getLsbD t.val then 0 else min 16 (l.age + 1) }

/-- The threads of an issue group for which a prefix of the unit at their PC stands last in a body of an open loop
of their own (R47). -/
def State.cutShort (s : State) (g pc : Nat) (m : W32) : W32 :=
  let k := s.kernel g
  if unitFault k pc [] = some 0x01 then 0
  else m &&& maskOf fun t => unitFault k pc (((s.gang g).lane t.val).loops.map (·.stop)) = some 0x01

/-- An issue group whose threads share a PC but not their open loops: those that a loop's end cuts short take 0x01
at the first prefix, and the others issue (R47). -/
def State.issueGroup (s : State) (g pc : Nat) (m : W32) : Out :=
  let cut := s.cutShort g pc m
  let go := m &&& ~~~cut
  let s := s.laneFault g cut 0x01 (((s.kernel g).laneCode.getD pc 0).zeroExtend 64)
  if go = 0 then .next s else s.issueAs (.lane g ((threads go).headD 0).val) go

/-- A gang's chosen lane group issues. -/
def State.issueLanes (s : State) (core part k : Nat) : Out :=
  let g := gangKey core part k
  let gs := s.laneGroups g
  match (s.gang g).chosen gs with
  | none => .next s
  | some (pc, m) =>
    let busy := s.tick + (s.kernel g).pipeClocks pc (popcount m)
    let s := s.setGang g ((s.gang g).aged gs m)
    let s := s.setPart core part fun p => { p with busyUntil := busy, lanePtr := (k + 1) % 12 }
    s.issueGroup g pc m

/-- A conductor issues. -/
def State.issueCond (s : State) (core part k : Nat) : Out :=
  (s.setPart core part fun p => { p with condPtr := (k + 1) % 12 }).issueAs (.cond (gangKey core part k)) 0

/-- Every gang of a partition with its ended results written. -/
def State.settlePart (s : State) (core part : Nat) : State :=
  { s with gangs := s.gangs.map fun (g, x) => (g, if g / 12 = 16 * core + part then x.settle s.tick else x) }

/-- One clock of a partition's picker (R121). -/
def State.pick (s : State) (core part : Nat) : Out :=
  if 192 ≤ core || 16 ≤ part || ((s.core core).part part).picked = s.tick + 1 then .next s
  else
    let s := (s.settlePart core part).setPart core part fun p => { p with picked := s.tick + 1 }
    let p := (s.core core).part part
    let here := (List.range 12).filter fun k => (afind (gangKey core part k) s.gangs).isSome
    let ready := here.filter fun k => s.ctxReady (.cond (gangKey core part k))
    let starved := ready.filter fun k => decide ((s.gang (gangKey core part k)).cond.lastIssue + 16 < s.tick)
    let cond (s : State) (ks : List Nat) (other : Out) : Out :=
      match takenFrom p.condPtr ks with
      | some k => s.issueCond core part k
      | none => other
    if s.tick < p.busyUntil then cond s ready (.next s)
    else
      cond s starved
        (match takenFrom p.lanePtr (here.filter fun k => s.laneGroups (gangKey core part k) ≠ []) with
         | some k => s.issueLanes core part k
         | none => cond s ready (.next s))

/-- A Steppe thread's next instruction boundary: a pending vector it must take (R281), or its next instruction;
a Saddle core's next instruction. -/
def State.runOwn (s : State) (a : Agent) : Out :=
  match a with
  | .steppe core thr =>
    if (s.vectorDue core thr).isSome then execSteppeInterrupt core thr s
    else
      let s := s.settle a
      if s.ctxReady a then s.issueAs a 0 else .next s
  | .saddle _ =>
    let s := s.settle a
    if s.ctxReady a then s.issueAs a 0 else .next s
  | _ => .next s

/-! ## The end of a clock -/

/-- Threads parked on a mask. -/
def Gang.waitsOn (x : Gang) (k : Fin 12) : W32 := maskOf fun t => (x.lane t.val).st = .parkedMask k

/-- A mask is released when it is nonzero and every thread whose bit is set is parked on it (R128). -/
def Gang.releases (x : Gang) (k : Fin 12) : Bool := x.m[k] ≠ 0 && x.m[k] &&& ~~~x.waitsOn k = 0

/-- A released mask is cleared, and every thread parked on it is live. -/
def Gang.release (x : Gang) (k : Fin 12) : Gang :=
  if x.releases k then
    (x.mapLanes (x.waitsOn k) fun _ l => { l with st := .live }).onMask k fun _ => 0
  else x

/-- The masks, in order. -/
def maskNumbers : List (Fin 12) := [0, 1, 2, 3, 4, 5, 6, 7, 8, 9, 10, 11]

/-- Every mask that releases (R128). -/
def Gang.releaseMasks (x : Gang) : Gang := maskNumbers.foldl Gang.release x

/-- Whether the conductor's next instruction is a `qpop` that no completed entry can serve (R129). -/
def State.popsInVain (s : State) (g : Nat) : Bool :=
  let x := s.gang g
  s.ctxRuns (.cond g) && x.uq.depth ≠ 0 && !x.uqHas &&
    match (s.fetch (.cond g) 0).2 with
    | .instr (.groupQpop _) => true
    | _ => false

/-- Lane threads by PC, ascending. -/
def Gang.byPc (x : Gang) (m : W32) : List (Nat × W32) :=
  (threads m).foldl (fun r t =>
    let pc := (x.lane t.val).pc.toNat
    aput pc (aget 0 pc r ||| oneHot t.val) r) []

/-- Lane threads park for a fault, those of one PC together. -/
def State.faultByPc (s : State) (g : Nat) (m : W32) (cause : Byte) (stval : W64) : State :=
  ((s.gang g).byPc m).foldl (fun s e => s.laneFault g e.2 cause stval) s

/-- Live threads that wait on masks that can never release (R129). -/
def Gang.maskNumber (x : Gang) (t : Nat) : Option Nat :=
  match (x.lane t).st with
  | .parkedMask k => some k.val
  | _ => none

/-- Every live lane thread is parked on a mask (R129). -/
def Gang.allWait (x : Gang) : Bool := x.glive ≠ 0 && (threads x.glive).all fun t => (x.maskNumber t.val).isSome

/-- A thread parked at the word after its `wait`, back at the `wait` itself: where the `wait` is the last word of
a loop body and the loop has gone back to its start, at the end of that body. -/
def Lane.atWait (l : Lane) : Lane :=
  match l.loops with
  | b :: r =>
    if b.start = l.pc.zeroExtend 64 then
      { l with pc := b.stop.truncate 32 - 1, loops := { b with count := b.count + 1 } :: r }
    else { l with pc := l.pc - 1 }
  | [] => { l with pc := l.pc - 1 }

/-- A gang whose lane threads can never be released takes 0x0C at their `wait` (R129). -/
def State.maskStall (s : State) (g : Nat) : State :=
  let x := s.gang g
  if x.allWait && (x.cond.st = .exited || s.popsInVain g) then
    let n := (x.maskNumber ((threads x.glive).headD 0).val).getD 0
    (s.mapLanes g x.glive fun _ l => l.atWait).faultByPc g x.glive 0x0C (n64 n)
  else s

/-- Lane threads stalled on `qpop` of an empty dq that nothing fills any more (R152). -/
def State.lanesPopInVain (s : State) (g : Nat) : W32 :=
  let x := s.gang g
  if x.cond.st ≠ .exited || x.dq.depth = 0 || x.sd.toList.any (·.running) then 0
  else
    maskOf fun t =>
      let l := x.lane t.val
      l.st = .live && l.wait.isNone && !x.dqHas t.val &&
        match (s.kernel g).decodeAt l.pc.toNat ((s.kernel g).laneCode.getD l.pc.toNat 0) with
        | some (.qpop _) => true
        | _ => false

/-- A queue wait that cannot end is stopped (R152). -/
def State.queueStall (s : State) (g : Nat) : State :=
  let s := s.faultByPc g (s.lanesPopInVain g) 0x12 0
  if (s.gang g).glive = 0 && s.popsInVain g then s.groupFault (.cond g) 0x12 1 else s

/-- The end of a clock for one gang: masks, stalls, then one trap (R128, R129, R152, R276). -/
def State.endGangClock (s : State) (g : Nat) : State :=
  if s.frozen g then s
  else
    let s := s.setGang g (s.gang g).releaseMasks
    ((s.maskStall g).queueStall g).takeTrap g

/-- Every gang of the machine. -/
def State.eachGang (s : State) (f : State → Nat → State) : State := (s.gangs.map (·.1)).foldl f s

/-- The launch has no block whose join is still to take effect (R113). -/
def Launch.joined (l : Launch) : Launch := { l with joining := [] }

/-- What the acts of a clock leave to its end on a core: semaphores served, requests for the baton in their order
(R182, R251), and locks that no clock's comparison needs any more (R222). -/
def State.endCoreClock (s : State) (core : Nat) : State :=
  let s := (s.serveSemaphores core).grantBaton core (s.tick + 1)
  let c := s.core core
  s.setCore core { c with locks := c.locks.filter fun k => k.freed = none }

/-- What the beginning of a clock brings whether or not an event has: a switch window that closes, a watchdog
period that ends (R78). -/
def State.beginClock (s : State) : State :=
  let s := match execRollBack s with | .next t => t | _ => s
  match execWatchdogExpiry s with | .next t => t | _ => s

/-- The next clock begins: event delivery that was to resume does (R320). -/
def State.nextTick (s : State) : State :=
  { s with
      tick := s.tick + 1, synced := []
      launches := s.launches.map fun (i, l) => (i, l.joined)
      dev := { s.dev with suspended := s.dev.suspended && !s.dev.resuming, resuming := false } }

/-- The end of a clock, and the beginning of the next (R107, R113, R120, R249, R252, R256, R286, R289). -/
def State.endClock (s : State) : State :=
  let s : State := { s with gangs := s.gangs.map fun (g, x) => (g, x.settle s.tick) }
  let s := s.finalReads.eachGang State.expireStubs
  let s := s.eachGang State.endGangClock
  let s := ((s.cores.map (·.1)).foldl State.endCoreClock s).eachGang State.barDeadline
  let s := (s.launches.map (·.1)).foldl State.noteStep s
  let s := ((s.eachGang State.reap).endBlocks.freeRetired).notePoints.settleVoids
  let s := s.nextTick
  (s.cores.map (·.1)).foldl State.watchClock s.actResumes.beginClock

/-- Partitions that hold gangs, by 16 × core + partition. -/
def State.busyParts (s : State) : List Nat := (s.gangs.map fun e => e.1 / 12).eraseDups

/-- A clock ends: the partitions that have not picked yet pick first. -/
def State.clock (s : State) : Out :=
  let picked := s.busyParts.foldl (fun (o : Out) n =>
    match o with
    | .next s => s.pick (n / 16) (n % 16)
    | o => o) (.next s)
  match picked with
  | .next s => .next s.endClock
  | o => o

/-! ## Events -/

/-- Writes of a CSR and commands that only an instruction makes: no events of their own. -/
def madeByWord : Instr → Bool
  | .maskWrite _ _ _ | .fslotWrite _ | .fwdtWrite _ | .sfqbWrite _ | .secDigest _ | .secVerify _ | .secExtend _
  | .secResetSponge _ | .secAbsorb _ | .secSqueeze _ => true
  | _ => false

/-- Whether something happens on its own: no instruction word, and no part of one. -/
def isEvent (i : Instr) : Bool := encode i = [] && !madeByWord i

/-- An event of the device or of what is outside it. -/
def State.happen (s : State) (i : Instr) : Out := if isEvent i then exec i s else .next s

/-- One granule of the command at the head of a launch's copies on a core (R215). -/
def State.moveGranule (s : State) (core launch : Nat) : State :=
  match s.copyRuns core launch with
  | none => s
  | some c =>
    if copyGranules c.block ≤ c.done || !s.copyTurn core launch then s
    else
      match s.copyGranule c with
      | (t, .done) => t
      | _ => s

/-! ## Soft errors and other faults of the device (R201, R292) -/

/-- An uncorrectable error that only a core's counter records. -/
def State.countLost (s : State) (core : Nat) : State :=
  let c := s.core core
  s.setCore core { c with errs := (c.errs.1, countUp c.errs.2) }

/-- An uncorrectable error in both copies of a table's entry: the black box and every quotation that holds
partitions on the core. -/
def State.tableLost (s : State) (core : Nat) : State :=
  (s.quotes.filter fun q => q.holds && q.partsOn core ≠ []).foldl (fun s q => s.charge q.id 3 5 0)
    (s.uncorrectable core 0 0 0)

/-- A fault of the device pre-empts a firm launch that runs under its quotation (R93, R101, R292, R295). -/
def State.preemptFirm (s : State) (launch : Nat) : State :=
  match s.launch? launch with
  | none => s
  | some l =>
    match s.quote? l.qid with
    | some q =>
      if l.phase = .running && q.cls = 0 && q.state = 4 then
        (s.setLaunch launch { l with phase := .stopping }).charge q.id 3 8 0
      else s
    | none => s

/-- What a fault of the device does where it strikes. -/
def State.upset (s : State) (u : Upset) : State :=
  match u with
  | .word key => s.struck (some key)
  | .laneReg g t r =>
    let l := (s.gang g).lane t
    if (afind g s.gangs).isSome && decide (t < 32) && decide (r < 96) then
      s.setGang g ((s.gang g).setLane t { l with bad := (r :: l.bad).eraseDups })
    else s
  | .groupReg a r =>
    if s.exists_ a && decide (r < 192) then s.setCtx a { s.ctx a with bad := (r :: (s.ctx a).bad).eraseDups } else s
  | .corrected core => if core < 192 then s.countError core else s
  | .line core n =>
    let c := s.core core
    if n < c.lines.length then (s.setCore core { c with lines := c.lines.eraseIdx n }).countLost core else s
  | .tlb core n =>
    let c := s.core core
    if n < c.tlb.length then (s.setCore core { c with tlb := c.tlb.eraseIdx n }).countLost core else s
  | .code unit n =>
    let c := s.core unit
    s.setCore unit { c with icache := modAt (fun e => (e.1, [])) n c.icache }
  | .oneCopy core => if core < 192 then s.countLost core else s
  | .watch core id =>
    match afind id (s.core core).watches with
    | none => s
    | some w => if w.state ≠ 1 then s else (s.haltWatch core id 3 w).tableLost core
  | .table core => if core < 192 then s.tableLost core else s
  | .firm launch => s.preemptFirm launch

/-- What a move does. -/
def State.act (s : State) (m : Move) : Out :=
  match m with
  | .pick core part => s.pick core part
  | .run a => s.runOwn a
  | .event i => s.happen i
  | .granule core launch => .next (s.moveGranule core launch)
  | .upset u => .next (s.upset u)
  | .clock => s.clock

end Sys2Proof.Machine
end

