-- ==== Sys2Proof/Machine/Step.lean ====
section
/-! DEFINITION. One step of the machine, and where an instruction is placed to be the next one it runs. -/

namespace Sys2Proof.Machine

/-- One step: the first move of the agenda; where it names none, a move that nothing fixes (log 5). -/
def step (s : State) : Host.Outcome State Fault Refusal :=
  match s.agenda with
  | m :: r => { s with agenda := r }.act m
  | [] => { s with moves := s.moves + 1 }.act (Config.freeMove s.moves)

/-! ## Placing an instruction (log 21) -/

/-- Code address of the first word of a conductor section (R17). -/
def condEntryAddress : W32 := 0x80000000

/-- The kernel whose sections begin with the words given. -/
def placedKernel (ws : List W32) : Kernel :=
  { Kernel.open_ with
      object := 2 ^ 52, laneCode := ws, condCode := ws, laneEntry := some 0, condEntry := some condEntryAddress
      chain := 64 }

/-- The launch that runs them. -/
def placedLaunch (ws : List W32) : Launch :=
  { qid := 0, asid := 0, kernel := placedKernel ws, shape := { ext := [1], elastic := false, neighbour := false },
    arg := 0, slots := [], started := 1, rect := (1, 1), groups := [], joining := [], stream := 0, step := 0,
    stepStart := 0, stepEnded := none, pJ := 0, start := 0, phase := .running, gone := 0, halt := 0, lost := 0, moved := 0,
    saved := [], savedTasks := [], savedMx := [], savedOps := [], copySeq := [], retries := 0,
    packet := none }

/-- A page that holds the words for code of a `.image`: global, executable, at physical address 0. -/
def placedPage : TlbEntry := { asid := none, base := 0, bytes := 65536, pte := 0x69, at_ := 0 }

/-- A unit with the words in its unlocked code lines, at address 0. -/
def CoreSt.placed (c : CoreSt) (ws : List W32) : CoreSt :=
  { c with tlb := [placedPage], icache := [(0, ws.flatMap fun w => leBytes 4 w.toNat)] }

/-- The gang of core 0, partition 0, slot 0 with one live lane thread at its first word. -/
def placedLanes : Gang :=
  { Gang.empty with lanes := Gang.empty.lanes.set 0 { Lane.empty with st := .live } }

/-- The same gang with no lane thread, and its conductor at a level. -/
def placedCond (l : Level) : Gang :=
  { Gang.empty with cond := { Ctx.empty l .live with pc := if l = .u then 0x80000000 else 0 } }

/-- The state with the instruction whose bits are `w` where the next step fetches: on a lane thread, a
U-level conductor, Saddle core 0, Steppe thread 0 or an S-level conductor, the first of these on which the
word is legal at its level. -/
def State.withFetchWord (s : State) (nbits w : Nat) : State :=
  let bits := w % 2 ^ nbits
  let w0 : W32 := BitVec.ofNat 32 bits
  let ws : List W32 := [w0, BitVec.ofNat 32 (bits / 2 ^ 32)]
  let onCore (x : Gang) : State :=
    { s with gangs := aput 0 x s.gangs, launches := aput 0 (placedLaunch ws) s.launches, agenda := [.pick 0 0] }
  if !bit w0 31 then onCore placedLanes
  else if wordLegal w0 .cond .u && Sys2Proof.levelOf w0 = .u then onCore (placedCond .u)
  else if wordLegal w0 .saddle .f then
    { s.setCore 200 ((s.core 200).placed ws) with
        saddles := aput 0 (Ctx.empty .f .live) s.saddles, agenda := [.run (.saddle 0)] }
  else if wordLegal w0 .steppe .s then
    { s.setCore 192 ((s.core 192).placed ws) with
        steppes := aput 0 (Ctx.empty .s .live) s.steppes, agenda := [.run (.steppe 0 0)] }
  else (onCore (placedCond .s)).setCore 0 ((s.core 0).placed ws)

end Sys2Proof.Machine
end

