-- ==== Sys2Proof/Safety.lean ====
section
/-! DEFINITION. What counts as a safe run of the machine. -/

namespace Sys2Proof.Safety

open Sys2Proof.Machine

/-- The machine goes on: its step answers a next state, neither a fault nor a refusal. -/
def goesOn (s : State) : Prop := ∃ t, step s = .next t

/-- A state as every step leaves it: memory in its canonical form, the gangs in the order of their keys, each
once, and no instruction half issued. -/
structure Sound (s : State) : Prop where
  mem : Memory.wf s.mem = true
  gangs : s.gangs.Pairwise fun x y => x.1 < y.1
  issue : s.issue = Issue.idle

end Sys2Proof.Safety
end

