-- ==== Sys2Proof/Certificates/Slice0/Obligations.lean ====
section
/-! DEFINITION. The statements about the Swetar, and the words they are put in. -/

namespace Sys2Proof.Claims

open Sys2Proof.Machine

/-! ## The state an instruction acts on -/

/-- The state an instruction of an agent acts on: every result whose latency has ended is in its register
(R137), and the issue is counted for the launch (R100). -/
def turn (i : Instr) (s : State) (a : Agent) : State := (s.settle a).spendIssue a i

/-- The issue group `m` of gang `g` executes the lane instruction `i`: the word is legal on a lane thread at
U level, and its fields are in range (R36). -/
structure LaneTurn (i : Instr) (s : State) (g : Nat) (m : W32) (s1 : State) : Prop where
  issuer : ∃ t, s.issue.who = some (.lane g t) ∧ s1 = turn i s (.lane g t)
  group : s.issue.mask = m
  legal : encodingFault i .lane .u (s.kernel g).laneRegs (s.kernel g).groupRegs = none

/-- A conductor, Steppe thread or Saddle core executes the group instruction `i`: the word is legal on its
core kind and at its level, its fields are in range (R36), and no register it reads holds an uncorrectable error
(R137). -/
structure GroupTurn (i : Instr) (s : State) (a : Agent) (s1 : State) : Prop where
  issuer : s.issue.who = some a
  kind : agentKind a ≠ .lane
  legal : encodingFault i (agentKind a) (s.levelOf a) 96 (s.groupRegs a) = none
  now : s1 = turn i s a
  sound : ∀ r ∈ readsOf i, r ∉ (s1.ctx a).bad

/-- Thread `t` of a gang. -/
def laneOf (s : State) (g : Nat) (t : Fin 32) : Lane := (s.gang g).lane t.val

/-- The flags a lane thread ends with once every result has landed. -/
def ffls (l : Lane) : BitVec 5 := (l.pend.foldl Lane.put l).ffl

/-- What a lane instruction that touches registers alone leaves: every byte of memory, every unit and every
gang but `g`; of `g`, everything but its lanes; of these, every thread outside `m`. -/
structure LanesOnly (s s1 t : State) (g : Nat) (m : W32) : Prop where
  bytes : ∀ k, readByte t.mem k = readByte s.mem k
  rest : t = { s1 with gangs := t.gangs }
  gangs : ∀ h, h ≠ g → t.gang h = s1.gang h
  gang : t.gang g = { s1.gang g with lanes := (t.gang g).lanes }
  lanes : ∀ u : Fin 32, m.getLsbD u.val = false → laneOf t g u = laneOf s1 g u

/-- What an instruction leaves of its own thread when it writes at most the register `d` and raises `fl`: the
PC stands `n` words on, every other register and every index register ends as before, the flags gain `fl`. -/
structure OneRegister (old new : Lane) (n : Nat) (d : Dst) (fl : BitVec 5) : Prop where
  rest : new = { old.advance n with pend := new.pend }
  others : ∀ r, r < 96 → d ≠ .reg r → new.final r = old.final r
  index : ∀ k, new.finalX k = old.finalX k
  flags : ffls new = ffls old ||| fl

/-! ## Integers (R158–R162) -/

/-- A number below 2^w as a signed integer. -/
def signed (w a : Nat) : Int := if a < 2 ^ (w - 1) then a else (a : Int) - 2 ^ w

/-- An integer modulo 2^w. -/
def wrap (w : Nat) (i : Int) : Nat := (i % 2 ^ w).toNat

/-- An integer saturated to the signed range of w bits, as its bits. -/
def clampS (w : Nat) (i : Int) : Nat := wrap w (max (-(2 ^ (w - 1))) (min (2 ^ (w - 1) - 1) i))

/-- An integer saturated to the unsigned range of w bits. -/
def clampU (w : Nat) (i : Int) : Nat := (max 0 (min (2 ^ w - 1) i)).toNat

/-- All ones of w bits, or zero. -/
def truth (w : Nat) (p : Bool) : Nat := if p then 2 ^ w - 1 else 0

/-- The sum of a function over the bits set in a number of w bits. -/
def overBits (w a : Nat) (f : Nat → Nat) : Nat := ((List.range w).map fun i => if a.testBit i then f i else 0).sum

/-- An integer instruction's type, destination and operands, and what it gives for one element of w bits from
the elements a and b of its operands and the old element d of its destination, all numbers below 2^w. -/
structure Integer where
  ty : IntTy
  dst : LDst
  a : Option LSrc
  b : Option LOpB
  f : Nat → Nat → Nat → Nat → Nat

/-- The tables of R159 to R162. -/
def integer : Instr → Option Integer
  | .add t d a b => some ⟨t, d, a, b, fun w a b _ => (a + b) % 2 ^ w⟩
  | .sub t d a b => some ⟨t, d, a, b, fun w a b _ => wrap w (a - b)⟩
  | .mul t d a b => some ⟨t, d, a, b, fun w a b _ => a * b % 2 ^ w⟩
  | .mulhs t d a b => some ⟨t, d, a, b, fun w a b _ => wrap w (signed w a * signed w b / 2 ^ w)⟩
  | .mulhu t d a b => some ⟨t, d, a, b, fun w a b _ => a * b / 2 ^ w⟩
  | .mad t d a b => some ⟨t, d, a, b, fun w a b d => (a * b + d) % 2 ^ w⟩
  | .mins t d a b => some ⟨t, d, a, b, fun w a b _ => if signed w a ≤ signed w b then a else b⟩
  | .minu t d a b => some ⟨t, d, a, b, fun _ a b _ => min a b⟩
  | .maxs t d a b => some ⟨t, d, a, b, fun w a b _ => if signed w a ≤ signed w b then b else a⟩
  | .maxu t d a b => some ⟨t, d, a, b, fun _ a b _ => max a b⟩
  | .and t d a b => some ⟨t, d, a, b, fun _ a b _ => a &&& b⟩
  | .or t d a b => some ⟨t, d, a, b, fun _ a b _ => a ||| b⟩
  | .xor t d a b => some ⟨t, d, a, b, fun _ a b _ => a ^^^ b⟩
  | .shl t d a b => some ⟨t, d, a, b, fun w a b _ => a * 2 ^ (b % w) % 2 ^ w⟩
  | .shru t d a b => some ⟨t, d, a, b, fun w a b _ => a / 2 ^ (b % w)⟩
  | .shrs t d a b => some ⟨t, d, a, b, fun w a b _ => wrap w (signed w a / 2 ^ (b % w))⟩
  | .addss t d a b => some ⟨t, d, a, b, fun w a b _ => clampS w (signed w a + signed w b)⟩
  | .addus t d a b => some ⟨t, d, a, b, fun w a b _ => clampU w (a + b)⟩
  | .subss t d a b => some ⟨t, d, a, b, fun w a b _ => clampS w (signed w a - signed w b)⟩
  | .subus t d a b => some ⟨t, d, a, b, fun w a b _ => clampU w (a - b)⟩
  | .ceq t d a b => some ⟨t, d, a, b, fun w a b _ => truth w (a = b)⟩
  | .cne t d a b => some ⟨t, d, a, b, fun w a b _ => truth w (a ≠ b)⟩
  | .clts t d a b => some ⟨t, d, a, b, fun w a b _ => truth w (signed w a < signed w b)⟩
  | .cltu t d a b => some ⟨t, d, a, b, fun w a b _ => truth w (a < b)⟩
  | .cles t d a b => some ⟨t, d, a, b, fun w a b _ => truth w (signed w a ≤ signed w b)⟩
  | .cleu t d a b => some ⟨t, d, a, b, fun w a b _ => truth w (a ≤ b)⟩
  | .bsel t d a b => some ⟨t, d, a, b, fun w a b d => (d &&& a) ||| ((2 ^ w - 1 - d) &&& b)⟩
  | .not t d a => some ⟨t, d, a, none, fun w a _ _ => 2 ^ w - 1 - a⟩
  | .neg t d a => some ⟨t, d, a, none, fun w a _ _ => wrap w (-a)⟩
  | .abs t d a => some ⟨t, d, a, none, fun w a _ _ => (signed w a).natAbs⟩
  | .popc t d a => some ⟨t, d, a, none, fun w a _ _ => overBits w a fun _ => 1⟩
  | .clz t d a => some ⟨t, d, a, none, fun w a _ _ => if a = 0 then w else w - 1 - Nat.log2 a⟩
  | .ctz t d a => some ⟨t, d, a, none, fun w a _ _ => ((List.range w).find? a.testBit).getD w⟩
  | .brev t d a => some ⟨t, d, a, none, fun w a _ _ => overBits w a fun i => 2 ^ (w - 1 - i)⟩
  | .bswap t d a => some ⟨t, d, a, none, fun w a _ _ =>
      ((List.range (w / 8)).map fun i => a / 256 ^ i % 256 * 256 ^ (w / 8 - 1 - i)).sum⟩
  | .addi t d a i => some ⟨t, d, a, none, fun w a _ _ => wrap w (a + i.toInt)⟩
  | .andi t d a i => some ⟨t, d, a, none, fun w a _ _ => a &&& wrap w i.toInt⟩
  | .ori t d a i => some ⟨t, d, a, none, fun w a _ _ => a ||| wrap w i.toInt⟩
  | .xori t d a i => some ⟨t, d, a, none, fun w a _ _ => a ^^^ wrap w i.toInt⟩
  | .shli t d a i => some ⟨t, d, a, none, fun w a _ _ => a * 2 ^ (i.toNat % w) % 2 ^ w⟩
  | .shrui t d a i => some ⟨t, d, a, none, fun w a _ _ => a / 2 ^ (i.toNat % w)⟩
  | .shrsi t d a i => some ⟨t, d, a, none, fun w a _ _ => wrap w (signed w a / 2 ^ (i.toNat % w))⟩
  | .movi t d i => some ⟨t, d, none, none, fun w _ _ _ => wrap w i.toInt⟩
  | _ => none



/-! ## Floating point (R163–R171) -/

/-- A floating-point instruction's type, destination and operands, and its operation on one element. -/
structure Floating where
  ty : FpTy
  dst : LDst
  a : LSrc
  b : Option LOpB
  op : FpOp

/-- The sum, difference, product, fused sum, root and reciprocals round an exact value once; compares, signs
and classes go by what the bits stand for (R164–R170). -/
def floating : Instr → Option Floating
  | .fadd t d a b => some ⟨t, d, a, b, fun f m a b _ => f.add m (f.value a) (f.value b)⟩
  | .fsub t d a b => some ⟨t, d, a, b, fun f m a b _ => f.add m (f.value a) (f.value b).neg⟩
  | .fmul t d a b => some ⟨t, d, a, b, fun f m a b _ => f.mul m (f.value a) (f.value b)⟩
  | .ffma t d a b => some ⟨t, d, a, b, fun f m a b d => f.fma m (f.value a) (f.value b) (f.value d)⟩
  | .fmin t d a b => some ⟨t, d, a, b, fun f _ a b _ => f.pick false a b⟩
  | .fmax t d a b => some ⟨t, d, a, b, fun f _ a b _ => f.pick true a b⟩
  | .fceq t d a b => some ⟨t, d, a, b, fun f _ a b _ =>
      (truth f.width ((f.value a).same (f.value b)), flagIf ((f.value a).isSNaN || (f.value b).isSNaN) flagNV)⟩
  | .fclt t d a b => some ⟨t, d, a, b, fun f _ a b _ =>
      (truth f.width ((f.value a).less false (f.value b)), flagIf ((f.value a).isNaN || (f.value b).isNaN) flagNV)⟩
  | .fcle t d a b => some ⟨t, d, a, b, fun f _ a b _ =>
      (truth f.width ((f.value a).less false (f.value b) || (f.value a).same (f.value b)),
       flagIf ((f.value a).isNaN || (f.value b).isNaN) flagNV)⟩
  | .fcun t d a b => some ⟨t, d, a, b, fun f _ a b _ =>
      (truth f.width ((f.value a).isNaN || (f.value b).isNaN),
       flagIf ((f.value a).isSNaN || (f.value b).isSNaN) flagNV)⟩
  | .fneg t d a => some ⟨t, d, a, none, fun f _ a _ _ =>
      (if (f.value a).isNaN then f.nan else (a + 2 ^ (f.width - 1)) % 2 ^ f.width, 0)⟩
  | .fabs t d a => some ⟨t, d, a, none, fun f _ a _ _ =>
      (if (f.value a).isNaN then f.nan else a % 2 ^ (f.width - 1), 0)⟩
  | .fsqrt t d a => some ⟨t, d, a, none, fun f m a _ _ => f.sqrt m (f.value a)⟩
  | .frcp t d a => some ⟨t, d, a, none, fun f m a _ _ => f.rcp m (f.value a)⟩
  | .frsq t d a => some ⟨t, d, a, none, fun f m a _ _ => f.rsq m (f.value a)⟩
  | .fexp2 t d a => some ⟨t, d, a, none, fun f m a _ _ => f.exp2 m (f.value a)⟩
  | .flog2 t d a => some ⟨t, d, a, none, fun f m a _ _ => f.log2 m (f.value a)⟩
  | .fsinpi t d a => some ⟨t, d, a, none, fun f m a _ _ => f.sinPi m (f.value a)⟩
  | .fcospi t d a => some ⟨t, d, a, none, fun f m a _ _ => f.cosPi m (f.value a)⟩
  | .ftanh t d a => some ⟨t, d, a, none, fun f m a _ _ => f.tanh m (f.value a)⟩
  | .ffloor t d a => some ⟨t, d, a, none, fun f _ a _ _ => f.integral .rdn false (f.value a)⟩
  | .fceil t d a => some ⟨t, d, a, none, fun f _ a _ _ => f.integral .rup false (f.value a)⟩
  | .ftrunc t d a => some ⟨t, d, a, none, fun f _ a _ _ => f.integral .rtz false (f.value a)⟩
  | .frint t d a => some ⟨t, d, a, none, fun f m a _ _ => f.integral m true (f.value a)⟩
  | .fclass t d a => some ⟨t, d, a, none, fun f _ a _ _ => (2 ^ f.classBit (f.value a), 0)⟩
  | _ => none

/-- The flags `fl` are those that some enabled element below `n` raises, and no other (R157, R166). -/
def RaisedBy (fl : BitVec 5) (enabled : BitVec 8) (n : Nat) (raises : Nat → BitVec 5) : Prop :=
  ∀ j, j < 5 → (fl.getLsbD j = true ↔ ∃ k, k < n ∧ enabled.getLsbD k = true ∧ (raises k).getLsbD j = true)

/-- A thread's floating-point result: its enabled elements take `r`'s values, the others end as before; the
flags are those its enabled elements raise. -/
def FloatEffect (old new : Lane) (words : Nat) (d : Dst) (w : Nat) (r : Nat → Nat × BitVec 5) : Prop :=
  (∃ fl, RaisedBy fl old.emask (64 / w) (fun k => (r k).2) ∧ OneRegister old new words d fl) ∧
    ∀ n, d = .reg n → n < 96 → ∀ k, k < 64 / w →
      element w (new.final n) k = if old.emask.getLsbD k then (r k).1 % 2 ^ w else element w (old.final n) k

/-! ## Operands (R14, R38, R139–R147) -/

/-- What the reads of a group's operands give in one thread: the sources, the destination, the destination's
register before the instruction. No register that is read holds an uncorrectable error (R137). -/
structure PlainReads (e : ReadEnv) (x : Gang) (u : Fin 32) (d : LDst) (a : Option LSrc) (b : Option LOpB)
    (va vb vo : W64) (q : Dst) : Prop where
  a : ∀ r, a = some r → readSrc e u (x.lane u.val) r = .ok va
  b : ∀ r, b = some r → readB e x u (x.lane u.val) r = .ok vb
  dst : readDst e (x.lane u.val) d = .ok q
  old : ∀ n, q = .reg n → vo = (x.lane u.val).reg n
  whole : e.old = true → ∀ n, q = .reg n → n ∉ (x.lane u.val).bad
  perms : ∀ p ∈ e.perms, p ∉ (x.lane u.val).bad

/-- The source element of R144 for reading element `e` of `big` elements; `p` is the element of the `perm`
register. None is a vacated element. -/
def sourceOf (spec : RouteSpec) (big e p : Nat) : Option Nat :=
  match spec with
  | .none => some e
  | .rot q => some ((e + q.toNat) % big)
  | .bcast q => some q.toNat
  | .bfly q => some (e ^^^ q.toNat)
  | .perm _ => some (p % big)
  | .shup q => if e < q.toNat then none else some (e - q.toNat)
  | .shdn q => if big ≤ e + q.toNat then none else some (e + q.toNat)

/-- The register of a `perm` spec. -/
def permOf (spec : RouteSpec) : Nat := match spec with | .perm p => p.val | _ => 0

/-! ## Lane control (R120, R125–R136) -/

/-- A lane branch: its offset in words, whether a thread takes it by its register (none: always; `some (r, z)`:
when r is zero, or is not, as z says), and the guard it counts down. -/
structure Branch where
  off : Int
  test : Option (LSrc × Bool)
  guarded : Option (Fin 4)

/-- R125, R135. -/
def branch : Instr → Option Branch
  | .br o => some ⟨o.toInt, none, none⟩
  | .brz a o => some ⟨o.toInt, some (a, true), none⟩
  | .brnz a o => some ⟨o.toInt, some (a, false), none⟩
  | .bbr k o => some ⟨o.toInt, none, some k⟩
  | .bbrz k a o => some ⟨o.toInt, some (a, true), some k⟩
  | .bbrnz k a o => some ⟨o.toInt, some (a, false), some k⟩
  | _ => none

/-- Thread `u` takes, or does not take, a branch. -/
def Takes (e : ReadEnv) (b : Branch) (u : Fin 32) (l : Lane) (yes : Bool) : Prop :=
  match b.test with
  | none => yes = true
  | some (r, z) => ∃ v, readSrc e u l r = .ok v ∧ yes = (decide (v = 0) == z)

/-- The code address `off` words from a lane PC. -/
def awayFrom (l : Lane) (off : Int) : W32 := BitVec.ofInt 32 (l.pc.toNat + off)

/-- The operand reads of a lane control word start from its first word. -/
def controlEnv (i : Instr) (s1 : State) (g : Nat) : ReadEnv := { lanes := (s1.kernel g).laneRegs, word := firstWord i }

/-- A thread that calls (R130, R131): the return address and the index registers pushed; of four entries on
chip the oldest leaves and TSP rises by 16. -/
def calling (l : Lane) (target : W32) : Lane :=
  let f : Frame := { ret := l.pc.zeroExtend 64 + 1, x := l.x }
  if l.stack.length < 4 then { l with pc := target, stack := f :: l.stack, cdep := l.cdep + 1 }
  else { l with pc := target, stack := f :: l.stack.dropLast, cdep := l.cdep + 1, tsp := l.tsp + 16 }

/-- A thread that returns to the entry `f` (R131, R134): its index registers restored, with what was on the
way to them; the loops of the depth it leaves closed. -/
def returning (l : Lane) (f : Frame) (st : List Frame) (tsp : W64) : Lane :=
  { l with
      pc := f.ret.truncate 32, x := f.x, stack := st, tsp := tsp, cdep := l.cdep - 1
      loops := l.loops.filter fun d => decide (d.depth < l.cdep)
      pend := l.pend.filter fun p => match p.dst with | .x _ => false | _ => true }

/-- A thread that has exited (R120). -/
def exited (l : Lane) : Lane := { l with st := .exited, loops := [], wait := none, held := false }

/-- Whether a slice byte is one of the 16 bytes of a spill slot. -/
def inSlot (base tsp : Nat) (off : Nat) : Prop := base + tsp ≤ off ∧ off < base + tsp + 16

/-- No watch of a core is armed: a write in its slice changes nothing but the bytes (R261). -/
def Unwatched (s : State) (core : Nat) : Prop := ∀ e ∈ (s.core core).watches, e.2.state ≠ 1

/-! ## Accesses (R209–R212, R243–R247) -/

/-- What a new access in flight is, but for what it follows. -/
structure Sent where
  who : Agent
  loc : Loc
  size : Nat
  op : Access
  acq : Bool
  rel : Bool
  scope : Scope
  deriving DecidableEq

def sentOf (f : Flight) : Sent :=
  { who := f.who, loc := f.loc, size := f.size, op := f.op, acq := f.acq, rel := f.rel, scope := f.scope }

/-- The accesses `ps` of threads of gang `g` stand in flight behind the others, numbered upwards from the next
number, none performed. -/
structure Issued (before after : State) (ps : List Sent) : Prop where
  flight : ∃ fs, after.flight = before.flight ++ fs ∧ fs.map sentOf = ps ∧
    fs.map (·.id) = (List.range ps.length).map (before.nextId + ·) ∧ ∀ f ∈ fs, f.reply = none
  number : after.nextId = before.nextId + ps.length

/-- Every thread of a group passes the checks of an access (R209): the places, and the state after them. -/
def Checked (s1 : State) (g : Nat) (m : W32) (sp : Space) (at_ : Fin 32 → W64) (z : Nat) (acc : Acc)
    (allowed : Loc → Bool) (s2 : State) (ps : List (Fin 32 × Passed)) : Prop :=
  s1.checkThreads g m sp at_ z acc true allowed = (s2, ps.map fun e => (e.1, Except.ok e.2))

/-- A lane memory instruction's load: size, destination, address, space, offset in bytes, acquire, scope. -/
def loadOf : Instr → Option (LSize × LDst × LSrc × Space × Int × Bool × Scope)
  | .ld z d a sp o => some (z, d, a, sp, o.toInt * LSizeBytes z, false, .thr)
  | .ldacq z d a sp c => some (z, d, a, sp, 0, true, c)
  | _ => none

/-- A store's: size, value, address, space, offset in bytes, release, scope. -/
def storeOf : Instr → Option (LSize × LSrc × LSrc × Space × Int × Bool × Scope)
  | .st z v a sp o => some (z, v, a, sp, o.toInt * LSizeBytes z, false, .thr)
  | .strel z v a sp c => some (z, v, a, sp, 0, true, c)
  | _ => none

/-! ## Group instructions (R156, R173, R174, R210) -/

/-- What a group instruction that acts on its own context alone leaves: every byte of memory, and everything
else but that context. -/
structure CtxOnly (s s1 t : State) (a : Agent) : Prop where
  bytes : ∀ k, readByte t.mem k = readByte s.mem k
  rest : t = s1.setCtx a (t.ctx a)

/-- A group instruction of `n` words that writes at most the register `d`: the PC stands `n` words on, every
other register ends as before. -/
structure OneGroupRegister (s1 t : State) (a : Agent) (n : Nat) (d : Dst) : Prop where
  rest : t.ctx a = { (s1.advance a n).ctx a with pend := (t.ctx a).pend }
  others : ∀ r, r < 192 → d ≠ .reg r → (t.ctx a).final r = (s1.ctx a).final r

/-- A group instruction that writes one register: its destination, its words, and its value from what its
sources and its old destination read. -/
structure GroupValue where
  dst : GDst
  words : Nat
  val : (GSrc → W64) → W64 → W64

/-- A GA operation over 64 bits, or over the low 32 with the result sign-extended (R173). -/
def overWord (word : Bool) (f : Nat → Nat → Nat → Nat) (a b : W64) : W64 :=
  if word then (BitVec.ofNat 32 (f 32 (a.toNat % 2 ^ 32) (b.toNat % 2 ^ 32))).signExtend 64 else n64 (f 64 a.toNat b.toNat)

/-- A GA instruction's entry. -/
def ga (d : GDst) (a b : GSrc) (word : Bool) (f : Nat → Nat → Nat → Nat) : Option GroupValue :=
  some { dst := d, words := 1, val := fun r _ => overWord word f (r a) (r b) }

/-- A GI instruction's entry. -/
def gi (d : GDst) (a : GSrc) (f : Nat → Nat) : Option GroupValue :=
  some { dst := d, words := 1, val := fun r _ => n64 (f (r a).toNat) }

/-- The tables of R156, R173 and R174. -/
def groupValue : Instr → Option GroupValue
  | .groupAdd d a b w => ga d a b w fun w a b => (a + b) % 2 ^ w
  | .groupSub d a b w => ga d a b w fun w a b => wrap w (a - b)
  | .groupMul d a b w => ga d a b w fun w a b => a * b % 2 ^ w
  | .groupMulhs d a b w => ga d a b w fun w a b => wrap w (signed w a * signed w b / 2 ^ w)
  | .groupMulhu d a b w => ga d a b w fun w a b => a * b / 2 ^ w
  | .divs d a b w => ga d a b w fun w a b => if b = 0 then 2 ^ w - 1 else wrap w ((signed w a).tdiv (signed w b))
  | .divu d a b w => ga d a b w fun w a b => if b = 0 then 2 ^ w - 1 else a / b
  | .rems d a b w => ga d a b w fun w a b => if b = 0 then a else wrap w ((signed w a).tmod (signed w b))
  | .remu d a b w => ga d a b w fun _ a b => if b = 0 then a else a % b
  | .groupMins d a b w => ga d a b w fun w a b => if signed w a ≤ signed w b then a else b
  | .groupMinu d a b w => ga d a b w fun _ a b => min a b
  | .groupMaxs d a b w => ga d a b w fun w a b => if signed w a ≤ signed w b then b else a
  | .groupMaxu d a b w => ga d a b w fun _ a b => max a b
  | .groupAnd d a b w => ga d a b w fun _ a b => a &&& b
  | .groupOr d a b w => ga d a b w fun _ a b => a ||| b
  | .groupXor d a b w => ga d a b w fun _ a b => a ^^^ b
  | .groupShl d a b w => ga d a b w fun w a b => a * 2 ^ (b % w) % 2 ^ w
  | .groupShru d a b w => ga d a b w fun w a b => a / 2 ^ (b % w)
  | .groupShrs d a b w => ga d a b w fun w a b => wrap w (signed w a / 2 ^ (b % w))
  | .groupCeq d a b w => ga d a b w fun _ a b => if a = b then 1 else 0
  | .groupCne d a b w => ga d a b w fun _ a b => if a = b then 0 else 1
  | .groupClts d a b w => ga d a b w fun w a b => if signed w a < signed w b then 1 else 0
  | .groupCltu d a b w => ga d a b w fun _ a b => if a < b then 1 else 0
  | .sel d a b => some ⟨d, 1, fun r old => if old = 0 then r b else r a⟩
  | .groupAddi d a i => gi d a fun a => wrap 64 (a + i.toInt)
  | .groupAndi d a i => gi d a fun a => a &&& wrap 64 i.toInt
  | .groupOri d a i => gi d a fun a => a ||| wrap 64 i.toInt
  | .groupXori d a i => gi d a fun a => a ^^^ wrap 64 i.toInt
  | .groupShli d a i => gi d a fun a => a * 2 ^ i.toNat % 2 ^ 64
  | .groupShrui d a i => gi d a fun a => a / 2 ^ i.toNat
  | .groupShrsi d a i => gi d a fun a => wrap 64 (signed 64 a / 2 ^ i.toNat)
  | .movw d i => some ⟨d, 1, fun _ _ => BitVec.ofInt 64 i.toInt⟩
  | .lim d i => some ⟨d, 2, fun _ _ => BitVec.ofInt 64 i.toInt⟩
  | .limh d i => some ⟨d, 2, fun _ old => n64 (i.toNat * 2 ^ 32 + old.toNat % 2 ^ 32)⟩
  | _ => none

/-- The old value of a group destination. -/
def oldOf (s : State) (a : Agent) : GDst → W64
  | .g n => (s.ctx a).reg n.val
  | .gz => 0

/-- A group access that passes the checks of R203 and R209: its place, and the state after the checks. -/
structure GroupChecked (s1 : State) (a : Agent) (sp : Space) (va : W64) (z : Nat) (acc : Acc) (locks : Bool)
    (allowed : Loc → Bool) (s2 : State) (p : Passed) : Prop where
  space : spaceHeld a sp = true
  checks : s1.checkAccess a sp va z acc locks allowed = (s2, .ok p)

/-- Every thread but the context of `a` stands as before. -/
structure OthersStand (s2 t : State) (a : Agent) : Prop where
  gangs : t.gangs = (s2.setCtx a (t.ctx a)).gangs
  steppes : t.steppes = (s2.setCtx a (t.ctx a)).steppes
  saddles : t.saddles = (s2.setCtx a (t.ctx a)).saddles

/-- A group load: destination, address, space, offset in bytes, acquire, scope. -/
def groupLoadOf : Instr → Option (GDst × GSrc × Space × Int × Bool × Scope)
  | .groupLd d a sp o => some (d, a, sp, o.toInt * 8, false, .thr)
  | .groupLdacq d a sp c => some (d, a, sp, 0, true, c)
  | _ => none

/-- A group store: value, address, space, offset in bytes, release, scope. -/
def groupStoreOf : Instr → Option (GSrc × GSrc × Space × Int × Bool × Scope)
  | .groupSt v a sp o => some (v, a, sp, o.toInt * 8, false, .thr)
  | .groupStrel v a sp c => some (v, a, sp, 0, true, c)
  | _ => none

/-! ## Group control (R120, R125, R130–R136, R324) -/

/-- The address `off` words away: 4 bytes a word in code of an image, else a 32-bit code address. -/
def groupAway (s : State) (a : Agent) (off : Int) : W64 :=
  let pc := (s.ctx a).pc
  if s.inImage a then pc + BitVec.ofInt 64 (4 * off) else (BitVec.ofInt 32 (pc.toNat + off)).zeroExtend 64

/-- A target that the executing section holds, or any in an image. -/
def inReach (s : State) (a : Agent) (target : W64) : Prop :=
  match a with
  | .cond g => s.inImage a = true ∨ (s.kernel g).inSection true (target.truncate 32) = true
  | _ => True

/-- A group branch: offset, register and sense, guard. -/
def groupBranchOf : Instr → Option (Int × Option (GSrc × Bool) × Option (Fin 4))
  | .b o => some (o.toInt, none, none)
  | .bz a o => some (o.toInt, some (a, true), none)
  | .bnz a o => some (o.toInt, some (a, false), none)
  | .groupBbr k o => some (o.toInt, none, some k)
  | .groupBbrz k a o => some (o.toInt, some (a, true), some k)
  | .groupBbrnz k a o => some (o.toInt, some (a, false), some k)
  | _ => none

/-- Whether a group branch is taken. -/
def groupTakes (s : State) (a : Agent) (test : Option (GSrc × Bool)) : Bool :=
  match test with
  | none => true
  | some (r, z) => decide (readG s a r = 0) == z

/-- A context that calls: the return address pushed. -/
def callingCtx (s : State) (a : Agent) (target : W64) (st : List Frame) (tsp : W64) : Ctx :=
  let c := s.ctx a
  { c with
      pc := target, tsp := tsp, cdep := c.cdep + 1, lastIssue := s.tick
      stack := { ret := c.pc + (if s.inImage a then 4 else 1), x := Vector.replicate 4 XReg.zero } :: st }

/-- A context that returns to the entry `f`. -/
def returningCtx (s : State) (a : Agent) (f : Frame) (st : List Frame) (tsp : W64) : Ctx :=
  let c := s.ctx a
  { c with
      pc := f.ret, stack := st, tsp := tsp, cdep := c.cdep - 1, lastIssue := s.tick
      loops := c.loops.filter fun d => decide (d.depth < c.cdep) }

/-! ## Commands of a context (R182–R198, R213–R218, R250, R251) -/

/-- A context that has completed an instruction of `n` words: the PC stands `n` words on, `d` ends with `v`,
every other register as before; of its other fields only its waits, its recorded phases and what it follows may
have changed. -/
structure Completes (s1 t : State) (a : Agent) (n : Nat) (d : Dst) (v : W64) : Prop where
  rest : t.ctx a =
    { (s1.advance a n).ctx a with
        pend := (t.ctx a).pend, phases := (t.ctx a).phases, after := (t.ctx a).after, wait := (t.ctx a).wait,
        resumed := (t.ctx a).resumed }
  idle : (t.ctx a).wait = none
  value : ∀ r, d = .reg r → r < 192 → (t.ctx a).final r = v
  others : ∀ r, r < 192 → d ≠ .reg r → (t.ctx a).final r = (s1.ctx a).final r

/-- A context that waits at its instruction: nothing of it has changed but that it waits, and what it saw. -/
structure Waits (s1 t : State) (a : Agent) (k : WaitKind) (deadline : Nat) : Prop where
  rest : t.ctx a = { s1.ctx a with wait := (t.ctx a).wait, phases := (t.ctx a).phases, lastIssue := s1.tick }
  wait : (t.ctx a).wait = some { kind := k, since := s1.tick, deadline := deadline }

/-- The gangs stand in the order of their keys, each once: an invariant (`SoundStateIsKept`). -/
def Ordered (s : State) : Prop := s.gangs.Pairwise fun x y => x.1 < y.1

/-- The conductor waits for nothing and no trap has interrupted a wait of it; the gangs are in order. -/
def Unwaiting (s : State) (a : Agent) : Prop := (s.ctx a).wait = none ∧ (s.ctx a).resumed = none ∧ Ordered s

/-- No other conductor of the core waits. -/
def NoneWait (s : State) (g : Nat) : Prop :=
  ∀ h x, (h, x) ∈ s.gangs → h ≠ g → gangCore h = gangCore g → x.cond.wait = none

/-- The registers p, p + 1, … of a parameter block. -/
def blockAt (s : State) (g p n : Nat) : List W64 := (List.range n).map fun j => (s.ctx (.cond g)).reg (p + j)

/-- Bytes outside [k, k + n) read as before. -/
def Outside (old new : State) (k n : Nat) : Prop := ∀ a, (a < k ∨ k + n ≤ a) → readByte new.mem a = readByte old.mem a

/-- The barrier word as its fields (R250). -/
def barrierWord (phase sem : Bool) (count : Nat) : W64 :=
  n64 ((if phase then 2 ^ 63 else 0) + (if sem then 2 ^ 62 else 0) + count)

/-! ## Quotations and the system words (R68–R98, R282–R288) -/

/-- The quotation that an id names for an ASID. -/
def Named (s : State) (asid id : Nat) (q : Quote) : Prop := s.quotes.find? (fun q => q.id = id && q.asid = asid) = some q

/-! ## Traps (R276–R281) -/

/-- What taking a trap at a tick with a cause, a value, a resumption PC and a vector makes of a context (R277):
the old level in SSTAT.PL, in handler 1, mode 0, ce as given; the handler's first instruction issues from the
next tick on; every general register, accumulated flag and stack entry as before. -/
structure Entered (now : Nat) (old new : Ctx) (lvl : Level) (cause stval sepc vector : W64) (ce : Bool) : Prop where
  scause : new.scause = cause
  stval : new.stval = stval
  sepc : new.sepc = sepc
  pc : new.pc = vector
  level : new.level = lvl
  st : new.st = .live
  fault : new.fault = none
  wait : new.wait = none
  pl : (new.sstat.extractLsb' 0 2).toNat = old.level.num
  handler : new.sstat.getLsbD 2 = true
  mode : new.sstat.extractLsb' 4 3 = 0
  ce : new.sstat.getLsbD 7 = ce
  next : new.from_ = now + 1
  rest : new =
    { old with
        scause := new.scause, stval := new.stval, sepc := new.sepc, pc := new.pc, level := new.level, st := new.st,
        fault := new.fault, wait := new.wait, sstat := new.sstat, resumed := new.resumed, lastIssue := new.lastIssue,
        from_ := new.from_ }

/-- What leaving a handler makes of a context (R279). -/
structure Left (old new : Ctx) (lvl : Level) (st : CtxSt) : Prop where
  pc : new.pc = old.sepc
  level : new.level = lvl
  st : new.st = st
  sstat : new.sstat = old.sstat &&& 0x8B
  rest : new =
    { old with
        pc := new.pc, level := new.level, st := new.st, sstat := new.sstat, resumed := new.resumed,
        lastIssue := new.lastIssue }

/-- The level in SSTAT.PL. -/
def savedLevel (c : Ctx) : Level := if c.sstat.extractLsb' 0 2 = 0 then .u else .s

/-- What `eret.lanes` makes of a reported thread in each mode (R279); `n` is the length of its instruction or
prefix unit. That mode 1 steps and closes the hardware loops that end there is the model's reading (log 26). -/
def resumedLane (mode n : Nat) (l : Lane) : Lane :=
  match mode with
  | 0 => { l with st := .live }
  | 1 => { l.advance n with st := .live }
  | 2 =>
    match l.stack with
    | f :: r => { returning l f r l.tsp with pc := f.ret.truncate 32 - 1, st := .live }
    | [] => l
  | 3 => { l with held := true }
  | _ => exited l

/-! ## Accesses performed and waits that end (R137, R212, R241–R251) -/

/-- The results an agent has in flight. -/
def pendsOf (s : State) (a : Agent) : List Pend :=
  match a with
  | .lane g t => ((s.gang g).lane t).pend
  | a => (s.ctx a).pend

/-- A write at these bytes changes them and nothing else: a slice's outside its grant table with no watch armed, or
device memory's outside the information block while no quotation is bound. -/
def Writable (s : State) (loc : Loc) (n : Nat) : Prop :=
  match loc with
  | .slice c o =>
    (∀ j, j < n → sliceHeld c (o + j) = true) ∧ (o + n ≤ 0xFF0000 ∨ 0xFF4000 ≤ o) ∧ Unwatched s c
  | .dev pa =>
    pa + n ≤ s.dev.memBytes ∧ (4096 ≤ pa ∨ s.dev.booted < 6) ∧
      ∀ q ∈ s.quotes, q.kernel = none ∨ q.state ≠ 3 ∧ q.state ≠ 4
  | _ => False

/-- `n` bytes at a place read as the value `v` there (R12, R199). -/
def Reads (s : State) (loc : Loc) (n v : Nat) : Prop :=
  match loc with
  | .slice c o => (∀ j, j < n → sliceHeld c (o + j) = true) ∧ v = readLE s.mem (sliceKey c o) n
  | .dev pa => pa + n ≤ s.dev.memBytes ∧ v = readLE s.mem pa n
  | _ => False

/-- What a load of one line reads: from the copy in its core's line cache where it has one and may use it, else
from memory (R208). -/
def LoadReads (s : State) (f : Flight) (v : Nat) : Prop :=
  match f.loc with
  | .dev pa =>
    pa % 64 + f.size ≤ 64 ∧ pa / 64 * 64 + 64 ≤ s.dev.memBytes ∧
      (f.uncached = false → agentUnit f.who < 192 → ∀ line,
        afind (pa / 64) (s.core (agentUnit f.who)).lines = some line → v = leNat ((line.drop (pa % 64)).take f.size)) ∧
      ((f.uncached = true ∨ 192 ≤ agentUnit f.who ∨ afind (pa / 64) (s.core (agentUnit f.who)).lines = none) →
        v = readLE s.mem pa f.size)
  | l => Reads s l f.size v

/-- No copy, matrix operation or stream that a launch has issued reaches `.g`. -/
def NoneShared (s : State) (n : Nat) : Prop :=
  (∀ c x, (c, x) ∈ s.cores →
    (∀ k ∈ x.copies, k.launch = n →
      copySrcSpace k.block ≠ .g ∧ copyDstSpace k.block ≠ .g ∧ (copyCompletes k.block = true → copyDoneSpace k.block ≠ .g)) ∧
    ∀ y ∈ x.mx, y.launch = n → ∀ r ∈ mxLocks y.block, r.1 ≠ .g) ∧
  ∀ h x, (h, x) ∈ s.gangs → x.launch = n → ∀ k : Fin 4, x.sd[k].running = true → x.sd[k].space ≠ .g

/-- What an atomic of w bits leaves in memory from the old value and its operands (R244). -/
def atomNew (op : Aop) (w old b c : Nat) : Nat :=
  match op with
  | .add => (old + b) % 2 ^ w
  | .fadd => (fmtF32.add .rne (fmtF32.value old) (fmtF32.value b)).1 % 2 ^ w
  | .mins => if signed w old ≤ signed w b then old else b
  | .minu => min old b
  | .maxs => if signed w old < signed w b then b else old
  | .maxu => max old b
  | .and => old &&& b
  | .or => old ||| b
  | .xor => old ^^^ b
  | .exch => b
  | .cas => if old = b then c else old
  | .incw => if c ≤ old then 0 else (old + 1) % 2 ^ w

/-- A context's wait that has ended: the PC stands `n` words on, `d` ends with `v`, every other register as
before; its instruction issued when the wait began. -/
structure Ended (s t : State) (a : Agent) (n : Nat) (d : Dst) (v : W64) : Prop where
  rest : t.ctx a =
    { (s.advance a n).ctx a with
        pend := (t.ctx a).pend, wait := none, lastIssue := (s.ctx a).lastIssue, after := (t.ctx a).after }
  value : ∀ r, d = .reg r → r < 192 → (t.ctx a).final r = v
  others : ∀ r, r < 192 → d ≠ .reg r → (t.ctx a).final r = (s.ctx a).final r

/-- A lane thread's wait on an address that has ended with the value `v`. -/
structure LaneEnded (old new : Lane) (d : Dst) (v : W64) : Prop where
  one : OneRegister { old with wait := none } new 2 d 0
  value : ∀ r, d = .reg r → r < 96 → new.final r = v

/-- The wait of `a` on an address has ended with the value `v`. -/
def AddressEnded (s t : State) (a : Agent) (d : Dst) (v : W64) : Prop :=
  match a with
  | .lane g u => d ≠ .ffl → (∀ k, d ≠ .x k) → ∀ h : u < 32, LaneEnded (laneOf s g ⟨u, h⟩) (laneOf t g ⟨u, h⟩) d v
  | a => Ended s t a 2 d v

/-! ## Engines (R213–R218, R223, R253) -/

/-- `n` bytes of a launch's scratch as a site sees them: inside the declared size, below the slice's grant table. -/
def InScratch (l : Launch) (x : Site) (addr n : Nat) : Prop :=
  addr < 2 ^ 32 ∧ addr + n ≤ 2 ^ 32 ∧ addr + n ≤ l.kernel.scratch ∧ x.scratch + addr + n ≤ 0xFF0000

/-- The first command of a launch on a core runs, what it follows has been performed, and no other launch shares
the engine. -/
structure CopyAtHead (s : State) (core n : Nat) (c : CopyCmd) (l : Launch) : Prop where
  head : (s.core core).copies.find? (fun y => y.launch = n) = some c
  site : c.site.core = core
  launch : afind c.site.launch s.launches = some l
  running : c.running = true
  going : c.stopped = false
  follows : s.unperformed c.after = []
  alone : ∀ y ∈ (s.core core).copies, y.launch = n

/-- The locks of an operation released at a tick, each once (R216, R222). -/
def locksFreed (now : Nat) (o : LockOwner) (ks : List RangeLock) : List RangeLock :=
  ks.map fun k => if k.owner = o ∧ k.freed = none then { k with freed := some now } else k

/-- A command has left its engine with its locks (R216). -/
def CopyGone (s t : State) (core : Nat) (c : CopyCmd) : Prop :=
  (t.core core).copies =
      (s.core core).copies.filter (fun y => !(y.launch = c.launch && y.seq = c.seq && y.xfer = c.xfer)) ∧
    (t.core core).locks = locksFreed s.tick c.owner (s.core core).locks

/-- The stream `k` of a gang runs at entry `d.next`, in `.s` of its launch. -/
structure StreamAt (s : State) (g : Nat) (k : Fin 4) (d : Stream) (l : Launch) : Prop where
  stream : (s.gang g).sd[k.val] = d
  running : d.running = true
  going : d.stopped = false
  more : d.next < d.entries
  follows : s.unperformed d.after = []
  launch : afind (s.gang g).launch s.launches = some l
  phase : l.phase = .running
  space : d.space = .s

/-! ## The matrix engine's work (R183–R196) -/

/-- The operation that an engine works on: a handler's first, else the oldest unless a handler holds the
baton (R183, R197). -/
structure Foremost (s : State) (core : Nat) (o : MxOp) : Prop where
  site : o.site.core = core
  first : (s.core core).mx.find? (fun y => y.super) = some o ∨
    (∀ y ∈ (s.core core).mx, y.super = false) ∧ (s.core core).baton.super = false ∧ (s.core core).mx.head? = some o

/-- The operation that runs. -/
structure MxRunning (s : State) (core : Nat) (o : MxOp) : Prop where
  foremost : Foremost s core o
  running : o.running = true
  going : o.stopped = false

/-- The operation has made one more step, and its next counts from now, or from the end of a retry (R189, R195). -/
def MxStepped (s t : State) (core : Nat) (o : MxOp) : Prop :=
  ∃ y ∈ (t.core core).mx, ∃ n, (n = 0 ∨ n = 1) ∧ (y.corrected = o.corrected ∨ y.corrected = true) ∧
    y = { o with done := o.done + 1, ready := s.tick + n * o.stepClocks, corrected := y.corrected }

/-- The operation has left its engine with its locks (R194). -/
def MxGone (s t : State) (core : Nat) (o : MxOp) : Prop :=
  (t.core core).mx = (s.core core).mx.filter (fun y => decide (y.seq ≠ o.seq)) ∧
    (t.core core).locks = locksFreed s.tick (.mx o.seq) (s.core core).locks

/-- Its status word, where it names a barrier (R194): cause in [31:24], steps in [23:8], a bit for the end. -/
def MxStatus (t : State) (core : Nat) (o : MxOp) (cause steps bits : Nat) : Prop :=
  mxBarrier o.block ≠ 255 →
    readLE t.mem (sliceKey core (0xFF4000 + 16 * mxBarrier o.block + 8)) 8 =
      cause * 2 ^ 24 + steps % 2 ^ 16 * 2 ^ 8 + bits + if o.corrected then 2 else 0

/-- A finite element as its signed integer and its power of two. -/
def partsOf : FVal → Int × Int
  | .fin neg m e => (if neg then -(m : Int) else m, e)
  | _ => (0, 0)

/-- Every element of row i of A and of column j of B in a step is finite. -/
def AllFinite (s : State) (o : MxOp) (i j st : Nat) : Prop :=
  ∀ k, k < 32 → (∃ n m e, s.mxA o i k st = .fin n m e) ∧ ∃ n m e, s.mxB o j k st = .fin n m e

/-- v × 2^e is the exact sum of the 32 products of row i of A and column j of B in a step (R190). -/
def ExactSum (s : State) (o : MxOp) (i j st : Nat) (v e : Int) : Prop :=
  (∀ k, k < 32 → e ≤ (partsOf (s.mxA o i k st)).2 + (partsOf (s.mxB o j k st)).2) ∧
    v = ((List.range 32).map fun k =>
      (partsOf (s.mxA o i k st)).1 * (partsOf (s.mxB o j k st)).1 *
        2 ^ ((partsOf (s.mxA o i k st)).2 + (partsOf (s.mxB o j k st)).2 - e).toNat).sum

/-- A quotation that a launch is charged to has its party already: a further fault writes no record (R101). -/
def Charged (s : State) (launch : Nat) : Prop :=
  ∀ l q, afind launch s.launches = some l → s.quotes.find? (fun x => x.id = l.qid) = some q → q.party ≠ 0

/-! ## Triggers, records, code lines (R117, R264–R267, R283, R284) -/

/-- A trigger that no forming gang has taken, recorded in an earlier clock, the oldest of its core that waits. -/
structure OldestTrigger (s : State) (core : Nat) (x : Trigger) : Prop where
  free : x.gang = none
  since : x.since < s.tick
  first : ∃ before after, (s.core core).triggers = before ++ x :: after ∧ ∀ y ∈ before, y.gang ≠ none

/-- Triggers that have joined a forming gang, in order. -/
def membersOf (s : State) (core : Nat) (f : Forming) : List Trigger :=
  (s.core core).triggers.filter fun y => decide (y.gang = some f.serial)

/-- v0–v5 of the thread a trigger makes (R266). -/
def triggerRegs (x : Trigger) : List W64 :=
  [n64 x.line, x.mask, x.value, n64 (x.count.toNat * 2 ^ 32 + x.seq.toNat), x.arg, n64 x.gen]

/-- The ready task that a forming gang becomes (R263, R265, R266). -/
structure TriggeredTask (k : Kernel) (ms : List Trigger) (y : Task) : Prop where
  origin : y.origin = .triggered
  threads : y.threads = ms.length
  regs : y.regs = ms.map triggerRegs
  gens : y.gens = ms.map fun x => min 8 (x.gen + 1)
  args : ∀ x r, ms = x :: r → y.gregs = [x.arg, n64 ms.length]
  lane : y.laneEntry = k.laneEntry
  cond : y.condEntry = k.condEntry

/-- The fields of a posted record (R284), read back at its slot. -/
structure RecordAt (t : State) (at_ : Nat) (r : Record) (now : Nat) : Prop where
  valid : readLE t.mem at_ 1 = 1
  kind : readLE t.mem (at_ + 1) 1 = r.kind % 256
  cause : readLE t.mem (at_ + 2) 1 = r.cause % 256
  status : readLE t.mem (at_ + 3) 1 = 0
  asid : readLE t.mem (at_ + 4) 2 = r.asid % 2 ^ 16
  core : readLE t.mem (at_ + 6) 2 = r.core % 2 ^ 16
  stval : n64 (readLE t.mem (at_ + 8) 8) = r.stval
  info : n64 (readLE t.mem (at_ + 16) 8) = r.info
  qid : readLE t.mem (at_ + 24) 4 = r.qid % 2 ^ 32
  part : readLE t.mem (at_ + 28) 1 = r.part % 256
  slot : readLE t.mem (at_ + 29) 1 = r.slot % 256
  sd : readLE t.mem (at_ + 30) 1 = r.sd % 256
  pc : n64 (readLE t.mem (at_ + 32) 8) = r.pc
  tick : readLE t.mem (at_ + 40) 8 = now % 2 ^ 64

/-! ## Firmware, boot and the outside (R75, R78, R79, R296–R304) -/

/-- A black-box entry has been written, unless the ring is frozen (R298). -/
def Logged (s t : State) (kind io core asid qid : Nat) (detail : W64) : Prop :=
  (s.dev.frozen = true → t.dev.box = s.dev.box) ∧
    (s.dev.frozen = false → s.dev.box.length < 4096 →
      t.dev.box = s.dev.box ++
        [{ tick := s.tick, kind := kind, io := io, core := core, asid := asid, qid := qid, detail := detail }])

/-- The pool has been reset into a slot (R78, R274, R320): every register of the twelve cores zero at F level,
core 0 at the image's entry from the next clock on, the others held until its heartbeat; delivery suspended. -/
structure PoolReset (s t : State) (slotB : Bool) : Prop where
  cores : ∀ k, k < 12 →
    t.ctx (.saddle k) =
      { Ctx.empty .f (if k = 0 then .live else .held) with pc := Config.imageEntry slotB, from_ := s.tick + 1 }
  delivery : t.dev.suspended = true

/-- FSLOT's bits. -/
structure SlotBits (f : BitVec 8) (slotB failedA failedB pending rolled verified : Bool) (mode : BitVec 2) : Prop where
  running : f.getLsbD 0 = slotB
  a : f.getLsbD 1 = failedA
  b : f.getLsbD 2 = failedB
  awaiting : f.getLsbD 3 = pending
  back : f.getLsbD 4 = rolled
  service : f.extractLsb' 5 2 = mode
  image : f.getLsbD 7 = verified

/-! ## Packets and the pool (R64–R75, R260) -/

/-- A well-formed packet of a kind stands at the read index of a queue and may start (R65–R67). -/
structure Starts (s : State) (q kind : Nat) (p : Packet) : Prop where
  slot : s.slot q = .packet p
  kind : p.kind = kind
  head : p.headOk = true
  body : p.bodyOk = true

/-- An address under an ASID leads to the byte `k` of device memory, through a leaf already accessed and dirty: a
write there by the device changes no leaf (R205). -/
def LeadsTo (s : State) (asid va k : Nat) : Prop :=
  ∃ pte level at_, walkTable s.mem (s.asidRoot asid) va = some (pte, level, at_) ∧ b64 pte 6 = true ∧ b64 pte 7 = true ∧
    leafLoc pte (2 ^ levelShift level) va = .dev k

/-- Device memory that a write reaches: on the device, outside the information block once boot has written it
(R296). -/
def Reached (s : State) (k n : Nat) : Prop := k + n ≤ s.dev.memBytes ∧ (4096 ≤ k ∨ s.dev.booted < 6)

/-- An instruction ends by completing packet `p` of queue `q` with a status, on a state of which `P` holds. -/
def Finishes (i : Instr) (s : State) (q : Nat) (p : Packet) (status : Nat) (P : State → Prop) : Prop :=
  ∃ u, exec i s = .next (u.complete q p.index status) ∧ P u

/-- Nothing of the machine has changed but that the packet is open. -/
def Opened (s : State) (p : Packet) (u : State) : Prop :=
  u = { s with dev := { s.dev with packets := s.dev.packets ++ [p] } }

/-- The bits of an event (R71): argument, kind, queue. -/
def eventOf (kind arg : Nat) (queue : Option Nat) : W64 :=
  n64 (arg % 2 ^ 48 * 2 ^ 16 + kind * 2 ^ 13 + match queue with | some q => 4096 + q % 4096 | none => 0)

/-- A quotation still counts at or after its deadline (R90). -/
def Late (s : State) (x : Quote) : Prop := 1 ≤ x.state ∧ x.state ≤ 3 ∧ x.deadline ≤ s.tick

/-- The quotation with an id stands in a state. -/
def StandsIn (u : State) (id state : Nat) : Prop := ∃ x, u.quote? id = some x ∧ x.state = state

/-! ## Launches (R103–R116, R293) -/

/-- Nothing of a launch is left: every block has started, every gang, child and ready task of it has ended, and
no engine holds work of it (R293). -/
structure NothingLeft (s : State) (id : Nat) (l : Launch) : Prop where
  started : l.shape.blocks ≤ l.started
  plain : l.kernel.watch = false
  saved : l.saved = []
  savedTasks : l.savedTasks = []
  gangs : ∀ e ∈ s.gangs, e.2.launch ≠ id
  cores : ∀ e ∈ s.cores,
    (∀ p ∈ e.2.parts.toList, ∀ y ∈ p.tasks, y.launch ≠ id) ∧ (∀ y ∈ e.2.copies, y.launch ≠ id) ∧
      ∀ y ∈ e.2.mx, y.launch ≠ id

/-- A lane thread that has just started at a code address with its first registers (R108, R130). -/
structure Started (k : Kernel) (l : Lane) (entry : W32) (vs : List W64) (slot t : Nat) : Prop where
  regs : ∀ r, r < 96 → l.reg r = if r < k.laneRegs then vs.getD r 0 else 0
  tsp : l.tsp = w64 ((k.scratch : Int) - (33 * slot + t + 1) * 16 * (k.maxDepth - 4 : Nat))
  rest : l = { Lane.empty with st := .live, pc := entry, v := l.v, tsp := l.tsp, gen := l.gen, after := l.after }

/-- The address in the lane section of a lane entry. -/
def laneAddress (e : W32) : W32 := BitVec.ofNat 32 (e.toNat % 2 ^ 31)

/-- Every thread of a gang in the place and with the registers it had. -/
def SameThreads (x y : Gang) : Prop :=
  ∀ u : Fin 32, (y.lane u.val).st = (x.lane u.val).st ∧ (y.lane u.val).pc = (x.lane u.val).pc ∧
    (y.lane u.val).v = (x.lane u.val).v ∧ (y.lane u.val).x = (x.lane u.val).x ∧
    (y.lane u.val).stack = (x.lane u.val).stack ∧ (y.lane u.val).loops = (x.lane u.val).loops

end Sys2Proof.Claims

open Sys2Proof Sys2Proof.Machine Sys2Proof.Claims

/-- R157–R162: an integer instruction of the lane set, with or without prefixes, writes every enabled element
of its destination in every thread of its issue group with what the tables give; it touches no flag and
nothing else, and a destination `vz` takes nothing. -/
def Obligations.LaneIntegerResult : Prop :=
  ∀ (i : Instr) (n : Integer) (s s1 : State) (g : Nat) (m : W32) (o : Operands),
    integer i = some n → LaneTurn i s g m s1 →
    gather (aluEnv i s1 g n.dst) s1 g m (intWidth n.ty) (64 / intWidth n.ty) n.dst n.a n.b = .ok o →
    ∃ t, exec i s = .next t ∧ LanesOnly s s1 t g m ∧
      ∀ u : Fin 32, m.getLsbD u.val = true →
        OneRegister (laneOf s1 g u) (laneOf t g u) (s.issue.words + 1) (o.dst u) 0 ∧
        ∀ r, o.dst u = .reg r → r < 96 → ∀ k, k < 64 / intWidth n.ty →
          element (intWidth n.ty) ((laneOf t g u).final r) k =
            if (laneOf s1 g u).emask.getLsbD k then
              n.f (intWidth n.ty) (element (intWidth n.ty) (o.a u) k) (element (intWidth n.ty) (o.b u) k)
                (element (intWidth n.ty) (o.old u) k)
            else element (intWidth n.ty) ((laneOf s1 g u).final r) k

/-- R157, R163–R170: a floating-point instruction of the lane set writes every enabled element of its
destination with its operation's value and adds the flags of the enabled elements; FRM of the thread gives the
mode. -/
def Obligations.LaneFloatResult : Prop :=
  ∀ (i : Instr) (n : Floating) (s s1 : State) (g : Nat) (m : W32) (o : Operands),
    floating i = some n → LaneTurn i s g m s1 →
    gather (aluEnv i s1 g n.dst) s1 g m (fpWidth n.ty) (64 / fpWidth n.ty) n.dst (some n.a) n.b = .ok o →
    ∃ t, exec i s = .next t ∧ LanesOnly s s1 t g m ∧
      ∀ u : Fin 32, m.getLsbD u.val = true →
        FloatEffect (laneOf s1 g u) (laneOf t g u) (s.issue.words + 1) (o.dst u) (fpWidth n.ty) fun k =>
          n.op (fmtOf n.ty) (RMode.ofBits (laneOf s1 g u).frm) (element (fpWidth n.ty) (o.a u) k)
            (element (fpWidth n.ty) (o.b u) k) (element (fpWidth n.ty) (o.old u) k)

/-- R171: `cvt` converts the low elements, as many as both types hold; the enabled elements above them are
zero and raise nothing. -/
def Sys2Proof.Claims.LaneConvertResult : Prop :=
  ∀ (dt st : ElTy) (d : LDst) (a : LSrc) (sg dg : Bool) (r : CvtMode) (s s1 : State) (g : Nat) (m : W32)
    (o : Operands),
    LaneTurn (.cvt dt d a st sg r dg) s g m s1 →
    gather (aluEnv (.cvt dt d a st sg r dg) s1 g d) s1 g m (elWidth st) (64 / elWidth st) d (some a) none = .ok o →
    ∃ t, exec (.cvt dt d a st sg r dg) s = .next t ∧ LanesOnly s s1 t g m ∧
      ∀ u : Fin 32, m.getLsbD u.val = true →
        FloatEffect (laneOf s1 g u) (laneOf t g u) (s.issue.words + 1) (o.dst u) (elWidth dt) fun k =>
          if k < 64 / elWidth st then
            convert st sg dt dg (cvtMode (laneOf s1 g u).frm r) (element (elWidth st) (o.a u) k)
          else (0, 0)

/-- R179–R181: where every thread of the group reads the same legal format word, `bfpk` leaves each thread its
part of its packed block and `bfpu` its unpacked elements, whatever EMASK says, and adds their flags. -/
def Sys2Proof.Claims.LaneBlockResult : Prop :=
  ∀ (ty : FpTy) (d : LDst) (a b : LSrc) (pack : Bool) (i : Instr) (s s1 : State) (g : Nat) (m : W32) (w : W64)
    (fmt : Format) (o : Operands),
    i = (if pack then .bfpk ty d a b else .bfpu ty d a b) → LaneTurn i s g m s1 → m ≠ 0 →
    (∀ u : Fin 32, m.getLsbD u.val = true → readSrc (aluEnv i s1 g d) u (laneOf s1 g u) b = .ok w) →
    Format.ofWord w false = some fmt →
    gather (aluEnv i s1 g d) s1 g m (fpWidth ty) (64 / fpWidth ty) d (some a) none = .ok o →
    ∃ t, exec i s = .next t ∧ LanesOnly s s1 t g m ∧
      ∀ u : Fin 32, m.getLsbD u.val = true →
        let r := if pack then packLane ty fmt m o.a u else unpackLane ty fmt (o.a u) (laneOf s1 g u)
        OneRegister (laneOf s1 g u) (laneOf t g u) (s.issue.words + 1) (o.dst u) r.2 ∧
          ∀ n, o.dst u = .reg n → n < 96 → (laneOf t g u).final n = r.1

/-- R46, R47, R146: a legal `route` or `accsrc` is held for the unit's instruction, which is the next word;
nothing else changes. -/
def Obligations.PrefixIsHeld : Prop :=
  ∀ (s : State) (g t : Nat), s.issue.who = some (.lane g t) →
    (s.issue.words = 0 →
      unitFault (s.kernel g) ((s.settle (.lane g t)).gang g |>.lane t).pc.toNat
        (((s.settle (.lane g t)).gang g |>.lane t).loops.map (·.stop)) = none) →
    (∀ x y own, exec (.route x y own) s =
      .next { turn (.route x y own) s (.lane g t) with
                issue := { s.issue with words := s.issue.words + 1, route := some (x, y, own) } }) ∧
    ∀ tile row onB sup, exec (.accsrc tile row onB sup) s =
      .next { turn (.accsrc tile row onB sup) s (.lane g t) with
                issue := { s.issue with words := s.issue.words + 1, acc := some (tile, row, onB, sup) } }

/-- R14, R38, R139: without a prefix, the operands of a lane ALU instruction are what its selectors name in
each thread before any destination is written; they are read exactly when every selector of every thread can
be. -/
def Sys2Proof.Claims.PlainOperandsAreRead : Prop :=
  ∀ (e : ReadEnv) (s : State) (g : Nat) (m : W32) (w n : Nat) (d : LDst) (a : Option LSrc) (b : Option LOpB),
    s.issue.route = none → s.issue.acc = none →
    ((∃ o, gather e s g m w n d a b = .ok o) ↔
      ∀ u : Fin 32, m.getLsbD u.val = true → ∃ va vb vo dst, PlainReads e (s.gang g) u d a b va vb vo dst) ∧
    ∀ o, gather e s g m w n d a b = .ok o → ∀ u : Fin 32, m.getLsbD u.val = true →
      PlainReads e (s.gang g) u d a b (o.a u) (o.b u) (o.old u) (o.dst u)

/-- R144–R146: element e of a routed operand a is its source element in the thread that holds it, or the fill
where that thread does not issue or the element is vacated: zero, or the reading thread's own element. -/
def Sys2Proof.Claims.RoutedOperand : Prop :=
  ∀ (e : ReadEnv) (s : State) (g : Nat) (m : W32) (w n : Nat) (d : LDst) (r : LSrc) (b : Option LOpB)
    (ra rb : RouteSpec) (own : Bool) (o : Operands),
    (w, n) ∈ [(8, 8), (16, 4), (32, 2), (64, 1)] →
    s.issue.route = some (ra, rb, own) → s.issue.acc = none → ra ≠ .none →
    gather e s g m w n d (some r) b = .ok o →
    ∀ (u : Fin 32) (k : Nat), m.getLsbD u.val = true → k < n →
      let fill := if own then element w (okOr 0 (readSrc e u (laneOf s g u) r)) k else 0
      match sourceOf ra (32 * n) (u.val * n + k) (element w ((laneOf s g u).reg (permOf ra)) k) with
      | none => element w (o.a u) k = fill
      | some j => ∀ h : Fin 32, h.val = j / n →
          element w (o.a u) k =
            if m.getLsbD h.val then element w (okOr 0 (readSrc e h (laneOf s g h) r)) (j % n) else fill

/-- R147: an `accsrc` operand of thread t is columns 2t and 2t + 1 of its fragment; a tile marked invalid
stops every thread with 0x15 and the tile. -/
def Sys2Proof.Claims.FragmentOperand : Prop :=
  ∀ (e : ReadEnv) (s : State) (g : Nat) (m : W32) (w n : Nat) (d : LDst) (r : LSrc) (b : Option LOpB)
    (tile : BitVec 4) (row : BitVec 6) (sup : Bool),
    s.issue.route = none → s.issue.acc = some (tile, row, false, sup) →
    let k := if sup then 16 + tile.toNat else tile.toNat
    let c := s.core (gangCore g)
    (∀ o, gather e s g m w n d (some r) b = .ok o → ∀ u : Fin 32, m.getLsbD u.val = true →
      k ∉ c.invalid ∧
      o.a u = c.accBits k row.toNat (2 * u.val + 1) ++ c.accBits k row.toNat (2 * u.val)) ∧
    (k ∈ c.invalid → m ≠ 0 → (∀ u : Fin 32, m.getLsbD u.val = true →
        (laneOf s g u).bad = [] ∧ ∃ q, readDst e (laneOf s g u) d = .ok q) →
      b = none →
      ∃ v, gather e s g m w n d (some r) b = .error (0x15, m, v) ∧
        ∀ u : Fin 32, m.getLsbD u.val = true → v u = n64 k)

/-- R125, R135: each thread of a branch's group that takes it stands at the target, its guard one lower, every
loop of its depth that does not hold the target closed; the others go on in sequence.
That a branch closes the loops of the present call depth only is the model's reading (log 26). -/
def Obligations.LaneBranches : Prop :=
  ∀ (i : Instr) (b : Branch) (s s1 : State) (g : Nat) (m : W32) (yes : Fin 32 → Bool),
    branch i = some b → LaneTurn i s g m s1 →
    (∀ u : Fin 32, m.getLsbD u.val = true → Takes (controlEnv i s1 g) b u (laneOf s1 g u) (yes u) ∧
      (yes u = true → (s1.kernel g).inSection false (awayFrom (laneOf s1 g u) b.off) = true ∧
        ∀ k, b.guarded = some k → (laneOf s1 g u).gc[k] ≠ 0)) →
    ∃ t, exec i s = .next t ∧ LanesOnly s s1 t g m ∧
      ∀ u : Fin 32, m.getLsbD u.val = true →
        laneOf t g u =
          if yes u then
            Lane.jump (awayFrom (laneOf s1 g u) b.off)
              (match b.guarded with
               | some k => { laneOf s1 g u with gc := (laneOf s1 g u).gc.set k.val ((laneOf s1 g u).gc[k] - 1) }
               | none => laneOf s1 g u)
          else (laneOf s1 g u).advance 1

/-- R133, R134: at the end of the innermost open loop a thread goes back to the loop's start while its counter is
above 1, and else closes it and tests the next at the same end; anywhere else the loops stand still. A jump closes
the outermost loop of the present depth that does not hold its target, with all inside it; those outside it stay. -/
def Sys2Proof.Claims.LoopsStepAndClose : Prop :=
  ∀ (l : Lane) (n : Nat) (next : W64) (target : W32), next = l.pc.zeroExtend 64 + n64 n →
    let holds (e : Loop) : Prop := e.start.toNat ≤ target.toNat ∧ target.toNat < e.stop.toNat
    (l.loops = [] → l.advance n = { l with pc := next.truncate 32 } ∧ l.jump target = { l with pc := target }) ∧
    (∀ d r, l.loops = d :: r →
      (d.stop = next → 1 < d.count.toNat →
        l.advance n = { l with pc := d.start.truncate 32, loops := { d with count := d.count - 1 } :: r }) ∧
      (d.stop = next → d.count.toNat ≤ 1 → l.advance n = Lane.advance n { l with loops := r }) ∧
      (d.stop ≠ next → l.advance n = { l with pc := next.truncate 32 })) ∧
    (∀ inner d outer, l.loops = inner ++ d :: outer → d.depth = l.cdep → ¬ holds d →
      (∀ e ∈ outer, e.depth = l.cdep → holds e) → l.jump target = { l with pc := target, loops := outer }) ∧
    ((∀ e ∈ l.loops, e.depth = l.cdep → holds e) → l.jump target = { l with pc := target })

/-- R130, R131: `call` and `calli` push the return address and the index registers and go to the target; of
four entries on chip the oldest is stored at TSP. Outside the threads' spill slots memory is unchanged, and
without a spill so is everything but the lanes. -/
def Sys2Proof.Claims.LaneCalls : Prop :=
  ∀ (i : Instr) (s s1 : State) (g : Nat) (m : W32) (target : Fin 32 → W32),
    LaneTurn i s g m s1 →
    ((∃ o, i = .call o ∧ ∀ u : Fin 32, m.getLsbD u.val = true → target u = awayFrom (laneOf s1 g u) o.toInt ∧
        (s1.kernel g).inSection false (target u) = true) ∨
     (∃ a, i = .calli a ∧ ∀ u : Fin 32, m.getLsbD u.val = true →
        readSrc (controlEnv i s1 g) u (laneOf s1 g u) a = .ok ((target u).zeroExtend 64) ∧
        (s1.kernel g).isEntry false (target u) = true)) →
    (∀ u : Fin 32, m.getLsbD u.val = true →
      (laneOf s1 g u).cdep < (s1.kernel g).maxDepth ∧ (laneOf s1 g u).pushFault (s1.kernel g).scratch = none) →
    ∃ t, exec i s = .next t ∧
      (∀ u : Fin 32, laneOf t g u =
        if m.getLsbD u.val then calling (laneOf s1 g u) (target u) else laneOf s1 g u) ∧
      ((∀ u : Fin 32, m.getLsbD u.val = true → (laneOf s1 g u).stack.length < 4) → LanesOnly s s1 t g m) ∧
      (∀ k, Unwatched s (gangCore g) →
        (∀ u : Fin 32, m.getLsbD u.val = true → 4 ≤ (laneOf s1 g u).stack.length →
          (s1.gang g).scratch + (laneOf s1 g u).tsp.toNat + 16 ≤ 0xFF0000 ∧ ∀ off, k = sliceKey (gangCore g) off → ¬ inSlot (s1.gang g).scratch (laneOf s1 g u).tsp.toNat off) →
        readByte t.mem k = readByte s.mem k) ∧
      ∀ u : Fin 32, m = oneHot u.val → 4 ≤ (laneOf s1 g u).stack.length → Memory.wf s.mem = true →
        Unwatched s (gangCore g) →
        (s1.gang g).scratch + (laneOf s1 g u).tsp.toNat + 16 ≤ 0xFF0000 →
        readBytes t.mem (sliceKey (gangCore g) ((s1.gang g).scratch + (laneOf s1 g u).tsp.toNat)) 16 =
          (oldest (laneOf s1 g u).stack).bytes

/-- R130, R131, R134: `ret` goes back to the newest entry, on chip or in the slice below TSP. Where the entry lies
outside the section it is popped all the same, and the threads take 0x01 at their `ret`. -/
def Sys2Proof.Claims.LaneReturns : Prop :=
  ∀ (s s1 : State) (g : Nat) (m : W32) (inside : Bool) (f : Fin 32 → Frame) (st : Fin 32 → List Frame)
    (tsp : Fin 32 → W64),
    LaneTurn .ret s g m s1 →
    (∀ u : Fin 32, m.getLsbD u.val = true → (laneOf s1 g u).cdep ≠ 0 ∧
      (s1.kernel g).inSection false ((f u).ret.truncate 32) = inside ∧
      ((laneOf s1 g u).stack = f u :: st u ∧ tsp u = (laneOf s1 g u).tsp ∨
       (laneOf s1 g u).stack = [] ∧ (laneOf s1 g u).popFault (s1.kernel g).scratch = none ∧ st u = [] ∧
        tsp u = (laneOf s1 g u).tsp - 16 ∧
        f u = Frame.ofBytes (readBytes s1.mem (sliceKey (gangCore g) ((s1.gang g).scratch + (tsp u).toNat)) 16))) →
    let back (u : Fin 32) := returning (laneOf s1 g u) (f u) (st u) (tsp u)
    ∃ t, exec .ret s = .next t ∧ (∀ h, h ≠ g → t.gang h = s1.gang h) ∧ (t.gang g).m = (s1.gang g).m ∧
      (inside = true → (∀ k, readByte t.mem k = readByte s.mem k) ∧ t.cores = s1.cores ∧
        ∀ u : Fin 32, laneOf t g u = if m.getLsbD u.val then back u else laneOf s1 g u) ∧
      (inside = false → ∀ u : Fin 32, laneOf t g u =
        if m.getLsbD u.val then
          { back u with
              pc := (laneOf s1 g u).pc, st := .parkedFault, cause := 0x01, wait := none
              stval := ((f u).ret.truncate 32 : W32).zeroExtend 64 }
        else laneOf s1 g u)

/-- R120, R131: `exit`, and `ret` at depth 0, end the threads of the group: they are exited, in no mask
register and in no loop; nothing else of the machine changes. -/
def Sys2Proof.Claims.LaneExits : Prop :=
  ∀ (i : Instr) (s s1 : State) (g : Nat) (m : W32),
    LaneTurn i s g m s1 →
    (i = .exit ∨ i = .ret ∧ ∀ u : Fin 32, m.getLsbD u.val = true → (laneOf s1 g u).cdep = 0) →
    ∃ t, exec i s = .next t ∧ (∀ k, readByte t.mem k = readByte s.mem k) ∧ t = { s1 with gangs := t.gangs } ∧
      (∀ h, h ≠ g → t.gang h = s1.gang h) ∧
      t.gang g = { s1.gang g with lanes := (t.gang g).lanes, m := (t.gang g).m, parked := (t.gang g).parked } ∧
      (∀ u : Fin 32, laneOf t g u = if m.getLsbD u.val then exited (laneOf s1 g u) else laneOf s1 g u) ∧
      ∀ k : Fin 12, (t.gang g).m[k] = (s1.gang g).m[k] &&& ~~~m

/-- R127: `join` adds the group to its mask, `leave` takes it out, `wait` adds it and parks its threads at the
next word; the other masks keep their value. -/
def Sys2Proof.Claims.LaneMasks : Prop :=
  ∀ (i : Instr) (k : Fin 12) (new : W32 → W32 → W32) (park : Bool) (s s1 : State) (g : Nat) (m : W32),
    (i = .join k ∧ (∀ x y, new x y = x ||| y) ∧ park = false ∨
     i = .leave k ∧ (∀ x y, new x y = x &&& ~~~y) ∧ park = false ∨
     i = .wait k ∧ (∀ x y, new x y = x ||| y) ∧ park = true) →
    LaneTurn i s g m s1 →
    ∃ t, exec i s = .next t ∧ (∀ a, readByte t.mem a = readByte s.mem a) ∧ t = { s1 with gangs := t.gangs } ∧
      (∀ h, h ≠ g → t.gang h = s1.gang h) ∧
      t.gang g = { s1.gang g with lanes := (t.gang g).lanes, m := (t.gang g).m } ∧
      (t.gang g).m[k] = new (s1.gang g).m[k] m ∧ (∀ j : Fin 12, j ≠ k → (t.gang g).m[j] = (s1.gang g).m[j]) ∧
      ∀ u : Fin 32, laneOf t g u =
        if m.getLsbD u.val then
          { (laneOf s1 g u).advance 1 with st := if park then .parkedMask k else (laneOf s1 g u).st }
        else laneOf s1 g u

/-- R128: a mask register that is not zero and whose every thread is parked on it is cleared, and its threads
are live at the PC they saved; else neither it nor they change. -/
def Sys2Proof.Claims.MaskRelease : Prop :=
  ∀ (x : Gang) (k : Fin 12),
    let done := x.m[k] ≠ 0 ∧ ∀ u : Fin 32, x.m[k].getLsbD u.val = true → (x.lane u.val).st = .parkedMask k
    (done → (x.release k).m[k] = 0 ∧
      ∀ u : Fin 32, (x.release k).lane u.val =
        if (x.lane u.val).st = .parkedMask k then { x.lane u.val with st := .live } else x.lane u.val) ∧
    (¬ done → x.release k = x) ∧
    ∀ j : Fin 12, j ≠ k → (x.release k).m[j] = x.m[j]

/-- R133, R135: `loop` opens a loop with its count, its body and the present depth, or skips the body when the
count is 0; `guard` presets a counter. -/
def Sys2Proof.Claims.LaneLoopsAndGuards : Prop :=
  (∀ (c : LSrc) (len : BitVec 8) (bound : W32) (s s1 : State) (g : Nat) (m : W32) (n : Fin 32 → W64),
    LaneTurn (.loop c len bound) s g m s1 →
    (∀ u : Fin 32, m.getLsbD u.val = true →
      readSrc (controlEnv (.loop c len bound) s1 g) u (laneOf s1 g u) c = .ok (n u) ∧
      (n u ≠ 0 → (n u).toNat ≤ bound.toNat ∧ (laneOf s1 g u).loops.length < 3)) →
    ∃ t, exec (.loop c len bound) s = .next t ∧ LanesOnly s s1 t g m ∧
      ∀ u : Fin 32, m.getLsbD u.val = true →
        let l := laneOf s1 g u
        laneOf t g u =
          if n u = 0 then l.advance (2 + len.toNat)
          else
            { l with
                pc := (l.pc.zeroExtend 64 + 2 : W64).truncate 32
                loops := { count := n u, start := l.pc.zeroExtend 64 + 2,
                           stop := l.pc.zeroExtend 64 + 2 + n64 len.toNat, depth := l.cdep } :: l.loops }) ∧
  ∀ (k : Fin 4) (bound : BitVec 18) (s s1 : State) (g : Nat) (m : W32),
    LaneTurn (.guard k bound) s g m s1 →
    ∃ t, exec (.guard k bound) s = .next t ∧ LanesOnly s s1 t g m ∧
      ∀ u : Fin 32, m.getLsbD u.val = true →
        laneOf t g u = Lane.advance 1 { laneOf s1 g u with gc := (laneOf s1 g u).gc.set k.val bound }

/-- R142: `xset` gives an index register its three fields, `xadd` counts its cur on modulo 128 from what it reads;
no other register and no flag changes. -/
def Sys2Proof.Claims.IndexRegisters : Prop :=
  ∀ (i : Instr) (k : Fin 4) (new : XReg → XReg → XReg) (s s1 : State) (g : Nat) (m : W32),
    ((∃ base count cur, i = .xset k base count cur ∧
        ∀ x y, new x y = { base := base, count := count, cur := cur.zeroExtend 7 }) ∨
     (∃ n : BitVec 7, i = .xadd k n ∧ ∀ x y, new x y = { y with cur := x.cur + n })) →
    LaneTurn i s g m s1 →
    ∃ t, exec i s = .next t ∧ LanesOnly s s1 t g m ∧
      ∀ u : Fin 32, m.getLsbD u.val = true →
        let old := laneOf s1 g u
        let l := laneOf t g u
        l = { old.advance 1 with pend := l.pend } ∧ l.finalX k = new old.x[k] (old.finalX k) ∧
          (∃ p, l.pend = old.pend ++ [p] ∧ p.due = some (s.tick + 4)) ∧
          (∀ j, j ≠ k → l.finalX j = old.finalX j) ∧ (∀ r, r < 96 → l.final r = old.final r) ∧ ffls l = ffls old

/-- R20, R136, R271: `getwid` and `csrr` write their destination with the field or the register's value. -/
def Sys2Proof.Claims.LaneReadsOfCsrs : Prop :=
  ∀ (i : Instr) (d : LDst) (val : Fin 32 → W64) (s s1 : State) (g : Nat) (m : W32) (q : Fin 32 → Dst),
    ((∃ k : Fin 6, i = .getwid d k ∧
        ∀ u : Fin 32, val u = (s1.kernel g).widField ((s1.gang g).wid ||| n64 u.val) k.val) ∨
     (∃ c : BitVec 12, i = .csrr d c ∧ csrHeld c.toNat .lane = true ∧
        ∀ u : Fin 32, val u = s1.laneCsr g u.val c.toNat)) →
    LaneTurn i s g m s1 →
    (∀ u : Fin 32, m.getLsbD u.val = true → readDst (controlEnv i s1 g) (laneOf s1 g u) d = .ok (q u)) →
    ∃ t, exec i s = .next t ∧ LanesOnly s s1 t g m ∧
      ∀ u : Fin 32, m.getLsbD u.val = true →
        OneRegister (laneOf s1 g u) (laneOf t g u) 1 (q u) 0 ∧
        ∀ r, q u = .reg r → r < 96 → (laneOf t g u).final r = val u

/-- R136, R271: `csrw` writes FRM, FFL, EMASK, TSP or an index register with the low bits of its source; the
register's other bits are ignored. -/
def Sys2Proof.Claims.LaneWritesOfCsrs : Prop :=
  ∀ (a : LSrc) (c : BitVec 12) (s s1 : State) (g : Nat) (m : W32) (v : Fin 32 → W64),
    LaneTurn (.csrw a c) s g m s1 → csrWritable c.toNat .lane = true →
    (∀ u : Fin 32, m.getLsbD u.val = true → readSrc (controlEnv (.csrw a c) s1 g) u (laneOf s1 g u) a = .ok (v u)) →
    ∃ t, exec (.csrw a c) s = .next t ∧ LanesOnly s s1 t g m ∧
      ∀ u : Fin 32, m.getLsbD u.val = true →
        let old := laneOf s1 g u
        let w := v u
        (c = 1 → laneOf t g u = Lane.advance 1 { old with frm := w.extractLsb' 0 2 }) ∧
        (c = 2 → laneOf t g u = Lane.advance 1 { old with ffl := w.extractLsb' 0 5 }) ∧
        (c = 3 → laneOf t g u = Lane.advance 1 { old with emask := w.extractLsb' 0 8 }) ∧
        (c = 4 → laneOf t g u = Lane.advance 1 { old with tsp := w }) ∧
        ∀ k : Fin 4, c.toNat = 0x48 + k.val →
          (laneOf t g u).finalX k =
            { base := w.extractLsb' 14 7, count := w.extractLsb' 7 7, cur := w.extractLsb' 0 7 } ∧
          (∀ j, j ≠ k → (laneOf t g u).finalX j = old.finalX j) ∧
          (∀ r, r < 96 → (laneOf t g u).final r = old.final r) ∧ (laneOf t g u).pc = (old.advance 1).pc

/-- R136, R212, R248: `nop` and `waitc` move their threads on and do nothing else; `fence` also makes what
follows it follow the accesses before it, and its acquire part at `.clu` or wider drops the core's cached
lines. -/
def Sys2Proof.Claims.LaneWaitsAndFences : Prop :=
  (∀ (i : Instr) (s s1 : State) (g : Nat) (m : W32), (i = .nop ∨ ∃ n k, i = .waitc n k) → LaneTurn i s g m s1 →
    ∃ t, exec i s = .next t ∧ LanesOnly s s1 t g m ∧
      ∀ u : Fin 32, m.getLsbD u.val = true → laneOf t g u = (laneOf s1 g u).advance 1) ∧
  ∀ (k : FenceKind) (c : Scope) (s s1 : State) (g : Nat) (m : W32), LaneTurn (.fence k c) s g m s1 →
    ∃ t, exec (.fence k c) s = .next t ∧ (∀ a, readByte t.mem a = readByte s.mem a) ∧ t.flight = s1.flight ∧
      (∀ u : Fin 32, laneOf t g u =
        if m.getLsbD u.val then { (laneOf s1 g u).advance 1 with after := (laneOf t g u).after }
        else laneOf s1 g u) ∧
      ((k = .rel ∨ k = .acqrel) → ∀ u : Fin 32, m.getLsbD u.val = true → ∀ f ∈ s1.flight,
        f.who = .lane g u.val → f.reply = none → f.id ∈ (laneOf t g u).after) ∧
      ((k = .acq ∨ k = .acqrel) → wideScope c = true → m ≠ 0 → gangCore g < 192 → (t.core (gangCore g)).lines = []) ∧
      (k = .rel → t.cores = s1.cores)

/-- R209, R210, R247: where every thread passes its checks, a load of the lane set puts one access of each
thread in flight, in ascending order; the register it names, or the pair, waits for it. Memory and every other
register stay as the checks leave them. -/
def Sys2Proof.Claims.LaneLoadsIssue : Prop :=
  ∀ (i : Instr) (z : LSize) (d : LDst) (a : LSrc) (sp : Space) (off : Int) (acq : Bool) (scope : Scope)
    (s s1 s2 : State) (g : Nat) (m : W32) (at_ : Fin 32 → W64) (q : Fin 32 → Dst) (ps : List (Fin 32 × Passed)),
    loadOf i = some (z, d, a, sp, off, acq, scope) → LaneTurn i s g m s1 →
    (∀ u : Fin 32, m.getLsbD u.val = true →
      loadDst (controlEnv i s1 g) z (laneOf s1 g u) d = .ok (q u) ∧
      ∃ v, readSrc (controlEnv i s1 g) u (laneOf s1 g u) a = .ok v ∧ at_ u = v + BitVec.ofInt 64 off) →
    Checked s1 g m sp at_ (LSizeBytes z) .load (fun _ => true) s2 ps →
    ∃ t, exec i s = .next t ∧ t.mem = s2.mem ∧ (∀ h, h ≠ g → t.gang h = s2.gang h) ∧
      Issued s2 t (ps.map fun e =>
        { who := .lane g e.1.val, loc := e.2.loc, size := LSizeBytes z, op := .load z, acq := acq, rel := false,
          scope := scope }) ∧
      (∀ n u p, ps[n]? = some (u, p) →
        laneOf t g u = Lane.advance 1 ((laneOf s2 g u).await (loadTargets z (q u) (s2.nextId + n)))) ∧
      ∀ u : Fin 32, m.getLsbD u.val = false → laneOf t g u = laneOf s2 g u

/-- R209, R211, R247: a store of the lane set puts one access of each thread in flight with the value it
stores; no byte of memory changes before the access is performed, and no register changes at all. -/
def Sys2Proof.Claims.LaneStoresIssue : Prop :=
  ∀ (i : Instr) (z : LSize) (v a : LSrc) (sp : Space) (off : Int) (rel : Bool) (scope : Scope)
    (s s1 s2 : State) (g : Nat) (m : W32) (at_ : Fin 32 → W64) (val : Fin 32 → BitVec 128)
    (ps : List (Fin 32 × Passed)),
    storeOf i = some (z, v, a, sp, off, rel, scope) → LaneTurn i s g m s1 →
    (∀ u : Fin 32, m.getLsbD u.val = true →
      storeValue (controlEnv i s1 g) z u (laneOf s1 g u) v = .ok (val u) ∧
      ∃ x, readSrc (controlEnv i s1 g) u (laneOf s1 g u) a = .ok x ∧ at_ u = x + BitVec.ofInt 64 off) →
    Checked s1 g m sp at_ (LSizeBytes z) .store (fun _ => true) s2 ps →
    ∃ t, exec i s = .next t ∧ t.mem = s2.mem ∧ (∀ h, h ≠ g → t.gang h = s2.gang h) ∧
      Issued s2 t (ps.map fun e =>
        { who := .lane g e.1.val, loc := e.2.loc, size := LSizeBytes z, op := .store (val e.1), acq := false,
          rel := rel, scope := scope }) ∧
      ∀ u : Fin 32, laneOf t g u = if m.getLsbD u.val then (laneOf s2 g u).advance 1 else laneOf s2 g u

/-- R243–R245: an atomic of the lane set puts one request of each thread in flight with its operands; its
destination waits for the reply. -/
def Sys2Proof.Claims.LaneAtomicsIssue : Prop :=
  ∀ (z : ASize) (d : LDst) (a : LSrc) (sp : Space) (f : AtomFields) (s s1 s2 : State) (g : Nat) (m : W32)
    (at_ b c : Fin 32 → W64) (q : Fin 32 → Dst) (ps : List (Fin 32 × Passed)),
    LaneTurn (.atom z d a sp f) s g m s1 →
    (∀ u : Fin 32, m.getLsbD u.val = true →
      atomReads (controlEnv (.atom z d a sp f) s1 g) u (laneOf s1 g u) d a f = .ok (at_ u, b u, c u) ∧
      readDst (controlEnv (.atom z d a sp f) s1 g) (laneOf s1 g u) d = .ok (q u)) →
    Checked s1 g m sp at_ (aSizeBytes z) .atom (hostAtomOk · f.aop) s2 ps →
    ∃ t, exec (.atom z d a sp f) s = .next t ∧ t.mem = s2.mem ∧ (∀ h, h ≠ g → t.gang h = s2.gang h) ∧
      Issued s2 t (ps.map fun e =>
        { who := .lane g e.1.val, loc := e.2.loc, size := aSizeBytes z, op := .atom f.aop z (b e.1) (c e.1),
          acq := orderAcquires f.order, rel := orderReleases f.order, scope := f.scope }) ∧
      (∀ n u p, ps[n]? = some (u, p) →
        laneOf t g u = Lane.advance 2 ((laneOf s2 g u).await [waitFor (s2.nextId + n) (q u) false])) ∧
      ∀ u : Fin 32, m.getLsbD u.val = false → laneOf t g u = laneOf s2 g u

/-- R249: each thread of a `waita` that passes its checks waits at its word from now on for the word at its
address, against its own expected value, until its timeout. -/
def Sys2Proof.Claims.LaneWaitsOnAddress : Prop :=
  ∀ (a : LSrc) (b : LDst) (c : Scope) (sp : WSpace) (eq : Bool) (timeout : W32) (s s1 s2 : State) (g : Nat) (m : W32)
    (at_ v : Fin 32 → W64) (q : Fin 32 → Dst) (ps : List (Fin 32 × Passed)) (i : Instr),
    i = .waita a b c sp eq timeout → LaneTurn i s g m s1 →
    (∀ u : Fin 32, m.getLsbD u.val = true →
      readSrc (controlEnv i s1 g) u (laneOf s1 g u) a = .ok (at_ u) ∧
      readDst (controlEnv i s1 g) (laneOf s1 g u) b = .ok (q u) ∧
      readSrc (controlEnv i s1 g) u (laneOf s1 g u) (asSource b) = .ok (v u)) →
    s1.checkThreads g m (waitSpace sp) at_ 8 .load false (fun _ => true) =
      (s2, ps.map fun e => (e.1, Except.ok e.2)) →
    ∃ t, exec i s = .next t ∧ t.mem = s2.mem ∧ t.flight = s2.flight ∧
      (∀ u p, (u, p) ∈ ps →
        laneOf t g u =
          { laneOf s2 g u with
              wait := some { kind := .addr p.loc (sp = .d) (v u) (q u) eq c p.va, since := s.tick,
                             deadline := s.tick + timeout.toNat } }) ∧
      ∀ u : Fin 32, m.getLsbD u.val = false → laneOf t g u = laneOf s2 g u

/-- R276, R280, R289: `trap` parks its group at the word with cause 0x14 and the code in STVAL, and puts it
among the groups to be reported; code 0x21 starts a stub's allowance and is charged to nobody. -/
def Sys2Proof.Claims.LaneTrap : Prop :=
  ∀ (code : BitVec 8) (s s1 : State) (g : Nat) (m : W32), LaneTurn (.trap code) s g m s1 → m ≠ 0 →
    ∃ t, exec (.trap code) s = .next t ∧
      (∀ u : Fin 32, laneOf t g u =
        if m.getLsbD u.val then
          { laneOf s1 g u with st := .parkedFault, cause := 0x14, stval := code.zeroExtend 64, wait := none }
        else laneOf s1 g u) ∧
      (∃ pc, (t.gang g).parked = (s1.gang g).parked ++ [{ mask := m, pc := pc }]) ∧
      (code = 0x21 → (t.gang g).stubs = (s1.gang g).stubs ++ [(m, s.tick)] ∧ t.mem = s1.mem ∧ t.quotes = s1.quotes) ∧
      (code ≠ 0x21 → (t.gang g).stubs = (s1.gang g).stubs)

/-- R171, R179–R181: `cvt`, `bfpk` and `bfpu`: each thread's converted elements, its part of a packed block, its
unpacked elements, with their flags.
The order of a block's lanes is read as log 35 says. -/
def Obligations.LaneConvertAndBlockResult : Prop :=
  Claims.LaneConvertResult ∧ Claims.LaneBlockResult

/-- R14, R38, R139, R144–R147: what the operands of a lane ALU instruction read: plain, through a `route` prefix, and
from an accumulator tile.
v[xk] does not wait for an xset or xadd under way: the model's reading (log 27). An operand that holds an
uncorrectable error is not read (R137). -/
def Obligations.OperandsAreRead : Prop :=
  Claims.PlainOperandsAreRead ∧ Claims.RoutedOperand ∧ Claims.FragmentOperand

/-- R120, R130, R131, R134: `call`, `calli`, `ret` and `exit` of the lane set.
STVAL of a refill that faults is the model's reading (log 25). -/
def Obligations.LaneCallsAndReturns : Prop :=
  Claims.LaneCalls ∧ Claims.LaneReturns ∧ Claims.LaneExits

/-- R127, R128: `join`, `leave` and `wait`, and the release of a mask. -/
def Obligations.LaneMasksAndRelease : Prop :=
  Claims.LaneMasks ∧ Claims.MaskRelease

/-- R133–R135: `loop` and `guard` of the lane set, and how loops step at their end and close at a jump.
That a branch closes the loops of the present call depth only is the model's reading (log 26). -/
def Obligations.LaneLoopsAndGuards : Prop := Claims.LaneLoopsAndGuards ∧ Claims.LoopsStepAndClose

/-- R20, R136, R271: `getwid`, `csrr` and `csrw` of the lane set.
That csrw takes effect at issue is the model's reading (log 31). -/
def Obligations.LaneCsrs : Prop :=
  Claims.LaneReadsOfCsrs ∧ Claims.LaneWritesOfCsrs

/-- R136, R212, R248, R249: `nop`, `waitc`, `fence` and `waita` of the lane set. -/
def Obligations.LaneWaits : Prop :=
  Claims.LaneWaitsAndFences ∧ Claims.LaneWaitsOnAddress

/-- R209–R211, R243–R247: loads, stores and atomics of the lane set.
What the passing threads do when others fail is read as log 29 says, `.qw` through vz or tid as log 28 says. -/
def Obligations.LaneAccessesIssue : Prop :=
  Claims.LaneLoadsIssue ∧ Claims.LaneStoresIssue ∧ Claims.LaneAtomicsIssue

/-- R150, R151, R154: a lane `qpop` takes the slot of its own next dq entry, a `qpush` adds the thread's value
to its own next uq entry, a `qlen` reads the entries not yet taken; a thread alone in its issue group. A uniform
entry keeps the value of a higher-indexed contributor. -/
def Obligations.LaneQueues : Prop :=
  ∀ (s s1 : State) (g : Nat) (u : Fin 32) (i : Instr), LaneTurn i s g (oneHot u.val) s1 →
    (∀ d q, i = .qpop d → (s1.gang g).dq.depth ≠ 0 →
      readDst (controlEnv i s1 g) (laneOf s1 g u) d = .ok q →
      let k := (s1.gang g).dq.slotKey (gangCore g) (laneOf s1 g u).qr u.val
      s1.flawedAt k 8 = false →
      ∃ t, exec i s = .next t ∧ (∀ a, readByte t.mem a = readByte s.mem a) ∧
        (laneOf t g u).qr = (laneOf s1 g u).qr + 1 ∧ (laneOf t g u).pc = ((laneOf s1 g u).advance 1).pc ∧
        (∀ v : Fin 32, v ≠ u → laneOf t g v = laneOf s1 g v) ∧
        (∀ r, q = .reg r → r < 96 → (laneOf t g u).final r = n64 (readLE s.mem k 8)) ∧
        ∀ r, r < 96 → q ≠ .reg r → (laneOf t g u).final r = (laneOf s1 g u).final r) ∧
    (∀ a v, i = .qpush a → (s1.gang g).uq.depth ≠ 0 →
      readSrc (controlEnv i s1 g) u (laneOf s1 g u) a = .ok v → Unwatched s (gangCore g) →
      let uq := (s1.gang g).uq
      let n := (laneOf s1 g u).qw
      uq.slotAt n u.val + 8 ≤ 0xFF0000 →
      ∃ t, exec i s = .next t ∧ laneOf t g u = { (laneOf s1 g u).advance 1 with qw := n + 1 } ∧
        (∀ w : Fin 32, w ≠ u → laneOf t g w = laneOf s1 g w) ∧
        let k := uq.slotKey (gangCore g) n u.val
        let kept := uq.wide = false ∧ ∃ e, uq.entries[n - uq.first]? = some e ∧
          ∃ w : Fin 32, u.val < w.val ∧ e.filled.getLsbD w.val = true
        (kept → t.mem = s.mem) ∧ (¬ kept → t.mem = writeLE s.mem k 8 v.toNat) ∧
        ∀ a, (a < k ∨ k + 8 ≤ a) → readByte t.mem a = readByte s.mem a) ∧
    ∀ d q, i = .qlen d → (s1.gang g).dq.depth ≠ 0 → readDst (controlEnv i s1 g) (laneOf s1 g u) d = .ok q →
      ∃ t, exec i s = .next t ∧ LanesOnly s s1 t g (oneHot u.val) ∧
        OneRegister (laneOf s1 g u) (laneOf t g u) 1 q 0 ∧
        ∀ r, q = .reg r → r < 96 →
          (laneOf t g u).final r = n64 ((s1.gang g).dq.writeIndex - (laneOf s1 g u).qr)

/-- R156, R173, R174: a group arithmetic instruction or constant writes its destination with what the tables
give of the registers as they stand, and does nothing else; `gz` takes nothing. -/
def Obligations.GroupIntegerResult : Prop :=
  ∀ (i : Instr) (n : GroupValue) (s s1 : State) (a : Agent), groupValue i = some n → GroupTurn i s a s1 →
    ∃ t, exec i s = .next t ∧ CtxOnly s s1 t a ∧ OneGroupRegister s1 t a n.words (dstG n.dst) ∧
      ∀ r, dstG n.dst = .reg r → r < 192 → (t.ctx a).final r = n.val (readG s1 a) (oldOf s1 a n.dst)

/-- R203, R210, R243, R247: a group load, store or atomic that passes its checks puts one access in flight;
a load's or an atomic's destination waits for it. -/
def Obligations.GroupAccessesIssue : Prop :=
  ∀ (i : Instr) (s s1 s2 : State) (a : Agent) (p : Passed), GroupTurn i s a s1 →
    (∀ d r sp off acq c, groupLoadOf i = some (d, r, sp, off, acq, c) →
      GroupChecked s1 a sp (readG s1 a r + BitVec.ofInt 64 off) 8 .load true (fun _ => true) s2 p →
      ∃ t, exec i s = .next t ∧ t.mem = s2.mem ∧ OthersStand s2 t a ∧
        Issued s2 t [{ who := a, loc := p.loc, size := 8, op := .load .dw, acq := acq, rel := false, scope := c }] ∧
        t.ctx a = ((s2.advance a 1).ctx a).await [waitFor s2.nextId (dstG d) false]) ∧
    (∀ v r sp off rel c, groupStoreOf i = some (v, r, sp, off, rel, c) →
      GroupChecked s1 a sp (readG s1 a r + BitVec.ofInt 64 off) 8 .store true (fun _ => true) s2 p →
      ∃ t, exec i s = .next t ∧ t.mem = s2.mem ∧ OthersStand s2 t a ∧ t.ctx a = (s2.advance a 1).ctx a ∧
        Issued s2 t [{ who := a, loc := p.loc, size := 8, op := .store ((readG s1 a v).zeroExtend 128), acq := false,
                       rel := rel, scope := c }]) ∧
    ∀ z d r sp f, i = .groupAtom z d r sp f →
      GroupChecked s1 a sp (readG s1 a r) (aSizeBytes z) .atom true (hostAtomOk · f.aop) s2 p →
      ∃ t, exec i s = .next t ∧ t.mem = s2.mem ∧ OthersStand s2 t a ∧
        Issued s2 t [{ who := a, loc := p.loc, size := aSizeBytes z,
                       op := .atom f.aop z (if f.aop.readsB then (s1.ctx a).reg f.vb.toNat else 0)
                               (if f.aop.readsC then (s1.ctx a).reg f.vc.toNat else 0),
                       acq := orderAcquires f.order, rel := orderReleases f.order, scope := f.scope }] ∧
        t.ctx a = ((s2.advance a 2).ctx a).await [waitFor s2.nextId (dstG d) false]

/-- R136, R212, R248, R249: `nop` and `waitc` move the context on; `fence` too, and its acquire part drops the
cached lines of its core; `idle` and `waita` leave it waiting at its word. -/
def Obligations.GroupWaitsAndFences : Prop :=
  ∀ (i : Instr) (s s1 : State) (a : Agent), GroupTurn i s a s1 →
    ((i = .groupNop ∨ ∃ l st c t, i = .groupWaitc l st c t) → exec i s = .next (s1.advance a 1)) ∧
    (∀ k c, i = .groupFence k c →
      ∃ t, exec i s = .next t ∧ t.mem = s1.mem ∧ t.flight = s1.flight ∧
        t.ctx a = { (s1.advance a 1).ctx a with after := (t.ctx a).after } ∧
        ((k = .rel ∨ k = .acqrel) → ∀ f ∈ s1.flight, f.who = a → f.reply = none → f.id ∈ (t.ctx a).after) ∧
        ((k = .acq ∨ k = .acqrel) → wideScope c = true → agentUnit a < 192 → (t.core (agentUnit a)).lines = [])) ∧
    (i = .idle → (s1.ctx a).resumed = none →
      exec i s = .next (s1.setCtx a
        { s1.ctx a with wait := some { kind := .idle, since := s.tick, deadline := s.tick }, lastIssue := s.tick })) ∧
    ∀ r b c sp eq timeout s2 p, i = .groupWaita r b c sp eq timeout →
      GroupChecked s1 a (waitSpace sp) ((s1.ctx a).reg r.val) 8 .load false (fun _ => true) s2 p →
      (s2.ctx a).resumed = none →
      exec i s = .next (s2.setCtx a
        { s2.ctx a with
            wait := some { kind := .addr p.loc (sp = .d) ((s2.ctx a).reg b.val) (.reg b.val) eq c p.va, since := s2.tick,
                           deadline := s2.tick + timeout.toNat },
            lastIssue := s2.tick })

/-- R125, R135, R324: a group branch that is taken goes to its target, its guard one lower, the loops of its depth
that do not hold the target closed; else it goes on in sequence.
That a branch closes the loops of the present call depth only is the model's reading (log 26). -/
def Obligations.GroupBranches : Prop :=
  ∀ (i : Instr) (off : Int) (test : Option (GSrc × Bool)) (guarded : Option (Fin 4)) (s s1 : State) (a : Agent),
    groupBranchOf i = some (off, test, guarded) → GroupTurn i s a s1 →
    (groupTakes s1 a test = false → exec i s = .next (s1.advance a 1)) ∧
    (groupTakes s1 a test = true → inReach s1 a (groupAway s1 a off) →
      (∀ k, guarded = some k → (s1.ctx a).gc[k] ≠ 0) →
      let c := s1.ctx a
      let c := match guarded with
        | some k => { c with gc := c.gc.set k.val (c.gc[k] - 1) }
        | none => c
      exec i s = .next (s1.setCtx a
        { c with pc := groupAway s1 a off, lastIssue := s.tick,
                 loops := loopsAt c.cdep (groupAway s1 a off) c.loops })) ∧
    (groupTakes s1 a test = true → ¬ inReach s1 a (groupAway s1 a off) →
      (∀ k, guarded = some k → (s1.ctx a).gc[k] ≠ 0) →
      exec i s = .next (s1.groupFault a 0x01 (groupAway s1 a off))) ∧
    ∀ k, groupTakes s1 a test = true → guarded = some k → (s1.ctx a).gc[k] = 0 →
      exec i s = .next (s1.groupFault a 0x0C (n64 k.val))

/-- R120, R131, R324: a group `call` or `calli` with room on chip pushes its return address and goes to its
target; in a kernel, of four entries the oldest is stored in the scratch at TSP. `ret` goes back to the newest
on-chip entry, and faults once it is popped where it lies outside the section; `exit`, and `ret` at depth 0, end
the context, except in a handler of a compute core.
STVAL of a refill that faults is the model's reading (log 25). -/
def Obligations.GroupCallsAndReturns : Prop :=
  ∀ (i : Instr) (s s1 : State) (a : Agent), GroupTurn i s a s1 →
    (∀ target, ((∃ o, i = .groupCall o ∧ target = groupAway s1 a o.toInt ∧ inReach s1 a target) ∨
        (∃ r, i = .groupCalli r ∧ target = readG s1 a r ∧
          ∀ g, a = .cond g → s1.inImage a = false →
            target.toNat < 2 ^ 32 ∧ (s1.kernel g).isEntry true (target.truncate 32) = true)) →
      (∀ g, a = .cond g → s1.inImage a = false → (s1.ctx a).cdep < (s1.kernel g).maxDepth) →
      ((s1.ctx a).stack.length < 4 →
        exec i s = .next (s1.setCtx a (callingCtx s1 a target (s1.ctx a).stack (s1.ctx a).tsp))) ∧
      (∀ g, a = .cond g → s1.inImage a = false → 4 ≤ (s1.ctx a).stack.length →
        (s1.ctx a).tsp.toNat % 16 = 0 → (s1.ctx a).tsp.toNat + 16 ≤ (s1.kernel g).scratch →
        ∃ t, exec i s = .next t ∧
          t.ctx a = callingCtx s1 a target (s1.ctx a).stack.dropLast ((s1.ctx a).tsp + 16) ∧
          let at_ := (s1.gang g).scratch + (s1.ctx a).tsp.toNat
          (∀ k, Unwatched s (gangCore g) → at_ + 16 ≤ 0xFF0000 → (∀ off, k = sliceKey (gangCore g) off → ¬ inSlot (s1.gang g).scratch (s1.ctx a).tsp.toNat off) →
            readByte t.mem k = readByte s.mem k) ∧
          (at_ + 16 ≤ 0xFF0000 → Memory.wf s.mem = true → Unwatched s (gangCore g) →
            readBytes t.mem (sliceKey (gangCore g) at_) 16 = (oldest (s1.ctx a).stack).bytes))) ∧
    (∀ f st, i = .groupRet → (s1.ctx a).cdep ≠ 0 → (s1.ctx a).stack = f :: st → inReach s1 a f.ret →
      exec i s = .next (s1.setCtx a (returningCtx s1 a f st (s1.ctx a).tsp))) ∧
    (∀ f st, i = .groupRet → (s1.ctx a).cdep ≠ 0 → (s1.ctx a).stack = f :: st → ¬ inReach s1 a f.ret →
      exec i s = .next
        ((s1.setCtx a { returningCtx s1 a f st (s1.ctx a).tsp with pc := (s1.ctx a).pc }).groupFault a 0x01 f.ret)) ∧
    ((i = .groupExit ∨ i = .groupRet ∧ (s1.ctx a).cdep = 0) → (agentKind a = .cond → s1.levelOf a = .u) →
      ∃ t, exec i s = .next t ∧ (∀ k, readByte t.mem k = readByte s.mem k) ∧ OthersStand s1 t a ∧
        t.ctx a =
          { s1.ctx a with st := .exited, loops := [], wait := none, resumed := none, lastIssue := s.tick }) ∧
    ((i = .groupExit ∨ i = .groupRet ∧ (s1.ctx a).cdep = 0) → agentKind a = .cond → s1.levelOf a ≠ .u →
      exec i s = .next (s1.groupFault a 0x01 (firstWord i)))

/-- R133, R135: the group `loop` and `guard`. -/
def Obligations.GroupLoopsAndGuards : Prop :=
  (∀ (r : GSrc) (len : BitVec 8) (bound : W32) (s s1 : State) (a : Agent),
    GroupTurn (.groupLoop r len bound) s a s1 →
    let n := readG s1 a r
    let c := s1.ctx a
    let z : Nat := if s1.inImage a then 4 else 1
    let start := c.pc + n64 (2 * z)
    (n = 0 → exec (.groupLoop r len bound) s = .next (s1.advance a (2 + len.toNat))) ∧
    (n ≠ 0 → n.toNat ≤ bound.toNat → c.loops.length < 3 →
      exec (.groupLoop r len bound) s = .next (s1.setCtx a
        { c with
            pc := start, lastIssue := s.tick
            loops := { count := n, start := start, stop := start + n64 (len.toNat * z), depth := c.cdep } :: c.loops })) ∧
    (n ≠ 0 → bound.toNat < n.toNat ∨ 3 ≤ c.loops.length →
      exec (.groupLoop r len bound) s = .next (s1.groupFault a 0x0C n))) ∧
  ∀ (k : Fin 4) (bound : BitVec 18) (s s1 : State) (a : Agent), GroupTurn (.groupGuard k bound) s a s1 →
    exec (.groupGuard k bound) s =
      .next ((s1.setCtx a { s1.ctx a with gc := (s1.ctx a).gc.set k.val bound }).advance a 1)

/-- R136, R271, R272: `csrr` writes its destination with the register's value and does nothing else. `csrw` writes
the registers of its own context, FRM, FFL, TSP, STVB, SCAUSE, SEPC, STVAL, SSCR, SASID, SPTB and SSTAT, and the
device's CTVB, SATB and FTVB, with the bits that exist, the others ignored; a PL of 2 or 3 is stored as 1.
That a write takes effect as it issues is log 31, and that Steppe and Saddle threads hold TSP and CDEP is log 32: the
model's readings. -/
def Obligations.GroupCsrs : Prop :=
  (∀ (d : GDst) (c : BitVec 12) (s s1 : State) (a : Agent), GroupTurn (.groupCsrr d c) s a s1 →
    (csrHeld c.toNat (agentKind a) = true →
      ∃ t, exec (.groupCsrr d c) s = .next t ∧ CtxOnly s s1 t a ∧ OneGroupRegister s1 t a 1 (dstG d) ∧
        ∀ r, dstG d = .reg r → r < 192 → (t.ctx a).final r = s1.ctxCsr a c.toNat) ∧
    (csrHeld c.toNat (agentKind a) = false →
      exec (.groupCsrr d c) s = .next (s1.groupFault a 0x02 (firstWord (.groupCsrr d c))))) ∧
  ∀ (r : GSrc) (c : BitVec 12) (s s1 : State) (a : Agent), GroupTurn (.groupCsrw r c) s a s1 →
    let v := readG s1 a r
    let x := s1.ctx a
    (csrWritable c.toNat (agentKind a) = false →
      exec (.groupCsrw r c) s = .next (s1.groupFault a 0x02 (firstWord (.groupCsrw r c)))) ∧
    (∀ y : Dev,
      (c = 0x10C ∧ y = { s1.dev with ctvb := v &&& 0xFFFFFFFFFFFFF000 } ∨ c = 0x10D ∧ y = { s1.dev with satb := v } ∨
       c = 0x200 ∧ y = { s1.dev with ftvb := v &&& 0xFFFFFFFFFFFFF000 }) →
      csrWritable c.toNat (agentKind a) = true →
      exec (.groupCsrw r c) s = .next (State.advance { s1 with dev := y } a 1)) ∧
    ∀ y : Ctx,
      (c = 1 ∧ y = { x with frm := v.extractLsb' 0 2 } ∨ c = 2 ∧ y = { x with ffl := v.extractLsb' 0 5 } ∨
       c = 4 ∧ y = { x with tsp := v } ∨ c = 0x100 ∧ y = { x with stvb := v &&& 0xFFFFFFFFFFFFF000 } ∨
       c = 0x101 ∧ y = { x with scause := v &&& 0x80000000000000FF } ∨ c = 0x102 ∧ y = { x with sepc := v } ∨
       c = 0x103 ∧ y = { x with stval := v } ∨ c = 0x105 ∧ y = { x with sscr := v } ∨
       c = 0x106 ∧ y = { x with sasid := v.extractLsb' 0 16 } ∨
       c = 0x107 ∧ y = { x with sptb := v &&& 0x000FFFFFFFFF0000 } ∨
       c = 0x108 ∧ agentKind a ≠ .steppe ∧
         y = { x with sstat := (x.sstat &&& 0x8F) ||| (v.extractLsb' 0 8 &&& 0x70) } ∨
       c = 0x108 ∧ agentKind a = .steppe ∧
         y = { x with sstat := (x.sstat &&& 0x84) ||| (v.extractLsb' 0 8 &&& 0x78) |||
                        if v.extractLsb' 0 2 = 0 then 0 else 1 }) →
      csrWritable c.toNat (agentKind a) = true →
      exec (.groupCsrw r c) s = .next ((s1.setCtx a y).advance a 1)

/-- R149–R151, R155: the conductor's `qpush` claims the next entry of dq with its value, `qpop` takes the
lowest unpopped slot of the oldest uq entry, `qlen` reads the room or the pops, and `qcfg` sets a queue's
configuration with every index at 0.
When uq counts as empty is the model's reading (log 33). -/
def Obligations.ConductorQueues : Prop :=
  ∀ (i : Instr) (s s1 : State) (g : Nat), GroupTurn i s (.cond g) s1 →
    (∀ r, i = .groupQpush r → (s1.gang g).dq.depth ≠ 0 → Unwatched s (gangCore g) → Memory.wf s.mem = true →
      let dq := (s1.gang g).dq
      (∀ j, j < 32 → dq.slotAt dq.writeIndex j + 8 ≤ 0xFF0000) →
      ∃ t, exec i s = .next t ∧ (t.gang g).cond = (s1.advance (.cond g) 1).ctx (.cond g) ∧
        (t.gang g).lanes = (s1.gang g).lanes ∧ (t.gang g).dq.writeIndex = dq.writeIndex + 1 ∧
        (∀ j, j < 32 → readLE t.mem (dq.slotKey (gangCore g) dq.writeIndex j) 8 = (readG s1 (.cond g) r).toNat) ∧
        Outside s t (dq.slotKey (gangCore g) dq.writeIndex 0) dq.size) ∧
    (∀ d e r, i = .groupQpop d → (s1.gang g).uq.depth ≠ 0 → (s1.gang g).uq.entries = e :: r →
      let uq := (s1.gang g).uq
      let n := ((threads e.left).headD 0).val
      let left := if uq.wide then e.left &&& ~~~oneHot n else 0
      s1.flawedAt (uq.slotKey (gangCore g) uq.first n) 8 = false →
      ∃ t, exec i s = .next t ∧ (∀ a, readByte t.mem a = readByte s.mem a) ∧ (t.gang g).lanes = (s1.gang g).lanes ∧
        t.ctx (.cond g) =
          { (s1.advance (.cond g) 1).ctx (.cond g) with
              pend := (t.ctx (.cond g)).pend, after := (t.ctx (.cond g)).after } ∧
        (∀ f ∈ s1.flight, f.id ∈ e.after → f.reply = none → f.id ∈ (t.ctx (.cond g)).after) ∧
        (∀ q, dstG d = .reg q → q < 192 → (t.ctx (.cond g)).final q =
          n64 (readLE s.mem (uq.slotKey (gangCore g) uq.first n) 8)) ∧
        (∀ q, q < 192 → dstG d ≠ .reg q → (t.ctx (.cond g)).final q = (s1.ctx (.cond g)).final q) ∧
        (t.gang g).uq =
          if left = 0 then { uq with first := uq.first + 1, entries := r }
          else { uq with entries := { e with left := left } :: r }) ∧
    (∀ up d, i = .groupQlen up d → ((s1.gang g).queue up).depth ≠ 0 →
      ∃ t, exec i s = .next t ∧ CtxOnly s s1 t (.cond g) ∧ OneGroupRegister s1 t (.cond g) 1 (dstG d) ∧
        ∀ q, dstG d = .reg q → q < 192 → (t.ctx (.cond g)).final q =
          n64 (if up then (s1.gang g).uqCount
               else (s1.gang g).dq.depth - ((s1.gang g).dq.writeIndex - (s1.gang g).dqRead))) ∧
    ∀ up r, i = .qcfg up r →
      let c := readG s1 (.cond g) r
      ((s1.gang g).cfgOk up c = true →
        ∃ t, exec i s = .next t ∧ (t.gang g).cond = (s1.advance (.cond g) 1).ctx (.cond g) ∧
          (t.gang g).queue up = { cfg := c, first := 0, entries := [] } ∧
          (t.gang g).queue (!up) = (s1.gang g).queue (!up) ∧
          ∀ u : Fin 32, laneOf t g u =
            if up then { laneOf s1 g u with qw := 0 } else { laneOf s1 g u with qr := 0 }) ∧
      ((s1.gang g).cfgOk up c = false → exec i s = .next (s1.groupFault (.cond g) 0x12 c))

/-- R217, R218: `strm` loads a descriptor from its block, with a nonzero count in every dimension and strides
that are multiples of the element; `strmgo` starts it, locks its span, and moves on.
A descriptor without entries ends at once: the model's reading (log 47). -/
def Obligations.StreamsLoadAndStart : Prop :=
  ∀ (i : Instr) (s s1 : State) (g : Nat), GroupTurn i s (.cond g) s1 →
    (∀ k p z sp, i = .strm k p z sp →
      let b := blockAt s1 g p.val 4
      let c := b.getD 1 0
      let st := b.getD 2 0
      let u := b.getD 3 0
      let size : Nat := 2 ^ z.toNat
      let legal := f64 c 0 16 ≠ 0 ∧ f64 c 16 16 ≠ 0 ∧ f64 c 32 16 ≠ 0 ∧ f64 c 48 16 = 0 ∧ f64 u 32 32 = 0 ∧
        signed 32 (f64 st 0 32) % (size : Int) = 0 ∧ signed 32 (f64 st 32 32) % (size : Int) = 0 ∧
        signed 32 (f64 u 0 32) % (size : Int) = 0
      let d : Stream :=
        { loaded := true, running := false, stopped := false, size := size, space := sp, base := b.getD 0 0,
          c0 := f64 c 0 16, c1 := f64 c 16 16, c2 := f64 c 32 16, s0 := signed 32 (f64 st 0 32),
          s1 := signed 32 (f64 st 32 32), s2 := signed 32 (f64 u 0 32), next := 0, level := .u, after := [], noted := 0 }
      (legal → exec i s = .next ((s1.setGang g { s1.gang g with sd := (s1.gang g).sd.set k.val d }).advance (.cond g) 2)) ∧
      (¬ legal → exec i s = .next (s1.groupFault (.cond g) 0x02 (firstWord i)))) ∧
    ∀ k, i = .strmgo k →
      ((s1.gang g).dq.depth = 0 ∨ (s1.gang g).dq.wide = false →
        exec i s = .next (s1.groupFault (.cond g) 0x12 0)) ∧
      ((s1.gang g).dq.depth ≠ 0 → (s1.gang g).dq.wide = true → (s1.gang g).sd[k].entries ≠ 0 →
        ∃ t lock, exec i s = .next t ∧ t.mem = s1.mem ∧
          (t.core (gangCore g)).locks = (s1.core (gangCore g)).locks ++ [lock] ∧ lock.owner = .stream g k ∧
          ((s1.gang g).sd[k].space = .d →
            let r := (s1.gang g).sd[k].span
            lock.asid = some (s1.asidOf (.cond g)) ∧ lock.spans = [(r.1 / 64, (r.1 + r.2 - 1) / 64)]) ∧
          t.gang g =
            { s1.gang g with
                cond := (s1.advance (.cond g) 1).ctx (.cond g), sd := (t.gang g).sd } ∧
          (∀ j : Fin 4, j ≠ k → (t.gang g).sd[j] = (s1.gang g).sd[j]) ∧
          (t.gang g).sd[k] =
            { (s1.gang g).sd[k] with
                running := true, stopped := false, next := 0, level := s1.levelOf (.cond g),
                after := (t.gang g).sd[k].after })

/-- R213, R214, R219: a `cpy` whose block passes every check enters the engine behind the others with its range
locks, and gives its sequence number on the core; else it takes the fault of the first row that fails: an
illegal register 0x02 with its number, a misaligned address 0x05, a range outside its window 0x0A.
What a copy's lock covers is read as log 44 says. -/
def Obligations.CopyIssues : Prop :=
  ∀ (p : Fin 192) (d : GDst) (s s1 : State) (g : Nat) (l : Launch), GroupTurn (.cpy p d) s (.cond g) s1 →
    s1.launch? (s1.gang g).launch = some l →
    let b := blockAt s1 g p.val 8
    let core := gangCore g
    let x : Site := { core := core, launch := (s1.gang g).launch, block := (s1.gang g).block,
                      scratch := (s1.gang g).scratch, level := s1.levelOf (.cond g) }
    (∀ j, (s1.kernel g).groupRegs < p.val + 8 → j = (s1.kernel g).groupRegs - p.val →
      (∀ k, copyBadReg b = some k → j ≤ k) →
      exec (.cpy p d) s = .next (s1.groupFault (.cond g) 0x02 (n64 j))) ∧
    (p.val + 8 ≤ (s1.kernel g).groupRegs →
      (∀ j, copyBadReg b = some j → exec (.cpy p d) s = .next (s1.groupFault (.cond g) 0x02 (n64 j))) ∧
      (copyBadReg b = none →
        (∀ a m, (copyAddresses b).find? (fun e => e.1 % e.2 ≠ 0) = some (a, m) →
          exec (.cpy p d) s = .next (s1.groupFault (.cond g) 0x05 (n64 a))) ∧
        ((∀ e ∈ copyAddresses b, e.1 % e.2 = 0) →
          (∀ a, s1.outsideWindow x (copyChecked b) = some a →
            exec (.cpy p d) s = .next (s1.groupFault (.cond g) 0x0A (n64 a))) ∧
          (s1.outsideWindow x (copyChecked b) = none →
            ∃ t c, exec (.cpy p d) s = .next t ∧ t.mem = s1.mem ∧
              Completes { s1 with launches := t.launches } t (.cond g) 1 (dstG d) (n64 (aget 0 core l.copySeq + 1)) ∧
              (t.core core).copies = (s1.core core).copies ++ [c] ∧
              (t.core core).locks.length = (s1.core core).locks.length + (copyLocks b).length ∧
              c.seq = aget 0 core l.copySeq + 1 ∧ c.launch = (s1.gang g).launch ∧ c.block = b ∧ c.site = x ∧
              c.running = false ∧ c.done = 0 ∧ c.xfer = false))))

/-- R182, R197: a `mxctl.take` joins the order of requests; one of a conductor that holds the baton takes 0x02. As
the clock ends, a request that stands alone takes the baton where it is free, and a handler's also where a user holds
it, who is set aside; else it waits on. `pass` frees the baton, or gives it back to the user set aside; without it
`pass` takes 0x19.
Set-aside among handlers is read as log 49 says. -/
def Obligations.BatonTakesAndPasses : Prop :=
  ∀ (i : Instr) (s s1 : State) (g : Nat), GroupTurn i s (.cond g) s1 → Unwaiting s1 (.cond g) →
    let core := gangCore g
    let b := (s1.core core).baton
    let user := decide (s1.levelOf (.cond g) = .u)
    let holds := b.holder = some g ∧ b.super = !user
    (i = .mxctlTake →
      (holds → exec i s = .next (s1.groupFault (.cond g) 0x02 (firstWord i))) ∧
      (¬ holds →
        ∃ t, exec i s = .next t ∧ t.mem = s1.mem ∧ Waits s1 t (.cond g) .baton s.tick ∧ (t.core core).baton = b ∧
          (NoneWait s1 g →
            let u := t.grantBaton core (s.tick + 1)
            (user = true → b.holder = none →
              u.mem = s1.mem ∧ Completes s1 u (.cond g) 1 .none 0 ∧
              (u.core core).baton = { holder := some g, super := false, aside := b.aside }) ∧
            (user = false → b.super = false ∨ b.holder = none →
              u.mem = s1.mem ∧ Completes s1 u (.cond g) 1 .none 0 ∧
              (u.core core).baton = { holder := some g, super := true, aside := b.holder }) ∧
            (b.holder ≠ none → user = true ∨ b.super = true → u = t)))) ∧
    (i = .mxctlPass →
      (holds → ∃ t, exec i s = .next t ∧ t.mem = s1.mem ∧ Completes s1 t (.cond g) 1 .none 0 ∧
        (t.core core).baton = { holder := b.aside, super := false, aside := none }) ∧
      (¬ holds → exec i s = .next (s1.groupFault (.cond g) 0x19 0)))

/-- R184, R187, R193: an `mxq` that passes every check queues its operation behind the others with its bank and
its register operands captured, and gives its sequence number; without the baton it takes 0x19. `tilewait`
moves on.
The order of two defects of a descriptor is read as log 48 says. -/
def Obligations.MatrixIssues : Prop :=
  (∀ (p : Fin 192) (d : GDst) (s s1 : State) (g : Nat), GroupTurn (.mxq p d) s (.cond g) s1 →
    Unwaiting s1 (.cond g) →
    let b := blockAt s1 g p.val 8
    let core := gangCore g
    let c := s1.core core
    let super := decide (s1.levelOf (.cond g) ≠ .u)
    let x : Site := { core := core, launch := (s1.gang g).launch, block := (s1.gang g).block,
                      scratch := (s1.gang g).scratch, level := s1.levelOf (.cond g) }
    let holds := c.baton.holder = some g ∧ c.baton.super = super
    p.val + 8 ≤ (s1.kernel g).groupRegs → ¬ (super = false ∧ (mxFirst b = 16 ∨ mxFirst b = 17)) →
    (∀ j, mxBadReg b super (s1.kernel g).laneRegs = some j →
      exec (.mxq p d) s = .next (s1.groupFault (.cond g) 0x02 (n64 j))) ∧
    (mxBadReg b super (s1.kernel g).laneRegs = none →
      (¬ holds → exec (.mxq p d) s = .next (s1.groupFault (.cond g) 0x19 0)) ∧
      (holds →
        (∀ a, s1.mxOutside x b = some a → exec (.mxq p d) s = .next (s1.groupFault (.cond g) 0x0A (n64 a))) ∧
        (s1.mxOutside x b = none →
          ∃ t o, exec (.mxq p d) s = .next t ∧ t.mem = s1.mem ∧
            Completes s1 t (.cond g) 1 (dstG d) (n64 (c.mxSeq + 1)) ∧
            (t.core core).mx = c.mx ++ [o] ∧ (t.core core).mxSeq = c.mxSeq + 1 ∧
            (t.core core).locks.length = c.locks.length + (mxLocks b).length ∧
            o.seq = c.mxSeq + 1 ∧ o.block = b ∧ o.site = x ∧ o.bank = (if c.bank then c.banks.2 else c.banks.1) ∧
            o.done = 0 ∧ o.running = false ∧ o.stopped = false ∧
            (b64 (b.getD 4 0) 63 = true → ∀ (u : Fin 32) (j : Nat), j < 8 →
              o.regA.getD (32 * j + u.val) 0 =
                if (s1.gang g).glive.getLsbD u.val then (laneOf s1 g u).reg ((b.getD 3 0).toNat + j) else 0))))) ∧
  ∀ (k : Fin 18) (s s1 : State) (g : Nat), GroupTurn (.mxctlTilewait k) s (.cond g) s1 →
    exec (.mxctlTilewait k) s = .next (s1.advance (.cond g) 1)

/-- R192, R198: `mxctl.ctab` loads the bank that is not current and makes it current. `mxsave` writes the
engine's user state, 263,168 bytes, at its slice offset; `mxrest` reads it back: the bank, the invalid marks and
every element of the tiles a0–a15, and leaves a16 and a17. -/
def Obligations.MatrixContext : Prop :=
  ∀ (i : Instr) (s s1 : State) (g : Nat), GroupTurn i s (.cond g) s1 → Unwaiting s1 (.cond g) →
    let core := gangCore g
    let c := s1.core core
    (∀ p, i = .mxctlCtab p → c.baton.holder = some g → c.baton.super = decide (s1.levelOf (.cond g) ≠ .u) →
      p.val + 2 ≤ (s1.kernel g).groupRegs →
      ∃ t, exec i s = .next t ∧ t.mem = s1.mem ∧ Completes s1 t (.cond g) 1 .none 0 ∧
        let b := blockAt s1 g p.val 2
        let table := leBytes 8 (b.getD 0 0).toNat ++ leBytes 8 (b.getD 1 0).toNat
        (t.core core).bank = (!c.bank) ∧
        (t.core core).banks = if c.bank then (table, c.banks.2) else (c.banks.1, table)) ∧
    (∀ r, i = .mxsave r →
      let off := (readG s1 (.cond g) r).toNat
      (off % 1024 ≠ 0 → exec i s = .next (s1.groupFault (.cond g) 0x02 (firstWord i))) ∧
      (off % 1024 = 0 → 2 ^ 24 < off + 263168 → exec i s = .next (s1.groupFault (.cond g) 0x0A (n64 off))) ∧
      (off % 1024 = 0 → off + 263168 ≤ 0xFF0000 → Unwatched s core → Memory.wf s.mem = true →
        ∃ t, exec i s = .next t ∧ Completes s1 t (.cond g) 1 .none 0 ∧
          readBytes t.mem (sliceKey core off) 263168 = c.mxArea ∧ Outside s t (sliceKey core off) 263168)) ∧
    ∀ r, i = .mxrest r →
      let off := (readG s1 (.cond g) r).toNat
      (off % 1024 = 0 → off + 263168 ≤ 2 ^ 24 → s1.flawedAt (sliceKey core off) 263168 = true →
        exec i s = .next (s1.groupEcc (.cond g) (n64 off ||| 0x8000000000000000))) ∧
      (off % 1024 = 0 → off + 263168 ≤ 0xFF4600 → s1.flawedAt (sliceKey core off) 263168 = false →
        ∃ t, exec i s = .next t ∧ t.mem = s1.mem ∧ Completes s1 t (.cond g) 1 .none 0 ∧
          let w := n64 (readLE s.mem (sliceKey core off) 8)
          (t.core core).bank = b64 w 9 ∧
          (∀ n, n < 16 → (n ∈ (t.core core).invalid ↔ b64 w (10 + n) = true)) ∧
          (∀ n, 16 ≤ n → (n ∈ (t.core core).invalid ↔ n ∈ c.invalid)) ∧
          (t.core core).banks = (readBytes s.mem (sliceKey core off + 8) 16, readBytes s.mem (sliceKey core off + 24) 16) ∧
          ∀ n row col, n < 16 → row < 64 → col < 64 →
            (t.core core).accBits n row col =
              BitVec.ofNat 32 (readLE s.mem (sliceKey core off + 1024 + 4 * (4096 * n + 64 * row + col)) 4))

/-- R250, R251: a barrier that another launch owns, or nobody for any `bar` but `init`, gives 0x0A; the wrong
mode 0x02. `init` takes the barrier over with its count, timeout and mode; an arrival counts, and at the
expected count the phase flips; a post adds, saturating; `stat` reads both words. -/
def Obligations.BarriersCount : Prop :=
  ∀ (i : Instr) (s s1 : State) (g : Nat) (b : Fin 96), GroupTurn i s (.cond g) s1 → Unwaiting s1 (.cond g) →
    Memory.wf s.mem = true →
    let core := gangCore g
    let own := (s1.bar core b.val).owner = some (s1.gang g).launch
    let w := s1.barWord core b.val
    let phase := w.getLsbD 63
    let sem := w.getLsbD 62
    let count := f64 w 0 32
    let k := sliceKey core (0xFF4000 + 16 * b.val)
    (∀ r, i = .barInit b r → own ∨ (s1.bar core b.val).owner = none →
      let v := readG s1 (.cond g) r
      (f64 v 32 32 = 0 → exec i s = .next (s1.groupFault (.cond g) 0x02 (firstWord i))) ∧
      (f64 v 32 32 ≠ 0 → (s1.kernel g).barCeiling.toNat < f64 v 32 32 →
        exec i s = .next (s1.groupFault (.cond g) 0x0C (n64 (f64 v 32 32)))) ∧
      (f64 v 32 32 ≠ 0 → f64 v 32 32 ≤ (s1.kernel g).barCeiling.toNat →
        ∃ t, exec i s = .next t ∧ Completes s1 t (.cond g) 1 .none 0 ∧ Outside s t k 8 ∧
          t.barWord core b.val = barrierWord phase (decide (f64 v 0 32 = 0)) 0 ∧
          (t.bar core b.val).owner = some (s1.gang g).launch ∧ (t.bar core b.val).expected.toNat = f64 v 0 32 ∧
          (t.bar core b.val).timeout.toNat = f64 v 32 32)) ∧
    (∀ r o, i = .barInit b r → (s1.bar core b.val).owner = some o → o ≠ (s1.gang g).launch →
      exec i s = .next (s1.groupFault (.cond g) 0x0A (n64 b.val))) ∧
    (∀ r d, i ∈ [.barArrive b, .barWait b d, .barSync b d, .barPost b r, .barTake b d, .barStat b d] →
      ¬ own → exec i s = .next (s1.groupFault (.cond g) 0x0A (n64 b.val))) ∧
    (own → ∀ r d, (sem = true ∧ i ∈ [.barArrive b, .barWait b d, .barSync b d] ∨
        sem = false ∧ i ∈ [.barPost b r, .barTake b d]) →
      exec i s = .next (s1.groupFault (.cond g) 0x02 (firstWord i))) ∧
    (own → sem = false → i = .barArrive b →
      ∃ t, exec i s = .next t ∧ Completes s1 t (.cond g) 1 .none 0 ∧ Outside s t k 8 ∧
        let n := (count + 1) % 2 ^ 32
        t.barWord core b.val =
          if n = (s1.bar core b.val).expected.toNat then barrierWord (!phase) false 0 else barrierWord phase false n) ∧
    (own → sem = true → ∀ r, i = .barPost b r →
      ∃ t, exec i s = .next t ∧ Completes s1 t (.cond g) 1 .none 0 ∧ Outside s t k 8 ∧
        t.barWord core b.val = barrierWord phase true (min 0xFFFFFFFF (count + f64 (readG s1 (.cond g) r) 0 32))) ∧
    (own → ∀ d, i = .barStat b d →
      ∃ t, exec i s = .next t ∧ t.mem = s1.mem ∧
        ∀ q, dstG d = .reg q → q + 1 < 192 →
          (t.ctx (.cond g)).final q = w ∧
          (t.ctx (.cond g)).final (q + 1) = n64 (readLE s.mem (k + 8) 8) ∧
          ∀ r, r < 192 → r ≠ q → r ≠ q + 1 → (t.ctx (.cond g)).final r = (s1.ctx (.cond g)).final r)

/-- R251: `bar.wait` gives 0 at once where the phase has flipped since the conductor last saw it, else it parks
until its deadline; `bar.sync` arrives and waits for the flip of the phase it saw; `bar.take` parks, and takes one
as the clock ends while the value lasts and nobody waits before it, else it stays parked.
A wait without a recorded phase compares with the present one: the model's reading (log 39). -/
def Obligations.BarriersWait : Prop :=
  ∀ (i : Instr) (s s1 : State) (g : Nat) (b : Fin 96) (d : GDst), GroupTurn i s (.cond g) s1 →
    Unwaiting s1 (.cond g) → Memory.wf s.mem = true →
    let core := gangCore g
    let w := s1.barWord core b.val
    let phase := w.getLsbD 63
    let count := f64 w 0 32
    let x := s1.bar core b.val
    let k := sliceKey core (0xFF4000 + 16 * b.val)
    let seen := aget phase b.val (s1.ctx (.cond g)).phases
    x.owner = some (s1.gang g).launch →
    (i = .barWait b d → w.getLsbD 62 = false →
      (phase ≠ seen → ∃ t, exec i s = .next t ∧ t.mem = s1.mem ∧ Completes s1 t (.cond g) 1 (dstG d) 0) ∧
      (phase = seen → ∃ t, exec i s = .next t ∧ t.mem = s1.mem ∧
        Waits s1 t (.cond g) (.bar b seen (dstG d)) (s.tick + x.timeout.toNat))) ∧
    (i = .barSync b d → w.getLsbD 62 = false →
      let n := (count + 1) % 2 ^ 32
      (n = x.expected.toNat →
        ∃ t, exec i s = .next t ∧ Completes s1 t (.cond g) 1 (dstG d) 0 ∧ Outside s t k 8 ∧
          t.barWord core b.val = barrierWord (!phase) false 0) ∧
      (n ≠ x.expected.toNat →
        ∃ t, exec i s = .next t ∧ Waits s1 t (.cond g) (.bar b phase (dstG d)) (s.tick + x.timeout.toNat) ∧
          Outside s t k 8 ∧ t.barWord core b.val = barrierWord phase false n)) ∧
    (i = .barTake b d → w.getLsbD 62 = true →
      ∃ t, exec i s = .next t ∧ t.mem = s1.mem ∧ Waits s1 t (.cond g) (.take b (dstG d)) (s.tick + x.timeout.toNat) ∧
        (NoneWait s1 g →
          let u := t.serveTakes core b.val
          (count ≠ 0 → Completes s1 u (.cond g) 1 (dstG d) 0 ∧ Outside s u k 8 ∧
            u.barWord core b.val = barrierWord phase true (count - 1)) ∧
          (count = 0 → u = t)))

/-- R255–R259: `watch.arm` of an illegal block takes the fault of R257; of a legal one it takes the lowest free entry and
gives its number, or gives the first of the codes −1 to −4 that fits (0x16 where `gz` takes it); `disarm` and `query`
ask the unit, whose answer arrives at the next clock: the triggers discarded, or the state, the stop reason, the
triggers held and those of the window. The clock of an effect is read as log 53 says. -/
def Obligations.WatchesArmAndAnswer : Prop :=
  (∀ (d : GDst) (p : Fin 192) (s s1 : State) (a : Agent), GroupTurn (.watchArm d p) s a s1 → Unwaiting s1 a →
    let b := (List.range 4).map fun j => (s1.ctx a).reg (p.val + j)
    let core := f64 (b.getD 0 0) 24 8
    (∀ c v, s1.armFault b (s1.levelOf a) (s1.asidOf a) = some (c, v) →
      exec (.watchArm d p) s = .next (s1.groupFault a c v)) ∧
    (s1.armFault b (s1.levelOf a) (s1.asidOf a) = none →
      (∀ n, s1.armCode b (s1.asidOf a) = .ok n →
        ∃ t w, exec (.watchArm d p) s = .next t ∧ t.mem = s1.mem ∧ Completes s1 t a 1 (dstG d) (n64 n) ∧
          (t.core core).watches = aput n w (s1.core core).watches ∧ afind n (s1.core core).watches = none ∧
          w.state = 1 ∧ w.base = f64 (b.getD 0 0) 0 24 ∧ w.len = f64 (b.getD 1 0) 0 32 ∧
          w.limit = f64 (b.getD 1 0) 40 3 ∧ w.qid = f64 (b.getD 2 0) 0 32 ∧ w.arg = b.getD 3 0 ∧
          w.asid = s1.asidOf a ∧ w.seq = 0 ∧ w.effect = s.tick + 1) ∧
      ∀ e, s1.armCode b (s1.asidOf a) = .error e →
        (d = .gz → exec (.watchArm d p) s = .next (s1.groupFault a 0x16 (w64 e))) ∧
        (d ≠ .gz → ∃ t, exec (.watchArm d p) s = .next t ∧ t.mem = s1.mem ∧ t.cores = s1.cores ∧
          Completes s1 t a 1 (dstG d) (w64 e))) ∧
    let r1 := b.getD 1 0
    let off := f64 (b.getD 0 0) 0 24
    let len := f64 r1 0 32
    let legal0 := f64 (b.getD 0 0) 32 32 = 0 ∧ f64 (b.getD 0 0) 0 32 % 64 = 0
    let legal1 := f64 r1 51 13 = 0 ∧ f64 r1 43 5 = 0 ∧ f64 r1 40 3 ≠ 0 ∧ f64 r1 32 8 ≤ 1 ∧ len % 64 = 0 ∧ 64 ≤ len ∧
      len ≤ 0x100000
    let legal2 := f64 (b.getD 2 0) 32 32 = 0
    let inside := s1.present core = true ∧ off + len ≤ 0xFF0000
    let grant (j : Nat) : Bool := granted s1.mem core (s1.asidOf a) (off + j) 1 .load
    let table := (s1.core core).watches
    let free (i : Nat) : Prop := i < 64 ∧ afind i table = none
    let meets := ∃ e ∈ table, e.2.base < off + len ∧ off < e.2.base + e.2.len
    let stands (q : Quote) : Prop := s1.quote? (f64 (b.getD 2 0) 0 32) = some q ∧ q.asid = s1.asidOf a ∧ q.cls = 2 ∧ q.state = 4
    let faults (c : Byte) (v : W64) : Prop := exec (.watchArm d p) s = .next (s1.groupFault a c v)
    let gives (e : Int) : Prop := (d = .gz → faults 0x16 (w64 e)) ∧
      (d ≠ .gz → ∃ t, exec (.watchArm d p) s = .next t ∧ t.mem = s1.mem ∧ t.cores = s1.cores ∧
        Completes s1 t a 1 (dstG d) (w64 e))
    (¬ legal0 → faults 0x02 0) ∧ (legal0 → ¬ legal1 → faults 0x02 1) ∧ (legal0 → legal1 → ¬ legal2 → faults 0x02 2) ∧
    (legal0 → legal1 → legal2 → ¬ inside → faults 0x0A (b.getD 0 0)) ∧
    (legal0 → legal1 → legal2 → inside → s1.levelOf a = .u → ∀ j, j < len → grant j = false → (∀ i, i < j → grant i = true) →
      faults 0x0A (n64 (core * 2 ^ 24 + off + j))) ∧
    (legal0 → legal1 → legal2 → inside → (s1.levelOf a = .u → ∀ j, j < len → grant j = true) →
      ((∀ i, ¬ free i) → gives (-1)) ∧
      ∀ i, free i → (∀ j, j < i → ¬ free j) →
        (meets → gives (-2)) ∧
        (¬ meets → (∀ q, ¬ stands q) → gives (-3)) ∧
        (¬ meets → ∀ q, stands q →
          (q.partOn core = none → gives (-4)) ∧
          (q.partOn core ≠ none → ∃ t, exec (.watchArm d p) s = .next t ∧ Completes s1 t a 1 (dstG d) (n64 i) ∧
            ∃ w, (t.core core).watches = aput i w table ∧ w.state = 1)))) ∧
  (∀ (i : Instr) (d : GDst) (r : GSrc) (dis : Bool) (s s1 : State) (a : Agent),
    i = (if dis then .watchDisarm d r else .watchQuery d r) → GroupTurn i s a s1 →
    let v := readG s1 a r
    let core := f64 v 8 8
    (f64 v 16 48 ≠ 0 ∨ 63 < f64 v 0 8 → exec i s = .next (s1.groupFault a 0x02 v)) ∧
    (f64 v 16 48 = 0 → f64 v 0 8 ≤ 63 → s1.present core = true →
      ∃ t, exec i s = .next t ∧ t.mem = s1.mem ∧
        t.ctx a = ((s1.advance a 1).ctx a).await [waitFor s1.nextId (dstG d) false] ∧
        (t.core core).asks = (s1.core core).asks ++
          [{ id := s1.nextId, who := a, disarm := dis, entry := f64 v 0 8, asid := s1.asidOf a, since := s.tick }]) ∧
    (f64 v 16 48 = 0 → f64 v 0 8 ≤ 63 → s1.present core = false → Unwaiting s1 a →
      ∃ t, exec i s = .next t ∧ t.mem = s1.mem ∧ Completes s1 t a 1 (dstG d) (w64 (-3)))) ∧
  ∀ (s : State) (core : Nat) (k : WatchAsk), s.exists_ k.who = true →
    (∀ g t, k.who ≠ .lane g t) →
    let c := s.core core
    let t := s.watchAnswer core k
    (afind k.entry c.watches = none →
      (t.ctx k.who).pend = arrive k.id s.tick (if k.disarm then w64 (-3) else 0) 0 (s.ctx k.who).pend) ∧
    ∀ w, afind k.entry c.watches = some w →
      (w.asid ≠ k.asid →
        (t.core core).watches = c.watches ∧
        (t.ctx k.who).pend = arrive k.id s.tick (w64 (-3)) 0 (s.ctx k.who).pend) ∧
      (w.asid = k.asid → k.disarm = true → c.forming = [] →
        (t.core core).watches = adel k.entry c.watches ∧
        (∀ x ∈ (t.core core).triggers, x.watch = w.serial → x.gang ≠ none) ∧
        (t.ctx k.who).pend =
          arrive k.id s.tick (n64 (c.triggers.filter fun x => x.watch = w.serial && x.gang.isNone).length) 0
            (s.ctx k.who).pend) ∧
      (w.asid = k.asid → k.disarm = false → ∀ q, s.quote? w.qid = some q →
        let window := (s.tick - q.accepted) / max 1 ((q.kernel.map (·.window)).getD 1)
        let created := if q.window.1 = window then q.window.2 else 0
        let held := (c.triggers.filter fun x => x.watch = w.serial).length
        (t.core core).watches = c.watches ∧ (t.core core).triggers = c.triggers ∧
        (t.ctx k.who).pend =
          arrive k.id s.tick (n64 (min 0xFFFF created * 2 ^ 32 + held * 2 ^ 16 + w.reason * 4 + w.state)) 0
            (s.ctx k.who).pend)

/-- R114: a legal `spawn` within the depth, with an entry of the right section and room for its children, adds
count ready tasks to its partition, each with its number in its registers, and gives the count; a depth beyond
the kernel's gives 0x0E; no entry −1; no room −2, with nothing added.
How many children start, and their absent lanes, is read as log 52 says. -/
def Obligations.SpawnAddsChildren : Prop :=
  ∀ (p : Fin 192) (d : GDst) (s s1 : State) (g : Nat), GroupTurn (.spawn p d) s (.cond g) s1 →
    Unwaiting s1 (.cond g) →
    let b := blockAt s1 g p.val 4
    let r0 := b.getD 0 0
    let r1 := b.getD 1 0
    let r3 := b.getD 3 0
    let legal := f64 r0 32 32 = 0 ∧ f64 r1 16 48 = 0 ∧ f64 r3 8 56 = 0 ∧ 1 ≤ f64 r1 0 8 ∧ f64 r1 0 8 ≤ 12 ∧
      1 ≤ f64 r1 8 8 ∧ f64 r1 8 8 ≤ 32 ∧ (f64 r3 0 8 ≤ 95 ∨ f64 r3 0 8 = 255)
    let core := gangCore g
    let part (t : State) : Part := (t.core core).parts.toList.getD (gangPart g) Part.empty
    let depth := (s1.gang g).depth + 1
    (¬ legal → exec (.spawn p d) s = .next (s1.groupFault (.cond g) 0x02 r1)) ∧
    (legal → (s1.kernel g).spawnDepth < depth →
      exec (.spawn p d) s = .next (s1.groupFault (.cond g) 0x0E (n64 depth))) ∧
    (legal → depth ≤ (s1.kernel g).spawnDepth → ∀ lane cond,
      (s1.kernel g).spawnEntry false (f64 r0 0 16) = some lane →
      (s1.kernel g).spawnEntry true (f64 r0 16 16) = some cond →
      (lane = none → cond = none →
        ∃ t, exec (.spawn p d) s = .next t ∧ t.cores = s1.cores ∧ Completes s1 t (.cond g) 1 (dstG d) (w64 (-1))) ∧
      ((lane ≠ none ∨ cond ≠ none) →
        (16 < (part s1).tasks.length + f64 r1 0 8 →
          ∃ t, exec (.spawn p d) s = .next t ∧ t.cores = s1.cores ∧ Completes s1 t (.cond g) 1 (dstG d) (w64 (-2))) ∧
        ((part s1).tasks.length + f64 r1 0 8 ≤ 16 →
          ∃ t ts, exec (.spawn p d) s = .next t ∧ t.mem = s1.mem ∧
            Completes s1 t (.cond g) 1 (dstG d) (n64 (f64 r1 0 8)) ∧
            (part t).tasks = (part s1).tasks ++ ts ∧ ts.length = f64 r1 0 8 ∧
            ∀ c k, ts[c]? = some k →
              k.launch = (s1.gang g).launch ∧ k.origin = .spawned ∧ k.laneEntry = lane ∧ k.condEntry = cond ∧
              k.depth = depth ∧ k.wid = (s1.gang g).wid ∧ k.gregs = [b.getD 2 0, n64 c] ∧
              k.threads = (if lane = none then 0 else f64 r1 8 8))))

/-- R112, R113: `share.join` gives the block the lowest free slot of its group, or −1 off one cluster, −3 in a
group already, −2 with no slot; `leave` waits for the accesses through the slot, or gives −3; `query` reads the
members and the own slot.
What share.leave waits for is read as log 51 says. -/
def Obligations.ShareGroups : Prop :=
  ∀ (i : Instr) (s s1 : State) (g : Nat) (l : Launch), GroupTurn i s (.cond g) s1 → Unwaiting s1 (.cond g) →
    s1.launch? (s1.gang g).launch = some l →
    let id := (s1.gang g).launch
    let block := (s1.gang g).block
    (∀ d r, i = .shareJoin d r →
      let v := readG s1 (.cond g) r
      (f64 v 8 56 ≠ 0 → exec i s = .next (s1.groupFault (.cond g) 0x02 v)) ∧
      (f64 v 8 56 = 0 →
        (l.blockCluster block = none →
          ∃ t, exec i s = .next t ∧ Completes s1 t (.cond g) 1 (dstG d) (w64 (-1)) ∧ t.launches = s1.launches) ∧
        ∀ cl, l.blockCluster block = some cl →
          (l.groupOf block ≠ none →
            ∃ t, exec i s = .next t ∧ Completes s1 t (.cond g) 1 (dstG d) (w64 (-3)) ∧ t.launches = s1.launches) ∧
          (l.groupOf block = none →
            (∀ k, freeSlot (l.members cl v.toNat) = some k →
              ∃ t l', exec i s = .next t ∧ t.mem = s1.mem ∧ Completes s1 t (.cond g) 1 (dstG d) (n64 k) ∧
                t.launch? id = some l' ∧ block ∈ l'.joining ∧ afind k (l.members cl v.toNat) = none ∧
                l' = { (l.setMembers cl v.toNat (aput k block (l.members cl v.toNat))) with joining := l'.joining }) ∧
            (freeSlot (l.members cl v.toNat) = none →
              ∃ t, exec i s = .next t ∧ Completes s1 t (.cond g) 1 (dstG d) (w64 (-2)) ∧ t.launches = s1.launches)))) ∧
    (∀ d, i = .shareLeave d →
      (l.groupOf block = none → ∃ t, exec i s = .next t ∧ Completes s1 t (.cond g) 1 (dstG d) (w64 (-3))) ∧
      (l.groupOf block ≠ none →
        ∃ t, exec i s = .next t ∧ t.mem = s1.mem ∧ t.launches = s1.launches ∧
          Waits s1 t (.cond g) (.leave (dstG d)) s.tick)) ∧
    ∀ d r, i = .shareQuery d r →
      let v := readG s1 (.cond g) r
      let ms := match l.blockCluster block with | some cl => l.members cl v.toNat | none => []
      (f64 v 8 56 ≠ 0 → exec i s = .next (s1.groupFault (.cond g) 0x02 v)) ∧
      (f64 v 8 56 = 0 → ∃ t, exec i s = .next t ∧ t.launches = s1.launches ∧
        Completes s1 t (.cond g) 1 (dstG d)
          (n64 ((ms.map fun m => 2 ^ m.1).sum +
            (match ms.find? (fun m => m.2 = block) with | some m => m.1 | none => 31) * 2 ^ 16)))

/-- R252, R253: `phase.comm` in a computation step and `phase.comp` in a communication step leave the conductor
waiting for the next step, in the other they take 0x02; `phase.xfer` in a computation step keeps its transfer,
with its clock, for the next communication step.
No step starts during a pre-emption: the model's reading (log 54). -/
def Obligations.PhasesEnd : Prop :=
  (∀ (comm : Bool) (i : Instr) (s s1 : State) (g : Nat) (l : Launch), i = (if comm then .phaseComm else .phaseComp) →
    GroupTurn i s (.cond g) s1 → Unwaiting s1 (.cond g) → s1.launch? (s1.gang g).launch = some l →
    ((l.step % 2 = 0 ↔ comm = true) →
      ∃ t, exec i s = .next t ∧ t.mem = s1.mem ∧ Waits s1 t (.cond g) .phase s.tick) ∧
    (¬ (l.step % 2 = 0 ↔ comm = true) → exec i s = .next (s1.groupFault (.cond g) 0x02 (firstWord i)))) ∧
  ∀ (p : Fin 192) (at_ : W32) (s s1 : State) (g : Nat) (l : Launch), GroupTurn (.phaseXfer p at_) s (.cond g) s1 →
    Unwaiting s1 (.cond g) → s1.launch? (s1.gang g).launch = some l →
    let b := blockAt s1 g p.val 8
    let core := gangCore g
    let x : Site := { core := core, launch := (s1.gang g).launch, block := (s1.gang g).block,
                      scratch := (s1.gang g).scratch, level := s1.levelOf (.cond g) }
    (l.step % 2 = 1 →
      exec (.phaseXfer p at_) s = .next (s1.groupFault (.cond g) 0x02 (firstWord (.phaseXfer p at_)))) ∧
    (l.step % 2 = 0 → p.val + 8 ≤ (s1.kernel g).groupRegs → (copyKind b = 0 ∨ copyKind b = 2) → copyBadReg b = none →
      (∀ e ∈ copyAddresses b, e.1 % e.2 = 0) → s1.outsideWindow x (copyChecked b) = none →
      ((s1.core core).xfers.filter fun y => y.launch = (s1.gang g).launch).length < 16 →
      ∃ t y, exec (.phaseXfer p at_) s = .next t ∧ t.mem = s1.mem ∧ Completes s1 t (.cond g) 2 .none 0 ∧
        (t.core core).xfers = (s1.core core).xfers ++ [y] ∧ y.at_ = at_.toNat ∧ y.block = b ∧ y.site = x)

/-- R94, R95: `quote.req` gives the codes of its checks in their order, else the next id, with an entry in state
0 of the class asked behind the others and its walk queued.
What the record needs is read as log 63 says. -/
def Obligations.QuoteRequests : Prop :=
  ∀ (d : GDst) (p : Fin 192) (s s1 : State) (a : Agent), GroupTurn (.quoteReq d p) s a s1 → Unwaiting s1 a →
    let r (j : Nat) : W64 := (s1.ctx a).reg (p.val + j)
    let w := r 2
    let asid := s1.asidOf a
    let gives (v : W64) : Prop := ∃ t, exec (.quoteReq d p) s = .next t ∧ t.mem = s1.mem ∧ t.quotes = s1.quotes ∧
      Completes s1 t a 1 (dstG d) v
    (f64 w 18 14 ≠ 0 ∨ 5500000 < f64 w 32 32 → exec (.quoteReq d p) s = .next (s1.groupFault a 0x02 w)) ∧
    (f64 w 18 14 = 0 → f64 w 32 32 ≤ 5500000 →
      ((r 0).toNat % 64 ≠ 0 → gives (w64 (-6))) ∧
      ((r 0).toNat % 64 = 0 →
        ((r 1).toNat % 64 ≠ 0 ∨ s1.writableUnder asid (r 1).toNat (s1.levelOf a = .u) = false → gives (w64 (-2))) ∧
        ((r 1).toNat % 64 = 0 → s1.writableUnder asid (r 1).toNat (s1.levelOf a = .u) = true →
          (4096 ≤ (s1.quotes.filter fun q => q.state ≤ 4).length → gives (w64 (-1))) ∧
          ((s1.quotes.filter fun q => q.state ≤ 4).length < 4096 →
            ∃ t q, exec (.quoteReq d p) s = .next t ∧ Completes s1 t a 1 (dstG d) (n64 s1.nextQid) ∧
              t.quotes = s1.quotes ++ [q] ∧ t.walkQueue = s1.walkQueue ++ [s1.nextQid] ∧ q.id = s1.nextQid ∧
              q.state = 0 ∧ q.asid = asid ∧ q.object = (r 0).toNat ∧ q.record = (r 1).toNat ∧
              q.cls = (if b64 w 16 then 1 else 0) ∧
              q.validity = (if f64 w 32 32 = 0 then 55000 else f64 w 32 32) ∧
              q.shape.ext = [f64 w 0 8, f64 w 8 8, f64 (r 3) 0 32, f64 (r 3) 32 32]))))

/-- R90, R94, R96, R97: `quote.acc` and `quote.dec` of an id that is not the requester's give −3; at or after
the deadline the quotation expires, −5 and −4. In state 1 with the pin set pinned, `acc` gives 0 and a launchable
quotation stands in state 3; with a page to pin 1 and 2; in another state −4. `dec` ends one in states 1 to 3.
Results at the deadline are read as log 60 says. -/
def Obligations.QuotesAcceptAndDecline : Prop :=
  ∀ (i : Instr) (d : GDst) (r : GSrc) (s s1 : State) (a : Agent), GroupTurn i s a s1 → Unwaiting s1 a →
    let v := readG s1 a r
    let id := v.toNat
    let asid := s1.asidOf a
    let gives (v : W64) (P : State → Prop) : Prop := ∃ t, exec i s = .next t ∧ Completes s1 t a 1 (dstG d) v ∧ P t
    (i = .quoteAcc d r ∨ i = .quoteDec d r) →
    (f64 v 32 32 ≠ 0 → exec i s = .next (s1.groupFault a 0x02 (firstWord i))) ∧
    (f64 v 32 32 = 0 →
      ((∀ q, ¬ Named s1 asid id q) → gives (w64 (-3)) fun t => t.quotes = s1.quotes ∧ t.mem = s1.mem) ∧
      ∀ q, Named s1 asid id q → q.packets = [] → s1.quote? id = some q →
        let late := 1 ≤ q.state ∧ q.state ≤ 3 ∧ q.deadline ≤ s.tick
        let becomes (n : Nat) (t : State) : Prop := ∃ q', t.quote? id = some q' ∧ q'.state = n
        (i = .quoteAcc d r →
          (late → gives (w64 (-5)) (becomes 7)) ∧
          (¬ late → q.state ≠ 1 → q.state ≠ 7 → gives (w64 (-4)) fun t => t.quotes = s1.quotes ∧ t.mem = s1.mem) ∧
          (¬ late → q.state = 1 → vectorBase s1.dev.ctvb ≠ 0 → s1.dev.satb ≠ 0 → ∀ k, q.kernel = some k →
            ((∀ p ∈ k.pinSet, s1.isPinned asid p = true) → q.cls ≤ 1 → gives 0 (becomes 3)) ∧
            (¬ (∀ p ∈ k.pinSet, s1.isPinned asid p = true) → gives 1 (becomes 2)))) ∧
        (i = .quoteDec d r →
          (late → gives (w64 (-4)) (becomes 7)) ∧
          (¬ late → 1 ≤ q.state → q.state ≤ 3 → gives 0 (becomes 6)) ∧
          (¬ late → (q.state = 0 ∨ 5 ≤ q.state) → gives (w64 (-4)) fun t => t.quotes = s1.quotes ∧ t.mem = s1.mem)))

/-- R98, R100: `quote.actual` gives −3 for an id that is not the requester's, the counted time and energy of a
running launch, the record's figures in state 5, and else 0.
Energy counts U-level work alone: the model's reading (log 19). -/
def Obligations.QuoteActualReads : Prop :=
  ∀ (d : GDst) (r : GSrc) (s s1 : State) (a : Agent) (n : Nat), GroupTurn (.quoteActual d r) s a s1 →
    dstG d = .reg n → n + 1 < 192 →
    let v := readG s1 a r
    let asid := s1.asidOf a
    let gives (lo hi : W64) : Prop := ∃ t, exec (.quoteActual d r) s = .next t ∧ CtxOnly s s1 t a ∧
      (t.ctx a).final n = lo ∧ (t.ctx a).final (n + 1) = hi ∧
      ∀ k, k < 192 → k ≠ n → k ≠ n + 1 → (t.ctx a).final k = (s1.ctx a).final k
    f64 v 32 32 = 0 →
    ((∀ q, ¬ Named s1 asid v.toNat q) → gives (w64 (-3)) 0) ∧
    ∀ q, Named s1 asid v.toNat q →
      (q.state = 4 → ∀ k l, s1.launchOf v.toNat = some (k, l) →
        gives (n64 (((s.tick - l.start) * 10 + 10) / 11))
          (n64 (((if q.cls = 2 then 0 else 2000000) + l.pJ + 455 * q.cores.length * (s.tick - l.start) + 999) / 1000))) ∧
      (q.state = 5 → ∀ x y, s1.readVa q.asid (q.record + 48) 8 = some x → s1.readVa q.asid (q.record + 56) 8 = some y →
        gives (n64 x) (n64 y)) ∧
      (q.state ≠ 4 → q.state ≠ 5 → gives 0 0)

/-- R68, R76: `submit` of a queue of the requester posts one wake event, with the larger index where one is
pending; of another's queue it takes 0x13. `sig.set` and `sig.add` put an update of the 16-byte object in flight
as a release at `.sys`. A reserved field of the entry or of the descriptor that is not zero gives 0x02 (R13).
STVAL of that 0x02 is the model's choice (log 80). -/
def Obligations.SubmitAndSignals : Prop :=
  (∀ (q w : GSrc) (s s1 : State) (a : Agent), GroupTurn (.submit q w) s a s1 →
    let v := readG s1 a q
    let n := f64 v 0 12
    let idx := f64 (readG s1 a w) 0 48
    let entry := s1.dev.qdir + 64 * n
    let mine := (readLE s1.mem (entry + 14) 2).testBit 0 = true ∧ readLE s1.mem (entry + 12) 2 = s1.asidOf a
    let zeros := readLE s1.mem (entry + 7) 1 = 0 ∧ readLE s1.mem (entry + 14) 2 < 32 ∧ readLE s1.mem (entry + 48) 16 = 0
    (f64 v 12 52 ≠ 0 → exec (.submit q w) s = .next (s1.groupFault a 0x02 v)) ∧
    (f64 v 12 52 = 0 → ¬ mine → exec (.submit q w) s = .next (s1.groupFault a 0x13 (n64 n))) ∧
    (f64 v 12 52 = 0 → mine → ¬ zeros → exec (.submit q w) s = .next (s1.groupFault a 0x02 v)) ∧
    (f64 v 12 52 = 0 → mine → zeros → ∃ t, exec (.submit q w) s = .next t ∧ t.mem = s1.mem ∧
      t.ctx a = (s1.advance a 1).ctx a ∧ OthersStand s1 t a ∧
      let wake (i : Nat) : W64 := n64 (i * 65536 + 8192 + 4096 + n)
      ((∀ e ∈ s1.dev.events, ¬ (f64 e 13 3 = 1 ∧ b64 e 12 = true ∧ f64 e 0 12 = n)) →
        t.dev.events = s1.dev.events ++ [wake idx]) ∧
      ((∃ e ∈ s1.dev.events, f64 e 13 3 = 1 ∧ b64 e 12 = true ∧ f64 e 0 12 = n) →
        t.dev.events = s1.dev.events.map fun e =>
          if f64 e 13 3 = 1 ∧ b64 e 12 = true ∧ f64 e 0 12 = n then wake (max (f64 e 16 48) idx) else e))) ∧
  ∀ (add : Bool) (i : Instr) (x y : GSrc) (s s1 s2 : State) (a : Agent) (p : Passed),
    i = (if add then .sigAdd x y else .sigSet x y) → GroupTurn i s a s1 →
    GroupChecked s1 a .d (readG s1 a x) 16 .store false (fun _ => true) s2 p →
    (∀ pa, p.loc = .dev pa → 2 ^ 18 ≤ readLE s2.mem (pa + 8) 8 → exec i s = .next (s2.groupFault a 0x02 p.va)) ∧
    ((∀ pa, p.loc = .dev pa → readLE s2.mem (pa + 8) 8 < 2 ^ 18) →
      ∃ t, exec i s = .next t ∧ t.mem = s2.mem ∧ OthersStand s2 t a ∧ t.ctx a = (s2.advance a 1).ctx a ∧
        Issued s2 t [{ who := a, loc := p.loc, size := 8, op := .sig add (readG s1 a y), acq := false, rel := true,
                       scope := .sys }])

/-- R282–R288: the system words of the Steppe cores: `tlbinv` leaves no translation of its page, ASID or all on
any unit; `asid` sets SASID; `fqpop` gives the next valid record and moves the read index; `eresume` queues its
record's act for the next clock, which marks the record, acted on or not; `msi` posts a vector. Their illegal
operands take 0x02.
STVAL of 0x02 and 0x04 of these words, and the result of `sys.eresume` on a record already answered, are read as logs 41 and 42 say. -/
def Obligations.SteppeWords : Prop :=
  (∀ x y, encodingFault (.sysTlbinv x y 3) .steppe .s 96 192 = some 0x02) ∧
  (∀ (i : Instr) (s s1 : State) (a : Agent), GroupTurn i s a s1 → Unwaiting s1 a →
    let bad : Prop := exec i s = .next (s1.groupFault a 0x02 (firstWord i))
    (∀ x y f, i = .sysTlbinv x y f →
      let va := (readG s1 a x).toNat
      let v := readG s1 a y
      let gone (e : TlbEntry) : Prop :=
        if f = 0 then (e.asid = none ∨ e.asid = some (f64 v 0 16)) ∧ e.base ≤ va ∧ va < e.base + e.bytes
        else if f = 1 then e.asid = some (f64 v 0 16) else True
      (f.toNat < 2 → f64 v 16 48 ≠ 0 → bad) ∧
      ((f.toNat < 2 → f64 v 16 48 = 0) →
        ∃ t, exec i s = .next t ∧ Completes s1 t a 1 .none 0 ∧ ((∀ q ∈ s1.quotes, q.state ≠ 4) → t.mem = s1.mem) ∧
          ∀ u e, e ∈ (t.core u).tlb ↔ e ∈ (s1.core u).tlb ∧ ¬ gone e)) ∧
    (∀ x, i = .sysAsid x →
      let v := readG s1 a x
      (f64 v 16 48 ≠ 0 → bad) ∧
      (f64 v 16 48 = 0 →
        exec i s = .next ((s1.setCtx a { s1.ctx a with sasid := BitVec.ofNat 16 v.toNat }).advance a 1))) ∧
    (∀ d, i = .sysFqpop d → Memory.wf s.mem = true →
      let q := s1.dev.sfqb.toNat
      let read := readLE s.mem (q + 8) 8
      let slot := q + 64 + 64 * (read % max 1 (readLE s.mem (q + 16) 4))
      ((q = 0 ∨ readLE s.mem q 8 = read ∨ readByte s.mem slot = 0) →
        ∃ t, exec i s = .next t ∧ t.mem = s1.mem ∧ Completes s1 t a 1 (dstG d) 0) ∧
      (q ≠ 0 → readLE s.mem q 8 ≠ read → readByte s.mem slot ≠ 0 → q + 16 ≤ s.dev.memBytes →
        4096 ≤ q + 8 ∨ s.dev.booted < 6 →
        ∃ t, exec i s = .next t ∧ Completes s1 t a 1 (dstG d) (n64 slot) ∧ Outside s t (q + 8) 8 ∧
          readLE t.mem (q + 8) 8 = (read + 1) % 2 ^ 64)) ∧
    (∀ x, i = .sysEresume x →
      let pa := (readG s1 a x).toNat
      let q := s1.dev.sfqb.toNat
      let slot := q ≠ 0 ∧ pa % 64 = 0 ∧ q + 64 ≤ pa ∧ pa < q + 64 + 64 * max 1 (readLE s1.mem (q + 16) 4)
      (¬ slot → bad) ∧
      (slot → exec i s =
        .next (State.advance { s1 with dev := { s1.dev with resumes := s1.dev.resumes ++ [pa] } } a 1))) ∧
    ∀ x y, i = .sysMsi x y →
      let core := (readG s1 a x).toNat
      let v := (readG s1 a y).toNat
      ((7 < core ∨ 255 < v) → bad) ∧
      (core ≤ 7 → v ≤ 255 →
        ∃ t, exec i s = .next t ∧ t.mem = s1.mem ∧ Completes s1 t a 1 .none 0 ∧
          t.dev = { s1.dev with msis := s1.dev.msis ++ [(core, v, s.tick)] })) ∧
  ∀ (s : State) (pa : Nat), Memory.wf s.mem = true → pa + 4 ≤ s.dev.memBytes → 4096 ≤ pa ∨ s.dev.booted < 6 →
    let t := s.actResume pa
    let kind := readByte s.mem (pa + 1)
    (readByte t.mem (pa + 3) = 1 ∨ readByte t.mem (pa + 3) = 2) ∧
    ((readByte s.mem (pa + 3) ≠ 0 ∨ kind = 4 ∨ kind = 6) → readByte t.mem (pa + 3) = 2 ∧ Outside s t (pa + 3) 1) ∧
    (¬ (kind = 1 ∧ readLE s.mem (pa + 6) 2 = 0xFFFF) → Outside s t (pa + 3) 1)

/-- R72, R78, R320: the system words of the Saddle cores: `evqpop` takes the oldest deliverable event and its
lock, or gives 0; `qlk` takes a free lock at once or waits in order; `qulk` frees one that it holds; `hbeat`
records the clock, restarts the watchdog, confirms a switch while its window is open and, on core 0, starts the cores
held since a reset; `slot` suspends delivery and waits for the
others.
Effects at once are the model's reading (log 56). -/
def Obligations.SaddleWords : Prop :=
  ∀ (i : Instr) (s s1 : State) (k : Nat), GroupTurn i s (.saddle k) s1 → Unwaiting s1 (.saddle k) →
    let a : Agent := .saddle k
    let held (n : Nat) : Option Nat := afind n s1.dev.locks
    let free (e : W64) : Prop := b64 e 12 = true → held (f64 e 0 12 % 256) = none
    (∀ d, i = .sysEvqpop d →
      ((s1.dev.suspended = true ∨ ∀ e ∈ s1.dev.events, ¬ free e) →
        ∃ t, exec i s = .next t ∧ t.mem = s1.mem ∧ t.dev = s1.dev ∧ Completes s1 t a 1 (dstG d) 0) ∧
      ∀ before e after, s1.dev.suspended = false → s1.dev.events = before ++ e :: after → (∀ x ∈ before, ¬ free x) →
        free e → s1.dev.heldEvents = [] →
        ∃ t, exec i s = .next t ∧ t.mem = s1.mem ∧ Completes s1 t a 1 (dstG d) e ∧ t.dev.events = before ++ after ∧
          (b64 e 12 = true → afind (f64 e 0 12 % 256) t.dev.locks = some k) ∧ (b64 e 12 = false → t.dev.locks = s1.dev.locks)) ∧
    (∀ r, i = .sysQlk r →
      let v := readG s1 a r
      let n := v.toNat
      ((255 < n ∨ held n = some k) → exec i s = .next (s1.groupFault a 0x02 v)) ∧
      (n ≤ 255 → held n = none → (∀ e ∈ s1.dev.lockOrder, e.1 ≠ n) →
        ∃ t, exec i s = .next t ∧ t.mem = s1.mem ∧ Completes s1 t a 1 .none 0 ∧ afind n t.dev.locks = some k ∧
          t.dev.lockOrder = s1.dev.lockOrder) ∧
      (n ≤ 255 → held n ≠ none → held n ≠ some k →
        ∃ t, exec i s = .next t ∧ t.mem = s1.mem ∧ Waits s1 t a (.lock n) s.tick ∧ t.dev.locks = s1.dev.locks ∧
          t.dev.lockOrder = s1.dev.lockOrder ++ [(n, k)])) ∧
    (∀ r, i = .sysQulk r →
      let v := readG s1 a r
      let n := v.toNat
      ((255 < n ∨ held n ≠ some k) → exec i s = .next (s1.groupFault a 0x02 v)) ∧
      (n ≤ 255 → held n = some k → (∀ e ∈ s1.dev.lockOrder, e.1 ≠ n) → s1.dev.mapped.length < 1024 →
        ∃ t, exec i s = .next t ∧ t.mem = s1.mem ∧ Completes s1 t a 1 .none 0 ∧
          t.dev = { s1.dev with locks := adel n s1.dev.locks })) ∧
    (i = .sysHbeat → (s1.ctx a).st ≠ .held →
      let d := s1.dev
      let confirms := d.fslot.getLsbD 3 && match d.windowEnd with | some e => decide (s.tick < e) | none => true
      ∃ t, exec i s = .next t ∧ t.mem = s1.mem ∧ t.ctx a = (s1.advance a 1).ctx a ∧
        t.dev =
          { d with
              fhb := n64 s.tick, watchdog := s.tick, tickBase := s.tick
              fslot := if confirms then d.fslot &&& 0xF7 else d.fslot
              windowEnd := if confirms then none else d.windowEnd
              resuming := if k = 0 ∧ ∃ e ∈ s1.saddles, e.2.st = .held then true else d.resuming } ∧
        ∀ j, j ≠ k →
          let c := s1.ctx (.saddle j)
          t.ctx (.saddle j) =
            if k = 0 ∧ c.st = .held then { c with st := .live, lastIssue := s.tick, from_ := s.tick + 1 } else c) ∧
    ∀ r, i = .sysSlot r →
      let v := readG s1 a r
      let n := v.toNat
      let may := n ≤ 1 ∧ decide (n = 1) ≠ s1.dev.fslot.getLsbD 0 ∧ s1.dev.fslot.getLsbD (1 + n) = false ∧
        s1.dev.fslot.getLsbD 7 = true
      (¬ may → exec i s = .next (s1.groupFault a 0x02 (firstWord i))) ∧
      (may → ∃ t, exec i s = .next t ∧ t.mem = s1.mem ∧ Waits s1 t a (.slot n) s.tick ∧
        t.dev = { s1.dev with suspended := true })

/-- R36, R276: a word that is illegal where it issues takes its encoding fault and has no other effect: on a
conductor, a Steppe or a Saddle thread, on an issue group of lane threads; a word of the other set takes 0x01. A
legal word of a group instruction that reads a register with an uncorrectable error takes 0x10 with the register's
selector and bit 8 in STVAL (R137). STVAL is read as log 22 says; of several such registers the first in operand order
is reported, an order that is the model's reading (log 40). -/
def Obligations.IllegalWordsFault : Prop :=
  ∀ (i : Instr) (s : State), encode i ≠ [] →
    let word := (encode i).headD 0
    (∀ a, s.issue.who = some a → agentKind a ≠ .lane →
      (bit word 31 = true → ∀ c,
        encodingFault i (agentKind a) ((s.settle a).levelOf a) 96 ((s.settle a).groupRegs a) = some c →
        exec i s = .next ((s.settle a).groupFault a c (word.zeroExtend 64))) ∧
      (bit word 31 = true →
        encodingFault i (agentKind a) ((s.settle a).levelOf a) 96 ((s.settle a).groupRegs a) = none → ∀ r,
        (readsOf i).find? (fun k => ((s.settle a).ctx a).bad.contains k) = some r →
        ∃ u : State,
          exec i s = .next (u.groupFaultOf a 0x10 (n64 (0x100 + r)) false) ∧ u.mem = s.mem ∧
          u.gangs = (s.settle a).gangs ∧ u.quotes = s.quotes ∧ u.ctx a = (s.settle a).ctx a) ∧
      (bit word 31 = false → exec i s = .next (s.groupFault a 0x01 (word.zeroExtend 64)))) ∧
    ∀ g t, s.issue.who = some (.lane g t) →
      (bit word 31 = true → exec i s = .next (s.laneFault g s.issue.mask 0x01 (word.zeroExtend 64))) ∧
      (bit word 31 = false → (∀ x y own, i ≠ .route x y own) → (∀ x y z w, i ≠ .accsrc x y z w) → ∀ c,
        let s1 := s.settle (.lane g t)
        encodingFault i .lane .u (s1.kernel g).laneRegs (s1.kernel g).groupRegs = some c →
        exec i s = .next (s1.laneFault g s.issue.mask c (word.zeroExtend 64)))

/-- R276, R277: where a conductor is in no handler and has a handler to go to, its own fault is reported first,
then the oldest parked lane instruction; the reported threads leave SPLANES. Nothing else of the machine
changes.
The order of a debug halt among the sources, and CTVB = 0, are read as log 38 says. -/
def Obligations.TrapsEnter : Prop :=
  ∀ (s : State) (g : Nat) (x : Gang), afind g s.gangs = some x →
    let c := x.cond
    let base : W64 := s.dev.ctvb &&& 0xFFFFFFFFFFFFF000
    let open_ := c.sstat.getLsbD 2 = false ∧ c.st ≠ .held ∧ s.stopping g = false ∧ base ≠ 0
    let gone := decide (c.st = .exited)
    let sepc : W64 := if gone then 0 else c.pc
    let enters (cause : Byte) (v : W64) (mask : W32) (P : Gang → Prop) : Prop :=
      ∃ t, exec (.trapEntry g) s = .next t ∧ t = { s with gangs := t.gangs, free := t.free } ∧
        (∀ h, h ≠ g → t.gang h = s.gang h) ∧
        Entered (s.tick + 1) c (t.gang g).cond .s (cause.zeroExtend 64) v sepc (base + n64 (64 * cause.toNat)) gone ∧
        (t.gang g).slanes = mask ∧ P (t.gang g) ∧
        t.gang g =
          { x with cond := (t.gang g).cond, slanes := (t.gang g).slanes, slpc := (t.gang g).slpc,
                   parked := (t.gang g).parked }
    (¬ open_ → exec (.trapEntry g) s = .next s) ∧
    (open_ → ∀ cause v, c.fault = some (cause, v) → enters cause v 0 fun y => y.parked = x.parked) ∧
    (open_ → c.fault = none → x.debug = false → ∀ before p after, x.parked = before ++ p :: after →
      (∀ q ∈ before, q.mask = 0) → p.mask ≠ 0 → ∀ low : Fin 32, p.mask.getLsbD low.val = true →
      (∀ u : Fin 32, u < low → p.mask.getLsbD u.val = false) →
      enters (x.lane low.val).cause (x.lane low.val).stval p.mask fun y =>
        y.slpc = p.pc ∧ ∀ q, q ∈ y.parked ↔ q ∈ x.parked ∧ q.mask ≠ 0 ∧ q ≠ p) ∧
    (open_ → c.fault = none → x.debug = false → (∀ q ∈ x.parked, q.mask = 0) → exec (.trapEntry g) s = .next s)

/-- R279: `eret` of a conductor restores the level and the PC it saved, an exited one is exited again, and
SSTAT's in-handler bit and mode are cleared; in mode 3 it stays held and a kind 0 record is posted. With threads
reported, or a mode above 4, it takes 0x02. On a Steppe or Saddle thread it restores PL and PC. A lazy binding that
is resolved beyond its 2,200 clk is charged to the operating system (R289). That `eret.lanes` in mode 1 steps the
hardware loops is the model's reading (log 26). -/
def Obligations.HandlersReturn : Prop :=
  (∀ (i : Instr) (lanes : Bool) (s s1 : State) (g : Nat), i = (if lanes then .eretLanes else .eret) →
    GroupTurn i s (.cond g) s1 →
    let c := s1.ctx (.cond g)
    let x := s1.gang g
    let mode := (c.sstat.extractLsb' 4 3).toNat
    let lvl := savedLevel c
    let st : CtxSt := if c.sstat.getLsbD 7 then .exited else .live
    let early := ∀ e ∈ x.stubs, s.tick ≤ e.2 + 2200
    ((4 < mode ∨ lanes = false ∧ x.slanes ≠ 0) → exec i s = .next (s1.groupFault (.cond g) 0x02 (firstWord i))) ∧
    (early → lanes = false → x.slanes = 0 → mode ≤ 4 → mode ≠ 3 →
      ∃ t, exec i s = .next t ∧ t = { s1 with gangs := t.gangs } ∧ (∀ h, h ≠ g → t.gang h = s1.gang h) ∧
        Left c (t.gang g).cond lvl st ∧
        t.gang g = { x with cond := (t.gang g).cond, stubs := (t.gang g).stubs }) ∧
    (early → lanes = false → x.slanes = 0 → mode = 3 →
      ∃ t r, exec i s = .next t ∧ t.mem = s1.mem ∧ t.dev = { s1.dev with records := s1.dev.records ++ [r] } ∧
        r.kind = 0 ∧ r.cause = (c.scause.extractLsb' 0 8).toNat ∧ r.stval = c.stval ∧ r.info = 0x100000000 ∧
        r.pc = c.sepc ∧ r.core = gangCore g ∧ r.asid = s1.asidOf (.cond g) ∧
        (t.gang g).cond.st = .held ∧ (t.gang g).cond.pc = c.sepc ∧ (t.gang g).cond.sstat = c.sstat &&& 0x8B) ∧
    ((∃ e ∈ x.stubs, e.2 + 2200 < s.tick) → mode ≤ 4 → (lanes = false → x.slanes = 0) →
      (lanes = true → mode ≠ 2) → ∀ q, s1.quote? (s1.qidOf g) = some q → q.party = 0 →
      ∃ t, exec i s = .next t ∧ t.quote? q.id = some { q with party := 2, voided := true }) ∧
    (early → lanes = true → mode ≤ 4 →
      (mode = 2 → ∀ u : Fin 32, x.slanes.getLsbD u.val = true →
        (laneOf s1 g u).cdep ≠ 0 ∧ (laneOf s1 g u).stack ≠ []) →
      ∃ t, exec i s = .next t ∧ t.mem = s1.mem ∧ Left c (t.gang g).cond lvl st ∧ (t.gang g).slanes = 0 ∧
        (∀ u : Fin 32, laneOf t g u =
          if x.slanes.getLsbD u.val then
            resumedLane mode ((s1.kernel g).unitLength (laneOf s1 g u).pc.toNat) (laneOf s1 g u)
          else laneOf s1 g u) ∧
        (mode = 3 → x.slanes ≠ 0 → ∃ r, t.dev.records = s1.dev.records ++ [r] ∧ r.kind = 0 ∧
          r.info = x.slanes.zeroExtend 64 ∧ r.pc = x.slpc.zeroExtend 64) ∧
        (mode ≠ 3 → t.dev = s1.dev))) ∧
  ∀ (i : Instr) (s s1 : State) (a : Agent), (i = .eret ∨ i = .eretLanes) → GroupTurn i s a s1 → agentKind a ≠ .cond →
    ∃ t, exec i s = .next t ∧ t = s1.setCtx a (t.ctx a) ∧
      Left (s1.ctx a) (t.ctx a) (if agentKind a = .saddle then .f else savedLevel (s1.ctx a)) (s1.ctx a).st

/-- R276, R278, R280, R281: `trap` leaves its conductor at the word with cause 0x14 and the code; a Steppe or
Saddle thread traps at once to its own vector; inside a handler a conductor's gang stops with a kind 5 record, a
Steppe thread halts and the management controller is told. A Steppe thread takes its lowest pending vector at an
instruction boundary. -/
def Sys2Proof.Claims.TrapsOfContexts : Prop :=
  (∀ (code : BitVec 8) (s s1 : State) (a : Agent), GroupTurn (.groupTrap code) s a s1 →
    let c := s1.ctx a
    let v : W64 := code.zeroExtend 64
    (∀ g, a = .cond g → c.sstat.getLsbD 2 = false →
      ∃ t, exec (.groupTrap code) s = .next t ∧ t.ctx a = { c with fault := some (0x14, v) } ∧
        t.gang g =
          { s1.gang g with
              cond := t.ctx a, stubs := (s1.gang g).stubs ++ (if code = 0x21 then [(0, s.tick)] else []) } ∧
        (code = 0x21 → t.mem = s1.mem ∧ t.quotes = s1.quotes)) ∧
    (∀ g, a = .cond g → c.sstat.getLsbD 2 = true →
      ∃ t r, exec (.groupTrap code) s = .next t ∧ (t.gang g).cond.st = .held ∧ r ∈ t.dev.records ∧ r.kind = 5 ∧
        r.cause = 0x14 ∧ r.stval = v ∧ r.pc = c.sepc ∧ r.core = gangCore g ∧ r.part = gangPart g ∧ r.slot = gangSlot g ∧
        ∀ u : Fin 32, (s1.gang g).glive.getLsbD u.val = true → (laneOf t g u).held = true) ∧
    (∀ n h, a = .steppe n h → c.sstat.getLsbD 2 = false → vectorBase c.stvb ≠ 0 →
      ∃ t, exec (.groupTrap code) s = .next t ∧ t = s1.setCtx a (t.ctx a) ∧
        Entered s.tick c (t.ctx a) .s 0x14 v c.pc (vectorBase c.stvb + 64 * 0x14) false ∧ (t.ctx a).sstat.getLsbD 3 = false) ∧
    (∀ n h, a = .steppe n h → c.sstat.getLsbD 2 = true →
      ∃ t, exec (.groupTrap code) s = .next t ∧ t.ctx a = { c with st := .halted } ∧
        t.dev.notices = s1.dev.notices ++ [(n, h)] ∧
        (s1.dev.frozen = false →
          ∃ e ∈ t.dev.box, e.kind = 0x09 ∧ e.io = n ∧ e.tick = s.tick ∧ e.detail = c.scause)) ∧
    (∀ k, a = .saddle k → c.sstat.getLsbD 2 = false → vectorBase s1.dev.ftvb ≠ 0 →
      ∃ t, exec (.groupTrap code) s = .next t ∧ t = s1.setCtx a (t.ctx a) ∧
        Entered s.tick c (t.ctx a) .f 0x14 v c.pc (vectorBase s1.dev.ftvb + 64 * 0x14) false)) ∧
  ∀ (s : State) (core thr n : Nat), core < 8 → thr < 4 →
    let a : Agent := .steppe core thr
    let c := s.ctx a
    let file := s.dev.files.getD core 0
    let b := if c.wait.map Wait.kind = some .idle then (s.advance a 1).ctx a else c
    c.st = .live → c.from_ ≤ s.tick → c.sstat.getLsbD 3 = true → c.sstat.getLsbD 2 = false → vectorBase c.stvb ≠ 0 →
    n < 256 → n % 4 = thr → file.getLsbD n = true → (∀ m, m < n → m % 4 = thr → file.getLsbD m = false) →
    ∃ t, exec (.steppeInterrupt core thr) s = .next t ∧ t.mem = s.mem ∧
      Entered s.tick b (t.ctx a) .s (n64 (2 ^ 63 + n)) 0 b.pc (vectorBase c.stvb + 0x800) false ∧
      (t.ctx a).sstat.getLsbD 3 = false ∧
      ∀ m, m < 256 → (t.dev.files.getD core 0).getLsbD m = (file.getLsbD m && decide (m ≠ n))

/-- R137, R208, R212, R241–R246: results whose latency has ended are written, a register and the flags end as
they would have; a load's value reaches the results that wait on it; a store puts its bytes at its place; the
head request of a home has its read-modify-write performed and its old value becomes its reply; the reply
reaches its destination. A `sig` writes its signal's new value there, and where that changed it posts the vector and
the event that the descriptor asks for (R75, R76); which queue the event names is log 80. No word that is read holds an uncorrectable error (R201).
That an access is performed once on one memory is the model's reading (log 14), and so is that the loads of one
lane instruction land together (log 78); reads of host and peer memory are free (log 3). -/
def Obligations.AccessesPerformed : Prop :=
  (∀ (s : State) (a : Agent),
    ∃ t, exec (.registerWriteback a) s = .next t ∧ t.mem = s.mem ∧ t.flight = s.flight ∧
      (∀ p ∈ pendsOf t a, ∀ d, p.due = some d → s.tick < d) ∧
      (∀ g u, a = .lane g u → ∀ v : Fin 32, (∀ r, r < 96 → (laneOf t g v).final r = (laneOf s g v).final r) ∧
        ffls (laneOf t g v) = ffls (laneOf s g v)) ∧
      (agentKind a ≠ .lane → ∀ r, r < 192 → (t.ctx a).final r = (s.ctx a).final r)) ∧
  (∀ (s : State) (f : Flight) (z : LSize) (v : Nat), s.flight.find? (fun x => x.id = f.id) = some f → f.op = .load z →
    f.reply = none → s.depsMet f = true → LoadReads s f v →
    (s.cacheHit f = true ∨ s.flawedLoc f.loc f.size = false) →
    let done : Flight := { f with reply := some (extendLoad z v), high := n64 (v / 2 ^ 64) }
    let mate (x : Flight) : Prop := x ∈ s.flight ∧ x.id ≠ f.id ∧ x.batch = f.batch ∧ x.op.isLoad = true
    ((∃ x, mate x ∧ x.reply = none) →
      ∃ t, exec (.loadReturn f.id false) s = .next t ∧ t.mem = s.mem ∧
        t.flight = s.flight.map (fun x => if x.id = f.id then done else x) ∧ ∀ a, pendsOf t a = pendsOf s a) ∧
    (s.exists_ f.who = true → (s.flight.map Flight.id).Nodup →
      (∀ x, mate x →
        x.reply ≠ none ∧ s.exists_ x.who = true ∧ agentKind x.who = .lane ∧ x.who ≠ f.who ∧
          ∀ y, mate y → y.who = x.who → y = x) →
      ∃ t, exec (.loadReturn f.id false) s = .next t ∧ t.mem = s.mem ∧
        t.flight = s.flight.filter (fun x => !(decide (x.batch = f.batch) && x.op.isLoad)) ∧
        ∀ x, (x = done ∨ mate x) → pendsOf t x.who = (pendsOf s x.who).map fun p =>
          if p.src = some x.id then
            { p with due := some s.tick, val := if p.hi then x.high else x.reply.getD 0 }
          else p)) ∧
  (∀ (s : State) (f : Flight) (v : BitVec 128) (k : Nat), s.flight.find? (fun x => x.id = f.id) = some f →
    f.op = .store v → s.depsMet f = true → f.loc.key = some k → Writable s f.loc f.size → Memory.wf s.mem = true →
    ∃ t, exec (.storePerformed f.id) s = .next t ∧ Outside s t k f.size ∧
      readLE t.mem k f.size = v.toNat % 256 ^ f.size ∧
      t.flight = s.flight.filter (fun x => decide (x.id ≠ f.id))) ∧
  (∀ (s : State) (f : Flight) (op : Aop) (z : ASize) (b c : W64) (k cluster old : Nat),
    s.flight.find? (fun x => x.id = f.id) = some f → f.op = .atom op z b c → f.reply = none → s.depsMet f = true →
    s.homeCluster f.loc = some cluster → f.stream < 32 → s.flawedLoc f.loc f.size = false →
    (∀ x ∈ s.flight, x.op.isAtom = true → x.reply = none → s.depsMet x = true → s.homeCluster x.loc = some cluster →
      x = f) →
    f.loc.key = some k → Writable s f.loc (aSizeBytes z) → Reads s f.loc (aSizeBytes z) old →
    Memory.wf s.mem = true →
    ∃ t, exec (.serviceGangStep cluster) s = .next t ∧ Outside s t k (aSizeBytes z) ∧
      (let w := 8 * aSizeBytes z
       readLE t.mem k (aSizeBytes z) = atomNew op w old (b.toNat % 2 ^ w) (c.toNat % 2 ^ w) % 2 ^ w) ∧
      t.flight.find? (fun x => x.id = f.id) = some { f with reply := some (n64 old) } ∧
      t.flight.filter (fun x => decide (x.id ≠ f.id)) = s.flight.filter (fun x => decide (x.id ≠ f.id))) ∧
  (∀ (s : State) (f : Flight) (add : Bool) (v : W64) (pa cluster : Nat),
    s.flight.find? (fun x => x.id = f.id) = some f → f.op = .sig add v → f.reply = none → s.depsMet f = true →
    f.loc = .dev pa → s.homeCluster f.loc = some cluster → f.stream < 32 → s.flawedLoc f.loc f.size = false →
    (∀ x ∈ s.flight, x.op.isAtom = true → x.reply = none → s.depsMet x = true → s.homeCluster x.loc = some cluster →
      x = f) →
    Writable s (.dev pa) 8 → Memory.wf s.mem = true →
    let old := n64 (readLE s.mem pa 8)
    let new := if add = true then old + v else v
    let d := n64 (readLE s.mem (pa + 8) 8)
    ∃ t, exec (.serviceGangStep cluster) s = .next t ∧ Outside s t pa 8 ∧ n64 (readLE t.mem pa 8) = new ∧
      t.flight = s.flight.filter (fun x => decide (x.id ≠ f.id)) ∧
      (t.dev.msis = s.dev.msis ++
        if new ≠ old ∧ b64 d 0 = true ∧ (b64 d 16 = false ∨ new.toInt ≤ 0) then [(f64 d 1 3, f64 d 8 8, s.tick)] else []) ∧
      t.dev.events = s.dev.events ++
        if new ≠ old ∧ b64 d 17 = true ∧ ∀ e ∈ s.dev.events, ¬ (f64 e 13 3 = 2 ∧ f64 e 16 48 = pa % 2 ^ 48) then
          [eventOf 2 pa (t.barrierQueues pa).head?]
        else []) ∧
  ∀ (s : State) (f : Flight) (v : W64), s.flight.find? (fun x => x.id = f.id) = some f → f.op.isAtom = true →
    f.reply = some v →
    s.exists_ f.who = true →
    ∃ t, exec (.atomicReply f.id) s = .next t ∧ t.mem = s.mem ∧
      t.flight = s.flight.filter (fun x => decide (x.id ≠ f.id)) ∧
      pendsOf t f.who = (pendsOf s f.who).map fun p =>
        if p.src = some f.id then { p with due := some s.tick, val := if p.hi then 0 else v } else p

/-- R112, R136, R182, R197, R249, R251, R252: a `waita` ends with the word once its test holds, else at its
deadline, read last as the clock of its deadline ends, else goes on, its translation kept (R207); a parked barrier wait at its deadline gives 1; the free baton goes to the conductor
that asked in an earlier clock, and a handler's request sets a user holder aside; `share.leave` gives its slot once nothing moves
through it; an `idle` thread resumes on its condition; the next step starts 32 clk after the last ended.
Waits across a trap are read as log 39 says. That a reading in `.d` translates its address anew is log 84, and what
`share.leave` waits for is log 51: the model's readings. -/
def Obligations.WaitsEnd : Prop :=
  (∀ (s s2 : State) (a : Agent) (w : Wait) (loc place : Loc) (dotD : Bool) (expected va : W64) (d : Dst) (eq : Bool)
      (scope : Scope) (v : Nat), s.waitOf a = some w → w.kind = .addr loc dotD expected d eq scope va →
    s.mayRead a loc = true → s.waitPlace a loc dotD va = (s2, .ok place) → s2.flawedLoc place 8 = false →
    Reads s2 place 8 v →
    (dotD = false ∨ (s.tick - w.since) % 64 = 0 →
      (decide (n64 v = expected) = eq →
        ∃ t, exec (.waitaReread a) s = .next t ∧ t.mem = s2.mem ∧ AddressEnded s t a d (n64 v)) ∧
      (decide (n64 v = expected) ≠ eq → exec (.waitaReread a) s = .next s2)) ∧
    (w.deadline ≤ s.tick → (s.finalRead a).mem = s2.mem ∧ AddressEnded s (s.finalRead a) a d (n64 v)) ∧
    (w.deadline < s.tick → ∃ t, exec (.waitaTimeout a) s = .next t ∧ t.mem = s2.mem ∧ AddressEnded s t a d (n64 v)) ∧
    (s.tick ≤ w.deadline → exec (.waitaTimeout a) s = .next s)) ∧
  (∀ (s : State) (g : Nat) (w : Wait) (b : Fin 96) (phase : Bool) (d : Dst), (s.gang g).cond.wait = some w →
    (w.kind = .bar b phase d ∨ w.kind = .take b d) → s.frozen g = false →
    (w.deadline ≤ s.tick → ∃ t, exec (.barWaitTimeout g) s = .next t ∧ t.mem = s.mem ∧ Ended s t (.cond g) 1 d 1) ∧
    (s.tick < w.deadline → exec (.barWaitTimeout g) s = .next s)) ∧
  (∀ (s : State) (core g : Nat) (x : Gang), Ordered s → afind g s.gangs = some x → gangCore g = core →
    x.cond.wait.map Wait.kind = some .baton → (∀ w, x.cond.wait = some w → w.since < s.tick) →
    (∀ h y, (h, y) ∈ s.gangs → gangCore h = core → y.cond.wait.map Wait.kind = some .baton → h = g) →
    let b := (s.core core).baton
    (x.cond.level = .u → b.holder = none →
      ∃ t, exec (.batonGrant core) s = .next t ∧ t.mem = s.mem ∧ Ended s t (.cond g) 1 .none 0 ∧
        (t.core core).baton = { holder := some g, super := false, aside := b.aside }) ∧
    (x.cond.level ≠ .u → (b.holder = none ∨ b.super = false) →
      ∃ t, exec (.batonGrant core) s = .next t ∧ t.mem = s.mem ∧ Ended s t (.cond g) 1 .none 0 ∧
        (t.core core).baton = { holder := some g, super := true, aside := b.holder })) ∧
  (∀ (s : State) (g cl grp slot : Nat) (l : Launch) (ms : List (Nat × Nat)) (w : Wait) (d : Dst),
    (s.gang g).cond.wait = some w → w.kind = .leave d → afind (s.gang g).launch s.launches = some l →
    l.groupOf (s.gang g).block = some (cl, grp, slot, ms) →
    ((∃ f ∈ s.flight, f.reply = none ∧ f.via = some ((s.gang g).launch, cl, grp, slot)) →
      exec (.shareLeaveRevoke g) s = .next s) ∧
    ((∀ f ∈ s.flight, f.reply = none → f.via ≠ some ((s.gang g).launch, cl, grp, slot)) →
    NoneShared s (s.gang g).launch →
    ∃ t l2, exec (.shareLeaveRevoke g) s = .next t ∧ t.mem = s.mem ∧ Ended s t (.cond g) 1 d (n64 slot) ∧
      afind (s.gang g).launch t.launches = some l2 ∧
      (∀ ns, (cl, grp, ns) ∈ l2.groups → ns = ms.filter fun m => decide (m.1 ≠ slot)) ∧
      ∀ c i ns, ¬(c = cl ∧ i = grp) → ((c, i, ns) ∈ l2.groups ↔ (c, i, ns) ∈ l.groups))) ∧
  (∀ (s : State) (a : Agent), (s.ctx a).wait.map Wait.kind = some .idle → agentKind a ≠ .lane →
    (s.wakes a = true → ∃ t, exec (.idleWake a) s = .next t ∧ t.mem = s.mem ∧ Ended s t a 1 .none 0) ∧
    (s.wakes a = false → exec (.idleWake a) s = .next s)) ∧
  ∀ (s : State) (n ended : Nat) (l : Launch), Ordered s → afind n s.launches = some l → l.stepEnded = some ended →
    s.stepOver n l = true → l.phase = .running →
    (s.tick < ended + 32 → exec (.phaseStepStart n) s = .next s) ∧
    (ended + 32 ≤ s.tick →
      ∃ t, exec (.phaseStepStart n) s = .next t ∧ t.mem = s.mem ∧
        afind n t.launches = some { l with step := l.step + 1, stepStart := s.tick, stepEnded := none } ∧
        ∀ g x, afind g s.gangs = some x →
          if x.launch = n ∧ x.cond.wait.map Wait.kind = some .phase then Ended s t (.cond g) 1 .none 0
          else t.gang g = x)

/-- R213, R215–R218, R223, R253: the engine starts the first command of a launch; a granule's copy, fill or
integer add takes effect and the command leaves with its locks, its completion word written; at an address out of
its window it stops with a kind 1 record and keeps its place; a transfer enters the engine at its clock; a stream
claims its next entry in dq with the elements' values, or stops with a kind 2 record. No word that is moved holds an
uncorrectable error (R201); the turns of launches that share the engine are read as log 45 says.
Lateness of a transfer is read as log 46 says. -/
def Obligations.EnginesRun : Prop :=
  (∀ (s : State) (core n : Nat) (c : CopyCmd), (s.core core).copies.find? (fun y => y.launch = n) = some c →
    c.site.core = core → c.running = false → c.stopped = false → s.unperformed c.after = [] →
    ∃ t, exec (.copyStart core n) s = .next t ∧ t.mem = s.mem ∧
      (t.core core).copies.find? (fun y => y.launch = n) = some { c with running := true } ∧
      (t.core core).locks = (s.core core).locks) ∧
  (∀ (s : State) (core n : Nat) (c : CopyCmd) (l : Launch), CopyAtHead s core n c l → c.xfer = false →
    let b := c.block
    let len := copyLength b
    let src := sliceKey core (c.site.scratch + copySrc b)
    let dst := sliceKey core (c.site.scratch + copyDst b)
    let at_ := sliceKey core (c.site.scratch + copyDoneAt b)
    Memory.wf s.mem = true → Unwatched s core → s.flawed = [] →
    (c.done = 0 → 0 < len → len ≤ 64 → copyCompletes b = false → copyToQueue b = false →
      copySrcSpace b = .s → copyDstSpace b = .s → copyKind b < 3 → (copyKind b = 2 → copyType b = 2 ∧ len % 4 = 0) →
      (copyKind b ≠ 1 → InScratch l c.site (copySrc b) len) → InScratch l c.site (copyDst b) len →
      ∃ t, exec (.copyCompletion core n) s = .next t ∧ Outside s t dst len ∧ CopyGone s t core c ∧
        (copyKind b = 0 → readBytes t.mem dst len = readBytes s.mem src len) ∧
        (copyKind b = 1 → ∀ j, j < len → readByte t.mem (dst + j) = (leBytes 8 (b.getD 1 0).toNat).getD (j % 8) 0) ∧
        (copyKind b = 2 → ∀ j, 4 * j < len →
          readLE t.mem (dst + 4 * j) 4 = (readLE s.mem (dst + 4 * j) 4 + readLE s.mem (src + 4 * j) 4) % 2 ^ 32)) ∧
    (c.done = copyGranules b → copyCompletes b = true → copyDoneSpace b = .s → InScratch l c.site (copyDoneAt b) 8 →
      ∃ t, exec (.copyCompletion core n) s = .next t ∧ Outside s t at_ 8 ∧ CopyGone s t core c ∧
        n64 (readLE t.mem at_ 8) = b.getD 6 0 + if copyAdds b then n64 (readLE s.mem at_ 8) else 0) ∧
    (c.done = 0 → 0 < len → copyKind b = 0 → copySrcSpace b = .s → l.kernel.scratch < copySrc b + min 64 len →
      ∃ t r, exec (.copyStop core n none) s = .next t ∧ t.dev.records = s.dev.records ++ [r] ∧ r.kind = 1 ∧
        r.cause = 0x0A ∧ r.stval = n64 (copySrc b) ∧ r.info = 0 ∧ r.core = core ∧ r.part = c.part ∧
        r.pc = n64 c.seq ∧ (c.site.level ≠ .u → t.mem = s.mem) ∧ (t.core core).locks = (s.core core).locks ∧
        (t.core core).copies.find? (fun y => y.launch = n) = some { c with stopped := true, due := 0, noted := c.gang })) ∧
  (∀ (s : State) (core : Nat) (x : Xfer) (l : Launch), (s.core core).xfers = [x] → x.site.core = core →
    afind x.launch s.launches = some l → l.step % 2 = 1 →
    (s.tick < l.stepStart + x.at_ → exec (.xferStart core) s = .next s) ∧
    (l.stepStart + x.at_ ≤ s.tick → ((s.core core).copies.filter fun k => k.part = x.part).length < 16 →
      ((s.core core).locks.filter fun k => k.freed = none).length + (copyLocks x.block).length ≤ 64 →
      ∃ t c, exec (.xferStart core) s = .next t ∧ t.mem = s.mem ∧ (t.core core).xfers = [] ∧
        (t.core core).copies = (s.core core).copies ++ [c] ∧
        (t.core core).locks.length = (s.core core).locks.length + (copyLocks x.block).length ∧
        c.block = x.block ∧ c.site = x.site ∧ c.part = x.part ∧ c.gang = x.gang ∧ c.xfer = true ∧ c.running = false)) ∧
  ∀ (s : State) (g : Nat) (k : Fin 4) (d : Stream) (l : Launch), StreamAt s g k d l →
    let core := gangCore g
    let x := s.gang g
    let w : Site := { core := core, launch := x.launch, block := x.block, scratch := x.scratch, level := d.level }
    let key (i : Nat) := x.dq.slotKey core (x.dq.first + x.dq.entries.length) i
    (x.dqRoom = true → x.dq.wide = true → Memory.wf s.mem = true → s.flawed = [] → Unwatched s core →
      x.dq.slotAt (x.dq.first + x.dq.entries.length) 0 + 256 ≤ 0xFF0000 →
      (∀ i, i < 32 → 32 * d.next + i < d.elements → InScratch l w (d.address (32 * d.next + i)).toNat d.size) →
      ∃ t, exec (.streamEntryClaim g k) s = .next t ∧ Outside s t (key 0) 256 ∧
        (∀ i, i < 32 →
          n64 (readLE t.mem (key i) 8) =
            if 32 * d.next + i < d.elements then
              n64 (readLE s.mem (sliceKey core (x.scratch + (d.address (32 * d.next + i)).toNat)) d.size)
            else 0) ∧
        (t.gang g).dq.first + (t.gang g).dq.entries.length = x.dq.first + x.dq.entries.length + 1 ∧
        (t.gang g).sd[k.val] = { d with next := d.next + 1, running := decide (d.next + 1 < d.entries) } ∧
        (t.core core).locks =
          if d.next + 1 < d.entries then (s.core core).locks
          else locksFreed s.tick (.stream g k) (s.core core).locks) ∧
    let first := (d.address (32 * d.next)).toNat
    (l.kernel.scratch < first + d.size →
      ∃ t r, exec (.streamStop g k none) s = .next t ∧ t.dev.records = s.dev.records ++ [r] ∧ r.kind = 2 ∧
        r.cause = 0x0A ∧ r.stval = n64 first ∧ r.info = n64 d.next ∧ r.core = core ∧ r.part = gangPart g ∧
        r.slot = gangSlot g ∧ r.sd = k.val ∧ (t.gang g).sd[k.val] = { d with stopped := true, noted := g })

/-- R183, R188–R191, R194–R196: the engine starts its foremost operation with 12 clk of fill; a native step makes
each output of a dense mma the rounded sum of the old value and the exact sum of its products, or a NaN, zeroes a
tile, drains it or loads it; after the last step and 8 clk the operation leaves with status 1; a stop marks its
unfinished tiles; a revoked window stops it with a kind 3 record; an empty sparsity queue ends it after 1 ms.
The retries and corrected errors of a step are free values (log 4), and no word it reads or writes holds an
uncorrectable error; what stops invalidate is read as log 50 says, and the stop of a load of tiles by an uncorrectable
error, with status bit 2, as log 77 says. -/
def Obligations.MatrixRuns : Prop :=
  (∀ (s : State) (core : Nat) (o : MxOp), Foremost s core o → o.running = false → o.stopped = false →
    s.unperformed o.after = [] →
    ∃ t, exec (.matrixOpStart core) s = .next t ∧ t.mem = s.mem ∧
      { o with running := true, ready := s.tick + 12 } ∈ (t.core core).mx) ∧
  (∀ (s : State) (core : Nat) (o : MxOp), MxRunning s core o → s.flawed = [] → o.done < o.total → o.ready + o.stepClocks ≤ s.tick →
    let b := o.block
    let p := o.place
    let c := s.core core
    let d := mxSource b 3
    let at_ (r k : Nat) := sliceKey core (o.site.scratch + d.element (64 * p.mi + r) (64 * p.nj + k))
    let same (t : State) := ∀ n r k, n ≠ p.tile → r < 64 → k < 64 → (t.core core).accBits n r k = c.accBits n r k
    (mxKind b = 0 → (mxKeep b = true → p.tile ∉ c.invalid) →
      ∃ t, exec (.matrixNativeStep core) s = .next t ∧ t.mem = s.mem ∧ MxStepped s t core o ∧ same t ∧
        ∀ r k, r < 64 → k < 64 →
          let i := 64 * p.mi + r
          let j := 64 * p.nj + k
          let old := if p.step = 0 ∧ mxKeep b = false then 0 else c.accBits p.tile r k
          (AllFinite s o i j p.step → ∃ v e, ExactSum s o i j p.step v e ∧
            (t.core core).accBits p.tile r k =
              BitVec.ofNat 32 (fmtF32.add .rne (fmtF32.value old.toNat) (.fin (decide (v < 0)) v.natAbs e)).1) ∧
          ((∃ q, q < 32 ∧ ((s.mxA o i q p.step).isNaN = true ∨ (s.mxB o j q p.step).isNaN = true)) →
            (t.core core).accBits p.tile r k = 0x7FC00000)) ∧
    (mxKind b = 2 →
      ∃ t, exec (.matrixNativeStep core) s = .next t ∧ t.mem = s.mem ∧ MxStepped s t core o ∧ same t ∧
        p.tile ∉ (t.core core).invalid ∧ ∀ r k, r < 64 → k < 64 → (t.core core).accBits p.tile r k = 0) ∧
    (∀ l, (mxKind b = 3 ∨ mxKind b = 4) → d.space = .s → afind o.site.launch s.launches = some l →
      (∀ r, r < 64 → InScratch l o.site (d.element (64 * p.mi + r) (64 * p.nj)) 256) →
      (mxKind b = 4 →
        ∃ t, exec (.matrixNativeStep core) s = .next t ∧ t.mem = s.mem ∧ MxStepped s t core o ∧ same t ∧
          p.tile ∉ (t.core core).invalid ∧
          ∀ r k, r < 64 → k < 64 → (t.core core).accBits p.tile r k = BitVec.ofNat 32 (readLE s.mem (at_ r k) 4)) ∧
      (mxKind b = 3 → p.tile ∉ c.invalid → Unwatched s core → Memory.wf s.mem = true →
        (∀ r k u v, r < 64 → k < 64 → u < 64 → v < 64 → (r, k) ≠ (u, v) → at_ r k + 4 ≤ at_ u v ∨ at_ u v + 4 ≤ at_ r k) →
        ∃ t, exec (.matrixNativeStep core) s = .next t ∧ MxStepped s t core o ∧
          (t.core core).acc = c.acc ∧
          (∀ r k, r < 64 → k < 64 → readLE t.mem (at_ r k) 4 = (c.accBits p.tile r k).toNat) ∧
          ∀ a, (∀ r k, r < 64 → k < 64 → a < at_ r k ∨ at_ r k + 4 ≤ a) → readByte t.mem a = readByte s.mem a))) ∧
  (∀ (s : State) (core : Nat) (o : MxOp), MxRunning s core o → Memory.wf s.mem = true →
    (o.total ≤ o.done → o.ready + 8 ≤ s.tick →
      ∃ t, exec (.matrixOpComplete core) s = .next t ∧ MxGone s t core o ∧ MxStatus t core o 0 0 1 ∧
        (t.core core).acc = (s.core core).acc ∧ (t.core core).invalid = (s.core core).invalid) ∧
    (∀ bit, o.done < o.total → Charged s o.launch →
      (mxKind o.block ≤ 1 ∨ mxKind o.block = 3 ∧ bit = 2 ∨ mxKind o.block = 4 ∧ bit = 0) →
      ∃ t, exec (.matrixErrorStop core bit) s = .next t ∧ MxGone s t core o ∧
        MxStatus t core o 0x10 o.done (2 ^ (2 + bit.val)) ∧ (t.core core).acc = (s.core core).acc ∧
        ∀ i, i < mxTiles o.block → o.tileDone i = false → mxFirst o.block + i ∈ (t.core core).invalid) ∧
    (∀ a, o.done < o.total → s.mxRevoked o = some a →
      ∃ t r, exec (.matrixWindowFault core) s = .next t ∧ t.dev.records = s.dev.records ++ [r] ∧ r.kind = 3 ∧
        r.cause = 0x0A ∧ r.stval = n64 a ∧ r.info = n64 o.done ∧ r.core = core ∧ r.pc = n64 o.seq ∧
        { o with stopped := true } ∈ (t.core core).mx ∧ (t.core core).locks = (s.core core).locks ∧
        (Charged s o.launch → MxStatus t core o 0x0A o.done 0x40)) ∧
    (mxKind o.block = 1 → o.done < o.total → (s.core core).sparse.getD (mxQueue o.block) [] = [] →
      (s.tick < o.ready + 1100000 → exec (.sparsityQueueTimeout core) s = .next s) ∧
      (o.ready + 1100000 ≤ s.tick → Charged s o.launch →
        ∃ t, exec (.sparsityQueueTimeout core) s = .next t ∧ MxGone s t core o ∧ MxStatus t core o 0x1A o.done 0x80 ∧
          (t.core core).invalid = (s.core core).invalid)))

/-- R264–R267: the oldest waiting trigger joins the forming gang of its quotation, or begins one; at the budget
of the window its watch stops with reason 2 instead; a gang is ready with its 32nd thread or 2,200 clk after its
first, and becomes a ready task with its triggers' registers. -/
def Sys2Proof.Claims.TriggersJoin : Prop :=
  (∀ (s : State) (core : Nat) (x : Trigger) (q : Quote), OldestTrigger s core x →
    s.quotes.find? (fun y => y.id = x.qid) = some q →
    let c := s.core core
    let budget := (q.kernel.map (·.budget)).getD 0
    let window := (s.tick - q.accepted) / max 1 ((q.kernel.map (·.window)).getD 1)
    let joined := if q.window.1 = window then q.window.2 else 0
    let q2 : Quote := { q with window := (window, joined + 1) }
    let taken (f : Forming) := c.triggers.map fun y => if y = x then { y with gang := some f.serial } else y
    (∀ f, c.forming.find? (fun f => f.qid = x.qid) = some f → joined < budget →
      ∃ t, exec (.triggerJoin core) s = .next t ∧ t.mem = s.mem ∧
        t.quotes.find? (fun y => y.id = x.qid) = some q2 ∧
        ((taken f).countP (fun y => decide (y.gang = some f.serial)) ≠ 32 →
          (t.core core).triggers = taken f ∧ (t.core core).forming = c.forming) ∧
        ((taken f).countP (fun y => decide (y.gang = some f.serial)) = 32 →
          (t.core core).triggers =
            (taken f).map (fun y => if y.gang = some f.serial then { y with closed := true } else y) ∧
          (t.core core).forming = c.forming.filter fun y => decide (y.serial ≠ f.serial))) ∧
    (c.forming.find? (fun f => f.qid = x.qid) = none → s.waitingGangs core x.qid + (c.left.filter fun d => d = (x.qid, s.tick)).length < 16 → joined < budget →
      (∀ y ∈ c.triggers, y.gang ≠ some s.nextId) → c.triggers.count x = 1 →
      ∃ t f, exec (.triggerJoin core) s = .next t ∧ t.mem = s.mem ∧ f.qid = x.qid ∧ f.since = s.tick ∧
        (t.core core).forming = c.forming ++ [f] ∧ (t.core core).triggers = taken f ∧
        t.quotes.find? (fun y => y.id = x.qid) = some q2) ∧
    (∀ f i w, c.forming.find? (fun f => f.qid = x.qid) = some f → budget ≤ joined →
      c.watches.find? (fun e => e.2.serial = x.watch) = some (i, w) → afind i c.watches = some w → w.state = 1 →
      ∃ t, exec (.triggerJoin core) s = .next t ∧
        afind i (t.core core).watches = some { w with state := 2, reason := 2 } ∧
        (∀ y ∈ (t.core core).triggers, y.watch = w.serial → y.gang ≠ none) ∧
        ∃ r ∈ t.dev.records, r.kind = 4 ∧ r.cause = 0x11 ∧ r.asid = w.asid ∧ r.core = core ∧ r.info = n64 i ∧
          r.qid = w.qid)) ∧
  ∀ (s : State) (core qid : Nat) (f : Forming), (s.core core).forming.find? (fun y => y.qid = qid) = some f →
    (s.tick < f.since + 2200 → exec (.formingGangReady core qid) s = .next s) ∧
    (f.since + 2200 ≤ s.tick → ∀ n l q parts part, f.qid = qid →
      s.launches.find? (fun e => e.2.qid = qid) = some (n, l) → s.quotes.find? (fun y => y.id = qid) = some q →
      afind core q.cores = some (part :: parts) → part < 16 →
      ∃ t y, exec (.formingGangReady core qid) s = .next t ∧ t.mem = s.mem ∧
        TriggeredTask l.kernel (membersOf s core f) y ∧ y.launch = n ∧
        ((t.core core).part part).tasks = ((s.core core).part part).tasks ++ [y] ∧
        (t.core core).forming = (s.core core).forming.filter (fun z => decide (z.serial ≠ f.serial)) ∧
        ∀ z ∈ (t.core core).triggers, z.gang = some f.serial → z.closed = true)

/-- R117, R276, R282–R284, R289, R301: a vector reaches its file; a poster claims its slot, then posts its record
once the slot is free; a missing line enters the unlocked code lines; a halt request is reported as 0x1F; a
binding later than 2,200 clk is the operating system's. -/
def Sys2Proof.Claims.RecordsAndRequests : Prop :=
  (∀ (s : State) (n core v at_ : Nat), s.dev.msis[n]? = some (core, v, at_) → core < 8 → v < 256 →
    ∃ t, exec (.msiDelivery n) s = .next t ∧ t.mem = s.mem ∧ t.dev.msis = s.dev.msis.eraseIdx n ∧
      (∀ m, m < 256 → (t.dev.files.getD core 0).getLsbD m = ((s.dev.files.getD core 0).getLsbD m || decide (m = v))) ∧
      ∀ c, c ≠ core → t.dev.files.getD c 0 = s.dev.files.getD c 0) ∧
  (∀ (s : State) (r : Record) (rs : List Record), s.dev.records = r :: rs → s.dev.sfqb ≠ 0 → Memory.wf s.mem = true →
    let base := s.dev.sfqb.toNat
    let word (off n : Nat) := readLE s.mem (base + off) n
    (r.claimed = none → word 0 8 + 1 < 2 ^ 64 → base + 8 ≤ s.dev.memBytes → (4096 ≤ base ∨ s.dev.booted < 6) →
      ∃ t, exec (.faultRecordPost 0) s = .next t ∧ Outside s t base 8 ∧ readLE t.mem base 8 = word 0 8 + 1 ∧
        t.dev.records = { r with claimed := some (word 0 8) } :: rs) ∧
    ∀ i, r.claimed = some i → 0 < word 16 4 →
      let slot := base + 64 + 64 * (i % word 16 4)
      ((word 8 8 + word 16 4 ≤ i ∨ readByte s.mem slot = 1) → exec (.faultRecordPost 0) s = .next s) ∧
      (i < word 8 8 + word 16 4 → readByte s.mem slot ≠ 1 → slot + 64 ≤ s.dev.memBytes →
        (4096 ≤ slot ∨ s.dev.booted < 6) →
        ∃ t, exec (.faultRecordPost 0) s = .next t ∧ Outside s t slot 64 ∧ RecordAt t slot r s.tick ∧
          t.dev.records = rs ∧
          t.dev.msis = s.dev.msis ++
            if (word 20 4).testBit 0 then [(word 20 4 / 2 % 8, word 20 4 / 256 % 256, s.tick)] else [])) ∧
  (∀ (s : State) (a : Agent), agentKind a ≠ .lane →
    (s.missingLine a = none → exec (.instructionFetchFill a) s = .next s) ∧
    ∀ pa, s.missingLine a = some (.dev pa) → pa / 64 * 64 + 64 ≤ s.dev.memBytes →
      ∃ t, exec (.instructionFetchFill a) s = .next t ∧ t.mem = s.mem ∧
        (t.core (agentUnit a)).icache.getLast? = some (pa / 64, readBytes s.mem (pa / 64 * 64) 64)) ∧
  (∀ (s : State) (g : Nat) (x : Gang), afind g s.gangs = some x →
    (∃ t, exec (.debugHalt g) s = .next t ∧ t.mem = s.mem ∧ t.gang g = { x with debug := true } ∧
      ∀ h, h ≠ g → t.gang h = s.gang h) ∧
    let c := x.cond
    let base : W64 := s.dev.ctvb &&& 0xFFFFFFFFFFFFF000
    let gone := decide (c.st = .exited)
    (x.debug = true → c.fault = none → c.sstat.getLsbD 2 = false → c.st ≠ .held → s.stopping g = false → base ≠ 0 →
      ∃ t, exec (.trapEntry g) s = .next t ∧ (t.gang g).debug = false ∧ (t.gang g).parked = x.parked ∧
        Entered (s.tick + 1) c (t.gang g).cond .s 0x1F 0 (if gone then 0 else c.pc) (base + 64 * 0x1F) gone)) ∧
  ∀ (s : State) (g : Nat),
    ((∀ e ∈ (s.gang g).stubs, s.tick ≤ e.2 + 2200) → exec (.lazyBindingAllowanceExpiry g) s = .next s) ∧
    ∀ e l q, e ∈ (s.gang g).stubs → e.2 + 2200 < s.tick → afind (s.gang g).launch s.launches = some l →
      s.quotes.find? (fun y => y.id = l.qid) = some q → q.party = 0 →
      ∃ t, exec (.lazyBindingAllowanceExpiry g) s = .next t ∧
        (t.gang g).stubs = (s.gang g).stubs.filter (fun e => decide (s.tick ≤ e.2 + 2200)) ∧
        t.quotes.find? (fun y => y.id = l.qid) = some { q with party := 2, voided := true }

/-- R78, R79, R128, R302, R320: a mask write keeps live bits and frees the threads it drops; FSLOT, FWDT and SFQB
take the bits that may be written; a security command is busy for its clocks and leaves its result; a slot switch,
a roll-back and a watchdog expiry reset the pool and leave FSLOT as they say.
What a roll-back keeps is read as log 56 says, what the ordering locks do at a watchdog's reset as log 73 says; the
sponge is FIPS 202's (log 59). That commands 4 to 6 end at once is log 58's reading; the zero in every register of a
context that starts anew is log 13's choice, the entry of an image log 17's. -/
def Obligations.FirmwareRuns : Prop :=
  (∀ (s : State) (g : Nat) (k : Fin 12) (v : W64) (x : Gang), afind g s.gangs = some x →
    ∃ t, exec (.maskWrite g k v) s = .next t ∧ t = { s with gangs := t.gangs } ∧ (∀ h, h ≠ g → t.gang h = s.gang h) ∧
      (t.gang g).m[k.val] = v.truncate 32 &&& x.glive ∧
      (∀ j : Fin 12, j ≠ k → (t.gang g).m[j.val] = x.m[j.val]) ∧
      ∀ u : Fin 32, laneOf t g u =
        if (laneOf s g u).st = .parkedMask k ∧ v.getLsbD u.val = false then { laneOf s g u with st := .live }
        else laneOf s g u) ∧
  (∀ (s : State) (v : W64),
    (let f := s.dev.fslot
     ∃ t, exec (.fslotWrite v) s = .next t ∧ t.mem = s.mem ∧
       SlotBits t.dev.fslot (f.getLsbD 0) (f.getLsbD 1 && v.getLsbD 1) (f.getLsbD 2 && v.getLsbD 2) (f.getLsbD 3)
         (f.getLsbD 4 && !v.getLsbD 4) (f.getLsbD 7) (v.extractLsb' 5 2)) ∧
    (∃ t, exec (.fwdtWrite v) s = .next t ∧
      t = { s with dev := { s.dev with fwdt := v.truncate 32, watchdog := s.tick, tickBase := s.tick } }) ∧
    ∃ t, exec (.sfqbWrite v) s = .next t ∧ t = { s with dev := { s.dev with sfqb := t.dev.sfqb } } ∧
      ∀ j, t.dev.sfqb.getLsbD j = (v.getLsbD j && decide (6 ≤ j) && decide (j ≤ 51))) ∧
  (∀ (s : State) (core : Nat) (i : Instr) (cmd clocks : Nat),
    let other := s.dev.image (!s.dev.fslot.getLsbD 0)
    (i, cmd, clocks) ∈ [(.secDigest core, 1, (other.body.length + 135) / 136 * 24), (.secVerify core, 2, 110000),
      (.secExtend core, 3, 48), (.secResetSponge core, 4, 0), (.secAbsorb core, 5, 0), (.secSqueeze core, 6, 0)] →
    let e := s.dev.sec
    (e.stat.getLsbD 0 = true → exec i s = .next s) ∧
    (e.stat.getLsbD 0 = false →
      exec i s = .next { s with dev := { s.dev with sec :=
        { e with stat := e.stat ||| 1, cmd := cmd, until_ := s.tick + clocks, core := core } } })) ∧
  (∀ (s : State), let e := s.dev.sec
    let other := s.dev.image (!s.dev.fslot.getLsbD 0)
    e.stat.getLsbD 0 = true →
    (s.tick < e.until_ → exec .secCommandDone s = .next s) ∧
    (e.until_ ≤ s.tick →
      ∃ t, exec .secCommandDone s = .next t ∧ t.mem = s.mem ∧ t.dev.sec.stat.getLsbD 0 = false ∧
        (e.cmd = 1 → t.dev.sec.dig = shake256 other.body) ∧
        (e.cmd = 2 → let ok := Config.falcon e.dig other.trailer
          t.dev.sec.stat = (if ok then 2 else 4) ∧ t.dev.fslot.getLsbD 7 = ok ∧
          Logged s t 0x0C e.core 0xFFFF 0 0 (n64 ((if s.dev.fslot.getLsbD 0 then 0 else 1) + if ok then 2 else 0))) ∧
        (e.cmd = 3 → (e.measure.getD e.fmeas.toNat []).length = 64 → e.dig.length = 64 →
          t.dev.sec.measure.getD e.fmeas.toNat [] = shake256 (e.measure.getD e.fmeas.toNat [] ++ e.dig) ∧
          Logged s t 0x0D e.core 0xFFFF 0 0 (n64 e.fmeas.toNat)) ∧
        (e.cmd = 4 → t.dev.sec.sponge = Sponge.zero) ∧
        (e.cmd = 5 → e.sponge.out = false → t.dev.sec.sponge = e.sponge.absorb e.data) ∧
        (e.cmd = 6 → t.dev.sec.data = e.sponge.squeeze.1 ∧ t.dev.sec.sponge = e.sponge.squeeze.2))) ∧
  (∀ (s : State) (c n : Nat), c < 12 → n < 2 → (s.ctx (.saddle c)).wait.map Wait.kind = some (.slot n) →
    (∀ k, k < 12 → k ≠ c → (s.ctx (.saddle k)).wait.map Wait.kind = some .idle) →
    let f := s.dev.fslot
    ∃ t, exec .slotSwitch s = .next t ∧ t.mem = s.mem ∧ PoolReset s t (decide (n = 1)) ∧
      SlotBits t.dev.fslot (decide (n = 1)) (f.getLsbD 1) (f.getLsbD 2) true (f.getLsbD 4) false (f.extractLsb' 5 2) ∧
      t.dev.windowEnd = some (s.tick + 11000000) ∧ t.dev.oldSlot = f.getLsbD 0 ∧ t.dev.events = s.dev.events ∧
      t.dev.mapped = s.dev.mapped ∧ t.dev.locks = s.dev.locks.map (fun l => (l.1, 0)) ∧
      Logged s t 0x02 c 0xFFFF 0 0 (n64 n)) ∧
  (∀ (s : State),
    let f := s.dev.fslot
    let slotB := f.getLsbD 0
    (∀ w, s.dev.windowEnd = some w → (s.tick < w ∨ f.getLsbD 3 = false) → exec .rollBack s = .next s) ∧
    (∀ w, s.dev.windowEnd = some w → w ≤ s.tick → f.getLsbD 3 = true →
      ∃ t, exec .rollBack s = .next t ∧ t.mem = s.mem ∧ PoolReset s t s.dev.oldSlot ∧
        SlotBits t.dev.fslot s.dev.oldSlot (f.getLsbD 1 || !slotB) (f.getLsbD 2 || slotB) false true false
          (f.extractLsb' 5 2) ∧
        t.dev.locks = s.dev.locks.map (fun l => (l.1, 0)) ∧
        Logged s t 0x03 0xFF 0xFFFF 0 0 (if slotB then 1 else 0))) ∧
  ∀ (s : State),
    let f := s.dev.fslot
    ((s.dev.fwdt = 0 ∨ f.extractLsb' 5 2 ≠ 0 ∨ f.getLsbD 3 = true ∨ s.tick < s.dev.watchdog + s.dev.fwdt.toNat) →
      exec .watchdogExpiry s = .next s) ∧
    (s.dev.fwdt ≠ 0 → f.extractLsb' 5 2 = 0 → f.getLsbD 3 = false → s.dev.watchdog + s.dev.fwdt.toNat ≤ s.tick →
      ∃ t, exec .watchdogExpiry s = .next t ∧ t.dev.fslot = f ∧ PoolReset s t (f.getLsbD 0) ∧
        ((∀ q ∈ s.quotes, q.state ≠ 4) → t.mem = s.mem ∧ t.dev.records = s.dev.records ∧
          Logged s t 0x04 0xFF 0xFFFF 0 0 (if f.getLsbD 0 then 1 else 0)) ∧
        ∀ q, s.quotes.filter (fun x => decide (x.state = 4)) = [q] → s.quotes.find? (fun x => x.id = q.id) = some q →
          ∃ r, t.dev.records = s.dev.records ++ [r] ∧ r.kind = 6 ∧ r.cause = 0x17 ∧ r.qid = q.id ∧ r.info = 7)

/-- R296, R297, R303, R304: power-on and a main-side reset begin the boot stages on a machine as at reset; each
stage leads to the next with what it leaves: the slot verified, the channels trained, the tables cleared and the
information block written, Steppe and Saddle started; temperature and the envelope act as set. That a frozen ring
takes no entry of the stages is the model's reading (log 82). -/
def Sys2Proof.Claims.DeviceStarts : Prop :=
  (∀ (s : State),
    (∃ t, exec .powerOn s = .next t ∧ t = { State.reset with dev := t.dev, agenda := s.agenda, moves := s.moves, free := s.free } ∧
      t.dev.booted = 1 ∧ t.dev.frozen = false ∧ t.dev.fslot.extractLsb' 5 2 = 1 ∧
      t.dev.box = [{ tick := 0, kind := 1, io := 0xFF, core := 0xFFFF, asid := 0, qid := 0, detail := 1 }]) ∧
    ∀ cause, ∃ t, exec (.mainSideReset cause) s = .next t ∧
      t = { State.reset with dev := t.dev, agenda := s.agenda, moves := s.moves, free := s.free } ∧
      t.dev =
        { Dev.reset with
            cores := s.dev.cores, channels := s.dev.channels, channelMask := s.dev.channelMask, memBytes := s.dev.memBytes
            envelope := s.dev.envelope, imageA := s.dev.imageA, imageB := s.dev.imageB, fslot := t.dev.fslot
            oldSlot := s.dev.oldSlot, windowEnd := t.dev.windowEnd, box := t.dev.box, frozen := true
            hot := s.dev.hot, sideband := s.dev.sideband, owed := s.dev.owed, answers := s.dev.answers
            notices := s.dev.notices, booted := 1 } ∧
      t.dev.fslot.extractLsb' 5 2 = 1 ∧ Logged s t 0x0B 0xFF 0xFFFF 0 0 (n64 cause.val)) ∧
  (∀ (s : State) (pairs : BitVec 12) (clusters : BitVec 48),
    let d := s.dev
    let slotB := d.fslot.getLsbD 0
    let image := d.image slotB
    let ok := Config.falcon (shake256 image.body) image.trailer
    let entry (kind core detail : Nat) : BoxEntry :=
      { tick := s.tick, kind := kind, io := core, core := 0xFFFF, asid := 0, qid := 0, detail := n64 detail }
    let verified := entry 0x0C 0 ((if slotB then 1 else 0) + if ok then 2 else 0)
    let next (n : Nat) (P : State → Prop) : Prop :=
      ∃ t, exec (.bootStageReached pairs clusters) s = .next t ∧ t.dev.booted = n ∧ P t
    (7 ≤ d.booted → exec (.bootStageReached pairs clusters) s = .next s) ∧
    (d.booted ∈ [0, 1] → next (d.booted + 1) fun t => t.mem = s.mem ∧
      Logged s t 1 0xFF 0xFFFF 0 0 (n64 (d.booted + 1))) ∧
    (d.booted = 2 → 2 ≤ d.bootFails → exec (.bootStageReached pairs clusters) s = .next s ∧ d.dark = true) ∧
    (d.booted = 2 → d.bootFails < 2 →
      (ok = true → next 3 fun t => t.mem = s.mem ∧ t.dev.fslot = d.fslot ∧
        (d.frozen = false → d.box.length < 4095 → t.dev.box = d.box ++ [verified, entry 1 0xFF 3])) ∧
      (ok = false → next 2 fun t => t.mem = s.mem ∧ t.dev.bootFails = d.bootFails + 1 ∧
        t.dev.fslot.getLsbD 1 = (d.fslot.getLsbD 1 || !slotB) ∧ t.dev.fslot.getLsbD 2 = (d.fslot.getLsbD 2 || slotB) ∧
        (t.dev.fslot.getLsbD 0 ≠ slotB ↔ d.bootFails = 0) ∧
        (d.frozen = false → d.box.length < 4095 → t.dev.box = d.box ++ [verified]))) ∧
    (d.booted = 3 → next 4 fun t => t.mem = s.mem ∧
      t.dev.channels = ((List.range 24).filter fun k => t.dev.channelMask.getLsbD k).length ∧
      t.dev.memBytes = t.dev.channels * 2 ^ 33 ∧
      ∀ k, k < 24 → t.dev.channelMask.getLsbD k = (d.channelMask.getLsbD k && !pairs.getLsbD (k / 2))) ∧
    (d.booted = 4 → next 5 fun t => t.mem = s.mem ∧ Logged s t 1 0xFF 0xFFFF 0 0 5 ∧
      ∀ c, c < 192 → t.dev.cores.getLsbD c = (d.cores.getLsbD c && !clusters.getLsbD (clusterOf c))) ∧
    (d.booted = 5 → Memory.wf s.mem = true → 4096 ≤ d.qdir → next 6 fun t =>
      readLE t.mem 0 4 = 0x49445753 ∧ readLE t.mem 4 2 = 1 ∧
      readLE t.mem 6 2 = ((List.range 192).filter fun c => d.cores.getLsbD c).length ∧
      readLE t.mem 8 24 = d.cores.toNat ∧ readLE t.mem 32 4 = d.channelMask.toNat ∧
      readLE t.mem 36 2 = d.channels % 2 ^ 16 ∧ readLE t.mem 38 2 = d.envelope % 2 ^ 16 ∧
      readLE t.mem 40 8 = d.qdir % 2 ^ 64 ∧ readLE t.mem 48 8 = d.memBytes % 2 ^ 64 ∧
      (∀ a, d.qdir ≤ a → a < d.qdir + 262144 → readByte t.mem a = 0) ∧
      (∀ c o, 0xFF0000 ≤ o → o < 2 ^ 24 → readByte t.mem (sliceKey c o) = 0) ∧
      ∀ c o, o < 0xFF0000 → d.qdir + 262144 ≤ 2 ^ 60 → readByte t.mem (sliceKey c o) = readByte s.mem (sliceKey c o)) ∧
    (d.booted = 6 → next 7 fun t => t.mem = (Config.steppeImage.foldl (fun u e => u.pokeDev e.1 e.2) s).mem ∧ PoolReset s t slotB ∧ t.dev.ftvb = Config.romVector ∧ t.dev.owed = [] ∧
      (∀ c h, c < 8 → h < 4 →
        t.ctx (.steppe c h) = { Ctx.empty .s .live with pc := Config.steppeEntry, lastIssue := s.tick }) ∧
      ∀ q a temp, (q, a, temp) ∈ d.owed →
        ∃ r ∈ t.dev.records, r.kind = 6 ∧ r.cause = 0x17 ∧ r.qid = q ∧ r.asid = a ∧ r.info = 6 ∧ r.stval = n64 temp)) ∧
  (∀ (s : State) (core : Nat), core < 192 → 6 ≤ s.dev.booted → Memory.wf s.mem = true →
    ∃ t, exec (.errorCounterUpdate core) s = .next t ∧ Outside s t (64 + 8 * core) 8 ∧
      (t.core core).errsShown = (s.core core).errs ∧
      readLE t.mem (64 + 8 * core) 4 = (s.core core).errs.1.toNat ∧
      readLE t.mem (68 + 8 * core) 4 = (s.core core).errs.2.toNat) ∧
  ∀ (s : State) (temp : BitVec 16) (watts : Nat),
    let d := s.dev
    ((temp.toNat < 105 ∨ d.hot = true) → exec (.thermalTrip temp) s = .next s) ∧
    (105 ≤ temp.toNat → d.hot = false → ∃ t, exec (.thermalTrip temp) s = .next t ∧ t.mem = s.mem ∧
      t.dev.hot = true ∧ Logged s t 0x08 0xFF 0xFFFF 0 0 (temp.zeroExtend 64)) ∧
    (temp.toNat < 95 → exec (.thermalRecovery temp) s = .next { s with dev := { d with hot := false } }) ∧
    (95 ≤ temp.toNat → exec (.thermalRecovery temp) s = .next s) ∧
    (temp.toNat < 115 → exec (.thermalEmergency temp) s = .next s) ∧
    (115 ≤ temp.toNat → ∃ t, exec (.thermalEmergency temp) s = .next t ∧ t.dev.hot = true ∧ t.dev.booted = 1 ∧
      t.dev.frozen = true ∧ t.mem = [] ∧
      t.dev.owed = d.owed ++
        (s.quotes.filter fun q => decide (q.state = 4)).map fun q => (q.id, q.asid, temp.toNat)) ∧
    (900 ≤ watts → watts ≤ 1500 → watts % 25 = 0 → ∃ t, exec (.setEnvelope watts) s = .next t ∧ t.mem = s.mem ∧
      t.dev.envelope = watts ∧ Logged s t 0x0A 0xFF 0xFFFF 0 0 (n64 watts)) ∧
    ((watts < 900 ∨ 1500 < watts ∨ watts % 25 ≠ 0) → exec (.setEnvelope watts) s = .next s)

/-- R70, R79, R254, R298–R301: the host and a peer read bytes with no effect on the memory and write those they name;
BAR 0 reads the information block and takes no write; a device halted at boot answers neither; the three host atomics
leave what R244 says and answer the old value; a retry of at most 64 clk counts, and beyond the allowance breaks the
device's word; a write of an image slot clears its verified bit; every side-band request is answered.
The place of BAR 0 among the addresses of the event and the record of what was read are the model's (log 81). -/
def Sys2Proof.Claims.OutsideReaches : Prop :=
  (∀ (s : State) (addr n p : Nat) (v : W64), 1 ≤ n → n ≤ 8 → Memory.wf s.mem = true → s.dev.dark = false →
    let reads (bs : List Byte) : State := { s with dev := { s.dev with answers := s.dev.answers ++ [bs] } }
    (Writable s (.dev addr) n →
      (addr < 2 ^ 38 → exec (.hostBar4Access addr n none) s = .next (reads (readBytes s.mem addr n))) ∧
      (addr < 0x0F0000000000 → exec (.peerAccess p addr n none) s = .next (reads (readBytes s.mem addr n))) ∧
      ∀ i, (i = .hostBar4Access addr n (some v) ∧ addr < 2 ^ 38 ∨
          i = .peerAccess p addr n (some v) ∧ addr < 0x0F0000000000) →
        ∃ t, exec i s = .next t ∧ Outside s t addr n ∧ readLE t.mem addr n = v.toNat % 256 ^ n) ∧
    (2 ^ 38 ≤ addr → addr + n ≤ 2 ^ 38 + 65536 →
      exec (.hostBar4Access addr n none) s =
          .next (reads ((List.range n).map fun k =>
            if addr - 2 ^ 38 + k < 4096 then readByte s.mem (addr - 2 ^ 38 + k) else 0)) ∧
        exec (.hostBar4Access addr n (some v)) s = .next s)) ∧
  (∀ (s : State) (addr n p : Nat) (wr : Option W64), s.dev.dark = true →
    exec (.hostBar4Access addr n wr) s = .next s ∧ exec (.peerAccess p addr n wr) s = .next s) ∧
  (∀ (s : State) (p q : Nat) (v : W64), q < 4096 → s.dev.dark = false →
    exec (.peerAccess p (0x0F0000000000 + 8 * q) 8 (some v)) s = exec (.wakeRegisterStore q v) s) ∧
  (∀ (s : State) (addr : Nat) (z : ASize) (op : Aop) (b c : W64), op ∈ [.add, .exch, .cas] →
    addr % aSizeBytes z = 0 → Memory.wf s.mem = true → s.dev.dark = false → Writable s (.dev addr) (aSizeBytes z) →
    ∃ t, exec (.hostAtomicop addr z op b c) s = .next t ∧ Outside s t addr (aSizeBytes z) ∧
      t.dev.answers = s.dev.answers ++ [readBytes s.mem addr (aSizeBytes z)] ∧
      let w := 8 * aSizeBytes z
      readLE t.mem addr (aSizeBytes z) =
        atomNew op w (readLE s.mem addr (aSizeBytes z)) (b.toNat % 2 ^ w) (c.toNat % 2 ^ w)) ∧
  (∀ (s : State) (n clk core : Nat) (l : Launch) (q : Quote), afind n s.launches = some l →
    s.quotes.find? (fun x => x.id = l.qid) = some q → clk ≠ 0 →
    (64 < clk → exec (.meshOrLinkRetry n ⟨clk, core⟩) s = .next s) ∧
    (clk ≤ 64 → ∃ t, exec (.meshOrLinkRetry n ⟨clk, core⟩) s = .next t ∧
      afind n t.launches = some { l with retries := l.retries + clk } ∧
      (192 ≤ core → t.cores = s.cores) ∧
      (core < 192 → (t.core core).copies = (s.core core).copies.map fun k =>
        if k.launch = n then { k with retried := k.retried + clk } else k) ∧
      (l.retries + clk ≤ q.retry → t.dev = s.dev ∧ t.quotes = s.quotes) ∧
      (q.retry < l.retries + clk → ∃ r, t.dev.records = s.dev.records ++ [r] ∧ r.kind = 6 ∧ r.info = 3 ∧
        r.qid = q.id ∧ (q.party = 0 → t.quotes.find? (fun x => x.id = l.qid) = some { q with party := 3 })))) ∧
  (∀ (s : State) (slotB : Bool) (off : Nat) (bs : List Byte),
    ∃ t, exec (.slotImageWrite slotB off bs) s = .next t ∧ t.mem = s.mem ∧ t.dev.fslot = s.dev.fslot &&& 0x7F ∧
      (t.dev.image (!slotB)).bytes = (s.dev.image (!slotB)).bytes ∧
      ∀ j, (t.dev.image slotB).bytes.getD j 0 =
        if off ≤ j ∧ j < off + bs.length then bs.getD (j - off) 0 else (s.dev.image slotB).bytes.getD j 0) ∧
  ∀ (s : State),
    let answers (i : Instr) (kind : Nat) (P : List W64 → Prop) : Prop :=
      ∃ t ws, exec i s = .next t ∧
        t = { s with dev := { s.dev with sideband := s.dev.sideband ++ [(kind, ws)], frozen := t.dev.frozen }, free := t.free } ∧
        (kind ≠ 8 → t.dev.frozen = s.dev.frozen) ∧ (kind = 8 → t.dev.frozen = false) ∧ P ws
    answers .getVersion 0 (fun _ => True) ∧ answers .getCapabilities 1 (fun _ => True) ∧
    answers .negotiateAlgorithms 2 (fun _ => True) ∧ answers .getDigests 3 (fun _ => True) ∧
    answers .getCertificate 4 (fun _ => True) ∧ answers .challenge 5 (fun _ => True) ∧
    (∀ idx, answers (.getMeasurements idx) 6 fun ws => ws.head? = some (n64 idx.val) ∧
      ws.length = 1 + ((s.dev.sec.measure.getD idx.val []).length + 7) / 8) ∧
    answers .telemetryRead 7 (fun ws => ∀ k, k < 512 → ws.getD k 0 = n64 (readLE s.mem (8 * k) 8)) ∧
    answers .blackBoxRead 8 fun ws => ws.length = 4 * s.dev.box.length ∧
      ∀ k e, s.dev.box[k]? = some e → ws.getD (4 * k) 0 = n64 e.tick ∧ ws.getD (4 * k + 3) 0 = e.detail

/-- R64–R67, R71: completing a packet writes its status, moves the read and retire indices past it, stops the
queue at a status of 0x8001 or above, and posts the work-completed event; a packet that may not start changes
nothing, an unreadable slot stops its queue, a malformed packet or kind 0 or above 8 completes with 0x8001. After an
error the queue also waits for a new submission (R67). -/
def Sys2Proof.Claims.PacketsComplete : Prop :=
  (∀ (s : State) (q i status k : Nat) (p : Packet), s.packet? q i = some p → p.signals = false →
    s.dev.mapped.length < 1024 → Memory.wf s.mem = true → status < 2 ^ 16 →
    let dir := s.dev.qdir + 64 * q
    let asid := readLE s.mem (dir + 12) 2
    let read := readLE s.mem (dir + 24) 8
    LeadsTo s asid (s.slotVa q i + 2) k → Reached s k 2 → Reached s dir 64 → (k + 2 ≤ dir ∨ dir + 64 ≤ k) →
    let t := s.complete q i status
    let rest := s.dev.packets.filter fun x => !(x.queue = q && x.index = i)
    readLE t.mem k 2 = status ∧ readLE t.mem (dir + 24) 8 = (if read ≤ i then (i + 1) % 2 ^ 64 else read) ∧
      t.dev.packets = rest ∧
      ((∀ x ∈ rest, x.queue ≠ q) → readLE t.mem (dir + 32) 8 = readLE t.mem (dir + 24) 8) ∧
      ((readLE t.mem (dir + 14) 2).testBit 3 = ((readLE s.mem (dir + 14) 2).testBit 3 || decide (0x8001 ≤ status))) ∧
      (0x8001 ≤ status → readLE t.mem (dir + 40) 8 = i % 2 ^ 64 ∧ q ∈ t.dev.halted) ∧
      (status < 0x8001 → t.dev.halted = s.dev.halted) ∧
      (s.dev.events.length < 8192 → t.dev.events = s.dev.events ++ [eventOf 3 i (some q)])) ∧
  ∀ (s : State) (q : Nat) (i : Instr),
    i ∈ [.invalid q, .quote q, .accept q, .decline q, .launch q, .copy q, .signal q, .barrier q, .watch q] →
    (i = .copy q → s.copyOpen q = none) →
    (s.slot q = .none → exec i s = .next s) ∧
    (s.slot q = .unreadable → Memory.wf s.mem = true → Reached s (s.dev.qdir + 64 * q) 64 →
      ∃ t, exec i s = .next t ∧ (readLE t.mem (s.dev.qdir + 64 * q + 14) 2).testBit 3 = true ∧
        readLE t.mem (s.dev.qdir + 64 * q + 40) 8 = readLE s.mem (s.dev.qdir + 64 * q + 24) 8 ∧
        Outside s t (s.dev.qdir + 64 * q) 64) ∧
    ∀ p, s.slot q = .packet p →
      ((p.headOk = false ∨ p.bodyOk = false) →
        (∀ n, (n, i) ∈ [(1, .quote q), (2, .accept q), (3, .decline q), (4, .launch q), (5, .copy q), (6, .signal q),
            (7, .barrier q), (8, .watch q)] → p.kind = n → Finishes i s q p 0x8001 (Opened s p)) ∧
        (i = .invalid q → (p.kind = 0 ∨ 8 < p.kind) → Finishes i s q p 0x8001 (Opened s p))) ∧
      ((p.kind = 0 ∨ 8 < p.kind) → p.bodyOk = false)

/-- R66, R96, R97: QUOTE waits while no entry is free, else requests and waits for its walk; ACCEPT and DECLINE
answer as `quote.acc` and `quote.dec` do; LAUNCH declines a quotation above its ceilings whatever its state, waits for
its start on one in state 3, and is refused in another. The status of a QUOTE whose record cannot be written is log 63's
reading. -/
def Sys2Proof.Claims.QuotePacketsRun : Prop :=
  ∀ (s : State) (q : Nat) (p : Packet),
    let asid := readLE s.mem (s.dev.qdir + 64 * q + 12) 2
    let id := (s.readVa asid (p.u 8 8) 4).getD 0
    let waits (i : Instr) (P : State → Prop) : Prop := ∃ t, exec i s = .next t ∧ p ∈ t.dev.packets ∧ P t
    (Starts s q 1 p →
      (4096 ≤ (s.quotes.filter fun x => x.state ≤ 4).length → exec (.quote q) s = .next s) ∧
      ((s.quotes.filter fun x => x.state ≤ 4).length < 4096 →
        ((p.u 16 8 % 64 ≠ 0 ∨ s.writableUnder asid (p.u 16 8) true = false) → Finishes (.quote q) s q p 0x8001 (Opened s p)) ∧
        (p.u 16 8 % 64 = 0 → s.writableUnder asid (p.u 16 8) true = true → (∀ x ∈ s.quotes, x.id ≠ s.nextQid) →
          waits (.quote q) fun t => t.walkQueue = s.walkQueue ++ [s.nextQid] ∧
            ∃ x, t.quotes = s.quotes ++ [x] ∧ x.id = s.nextQid ∧ x.state = 0 ∧ x.asid = asid ∧ x.object = p.u 8 8 ∧
              x.record = p.u 16 8 ∧ x.packets = [(q, p.index, 1)] ∧ x.auto = (p.u 24 4).testBit 18 ∧
              x.shape.ext = [p.u 24 4 % 256, p.u 24 4 / 256 % 256, p.u 32 4, p.u 36 4, p.u 40 4, p.u 44 4]))) ∧
    ((∀ x, ¬ Named s asid id x) →
      ∀ n i, (n, i) ∈ [(2, .accept q), (3, .decline q), (4, .launch q)] → Starts s q n p → Finishes i s q p 0x8004 (Opened s p)) ∧
    ∀ x, Named s asid id x → s.quote? id = some x → x.packets = [] → ¬ Late s x →
      (Starts s q 2 p →
        (x.state ≠ 1 → x.state ≠ 7 → Finishes (.accept q) s q p 0x8004 (Opened s p)) ∧
        (x.state = 1 → vectorBase s.dev.ctvb ≠ 0 → s.dev.satb ≠ 0 → ∀ k, x.kernel = some k →
          ((∀ y ∈ k.pinSet, s.isPinned asid y = true) → x.cls ≤ 1 → Finishes (.accept q) s q p 0x0001 fun u => StandsIn u id 3) ∧
          (¬ (∀ y ∈ k.pinSet, s.isPinned asid y = true) →
            waits (.accept q) fun t => StandsIn t id 2 ∧ ∃ y, t.quote? id = some y ∧ y.packets = [(q, p.index, 2)]))) ∧
      (Starts s q 3 p →
        (1 ≤ x.state → x.state ≤ 3 → Finishes (.decline q) s q p 0x0001 fun u => StandsIn u id 6) ∧
        ((x.state = 0 ∨ 5 ≤ x.state) → Finishes (.decline q) s q p 0x8004 (Opened s p))) ∧
      (Starts s q 4 p → ∀ k, x.kernel = some k →
        let above := (p.u 24 8 ≠ 0 ∧ p.u 24 8 < x.tmax) ∨ (p.u 32 8 ≠ 0 ∧ p.u 32 8 < x.emax)
        (above → Finishes (.launch q) s q p 0x8003 fun u => 1 ≤ x.state → x.state ≤ 3 → StandsIn u id 6) ∧
        (¬ above → x.pendingLaunch ≠ none → Finishes (.launch q) s q p 0x8004 (Opened s p)) ∧
        (¬ above → x.pendingLaunch = none → x.state = 3 → waits (.launch q) fun t => t.mem = s.mem ∧
          t.quote? id = some { x with pendingLaunch := some (n64 (p.u 16 8)), packets := [(q, p.index, 4)] }) ∧
        (¬ above → x.pendingLaunch = none → x.state ≠ 3 → x.state ≠ 1 →
          Finishes (.launch q) s q p 0x8004 (Opened s p)))

/-- R66, R75, R223, R260: COPY starts, then moves granule by granule between slices its owner may reach and completes
after the last, or stops with a kind 1 record at a granule that it may not read; SIGNAL sets or adds to its word and
posts the vector the signal asks for, and is turned away by a descriptor with a reserved bit set; BARRIER completes
once its signals are satisfied and waits else; WATCH arms its range and tells the entry or the code.
The fields of a COPY's record are the model's (log 64). -/
def Sys2Proof.Claims.OtherPacketsRun : Prop :=
  (∀ (s : State) (q : Nat) (c : Packet), Memory.wf s.mem = true → s.flawed = [] → s.copyOpen q = some c →
    (∀ p, s.slot q = .packet p → p.kind ≠ 5) → c.u 32 4 = 9 → 64 * c.done + 64 ≤ c.u 24 8 →
    let asid := readLE s.mem (s.dev.qdir + 64 * q + 12) 2
    let src := (c.u 8 8 + 64 * c.done) % 2 ^ 64
    let dst := (c.u 16 8 + 64 * c.done) % 2 ^ 64
    let at_ := sliceKey (dst / 2 ^ 24) (dst % 2 ^ 24)
    let same (x : Packet) : Prop := x.queue = q ∧ x.index = c.index
    (s.basinOk .u asid src 64 .load = true → s.basinOk .u asid dst 64 .store = true → Unwatched s (dst / 2 ^ 24) →
      ∃ u, readBytes u.mem at_ 64 = readBytes s.mem (sliceKey (src / 2 ^ 24) (src % 2 ^ 24)) 64 ∧ Outside s u at_ 64 ∧
        u.dev.packets = s.dev.packets.map (fun x => if same x then { c with done := c.done + 1 } else x) ∧
        exec (.copy q) s = .next (if c.u 24 8 / 64 ≤ c.done + 1 then u.complete q c.index 0x0001 else u)) ∧
    (s.basinOk .u asid src 64 .load = false →
      ∃ t r, exec (.copy q) s = .next t ∧ t.mem = s.mem ∧ t.dev.records = s.dev.records ++ [r] ∧ r.kind = 1 ∧
        r.cause = 0x0A ∧ r.core = 0xFFFF ∧ r.stval = n64 src ∧ r.info = n64 c.done ∧ r.pc = n64 c.index ∧
        t.dev.packets = s.dev.packets.map (fun x => if same x then { c with stopped := true } else x))) ∧
  ∀ (s : State) (q : Nat) (p : Packet), Memory.wf s.mem = true →
    let asid := readLE s.mem (s.dev.qdir + 64 * q + 12) 2
    let w := (s.openPacket p).startPacket q p.index
    (Starts s q 5 p → s.copyOpen q = none → exec (.copy q) s = .next w) ∧
    (Starts s q 6 p →
      (s.signalPlace asid (p.u 8 8) = none → Finishes (.signal q) s q p 0x8001 (Opened s p)) ∧
      ∀ pa, s.signalPlace asid (p.u 8 8) = some pa →
        (2 ^ 18 ≤ readLE s.mem (pa + 8) 8 → Finishes (.signal q) s q p 0x8001 (Opened s p)) ∧
        (readLE s.mem (pa + 8) 8 < 2 ^ 18 → LeadsTo s asid (p.u 8 8) pa → Writable s (.dev pa) 8 →
          let old := n64 (readLE s.mem pa 8)
          let new := if p.u 24 4 = 0 then n64 (p.u 16 8) else old + n64 (p.u 16 8)
          let d := n64 (readLE s.mem (pa + 8) 8)
          Finishes (.signal q) s q p 0x0001 fun u => Outside s u pa 8 ∧ n64 (readLE u.mem pa 8) = new ∧
            u.dev.msis = s.dev.msis ++
              if new ≠ old ∧ b64 d 0 = true ∧ (b64 d 16 = false ∨ new.toInt ≤ 0) then [(f64 d 1 3, f64 d 8 8, s.tick)] else [])) ∧
    (Starts s q 7 p →
      let addrs := (List.range (p.u 8 4 / 2 % 8)).map fun k => p.u (16 + 8 * k) 8
      let named := addrs.foldl (fun v a => v.nameSignal asid a true) w
      let met (a : Nat) : Prop := ∃ n, named.readVa (named.qOwner q) a 8 = some n ∧ (n64 n).toInt ≤ 0
      let holds := if (p.u 8 4).testBit 0 then ∃ a ∈ addrs, met a else ∀ a ∈ addrs, met a
      (¬ holds → ∃ t, exec (.barrier q) s = .next t ∧ p ∈ t.dev.packets) ∧
      (holds → ∃ t, exec (.barrier q) s = .next t ∧ (∀ x ∈ t.dev.packets, ¬(x.queue = q ∧ x.index = p.index)) ∧
        eventOf 3 p.index (some q) ∈ t.dev.events ++ t.dev.heldEvents)) ∧
    (Starts s q 8 p →
      let b := (List.range 4).map fun k => n64 (p.u (8 + 8 * k) 8)
      let core := f64 (b.getD 0 0) 24 8
      let told (u : State) (v : Int) : Prop :=
        ∀ k, LeadsTo s asid (p.u 40 8) k → Reached s k 8 → n64 (readLE u.mem k 8) = w64 v
      (∀ c v, s.armFault b .u asid = some (c, v) →
        Finishes (.watch q) s q p 0x8001 fun u => told u (if c = 0x02 then -2 else -5) ∧ u.cores = s.cores) ∧
      (s.armFault b .u asid = none →
        (∀ e, s.armCode b asid = .error e → Finishes (.watch q) s q p 0x8006 fun u => told u e ∧ u.cores = s.cores) ∧
        ∀ n, s.armCode b asid = .ok n → Finishes (.watch q) s q p 0x0001 fun u => told u n ∧
          ∃ x, (u.core core).watches = aput n x (s.core core).watches ∧ x.state = 1 ∧ x.asid = asid ∧
            x.base = f64 (b.getD 0 0) 0 24 ∧ x.len = f64 (b.getD 1 0) 0 32 ∧ x.qid = f64 (b.getD 2 0) 0 32))

/-- The packets of a queue: how one starts, what each kind does, and how one completes. -/
def Sys2Proof.Claims.PacketsRun : Prop := Claims.PacketsComplete ∧ Claims.QuotePacketsRun ∧ Claims.OtherPacketsRun

/-- R68–R73, R75: a store to a wake register is dropped with an entry in normal service and else posts the wake;
a served wake takes its index and maps its queue (R73); beyond the queue's size it writes 0x8007 into the slot at the
read index, where that has a place, and stops the queue there with its write index kept (R69); a signal's change
re-evaluates the barrier that names it; the periodic tick and a management request enter the event queue. That a wake
for an unregistered queue is dropped, and that a full queue still takes a wake, are the model's choices (log 80). -/
def Sys2Proof.Claims.PoolServes : Prop :=
  (∀ (s : State) (q : Nat) (v : W64), q < 4096 → s.dev.dark = false →
    (s.dev.fslot.extractLsb' 5 2 = 0 → ∃ t, exec (.wakeRegisterStore q v) s = .next t ∧ t.mem = s.mem ∧
      t.dev.events = s.dev.events ∧ Logged s t 0x05 0xFF 0xFFFF 0 0 (n64 q)) ∧
    (s.dev.fslot.extractLsb' 5 2 ≠ 0 → ∃ t, exec (.wakeRegisterStore q v) s = .next t ∧ t.mem = s.mem ∧
      ((readLE s.mem (s.dev.qdir + 64 * q + 14) 2).testBit 3 = false → q ∉ t.dev.halted) ∧
      ((∀ e ∈ s.dev.events, ¬ (f64 e 13 3 = 1 ∧ b64 e 12 = true ∧ f64 e 0 12 = q)) →
        t.dev.events = s.dev.events ++ [eventOf 1 (f64 v 0 48) (some q)]) ∧
      ((∃ e ∈ s.dev.events, f64 e 13 3 = 1 ∧ b64 e 12 = true ∧ f64 e 0 12 = q) →
        t.dev.events = s.dev.events.map fun e =>
          if f64 e 13 3 = 1 ∧ b64 e 12 = true ∧ f64 e 0 12 = q then eventOf 1 (max (f64 e 16 48) (f64 v 0 48)) (some q)
          else e))) ∧
  (∀ (s : State) (core q idx : Nat), core < 12 → q < 4096 → idx < 2 ^ 48 → s.dev.events = [eventOf 1 idx (some q)] →
    s.dev.heldEvents = [] → s.dev.suspended = false → afind (q % 256) s.dev.locks = none → Memory.wf s.mem = true →
    Reached s (s.dev.qdir + 64 * q) 64 →
    let dir := s.dev.qdir + 64 * q
    let word (off n : Nat) := readLE s.mem (dir + off) n
    ((word 14 2).testBit 0 = false → ∃ t, exec (.wakeEvent core) s = .next t ∧ t.mem = s.mem ∧ t.dev.events = [] ∧
      t.dev.mapped = s.dev.mapped) ∧
    ((word 14 2).testBit 0 = true → s.dev.mapped.length < 1024 →
      (idx ≤ word 32 8 + max 1 (word 8 4) ∨ idx ≤ word 16 8 →
        ∃ t, exec (.wakeEvent core) s = .next t ∧ t.dev.events = [] ∧ t.dev.mapped.getLast? = some q ∧
          readLE t.mem (dir + 16) 8 = max (word 16 8) idx ∧ Outside s t dir 64 ∧
          (readLE t.mem (dir + 14) 2).testBit 1 = true ∧ (readLE t.mem (dir + 14) 2).testBit 2 = false ∧
          (readLE t.mem (dir + 14) 2).testBit 3 = (word 14 2).testBit 3) ∧
      (word 16 8 < idx → word 32 8 + max 1 (word 8 4) < idx →
        ∃ t, exec (.wakeEvent core) s = .next t ∧ t.dev.events = [] ∧ t.dev.packets = s.dev.packets ∧
          t.dev.mapped.getLast? = some q ∧
          let stopped := (readLE t.mem (dir + 14) 2).testBit 3 = true ∧ readLE t.mem (dir + 40) 8 = word 24 8 ∧
            readLE t.mem (dir + 16) 8 = word 16 8 ∧ readLE t.mem (dir + 24) 8 = word 24 8
          (s.place (word 12 2) (s.slotVa q (word 24 8) + 2) = none → stopped ∧ Outside s t dir 64) ∧
          ∀ k, LeadsTo s (word 12 2) (s.slotVa q (word 24 8) + 2) k → Reached s k 2 → (k + 2 ≤ dir ∨ dir + 64 ≤ k) →
            stopped ∧ readLE t.mem k 2 = 0x8007 ∧
            ∀ a, (a < k ∨ k + 2 ≤ a) → (a < dir ∨ dir + 64 ≤ a) → readByte t.mem a = readByte s.mem a))) ∧
  (∀ (s : State) (core pa : Nat) (p : Packet) (a : Nat), core < 12 → pa < 2 ^ 48 → s.dev.events = [eventOf 2 pa none] →
    s.dev.heldEvents = [] → s.dev.suspended = false → s.dev.packets = [p] → p.kind = 7 → a ∈ p.barrierAddrs →
    s.signalPlace (s.qOwner p.queue) a = some pa → p.index < s.qRead p.queue →
    let met (a : Nat) : Prop := ∃ n, s.readVa (s.qOwner p.queue) a 8 = some n ∧ (n64 n).toInt ≤ 0
    let holds := if (p.u 8 1).testBit 0 then ∃ a ∈ p.barrierAddrs, met a else ∀ a ∈ p.barrierAddrs, met a
    (holds → ∃ t, exec (.signalChanged core) s = .next t ∧ t.dev.packets = []) ∧
    (¬ holds → ∃ t, exec (.signalChanged core) s = .next t ∧ t.dev.packets = [p] ∧ t.mem = s.mem ∧ t.dev.events = [])) ∧
  ∀ (s : State),
    (let due := s.dev.tickBase + if s.dev.fwdt = 0 then 1100000 else (s.dev.fwdt.toNat + 3) / 4
     (s.tick < due → exec .periodicTick s = .next s) ∧
     (due ≤ s.tick → s.dev.events.length < 8192 → ∃ t, exec .periodicTick s = .next t ∧ t.mem = s.mem ∧
       t.dev.tickBase = due ∧
       t.dev.events = s.dev.events ++
         if ∃ e ∈ s.dev.events ++ s.dev.heldEvents, f64 e 13 3 = 4 then [] else [eventOf 4 s.tick none])) ∧
    ∀ arg : BitVec 48, s.dev.events.length < 8192 →
      ∃ t, exec (.managementRequest arg) s = .next t ∧
        t = { s with dev := { s.dev with events := s.dev.events ++ [eventOf 5 arg.toNat none] } }

/-- R34, R81, R88, R90, R304: a free engine takes the oldest request and notes when its walk is due, and what its
object's validation rejects; a fifth walk waits. A walk ends in state 1 or in 8 to 11, with the deadline set; a
rejection gives state 8, its code and offset; a cached walk gives the same figures; a hot die no state 1. Model's
readings: the cache's key and figures (log 72), a rejection kept from the start (log 60). -/
def Sys2Proof.Claims.WalksRun : Prop :=
  (∀ (s : State),
    (4 ≤ s.walking.length → exec .quoteWalkStart s = .next s) ∧
    ∀ id ids q, s.walkQueue = id :: ids → s.walking.length < 4 → s.quote? id = some q → q.packets = [] →
      ∃ t, exec .quoteWalkStart s = .next t ∧ t.mem = s.mem ∧ t.walkQueue = ids ∧
        t.walking = s.walking ++ [(id, s.tick + 2200 + if (s.cachedWalk q).isSome then 0 else s.objectWords q)] ∧
        (s.cachedWalk q ≠ none → t.quotes = s.quotes) ∧
        (s.cachedWalk q = none →
          (∀ off code, s.examine q = .error (off, code) → t.quote? id = some { q with diag := code, tmax := off }) ∧
          ∀ v, s.examine q = .ok v → t.quotes = s.quotes)) ∧
  ∀ (s : State) (id : Nat) (q : Quote), s.quote? id = some q → (∃ w ∈ s.walking, w.1 = id) → q.state = 0 →
    q.packets = [] → q.auto = false →
    ∃ t x, exec (.quoteWalkEnd id) s = .next t ∧ t.walking = s.walking.filter (fun w => decide (w.1 ≠ id)) ∧
      t.quote? id = some x ∧ x.state ∈ [1, 8, 9, 10, 11] ∧ x.deadline = s.tick + q.validity ∧
      (∀ w, s.cachedWalk q = some w → x.diag = w.found.diag ∧ x.tmax = w.found.tmax ∧ x.emax = w.found.emax) ∧
      (s.cachedWalk q = none → q.diag ≠ 0 → x.state = 8 ∧ x.diag = q.diag ∧ x.tmax = q.tmax ∧ x.emax = 0) ∧
      (s.cachedWalk q = none → q.diag = 0 → ∀ off code, s.examine q = .error (off, code) →
        x.state = 8 ∧ x.diag = code ∧ x.tmax = off ∧ x.emax = 0) ∧
      (∃ w ∈ t.walks, w.object = q.object ∧ w.asid = q.asid ∧ w.shape = q.shape ∧ w.found.tmax = x.tmax ∧
        w.found.emax = x.emax) ∧
      (s.dev.hot = true → x.state = 8 ∨ x.state = 11) ∧
      (x.state = 1 → x.slots ≠ [] ∧ x.kernel ≠ none)

/-- R90, R96: pinning that ends gives state 3 with every page of the pin set pinned, or state 1; a deadline
reached first gives state 7, and one left in state 3 sets the caller. -/
def Sys2Proof.Claims.BindingsEnd : Prop :=
  ∀ (s : State) (id : Nat) (q : Quote), s.quote? id = some q → q.packets = [] →
    (q.state = 2 →
      (∀ ok, Late s q → ∃ t, exec (.pinDone id ok) s = .next t ∧ StandsIn t id 7) ∧
      (¬ Late s q → ∀ k, q.kernel = some k →
        (∃ t, exec (.pinDone id false) s = .next t ∧ StandsIn t id 1) ∧
        (q.cls ≤ 1 → (∀ p ∈ k.pinSet, s.isPinned q.asid p = true ∨ s.pinnable q.asid p = true) →
          ∃ t, exec (.pinDone id true) s = .next t ∧ StandsIn t id 3 ∧ ∀ p ∈ k.pinSet, t.isPinned q.asid p = true))) ∧
    (Late s q →
      ∃ t x, exec (.validityDeadline id) s = .next t ∧ t.quote? id = some x ∧ x.state = 7 ∧
        x.party = if q.state = 3 ∧ q.party = 0 then 1 else q.party) ∧
    (¬ Late s q → exec (.validityDeadline id) s = .next s)

/-- The quotation's walk and binding outside the requester's instructions. -/
def Sys2Proof.Claims.QuotesWalked : Prop := Claims.WalksRun ∧ Claims.BindingsEnd

/-- R89, R100, R107: a LAUNCH on an accepted quotation opens a launch with its argument, in state 4, whose first
blocks take its free slots. -/
def Sys2Proof.Claims.LaunchesStart : Prop :=
  ∀ (s : State) (id n i : Nat) (q : Quote) (k : Kernel) (arg : W64), s.quote? id = some q → q.state = 3 →
    s.tick < q.deadline → q.pendingLaunch = some arg → q.kernel = some k → q.packets = [(n, i, 4)] →
    s.mayStart n = true → s.partsClear q.cores = true → afind s.nextLaunch s.launches = none → k.watch = false →
    q.shape.neighbour = false → (∀ b ∈ q.slots, b.block = none) →
    ∃ t l, exec (.launchStart id) s = .next t ∧ afind s.nextLaunch t.launches = some l ∧ l.qid = q.id ∧
      l.asid = q.asid ∧ l.kernel = k ∧ l.shape = q.shape ∧ l.arg = arg ∧ l.start = s.tick ∧ l.phase = .running ∧
      l.packet = some (n, i) ∧ l.started = min q.slots.length q.shape.blocks ∧ StandsIn t id 4

/-- R106–R108: a free slot takes the next block: standing gangs stay as they are, the new ones are the block's.
One gang without declared queues stands in the lowest free slot, its threads and conductor as R108 says, the block's
scratch reads zero, and nothing else has changed. -/
def Sys2Proof.Claims.BlocksStart : Prop :=
  (∀ (s : State) (n u : Nat) (l : Launch) (b : BlockSlot),
    afind n s.launches = some l → l.phase = .running → l.kernel.watch = false → l.shape.neighbour = false →
    l.started < l.shape.blocks → l.slots[u]? = some b → b.block = none →
    (∀ v, v < u → ∀ y, l.slots[v]? = some y → y.block ≠ none) →
    ∃ t, exec (.blockStart n) s = .next t ∧
      afind n t.launches =
        some { l with started := l.started + 1, slots := modAt (fun y => { y with block := some l.started }) u l.slots } ∧
      (∀ g x, afind g s.gangs = some x → afind g t.gangs = some x) ∧
      ∀ g x, afind g s.gangs = none → afind g t.gangs = some x →
        x.launch = n ∧ x.block = l.started ∧ x.depth = 0 ∧ x.begun = s.tick + 1 ∧ x.dq.entries = [] ∧ x.uq.entries = []) ∧
  ∀ (s : State) (n u c p base slot : Nat) (slots : List Nat) (l : Launch) (b : BlockSlot),
    afind n s.launches = some l → l.phase = .running → l.kernel.watch = false → l.shape.neighbour = false →
    l.started < l.shape.blocks → l.slots[u]? = some b → b.block = none →
    (∀ v, v < u → ∀ y, l.slots[v]? = some y → y.block ≠ none) → b.cores = [(c, [p])] → b.bases = [(c, base)] →
    c < 192 → p < 16 → l.shape.extent 1 = 1 → l.kernel.dqDecl = 0 → l.kernel.uqDecl = 0 → s.freeSlots c p = slot :: slots →
    let k := l.kernel
    let data : W64 := if k.dataBytes = 0 then 0 else n64 (k.object + k.data)
    let g := gangKey c p slot
    ∃ t, exec (.blockStart n) s = .next t ∧
      afind n t.launches =
        some { l with started := l.started + 1, slots := modAt (fun y => { y with block := some l.started }) u l.slots } ∧
      (t.gang g).launch = n ∧ (t.gang g).block = l.started ∧ (t.gang g).index = 0 ∧ (t.gang g).depth = 0 ∧
      (t.gang g).begun = s.tick + 1 ∧ (t.gang g).scratch = base ∧ (t.gang g).m = Vector.replicate 12 0 ∧
      (∀ v : Fin 32, ∀ e, k.laneEntry = some e → v.val < l.shape.extent 0 →
        Started k (laneOf t g v) (laneAddress e) [l.arg, data] slot v.val) ∧
      (∀ v : Fin 32, k.laneEntry = none ∨ l.shape.extent 0 ≤ v.val → laneOf t g v = Lane.empty) ∧
      ((t.gang g).cond.st = if k.condEntry = none then .exited else .live) ∧
      (∀ r, r < 192 → (t.gang g).cond.reg r = if r < k.groupRegs then [l.arg, data].getD r 0 else 0) ∧
      (∀ h, h ≠ g → t.gang h = s.gang h) ∧
      (∀ j, j < k.scratch → readByte t.mem (sliceKey c base + j) = 0) ∧
      ∀ a, (a < sliceKey c base ∨ sliceKey c base + k.scratch ≤ a) → readByte t.mem a = readByte s.mem a

/-- R115: a free gang slot takes the ready task of its partition, with the registers its parent gave. -/
def Sys2Proof.Claims.TasksStart : Prop :=
  ∀ (s : State) (core part slot : Nat) (slots : List Nat) (y : Task) (l : Launch), part < 16 →
    ((s.core core).part part).tasks = [y] → y.origin = .spawned → afind y.launch s.launches = some l →
    l.phase = .running → l.kernel.dqDecl = 0 → l.kernel.uqDecl = 0 → s.freeSlots core part = slot :: slots →
    12 - (slots.length + 1) < l.kernel.fit →
    let g := gangKey core part slot
    ∃ t, exec (.readyTaskDispatch core part) s = .next t ∧ t.mem = s.mem ∧ ((t.core core).part part).tasks = [] ∧
      (t.gang g).launch = y.launch ∧ (t.gang g).origin = .spawned ∧ (t.gang g).block = y.block ∧
      (t.gang g).wid = y.wid ∧ (t.gang g).depth = y.depth ∧ (t.gang g).bar = y.bar ∧
      (∀ v : Fin 32, ∀ e vs, y.laneEntry = some e → v.val < y.threads → y.regs[v.val]? = some vs →
        (∀ r, r < 96 → (laneOf t g v).reg r = if r < l.kernel.laneRegs then vs.getD r 0 else 0) ∧
        (laneOf t g v).st = .live ∧ (laneOf t g v).pc = laneAddress e) ∧
      ∀ h, h ≠ g → t.gang h = s.gang h

/-- R67, R100, R250, R293, R295: a launch with nothing left retires: its quotation stands in state 5 with the clocks
counted as time and the energy counted, and its barriers are unowned, word and status zero; its LAUNCH packet
completes after that. Within both bounds, an elastic quotation's
as pre-emptions extended them (R93), nothing is recorded; above the time bound with caller and operating system not at
fault, a breach is. While anything is left, nothing happens. -/
def Sys2Proof.Claims.LaunchesRetire : Prop :=
  ∀ (s : State) (n : Nat) (l : Launch), afind n s.launches = some l →
    (l.phase ≠ .retired → ¬ NothingLeft s n l → exec (.retirement n) s = .next s) ∧
    (l.phase = .retired → ∀ a b, l.packet = some (a, b) →
      exec (.retirement n) s = .next (({ s with launches := adel n s.launches } : State).complete a b 0x0001)) ∧
    ∀ q, l.phase ≠ .retired → NothingLeft s n l → s.quote? l.qid = some q → q.packets = [] → s.dev.memBytes ≤ 2 ^ 60 →
      let time := ((s.tick - l.start) * 10 + 10) / 11
      let energy :=
        ((if q.cls = 2 then 0 else 2000000) + l.pJ + 455 * q.cores.length * (s.tick - l.start) + 999) / 1000
      let longest := q.tmax + if q.cls = 1 then clkToNs l.lost else 0
      let most := q.emax + if q.cls = 1 then 40 * l.moved else 0
      ∃ t x, exec (.retirement n) s = .next t ∧ t.quote? l.qid = some x ∧ x.state = 5 ∧
        (l.packet = none → afind n t.launches = none) ∧
        (l.packet ≠ none → afind n t.launches = some { l with phase := .retired, slots := [], groups := [] }) ∧
        x.actT = time ∧ x.actE = energy ∧
        (∀ c b, (s.bar c b).owner = some n → (t.bar c b).owner = none ∧ readLE t.mem (barKey c b) 16 = 0) ∧
        (time ≤ longest → energy ≤ most → t.dev.records = s.dev.records) ∧
        (longest < time → q.party ≠ 1 → q.party ≠ 2 →
          ∃ r ∈ t.dev.records, r.kind = 6 ∧ r.cause = 0x17 ∧ r.info = 1 ∧ r.qid = l.qid ∧
            r.stval = n64 (time - longest))

/-- R290–R292: a stopping launch that has stopped is frozen where it stands; once the save has taken its time its
gangs are set aside. It resumes in the partitions it is given, its gangs as they were saved, the clocks since its
last gang reached its point added to its bound. Stop, interval and save's clocks: log 55's reading. -/
def Sys2Proof.Claims.LaunchesPreempted : Prop :=
  ∀ (s : State) (n : Nat) (l : Launch), afind n s.launches = some l →
    (l.phase = .stopping → l.halt = 0 →
      (s.launchStopped n l = false → exec (.preemptionSave n) s = .next s) ∧
      (s.launchStopped n l = true → ∃ t, exec (.preemptionSave n) s = .next t ∧ t.mem = s.mem ∧
        afind n t.launches = some { l with gone := if l.gone = 0 then s.tick + 1 else l.gone, halt := s.tick + 1 } ∧
        ∀ g x, afind g s.gangs = some x →
          afind g t.gangs = some (if x.launch = n then { x with frozen := true } else x))) ∧
    (l.phase = .stopping → l.halt ≠ 0 →
      (s.tick + 1 < l.halt + s.saveClocks n l → exec (.preemptionSave n) s = .next s) ∧
      (l.halt + s.saveClocks n l ≤ s.tick + 1 →
        ∃ t m, exec (.preemptionSave n) s = .next t ∧
          (Ordered s → (∀ e ∈ s.gangs, e.2.launch = n → e.2.dq.depth = 0 ∧ e.2.uq.depth = 0) → t.mem = s.mem) ∧
          afind n t.launches = some m ∧ m.phase = .saved ∧
          (∀ e ∈ t.gangs, e.2.launch ≠ n) ∧ m.saved.map (·.1) = (s.gangsOf n).map (·.1) ∧
          ∀ g x, afind g s.gangs = some x → x.launch ≠ n → afind g t.gangs = some x)) ∧
    (l.phase = .saved →
      (s.newParts l = none → exec (.preemptionResume n) s = .next s) ∧
      ∀ m g x, s.newParts l = some m → l.saved = [(g, x)] →
        ∃ t y, exec (.preemptionResume n) s = .next t ∧ t.mem = s.mem ∧ afind n t.launches = some y ∧
          y.phase = .running ∧ y.lost = l.lost + (s.tick + 1 - l.gone) ∧ y.moved = l.moved + 1 ∧ y.saved = [] ∧
          SameThreads x (t.gang (newGang m g)) ∧ (t.gang (newGang m g)).frozen = false)

/-- The life of a launch from its start to its retirement. -/
def Sys2Proof.Claims.LaunchesLive : Prop :=
  Claims.LaunchesStart ∧ Claims.BlocksStart ∧ Claims.TasksStart ∧ Claims.LaunchesRetire ∧ Claims.LaunchesPreempted

/-! ## Rules stated whole -/

/-- A word with these seven top bits that breaks a must-be-zero field takes 0x02 (R36). -/
def Sys2Proof.Claims.ZeroField (w : W32) (k : CoreKind) (l : Level) : Prop :=
  decode w 0 = .error .operand ∧ badWord .operand w k l = 0x02

/-- What R142's constructs look like, which values they take, and what they cost (R83): no value of a field is
turned away, a bit in a zero field raises 0x02. -/
def Sys2Proof.Claims.IndexWords : Prop :=
  decode 0x74110100 0 = .ok (.xset 1 8 4 0) ∧ decode 0x76100001 0 = .ok (.xadd 1 1) ∧
    decode 0x7610007F 0 = .ok (.xadd 1 (-1)) ∧
    (∀ w : W32, w.extractLsb' 25 7 = 0x3A → w.extractLsb' 22 3 ≠ 0 → Claims.ZeroField w .lane .u) ∧
    (∀ w : W32, w.extractLsb' 25 7 = 0x3B → w.extractLsb' 22 3 ≠ 0 ∨ w.extractLsb' 7 13 ≠ 0 →
      Claims.ZeroField w .lane .u) ∧
    ∀ (i : Instr) (k : Fin 4), ((∃ b c u, i = .xset k b c u) ∨ ∃ n, i = .xadd k n) →
      (∀ lanes groups, encodingFault i .lane .u lanes groups = none) ∧
        ∃ w, encode i = [w] ∧ classOf w = .laneInt ∧ (classOf w).issue = (2, 1) ∧ (classOf w).latency w = 4 ∧
          issueEnergy w = 35

/-- R142, whole: `xset` and `xadd`, their words, their limits and their cost. -/
def Obligations.IndexRegistersSet : Prop := Claims.IndexRegisters ∧ Claims.IndexWords

/-- What R280's constructs look like and what they cost: every code is legal, a bit in [19:8] raises 0x02; a code
other than 0x21 is charged to the caller. -/
def Sys2Proof.Claims.TrapWords : Prop :=
  decode 0x7EE00021 0 = .ok (.trap 0x21) ∧ decode 0xD8B00005 0 = .ok (.groupTrap 5) ∧
    (∀ w : W32, w.extractLsb' 20 12 = 0x7EE → w.extractLsb' 8 12 ≠ 0 → Claims.ZeroField w .lane .u) ∧
    (∀ (w : W32) (k : CoreKind) (l : Level), w.extractLsb' 20 12 = 0xD8B → w.extractLsb' 8 12 ≠ 0 → k ≠ .lane →
      Claims.ZeroField w k l) ∧
    (∀ (code : BitVec 8) (lanes groups : Nat), encodingFault (.trap code) .lane .u lanes groups = none ∧
      (∀ (k : CoreKind) (l : Level), k ≠ .lane → encodingFault (.groupTrap code) k l lanes groups = none) ∧
      ∃ v w, encode (.trap code) = [v] ∧ encode (.groupTrap code) = [w] ∧ classOf v = .laneInt ∧
        (classOf v).latency v = 4 ∧ issueEnergy v = 35 ∧ classOf w = .groupAlu ∧ (classOf w).latency w = 1 ∧
        issueEnergy w = 6) ∧
    ∀ (k : Kernel) (v : W64) (writes : Bool), faultParty k 0x14 v writes = if v = 0x21 then 0 else 1

/-- `trap` of both sets (R280): its words, its code in STVAL with the PC at the word, its party and its cost; what
it makes of a handler of a lane thread, a conductor, a Steppe or a Saddle thread (R276, R277, R278, R284, R289), and
where an interrupt enters instead (R281). A conductor's own fault stays pending until its clock ends, as log 38 says
(the model's reading). -/
def Obligations.TrapRaises : Prop := Claims.LaneTrap ∧ Claims.TrapsOfContexts ∧ Claims.TrapWords

/-- R288, whole: `sys.asid` sets SASID to the low 16 bits of its source and drops no translation; higher bits raise
0x02; it is legal on Steppe and Saddle cores alone; every `sys` subop is charged in one class. -/
def Obligations.SysAsidSets : Prop :=
  (∀ (r : GSrc) (s s1 : State) (a : Agent), GroupTurn (.sysAsid r) s a s1 →
    let v := readG s1 a r
    (v.toNat < 2 ^ 16 →
      ∃ t, exec (.sysAsid r) s = .next t ∧ t = s1.setCtx a (t.ctx a) ∧ t.cores = s1.cores ∧
        t.ctx a = { (s1.advance a 1).ctx a with sasid := (t.ctx a).sasid } ∧ (t.ctx a).sasid.toNat = v.toNat) ∧
    (2 ^ 16 ≤ v.toNat → exec (.sysAsid r) s = .next (s1.groupFault a 0x02 (firstWord (.sysAsid r))))) ∧
  decode 0xF6104000 0 = .ok (.sysAsid (.g 4)) ∧
  (∀ w : W32, w.extractLsb' 20 12 = 0xF61 → w.extractLsb' 0 12 ≠ 0 → Claims.ZeroField w .steppe .s) ∧
  (∀ (r : GSrc), encodingFault (.sysAsid r) .steppe .s 96 192 = none ∧
    encodingFault (.sysAsid r) .saddle .f 96 192 = none ∧
    ∀ (l : Level) (lanes groups : Nat), encodingFault (.sysAsid r) .cond l lanes groups = some 0x01 ∧
      encodingFault (.sysAsid r) .lane l lanes groups = some 0x01) ∧
  ∀ i : Instr,
    ((∃ a b f, i = .sysTlbinv a b f) ∨ (∃ a, i = .sysAsid a) ∨ (∃ d, i = .sysFqpop d) ∨ (∃ a, i = .sysEresume a) ∨
      (∃ d, i = .sysEvqpop d) ∨ (∃ a, i = .sysQlk a) ∨ (∃ a, i = .sysQulk a) ∨ (∃ a b, i = .sysMsi a b) ∨
      i = .sysHbeat ∨ ∃ a, i = .sysSlot a) →
    ∃ w, encode i = [w] ∧ classOf w = .groupAlu ∧ (classOf w).latency w = 1 ∧ issueEnergy w = 6

/-! ## Everything together -/

/-- What a core's watch unit, its posters and its fetches do on their own.
Block numbers of triggered gangs are read as log 53 says; that a debug halt comes before a parked lane's fault is the
model's choice of an order (log 38). -/
def Obligations.TriggersAndRecords : Prop := Claims.TriggersJoin ∧ Claims.RecordsAndRequests

/-- How the device starts, and what reaches it from outside.
What FSLOT keeps through a reset is read as log 56 says, boot as log 57 says.
The model's choices: memory reads 0 after power-on, a reset and an emergency (log 2); the reset values of the directory's
address, the sponge and the measures (logs 8, 9); Steppe's zero registers at stage 7 (log 13); the entries, the vector of
the ROM and the Steppe image as constants left open (logs 17, 21); replies and the layout of a measurement (logs 12, 18). -/
def Obligations.DeviceAndOutside : Prop := Claims.DeviceStarts ∧ Claims.OutsideReaches

/-- The packets of the queues and the events of the pool that serves them.
Statuses that two rules could give are read as log 64 says. -/
def Obligations.PacketsAndPool : Prop := Claims.PacketsRun ∧ Claims.PoolServes

/-- Quotations and launches from the walk to retirement.
What stays counted, and when a partition is free, is log 65's reading; the first id log 11's. -/
def Obligations.QuotesAndLaunchesLive : Prop := Claims.QuotesWalked ∧ Claims.LaunchesLive

/-! ## Steps, decoding, the whole machine -/

/-- The words at an agent's PC are the instruction `i`; reading them leaves `u` (R35, R117). -/
def Sys2Proof.Claims.Stands (s u : State) (a : Agent) (i : Instr) : Prop :=
  ∃ w, (twoWords w = false ∧ s.fetchWord a 0 = (u, .word w) ∧ decode w 0 = .ok i) ∨
    ∃ v x, twoWords w = true ∧ wordLegal w (agentKind a) (v.levelOf a) = true ∧ s.fetchWord a 0 = (v, .word w) ∧
      v.fetchWord a 1 = (u, .word x) ∧ decode w x = .ok i

/-- The step of `s` issues what stands at the PC of `a` in `u`: it is `exec` of it, with nothing left in issue;
after a prefix the next word of the unit follows at once (R47). -/
def Sys2Proof.Claims.StepIssues (s u : State) (a : Agent) : Prop :=
  ∀ i v t, Claims.Stands u v a i → exec i v = .next t →
    (t.issue.words = 0 → step s = .next { t with issue := Issue.idle }) ∧
    (t.issue.words = 1 →
      let t1 : State := { t with issue := { t.issue with who := some a } }
      ∀ j w z, t1.fetch a 1 = (w, .instr j) → exec j w = .next z → z.issue.words = 1 →
        step s = .next { z with issue := Issue.idle })

/-- The state in which partition `p` of core `c` has its pick of this clock: what has landed is in the registers. -/
def Sys2Proof.Claims.picking (s : State) (c p : Nat) : State :=
  (s.settlePart c p).setPart c p fun x => { x with picked := s.tick + 1 }

/-- A step runs the instruction at the PC: of a Steppe or Saddle thread that can issue, where no interrupt is due
at this boundary (R281); of the issue group of the one gang of a partition; of its conductor where no lane thread
is ready. The picker keeps its pointers and ages (R121, R122). -/
def Obligations.StepRunsDecodedInstruction : Prop :=
  (∀ (s : State) (a : Agent) (rest : List Move), s.agenda = .run a :: rest → agentKind a = .steppe ∨ agentKind a = .saddle →
    let s0 : State := { s with agenda := rest }
    let s1 := s0.settle a
    (∀ core thr, a = .steppe core thr → s0.vectorDue core thr = none) → s1.ctxReady a = true →
    Claims.StepIssues s { s1 with issue := { Issue.idle with who := some a } } a) ∧
  ∀ (s : State) (c p k : Nat) (rest : List Move) (x : Gang), s.agenda = .pick c p :: rest → c < 192 → p < 16 → k < 12 →
    ((s.core c).part p).picked ≠ s.tick + 1 → afind (gangKey c p k) s.gangs = some x →
    (∀ j, j < 12 → j ≠ k → afind (gangKey c p j) s.gangs = none) →
    let g := gangKey c p k
    let s1 := Claims.picking { s with agenda := rest } c p
    (s1.ctxReady (.cond g) = true → s1.laneGroups g = [] →
      ∃ u, Claims.StepIssues s u (.cond g) ∧ u.issue = { Issue.idle with who := some (.cond g) } ∧
        u = { s1 with cores := u.cores, issue := u.issue } ∧ u.gang g = x.settle s.tick) ∧
    ∀ pc m, s1.ctxReady (.cond g) = false → ((s.core c).part p).busyUntil ≤ s.tick → s1.laneGroups g = [(pc, m)] →
      let a : Agent := .lane g ((threads m).headD 0).val
      ∃ u, Claims.StepIssues s u a ∧ u.issue = { Issue.idle with who := some a, mask := m } ∧
        u = { s1 with cores := u.cores, gangs := u.gangs, issue := u.issue } ∧
        u.gang g = (x.settle s.tick).aged [(pc, m)] m ∧ ∀ h, h ≠ g → u.gang h = s1.gang h

/-- Words that the manual writes out decode to the instructions it gives them. -/
def Obligations.DecodeSampleWords : Prop :=
  decode 0x22020206 0 = .ok (.addss .i8 (.v 4) (.v 2) (.lane (.v 3))) ∧
  decode 0x8C0E1012 0 = .ok (.divs (.g 7) (.g 8) (.g 9) false) ∧
  decode 0xC007FFFB 0 = .ok (.movw (.g 3) (-5)) ∧
  decode 0x7E300000 0 = .ok (.join 0) ∧ decode 0x7E420000 0 = .ok (.leave 2) ∧ decode 0x7E500000 0 = .ok (.wait 0) ∧
  decode 0xD8E00000 0 = .ok .eret ∧ decode 0xD8E00001 0 = .ok .eretLanes ∧
  decode 0xE2000000 0 = .ok .mxctlTake ∧ decode 0xE60080A0 0 = .ok (.barInit 4 (.g 5)) ∧
  decode 0xF6504000 0 = .ok (.sysEvqpop (.g 4)) ∧ decode 0xF6405060 0 = .ok (.sysMsi (.g 5) (.g 6)) ∧
  decode 0xF6800000 0 = .ok .sysHbeat ∧ decode 0xF6906000 0 = .ok (.sysSlot (.g 6)) ∧
  decode 0 0 = .error .illegal

/-- Every well-formed instruction of the table, with every operand at every value its encoding admits, decodes
back from its words and leaves the bytes after them (R35–R58). -/
def Obligations.EncodeDecodeRoundTrip : Prop :=
  ∀ (i : Instr) (rest : List Byte), wellFormed i = true → encode i ≠ [] →
    decodeBytes ((encode i).flatMap (fun w => leBytes 4 w.toNat) ++ rest) = .ok (i, rest)

/-- R36–R58: every word means at most one instruction: what a word, with the word after it, decodes to has exactly
those words for its encoding. So no bit is dropped, and no reserved code falls through to a neighbour. -/
def Obligations.WordsHaveOneMeaning : Prop :=
  ∀ (w x : W32) (i : Instr), decode w x = .ok i → encode i = if twoWords w then [w, x] else [w]

/-- From every state, whatever the next move is, the machine goes on: no step ends in a fault or a refusal. -/
def Obligations.EveryStepGoesOn : Prop := ∀ s : State, Safety.goesOn s

/-- Every step keeps memory in its canonical form and the gangs in order, and leaves no instruction half issued. -/
def Obligations.SoundStateIsKept : Prop :=
  ∀ s t : State, Safety.Sound s → step s = .next t → Safety.Sound t

/-- R274, R303: right after reset every CSR reads zero but FSLOT, whose bits [6:5] are 1, and EMASK, 0xFF; nothing
is quoted, launched or in flight. That unlisted memory reads 0 is the model's choice (log 2), and so are the general
registers' zeros (log 13). -/
def Obligations.ResetState : Prop :=
  Safety.Sound State.reset ∧ State.reset.tick = 0 ∧ (∀ k, readByte State.reset.mem k = 0) ∧
    State.reset.gangs = [] ∧ State.reset.launches = [] ∧ State.reset.quotes = [] ∧ State.reset.flight = [] ∧
    (let d := State.reset.dev
     d.ctvb = 0 ∧ d.satb = 0 ∧ d.sfqb = 0 ∧ d.ftvb = 0 ∧ d.fhb = 0 ∧ d.fwdt = 0 ∧ d.fslot.extractLsb' 5 2 = 1 ∧
       d.events = [] ∧ d.files = Vector.replicate 8 0 ∧ d.sec.stat = 0 ∧ d.sec.data = 0 ∧ d.sec.fmeas = 0) ∧
    (∀ a : Agent, agentKind a ≠ .lane →
      let c := State.reset.ctx a
      (∀ r, r < 192 → c.reg r = 0) ∧ c.stvb = 0 ∧ c.scause = 0 ∧ c.sepc = 0 ∧ c.stval = 0 ∧ c.sscr = 0 ∧ c.sasid = 0 ∧
        c.sptb = 0 ∧ c.sstat = 0 ∧ c.frm = 0 ∧ c.ffl = 0 ∧ c.tsp = 0 ∧ c.cdep = 0) ∧
    ∀ g t, ((State.reset.gang g).lane t).emask = 0xFF
end

