-- ==== Sys2Proof/Laws/State.lean ====
section
/-! SUPPORT. What each update of the state leaves alone: one lemma for each field and update. -/

namespace Sys2Proof.Machine

/-! ### setGang -/

@[simp] theorem State.setGang_tick (s : State) (g : Nat) (x : Gang) : (s.setGang g x).tick = s.tick := rfl
@[simp] theorem State.setGang_mem (s : State) (g : Nat) (x : Gang) : (s.setGang g x).mem = s.mem := rfl
@[simp] theorem State.setGang_flawed (s : State) (g : Nat) (x : Gang) : (s.setGang g x).flawed = s.flawed := rfl
@[simp] theorem State.setGang_cores (s : State) (g : Nat) (x : Gang) : (s.setGang g x).cores = s.cores := rfl
@[simp] theorem State.setGang_steppes (s : State) (g : Nat) (x : Gang) : (s.setGang g x).steppes = s.steppes := rfl
@[simp] theorem State.setGang_saddles (s : State) (g : Nat) (x : Gang) : (s.setGang g x).saddles = s.saddles := rfl
@[simp] theorem State.setGang_flight (s : State) (g : Nat) (x : Gang) : (s.setGang g x).flight = s.flight := rfl
@[simp] theorem State.setGang_nextId (s : State) (g : Nat) (x : Gang) : (s.setGang g x).nextId = s.nextId := rfl
@[simp] theorem State.setGang_synced (s : State) (g : Nat) (x : Gang) : (s.setGang g x).synced = s.synced := rfl
@[simp] theorem State.setGang_ahead (s : State) (g : Nat) (x : Gang) : (s.setGang g x).ahead = s.ahead := rfl
@[simp] theorem State.setGang_launches (s : State) (g : Nat) (x : Gang) : (s.setGang g x).launches = s.launches := rfl
@[simp] theorem State.setGang_nextLaunch (s : State) (g : Nat) (x : Gang) : (s.setGang g x).nextLaunch = s.nextLaunch := rfl
@[simp] theorem State.setGang_quotes (s : State) (g : Nat) (x : Gang) : (s.setGang g x).quotes = s.quotes := rfl
@[simp] theorem State.setGang_nextQid (s : State) (g : Nat) (x : Gang) : (s.setGang g x).nextQid = s.nextQid := rfl
@[simp] theorem State.setGang_voids (s : State) (g : Nat) (x : Gang) : (s.setGang g x).voids = s.voids := rfl
@[simp] theorem State.setGang_walks (s : State) (g : Nat) (x : Gang) : (s.setGang g x).walks = s.walks := rfl
@[simp] theorem State.setGang_walkQueue (s : State) (g : Nat) (x : Gang) : (s.setGang g x).walkQueue = s.walkQueue := rfl
@[simp] theorem State.setGang_walking (s : State) (g : Nat) (x : Gang) : (s.setGang g x).walking = s.walking := rfl
@[simp] theorem State.setGang_refused (s : State) (g : Nat) (x : Gang) : (s.setGang g x).refused = s.refused := rfl
@[simp] theorem State.setGang_pins (s : State) (g : Nat) (x : Gang) : (s.setGang g x).pins = s.pins := rfl
@[simp] theorem State.setGang_dev (s : State) (g : Nat) (x : Gang) : (s.setGang g x).dev = s.dev := rfl
@[simp] theorem State.setGang_issue (s : State) (g : Nat) (x : Gang) : (s.setGang g x).issue = s.issue := rfl
@[simp] theorem State.setGang_agenda (s : State) (g : Nat) (x : Gang) : (s.setGang g x).agenda = s.agenda := rfl
@[simp] theorem State.setGang_moves (s : State) (g : Nat) (x : Gang) : (s.setGang g x).moves = s.moves := rfl
@[simp] theorem State.setGang_free (s : State) (g : Nat) (x : Gang) : (s.setGang g x).free = s.free := rfl

/-! ### setCore -/

@[simp] theorem State.setCore_tick (s : State) (c : Nat) (x : CoreSt) : (s.setCore c x).tick = s.tick := rfl
@[simp] theorem State.setCore_mem (s : State) (c : Nat) (x : CoreSt) : (s.setCore c x).mem = s.mem := rfl
@[simp] theorem State.setCore_flawed (s : State) (c : Nat) (x : CoreSt) : (s.setCore c x).flawed = s.flawed := rfl
@[simp] theorem State.setCore_gangs (s : State) (c : Nat) (x : CoreSt) : (s.setCore c x).gangs = s.gangs := rfl
@[simp] theorem State.setCore_steppes (s : State) (c : Nat) (x : CoreSt) : (s.setCore c x).steppes = s.steppes := rfl
@[simp] theorem State.setCore_saddles (s : State) (c : Nat) (x : CoreSt) : (s.setCore c x).saddles = s.saddles := rfl
@[simp] theorem State.setCore_flight (s : State) (c : Nat) (x : CoreSt) : (s.setCore c x).flight = s.flight := rfl
@[simp] theorem State.setCore_nextId (s : State) (c : Nat) (x : CoreSt) : (s.setCore c x).nextId = s.nextId := rfl
@[simp] theorem State.setCore_synced (s : State) (c : Nat) (x : CoreSt) : (s.setCore c x).synced = s.synced := rfl
@[simp] theorem State.setCore_ahead (s : State) (c : Nat) (x : CoreSt) : (s.setCore c x).ahead = s.ahead := rfl
@[simp] theorem State.setCore_launches (s : State) (c : Nat) (x : CoreSt) : (s.setCore c x).launches = s.launches := rfl
@[simp] theorem State.setCore_nextLaunch (s : State) (c : Nat) (x : CoreSt) : (s.setCore c x).nextLaunch = s.nextLaunch := rfl
@[simp] theorem State.setCore_quotes (s : State) (c : Nat) (x : CoreSt) : (s.setCore c x).quotes = s.quotes := rfl
@[simp] theorem State.setCore_nextQid (s : State) (c : Nat) (x : CoreSt) : (s.setCore c x).nextQid = s.nextQid := rfl
@[simp] theorem State.setCore_voids (s : State) (c : Nat) (x : CoreSt) : (s.setCore c x).voids = s.voids := rfl
@[simp] theorem State.setCore_walks (s : State) (c : Nat) (x : CoreSt) : (s.setCore c x).walks = s.walks := rfl
@[simp] theorem State.setCore_walkQueue (s : State) (c : Nat) (x : CoreSt) : (s.setCore c x).walkQueue = s.walkQueue := rfl
@[simp] theorem State.setCore_walking (s : State) (c : Nat) (x : CoreSt) : (s.setCore c x).walking = s.walking := rfl
@[simp] theorem State.setCore_refused (s : State) (c : Nat) (x : CoreSt) : (s.setCore c x).refused = s.refused := rfl
@[simp] theorem State.setCore_pins (s : State) (c : Nat) (x : CoreSt) : (s.setCore c x).pins = s.pins := rfl
@[simp] theorem State.setCore_dev (s : State) (c : Nat) (x : CoreSt) : (s.setCore c x).dev = s.dev := rfl
@[simp] theorem State.setCore_issue (s : State) (c : Nat) (x : CoreSt) : (s.setCore c x).issue = s.issue := rfl
@[simp] theorem State.setCore_agenda (s : State) (c : Nat) (x : CoreSt) : (s.setCore c x).agenda = s.agenda := rfl
@[simp] theorem State.setCore_moves (s : State) (c : Nat) (x : CoreSt) : (s.setCore c x).moves = s.moves := rfl
@[simp] theorem State.setCore_free (s : State) (c : Nat) (x : CoreSt) : (s.setCore c x).free = s.free := rfl

/-! ### setLaunch -/

@[simp] theorem State.setLaunch_tick (s : State) (l : Nat) (x : Launch) : (s.setLaunch l x).tick = s.tick := rfl
@[simp] theorem State.setLaunch_mem (s : State) (l : Nat) (x : Launch) : (s.setLaunch l x).mem = s.mem := rfl
@[simp] theorem State.setLaunch_flawed (s : State) (l : Nat) (x : Launch) : (s.setLaunch l x).flawed = s.flawed := rfl
@[simp] theorem State.setLaunch_gangs (s : State) (l : Nat) (x : Launch) : (s.setLaunch l x).gangs = s.gangs := rfl
@[simp] theorem State.setLaunch_cores (s : State) (l : Nat) (x : Launch) : (s.setLaunch l x).cores = s.cores := rfl
@[simp] theorem State.setLaunch_steppes (s : State) (l : Nat) (x : Launch) : (s.setLaunch l x).steppes = s.steppes := rfl
@[simp] theorem State.setLaunch_saddles (s : State) (l : Nat) (x : Launch) : (s.setLaunch l x).saddles = s.saddles := rfl
@[simp] theorem State.setLaunch_flight (s : State) (l : Nat) (x : Launch) : (s.setLaunch l x).flight = s.flight := rfl
@[simp] theorem State.setLaunch_nextId (s : State) (l : Nat) (x : Launch) : (s.setLaunch l x).nextId = s.nextId := rfl
@[simp] theorem State.setLaunch_synced (s : State) (l : Nat) (x : Launch) : (s.setLaunch l x).synced = s.synced := rfl
@[simp] theorem State.setLaunch_ahead (s : State) (l : Nat) (x : Launch) : (s.setLaunch l x).ahead = s.ahead := rfl
@[simp] theorem State.setLaunch_nextLaunch (s : State) (l : Nat) (x : Launch) : (s.setLaunch l x).nextLaunch = s.nextLaunch := rfl
@[simp] theorem State.setLaunch_quotes (s : State) (l : Nat) (x : Launch) : (s.setLaunch l x).quotes = s.quotes := rfl
@[simp] theorem State.setLaunch_nextQid (s : State) (l : Nat) (x : Launch) : (s.setLaunch l x).nextQid = s.nextQid := rfl
@[simp] theorem State.setLaunch_voids (s : State) (l : Nat) (x : Launch) : (s.setLaunch l x).voids = s.voids := rfl
@[simp] theorem State.setLaunch_walks (s : State) (l : Nat) (x : Launch) : (s.setLaunch l x).walks = s.walks := rfl
@[simp] theorem State.setLaunch_walkQueue (s : State) (l : Nat) (x : Launch) : (s.setLaunch l x).walkQueue = s.walkQueue := rfl
@[simp] theorem State.setLaunch_walking (s : State) (l : Nat) (x : Launch) : (s.setLaunch l x).walking = s.walking := rfl
@[simp] theorem State.setLaunch_refused (s : State) (l : Nat) (x : Launch) : (s.setLaunch l x).refused = s.refused := rfl
@[simp] theorem State.setLaunch_pins (s : State) (l : Nat) (x : Launch) : (s.setLaunch l x).pins = s.pins := rfl
@[simp] theorem State.setLaunch_dev (s : State) (l : Nat) (x : Launch) : (s.setLaunch l x).dev = s.dev := rfl
@[simp] theorem State.setLaunch_issue (s : State) (l : Nat) (x : Launch) : (s.setLaunch l x).issue = s.issue := rfl
@[simp] theorem State.setLaunch_agenda (s : State) (l : Nat) (x : Launch) : (s.setLaunch l x).agenda = s.agenda := rfl
@[simp] theorem State.setLaunch_moves (s : State) (l : Nat) (x : Launch) : (s.setLaunch l x).moves = s.moves := rfl
@[simp] theorem State.setLaunch_free (s : State) (l : Nat) (x : Launch) : (s.setLaunch l x).free = s.free := rfl

/-! ### setQuote -/

@[simp] theorem State.setQuote_tick (s : State) (q : Quote) : (s.setQuote q).tick = s.tick := rfl
@[simp] theorem State.setQuote_mem (s : State) (q : Quote) : (s.setQuote q).mem = s.mem := rfl
@[simp] theorem State.setQuote_flawed (s : State) (q : Quote) : (s.setQuote q).flawed = s.flawed := rfl
@[simp] theorem State.setQuote_gangs (s : State) (q : Quote) : (s.setQuote q).gangs = s.gangs := rfl
@[simp] theorem State.setQuote_cores (s : State) (q : Quote) : (s.setQuote q).cores = s.cores := rfl
@[simp] theorem State.setQuote_steppes (s : State) (q : Quote) : (s.setQuote q).steppes = s.steppes := rfl
@[simp] theorem State.setQuote_saddles (s : State) (q : Quote) : (s.setQuote q).saddles = s.saddles := rfl
@[simp] theorem State.setQuote_flight (s : State) (q : Quote) : (s.setQuote q).flight = s.flight := rfl
@[simp] theorem State.setQuote_nextId (s : State) (q : Quote) : (s.setQuote q).nextId = s.nextId := rfl
@[simp] theorem State.setQuote_synced (s : State) (q : Quote) : (s.setQuote q).synced = s.synced := rfl
@[simp] theorem State.setQuote_ahead (s : State) (q : Quote) : (s.setQuote q).ahead = s.ahead := rfl
@[simp] theorem State.setQuote_launches (s : State) (q : Quote) : (s.setQuote q).launches = s.launches := rfl
@[simp] theorem State.setQuote_nextLaunch (s : State) (q : Quote) : (s.setQuote q).nextLaunch = s.nextLaunch := rfl
@[simp] theorem State.setQuote_nextQid (s : State) (q : Quote) : (s.setQuote q).nextQid = s.nextQid := rfl
@[simp] theorem State.setQuote_voids (s : State) (q : Quote) : (s.setQuote q).voids = s.voids := rfl
@[simp] theorem State.setQuote_walks (s : State) (q : Quote) : (s.setQuote q).walks = s.walks := rfl
@[simp] theorem State.setQuote_walkQueue (s : State) (q : Quote) : (s.setQuote q).walkQueue = s.walkQueue := rfl
@[simp] theorem State.setQuote_walking (s : State) (q : Quote) : (s.setQuote q).walking = s.walking := rfl
@[simp] theorem State.setQuote_refused (s : State) (q : Quote) : (s.setQuote q).refused = s.refused := rfl
@[simp] theorem State.setQuote_pins (s : State) (q : Quote) : (s.setQuote q).pins = s.pins := rfl
@[simp] theorem State.setQuote_dev (s : State) (q : Quote) : (s.setQuote q).dev = s.dev := rfl
@[simp] theorem State.setQuote_issue (s : State) (q : Quote) : (s.setQuote q).issue = s.issue := rfl
@[simp] theorem State.setQuote_agenda (s : State) (q : Quote) : (s.setQuote q).agenda = s.agenda := rfl
@[simp] theorem State.setQuote_moves (s : State) (q : Quote) : (s.setQuote q).moves = s.moves := rfl
@[simp] theorem State.setQuote_free (s : State) (q : Quote) : (s.setQuote q).free = s.free := rfl

/-! ### mapLanes -/

@[simp] theorem State.mapLanes_tick (s : State) (g : Nat) (m : W32) (f : Fin 32 → Lane → Lane) : (s.mapLanes g m f).tick = s.tick := rfl
@[simp] theorem State.mapLanes_mem (s : State) (g : Nat) (m : W32) (f : Fin 32 → Lane → Lane) : (s.mapLanes g m f).mem = s.mem := rfl
@[simp] theorem State.mapLanes_flawed (s : State) (g : Nat) (m : W32) (f : Fin 32 → Lane → Lane) : (s.mapLanes g m f).flawed = s.flawed := rfl
@[simp] theorem State.mapLanes_cores (s : State) (g : Nat) (m : W32) (f : Fin 32 → Lane → Lane) : (s.mapLanes g m f).cores = s.cores := rfl
@[simp] theorem State.mapLanes_steppes (s : State) (g : Nat) (m : W32) (f : Fin 32 → Lane → Lane) : (s.mapLanes g m f).steppes = s.steppes := rfl
@[simp] theorem State.mapLanes_saddles (s : State) (g : Nat) (m : W32) (f : Fin 32 → Lane → Lane) : (s.mapLanes g m f).saddles = s.saddles := rfl
@[simp] theorem State.mapLanes_flight (s : State) (g : Nat) (m : W32) (f : Fin 32 → Lane → Lane) : (s.mapLanes g m f).flight = s.flight := rfl
@[simp] theorem State.mapLanes_nextId (s : State) (g : Nat) (m : W32) (f : Fin 32 → Lane → Lane) : (s.mapLanes g m f).nextId = s.nextId := rfl
@[simp] theorem State.mapLanes_synced (s : State) (g : Nat) (m : W32) (f : Fin 32 → Lane → Lane) : (s.mapLanes g m f).synced = s.synced := rfl
@[simp] theorem State.mapLanes_ahead (s : State) (g : Nat) (m : W32) (f : Fin 32 → Lane → Lane) : (s.mapLanes g m f).ahead = s.ahead := rfl
@[simp] theorem State.mapLanes_launches (s : State) (g : Nat) (m : W32) (f : Fin 32 → Lane → Lane) : (s.mapLanes g m f).launches = s.launches := rfl
@[simp] theorem State.mapLanes_nextLaunch (s : State) (g : Nat) (m : W32) (f : Fin 32 → Lane → Lane) : (s.mapLanes g m f).nextLaunch = s.nextLaunch := rfl
@[simp] theorem State.mapLanes_quotes (s : State) (g : Nat) (m : W32) (f : Fin 32 → Lane → Lane) : (s.mapLanes g m f).quotes = s.quotes := rfl
@[simp] theorem State.mapLanes_nextQid (s : State) (g : Nat) (m : W32) (f : Fin 32 → Lane → Lane) : (s.mapLanes g m f).nextQid = s.nextQid := rfl
@[simp] theorem State.mapLanes_voids (s : State) (g : Nat) (m : W32) (f : Fin 32 → Lane → Lane) : (s.mapLanes g m f).voids = s.voids := rfl
@[simp] theorem State.mapLanes_walks (s : State) (g : Nat) (m : W32) (f : Fin 32 → Lane → Lane) : (s.mapLanes g m f).walks = s.walks := rfl
@[simp] theorem State.mapLanes_walkQueue (s : State) (g : Nat) (m : W32) (f : Fin 32 → Lane → Lane) : (s.mapLanes g m f).walkQueue = s.walkQueue := rfl
@[simp] theorem State.mapLanes_walking (s : State) (g : Nat) (m : W32) (f : Fin 32 → Lane → Lane) : (s.mapLanes g m f).walking = s.walking := rfl
@[simp] theorem State.mapLanes_refused (s : State) (g : Nat) (m : W32) (f : Fin 32 → Lane → Lane) : (s.mapLanes g m f).refused = s.refused := rfl
@[simp] theorem State.mapLanes_pins (s : State) (g : Nat) (m : W32) (f : Fin 32 → Lane → Lane) : (s.mapLanes g m f).pins = s.pins := rfl
@[simp] theorem State.mapLanes_dev (s : State) (g : Nat) (m : W32) (f : Fin 32 → Lane → Lane) : (s.mapLanes g m f).dev = s.dev := rfl
@[simp] theorem State.mapLanes_issue (s : State) (g : Nat) (m : W32) (f : Fin 32 → Lane → Lane) : (s.mapLanes g m f).issue = s.issue := rfl
@[simp] theorem State.mapLanes_agenda (s : State) (g : Nat) (m : W32) (f : Fin 32 → Lane → Lane) : (s.mapLanes g m f).agenda = s.agenda := rfl
@[simp] theorem State.mapLanes_moves (s : State) (g : Nat) (m : W32) (f : Fin 32 → Lane → Lane) : (s.mapLanes g m f).moves = s.moves := rfl
@[simp] theorem State.mapLanes_free (s : State) (g : Nat) (m : W32) (f : Fin 32 → Lane → Lane) : (s.mapLanes g m f).free = s.free := rfl

/-! ### setCtx -/

@[simp] theorem State.setCtx_tick (s : State) (a : Agent) (x : Ctx) : (s.setCtx a x).tick = s.tick := by cases a <;> rfl
@[simp] theorem State.setCtx_mem (s : State) (a : Agent) (x : Ctx) : (s.setCtx a x).mem = s.mem := by cases a <;> rfl
@[simp] theorem State.setCtx_flawed (s : State) (a : Agent) (x : Ctx) : (s.setCtx a x).flawed = s.flawed := by cases a <;> rfl
@[simp] theorem State.setCtx_cores (s : State) (a : Agent) (x : Ctx) : (s.setCtx a x).cores = s.cores := by cases a <;> rfl
@[simp] theorem State.setCtx_flight (s : State) (a : Agent) (x : Ctx) : (s.setCtx a x).flight = s.flight := by cases a <;> rfl
@[simp] theorem State.setCtx_nextId (s : State) (a : Agent) (x : Ctx) : (s.setCtx a x).nextId = s.nextId := by cases a <;> rfl
@[simp] theorem State.setCtx_synced (s : State) (a : Agent) (x : Ctx) : (s.setCtx a x).synced = s.synced := by cases a <;> rfl
@[simp] theorem State.setCtx_ahead (s : State) (a : Agent) (x : Ctx) : (s.setCtx a x).ahead = s.ahead := by cases a <;> rfl
@[simp] theorem State.setCtx_launches (s : State) (a : Agent) (x : Ctx) : (s.setCtx a x).launches = s.launches := by cases a <;> rfl
@[simp] theorem State.setCtx_nextLaunch (s : State) (a : Agent) (x : Ctx) : (s.setCtx a x).nextLaunch = s.nextLaunch := by cases a <;> rfl
@[simp] theorem State.setCtx_quotes (s : State) (a : Agent) (x : Ctx) : (s.setCtx a x).quotes = s.quotes := by cases a <;> rfl
@[simp] theorem State.setCtx_nextQid (s : State) (a : Agent) (x : Ctx) : (s.setCtx a x).nextQid = s.nextQid := by cases a <;> rfl
@[simp] theorem State.setCtx_voids (s : State) (a : Agent) (x : Ctx) : (s.setCtx a x).voids = s.voids := by cases a <;> rfl
@[simp] theorem State.setCtx_walks (s : State) (a : Agent) (x : Ctx) : (s.setCtx a x).walks = s.walks := by cases a <;> rfl
@[simp] theorem State.setCtx_walkQueue (s : State) (a : Agent) (x : Ctx) : (s.setCtx a x).walkQueue = s.walkQueue := by cases a <;> rfl
@[simp] theorem State.setCtx_walking (s : State) (a : Agent) (x : Ctx) : (s.setCtx a x).walking = s.walking := by cases a <;> rfl
@[simp] theorem State.setCtx_refused (s : State) (a : Agent) (x : Ctx) : (s.setCtx a x).refused = s.refused := by cases a <;> rfl
@[simp] theorem State.setCtx_pins (s : State) (a : Agent) (x : Ctx) : (s.setCtx a x).pins = s.pins := by cases a <;> rfl
@[simp] theorem State.setCtx_dev (s : State) (a : Agent) (x : Ctx) : (s.setCtx a x).dev = s.dev := by cases a <;> rfl
@[simp] theorem State.setCtx_issue (s : State) (a : Agent) (x : Ctx) : (s.setCtx a x).issue = s.issue := by cases a <;> rfl
@[simp] theorem State.setCtx_agenda (s : State) (a : Agent) (x : Ctx) : (s.setCtx a x).agenda = s.agenda := by cases a <;> rfl
@[simp] theorem State.setCtx_moves (s : State) (a : Agent) (x : Ctx) : (s.setCtx a x).moves = s.moves := by cases a <;> rfl
@[simp] theorem State.setCtx_free (s : State) (a : Agent) (x : Ctx) : (s.setCtx a x).free = s.free := by cases a <;> rfl

/-! ### post -/

@[simp] theorem State.post_tick (s : State) (r : Record) : (s.post r).tick = s.tick := rfl
@[simp] theorem State.post_mem (s : State) (r : Record) : (s.post r).mem = s.mem := rfl
@[simp] theorem State.post_flawed (s : State) (r : Record) : (s.post r).flawed = s.flawed := rfl
@[simp] theorem State.post_gangs (s : State) (r : Record) : (s.post r).gangs = s.gangs := rfl
@[simp] theorem State.post_cores (s : State) (r : Record) : (s.post r).cores = s.cores := rfl
@[simp] theorem State.post_steppes (s : State) (r : Record) : (s.post r).steppes = s.steppes := rfl
@[simp] theorem State.post_saddles (s : State) (r : Record) : (s.post r).saddles = s.saddles := rfl
@[simp] theorem State.post_flight (s : State) (r : Record) : (s.post r).flight = s.flight := rfl
@[simp] theorem State.post_nextId (s : State) (r : Record) : (s.post r).nextId = s.nextId := rfl
@[simp] theorem State.post_synced (s : State) (r : Record) : (s.post r).synced = s.synced := rfl
@[simp] theorem State.post_ahead (s : State) (r : Record) : (s.post r).ahead = s.ahead := rfl
@[simp] theorem State.post_launches (s : State) (r : Record) : (s.post r).launches = s.launches := rfl
@[simp] theorem State.post_nextLaunch (s : State) (r : Record) : (s.post r).nextLaunch = s.nextLaunch := rfl
@[simp] theorem State.post_quotes (s : State) (r : Record) : (s.post r).quotes = s.quotes := rfl
@[simp] theorem State.post_nextQid (s : State) (r : Record) : (s.post r).nextQid = s.nextQid := rfl
@[simp] theorem State.post_voids (s : State) (r : Record) : (s.post r).voids = s.voids := rfl
@[simp] theorem State.post_walks (s : State) (r : Record) : (s.post r).walks = s.walks := rfl
@[simp] theorem State.post_walkQueue (s : State) (r : Record) : (s.post r).walkQueue = s.walkQueue := rfl
@[simp] theorem State.post_walking (s : State) (r : Record) : (s.post r).walking = s.walking := rfl
@[simp] theorem State.post_refused (s : State) (r : Record) : (s.post r).refused = s.refused := rfl
@[simp] theorem State.post_pins (s : State) (r : Record) : (s.post r).pins = s.pins := rfl
@[simp] theorem State.post_issue (s : State) (r : Record) : (s.post r).issue = s.issue := rfl
@[simp] theorem State.post_agenda (s : State) (r : Record) : (s.post r).agenda = s.agenda := rfl
@[simp] theorem State.post_moves (s : State) (r : Record) : (s.post r).moves = s.moves := rfl
@[simp] theorem State.post_free (s : State) (r : Record) : (s.post r).free = s.free := rfl

/-! ### log -/

@[simp] theorem State.log_tick (s : State) (kind io core asid qid : Nat) (detail : W64) : (s.log kind io core asid qid detail).tick = s.tick := by unfold State.log; split <;> rfl
@[simp] theorem State.log_mem (s : State) (kind io core asid qid : Nat) (detail : W64) : (s.log kind io core asid qid detail).mem = s.mem := by unfold State.log; split <;> rfl
@[simp] theorem State.log_flawed (s : State) (kind io core asid qid : Nat) (detail : W64) : (s.log kind io core asid qid detail).flawed = s.flawed := by unfold State.log; split <;> rfl
@[simp] theorem State.log_gangs (s : State) (kind io core asid qid : Nat) (detail : W64) : (s.log kind io core asid qid detail).gangs = s.gangs := by unfold State.log; split <;> rfl
@[simp] theorem State.log_cores (s : State) (kind io core asid qid : Nat) (detail : W64) : (s.log kind io core asid qid detail).cores = s.cores := by unfold State.log; split <;> rfl
@[simp] theorem State.log_steppes (s : State) (kind io core asid qid : Nat) (detail : W64) : (s.log kind io core asid qid detail).steppes = s.steppes := by unfold State.log; split <;> rfl
@[simp] theorem State.log_saddles (s : State) (kind io core asid qid : Nat) (detail : W64) : (s.log kind io core asid qid detail).saddles = s.saddles := by unfold State.log; split <;> rfl
@[simp] theorem State.log_flight (s : State) (kind io core asid qid : Nat) (detail : W64) : (s.log kind io core asid qid detail).flight = s.flight := by unfold State.log; split <;> rfl
@[simp] theorem State.log_nextId (s : State) (kind io core asid qid : Nat) (detail : W64) : (s.log kind io core asid qid detail).nextId = s.nextId := by unfold State.log; split <;> rfl
@[simp] theorem State.log_synced (s : State) (kind io core asid qid : Nat) (detail : W64) : (s.log kind io core asid qid detail).synced = s.synced := by unfold State.log; split <;> rfl
@[simp] theorem State.log_ahead (s : State) (kind io core asid qid : Nat) (detail : W64) : (s.log kind io core asid qid detail).ahead = s.ahead := by unfold State.log; split <;> rfl
@[simp] theorem State.log_launches (s : State) (kind io core asid qid : Nat) (detail : W64) : (s.log kind io core asid qid detail).launches = s.launches := by unfold State.log; split <;> rfl
@[simp] theorem State.log_nextLaunch (s : State) (kind io core asid qid : Nat) (detail : W64) : (s.log kind io core asid qid detail).nextLaunch = s.nextLaunch := by unfold State.log; split <;> rfl
@[simp] theorem State.log_quotes (s : State) (kind io core asid qid : Nat) (detail : W64) : (s.log kind io core asid qid detail).quotes = s.quotes := by unfold State.log; split <;> rfl
@[simp] theorem State.log_nextQid (s : State) (kind io core asid qid : Nat) (detail : W64) : (s.log kind io core asid qid detail).nextQid = s.nextQid := by unfold State.log; split <;> rfl
@[simp] theorem State.log_voids (s : State) (kind io core asid qid : Nat) (detail : W64) : (s.log kind io core asid qid detail).voids = s.voids := by unfold State.log; split <;> rfl
@[simp] theorem State.log_walks (s : State) (kind io core asid qid : Nat) (detail : W64) : (s.log kind io core asid qid detail).walks = s.walks := by unfold State.log; split <;> rfl
@[simp] theorem State.log_walkQueue (s : State) (kind io core asid qid : Nat) (detail : W64) : (s.log kind io core asid qid detail).walkQueue = s.walkQueue := by unfold State.log; split <;> rfl
@[simp] theorem State.log_walking (s : State) (kind io core asid qid : Nat) (detail : W64) : (s.log kind io core asid qid detail).walking = s.walking := by unfold State.log; split <;> rfl
@[simp] theorem State.log_refused (s : State) (kind io core asid qid : Nat) (detail : W64) : (s.log kind io core asid qid detail).refused = s.refused := by unfold State.log; split <;> rfl
@[simp] theorem State.log_pins (s : State) (kind io core asid qid : Nat) (detail : W64) : (s.log kind io core asid qid detail).pins = s.pins := by unfold State.log; split <;> rfl
@[simp] theorem State.log_issue (s : State) (kind io core asid qid : Nat) (detail : W64) : (s.log kind io core asid qid detail).issue = s.issue := by unfold State.log; split <;> rfl
@[simp] theorem State.log_agenda (s : State) (kind io core asid qid : Nat) (detail : W64) : (s.log kind io core asid qid detail).agenda = s.agenda := by unfold State.log; split <;> rfl
@[simp] theorem State.log_moves (s : State) (kind io core asid qid : Nat) (detail : W64) : (s.log kind io core asid qid detail).moves = s.moves := by unfold State.log; split <;> rfl
@[simp] theorem State.log_free (s : State) (kind io core asid qid : Nat) (detail : W64) : (s.log kind io core asid qid detail).free = s.free := by unfold State.log; split <;> rfl

/-! ### spend -/

@[simp] theorem State.spend_tick (s : State) (l pJ : Nat) : (s.spend l pJ).tick = s.tick := by unfold State.spend; split <;> rfl
@[simp] theorem State.spend_mem (s : State) (l pJ : Nat) : (s.spend l pJ).mem = s.mem := by unfold State.spend; split <;> rfl
@[simp] theorem State.spend_flawed (s : State) (l pJ : Nat) : (s.spend l pJ).flawed = s.flawed := by unfold State.spend; split <;> rfl
@[simp] theorem State.spend_gangs (s : State) (l pJ : Nat) : (s.spend l pJ).gangs = s.gangs := by unfold State.spend; split <;> rfl
@[simp] theorem State.spend_cores (s : State) (l pJ : Nat) : (s.spend l pJ).cores = s.cores := by unfold State.spend; split <;> rfl
@[simp] theorem State.spend_steppes (s : State) (l pJ : Nat) : (s.spend l pJ).steppes = s.steppes := by unfold State.spend; split <;> rfl
@[simp] theorem State.spend_saddles (s : State) (l pJ : Nat) : (s.spend l pJ).saddles = s.saddles := by unfold State.spend; split <;> rfl
@[simp] theorem State.spend_flight (s : State) (l pJ : Nat) : (s.spend l pJ).flight = s.flight := by unfold State.spend; split <;> rfl
@[simp] theorem State.spend_nextId (s : State) (l pJ : Nat) : (s.spend l pJ).nextId = s.nextId := by unfold State.spend; split <;> rfl
@[simp] theorem State.spend_synced (s : State) (l pJ : Nat) : (s.spend l pJ).synced = s.synced := by unfold State.spend; split <;> rfl
@[simp] theorem State.spend_ahead (s : State) (l pJ : Nat) : (s.spend l pJ).ahead = s.ahead := by unfold State.spend; split <;> rfl
@[simp] theorem State.spend_nextLaunch (s : State) (l pJ : Nat) : (s.spend l pJ).nextLaunch = s.nextLaunch := by unfold State.spend; split <;> rfl
@[simp] theorem State.spend_quotes (s : State) (l pJ : Nat) : (s.spend l pJ).quotes = s.quotes := by unfold State.spend; split <;> rfl
@[simp] theorem State.spend_nextQid (s : State) (l pJ : Nat) : (s.spend l pJ).nextQid = s.nextQid := by unfold State.spend; split <;> rfl
@[simp] theorem State.spend_voids (s : State) (l pJ : Nat) : (s.spend l pJ).voids = s.voids := by unfold State.spend; split <;> rfl
@[simp] theorem State.spend_walks (s : State) (l pJ : Nat) : (s.spend l pJ).walks = s.walks := by unfold State.spend; split <;> rfl
@[simp] theorem State.spend_walkQueue (s : State) (l pJ : Nat) : (s.spend l pJ).walkQueue = s.walkQueue := by unfold State.spend; split <;> rfl
@[simp] theorem State.spend_walking (s : State) (l pJ : Nat) : (s.spend l pJ).walking = s.walking := by unfold State.spend; split <;> rfl
@[simp] theorem State.spend_refused (s : State) (l pJ : Nat) : (s.spend l pJ).refused = s.refused := by unfold State.spend; split <;> rfl
@[simp] theorem State.spend_pins (s : State) (l pJ : Nat) : (s.spend l pJ).pins = s.pins := by unfold State.spend; split <;> rfl
@[simp] theorem State.spend_dev (s : State) (l pJ : Nat) : (s.spend l pJ).dev = s.dev := by unfold State.spend; split <;> rfl
@[simp] theorem State.spend_issue (s : State) (l pJ : Nat) : (s.spend l pJ).issue = s.issue := by unfold State.spend; split <;> rfl
@[simp] theorem State.spend_agenda (s : State) (l pJ : Nat) : (s.spend l pJ).agenda = s.agenda := by unfold State.spend; split <;> rfl
@[simp] theorem State.spend_moves (s : State) (l pJ : Nat) : (s.spend l pJ).moves = s.moves := by unfold State.spend; split <;> rfl
@[simp] theorem State.spend_free (s : State) (l pJ : Nat) : (s.spend l pJ).free = s.free := by unfold State.spend; split <;> rfl

/-! ### spendIssue -/

@[simp] theorem State.spendIssue_tick (s : State) (a : Agent) (i : Instr) : (s.spendIssue a i).tick = s.tick := by unfold State.spendIssue; split <;> [split <;> simp; rfl]
@[simp] theorem State.spendIssue_mem (s : State) (a : Agent) (i : Instr) : (s.spendIssue a i).mem = s.mem := by unfold State.spendIssue; split <;> [split <;> simp; rfl]
@[simp] theorem State.spendIssue_flawed (s : State) (a : Agent) (i : Instr) : (s.spendIssue a i).flawed = s.flawed := by unfold State.spendIssue; split <;> [split <;> simp; rfl]
@[simp] theorem State.spendIssue_gangs (s : State) (a : Agent) (i : Instr) : (s.spendIssue a i).gangs = s.gangs := by unfold State.spendIssue; split <;> [split <;> simp; rfl]
@[simp] theorem State.spendIssue_cores (s : State) (a : Agent) (i : Instr) : (s.spendIssue a i).cores = s.cores := by unfold State.spendIssue; split <;> [split <;> simp; rfl]
@[simp] theorem State.spendIssue_steppes (s : State) (a : Agent) (i : Instr) : (s.spendIssue a i).steppes = s.steppes := by unfold State.spendIssue; split <;> [split <;> simp; rfl]
@[simp] theorem State.spendIssue_saddles (s : State) (a : Agent) (i : Instr) : (s.spendIssue a i).saddles = s.saddles := by unfold State.spendIssue; split <;> [split <;> simp; rfl]
@[simp] theorem State.spendIssue_flight (s : State) (a : Agent) (i : Instr) : (s.spendIssue a i).flight = s.flight := by unfold State.spendIssue; split <;> [split <;> simp; rfl]
@[simp] theorem State.spendIssue_nextId (s : State) (a : Agent) (i : Instr) : (s.spendIssue a i).nextId = s.nextId := by unfold State.spendIssue; split <;> [split <;> simp; rfl]
@[simp] theorem State.spendIssue_synced (s : State) (a : Agent) (i : Instr) : (s.spendIssue a i).synced = s.synced := by unfold State.spendIssue; split <;> [split <;> simp; rfl]
@[simp] theorem State.spendIssue_ahead (s : State) (a : Agent) (i : Instr) : (s.spendIssue a i).ahead = s.ahead := by unfold State.spendIssue; split <;> [split <;> simp; rfl]
@[simp] theorem State.spendIssue_nextLaunch (s : State) (a : Agent) (i : Instr) : (s.spendIssue a i).nextLaunch = s.nextLaunch := by unfold State.spendIssue; split <;> [split <;> simp; rfl]
@[simp] theorem State.spendIssue_quotes (s : State) (a : Agent) (i : Instr) : (s.spendIssue a i).quotes = s.quotes := by unfold State.spendIssue; split <;> [split <;> simp; rfl]
@[simp] theorem State.spendIssue_nextQid (s : State) (a : Agent) (i : Instr) : (s.spendIssue a i).nextQid = s.nextQid := by unfold State.spendIssue; split <;> [split <;> simp; rfl]
@[simp] theorem State.spendIssue_voids (s : State) (a : Agent) (i : Instr) : (s.spendIssue a i).voids = s.voids := by unfold State.spendIssue; split <;> [split <;> simp; rfl]
@[simp] theorem State.spendIssue_walks (s : State) (a : Agent) (i : Instr) : (s.spendIssue a i).walks = s.walks := by unfold State.spendIssue; split <;> [split <;> simp; rfl]
@[simp] theorem State.spendIssue_walkQueue (s : State) (a : Agent) (i : Instr) : (s.spendIssue a i).walkQueue = s.walkQueue := by unfold State.spendIssue; split <;> [split <;> simp; rfl]
@[simp] theorem State.spendIssue_walking (s : State) (a : Agent) (i : Instr) : (s.spendIssue a i).walking = s.walking := by unfold State.spendIssue; split <;> [split <;> simp; rfl]
@[simp] theorem State.spendIssue_refused (s : State) (a : Agent) (i : Instr) : (s.spendIssue a i).refused = s.refused := by unfold State.spendIssue; split <;> [split <;> simp; rfl]
@[simp] theorem State.spendIssue_pins (s : State) (a : Agent) (i : Instr) : (s.spendIssue a i).pins = s.pins := by unfold State.spendIssue; split <;> [split <;> simp; rfl]
@[simp] theorem State.spendIssue_dev (s : State) (a : Agent) (i : Instr) : (s.spendIssue a i).dev = s.dev := by unfold State.spendIssue; split <;> [split <;> simp; rfl]
@[simp] theorem State.spendIssue_issue (s : State) (a : Agent) (i : Instr) : (s.spendIssue a i).issue = s.issue := by unfold State.spendIssue; split <;> [split <;> simp; rfl]
@[simp] theorem State.spendIssue_agenda (s : State) (a : Agent) (i : Instr) : (s.spendIssue a i).agenda = s.agenda := by unfold State.spendIssue; split <;> [split <;> simp; rfl]
@[simp] theorem State.spendIssue_moves (s : State) (a : Agent) (i : Instr) : (s.spendIssue a i).moves = s.moves := by unfold State.spendIssue; split <;> [split <;> simp; rfl]
@[simp] theorem State.spendIssue_free (s : State) (a : Agent) (i : Instr) : (s.spendIssue a i).free = s.free := by unfold State.spendIssue; split <;> [split <;> simp; rfl]

/-! ### settle -/

@[simp] theorem State.settle_tick (s : State) (a : Agent) : (s.settle a).tick = s.tick := by cases a <;> simp [State.settle]
@[simp] theorem State.settle_mem (s : State) (a : Agent) : (s.settle a).mem = s.mem := by cases a <;> simp [State.settle]
@[simp] theorem State.settle_flawed (s : State) (a : Agent) : (s.settle a).flawed = s.flawed := by cases a <;> simp [State.settle]
@[simp] theorem State.settle_cores (s : State) (a : Agent) : (s.settle a).cores = s.cores := by cases a <;> simp [State.settle]
@[simp] theorem State.settle_flight (s : State) (a : Agent) : (s.settle a).flight = s.flight := by cases a <;> simp [State.settle]
@[simp] theorem State.settle_nextId (s : State) (a : Agent) : (s.settle a).nextId = s.nextId := by cases a <;> simp [State.settle]
@[simp] theorem State.settle_synced (s : State) (a : Agent) : (s.settle a).synced = s.synced := by cases a <;> simp [State.settle]
@[simp] theorem State.settle_ahead (s : State) (a : Agent) : (s.settle a).ahead = s.ahead := by cases a <;> simp [State.settle]
@[simp] theorem State.settle_launches (s : State) (a : Agent) : (s.settle a).launches = s.launches := by cases a <;> simp [State.settle]
@[simp] theorem State.settle_nextLaunch (s : State) (a : Agent) : (s.settle a).nextLaunch = s.nextLaunch := by cases a <;> simp [State.settle]
@[simp] theorem State.settle_quotes (s : State) (a : Agent) : (s.settle a).quotes = s.quotes := by cases a <;> simp [State.settle]
@[simp] theorem State.settle_nextQid (s : State) (a : Agent) : (s.settle a).nextQid = s.nextQid := by cases a <;> simp [State.settle]
@[simp] theorem State.settle_voids (s : State) (a : Agent) : (s.settle a).voids = s.voids := by cases a <;> simp [State.settle]
@[simp] theorem State.settle_walks (s : State) (a : Agent) : (s.settle a).walks = s.walks := by cases a <;> simp [State.settle]
@[simp] theorem State.settle_walkQueue (s : State) (a : Agent) : (s.settle a).walkQueue = s.walkQueue := by cases a <;> simp [State.settle]
@[simp] theorem State.settle_walking (s : State) (a : Agent) : (s.settle a).walking = s.walking := by cases a <;> simp [State.settle]
@[simp] theorem State.settle_refused (s : State) (a : Agent) : (s.settle a).refused = s.refused := by cases a <;> simp [State.settle]
@[simp] theorem State.settle_pins (s : State) (a : Agent) : (s.settle a).pins = s.pins := by cases a <;> simp [State.settle]
@[simp] theorem State.settle_dev (s : State) (a : Agent) : (s.settle a).dev = s.dev := by cases a <;> simp [State.settle]
@[simp] theorem State.settle_issue (s : State) (a : Agent) : (s.settle a).issue = s.issue := by cases a <;> simp [State.settle]
@[simp] theorem State.settle_agenda (s : State) (a : Agent) : (s.settle a).agenda = s.agenda := by cases a <;> simp [State.settle]
@[simp] theorem State.settle_moves (s : State) (a : Agent) : (s.settle a).moves = s.moves := by cases a <;> simp [State.settle]
@[simp] theorem State.settle_free (s : State) (a : Agent) : (s.settle a).free = s.free := by cases a <;> simp [State.settle]

/-! ### advance -/

@[simp] theorem State.advance_tick (s : State) (a : Agent) (n : Nat) : (s.advance a n).tick = s.tick := by simp [State.advance]
@[simp] theorem State.advance_mem (s : State) (a : Agent) (n : Nat) : (s.advance a n).mem = s.mem := by simp [State.advance]
@[simp] theorem State.advance_flawed (s : State) (a : Agent) (n : Nat) : (s.advance a n).flawed = s.flawed := by simp [State.advance]
@[simp] theorem State.advance_cores (s : State) (a : Agent) (n : Nat) : (s.advance a n).cores = s.cores := by simp [State.advance]
@[simp] theorem State.advance_flight (s : State) (a : Agent) (n : Nat) : (s.advance a n).flight = s.flight := by simp [State.advance]
@[simp] theorem State.advance_nextId (s : State) (a : Agent) (n : Nat) : (s.advance a n).nextId = s.nextId := by simp [State.advance]
@[simp] theorem State.advance_synced (s : State) (a : Agent) (n : Nat) : (s.advance a n).synced = s.synced := by simp [State.advance]
@[simp] theorem State.advance_ahead (s : State) (a : Agent) (n : Nat) : (s.advance a n).ahead = s.ahead := by simp [State.advance]
@[simp] theorem State.advance_launches (s : State) (a : Agent) (n : Nat) : (s.advance a n).launches = s.launches := by simp [State.advance]
@[simp] theorem State.advance_nextLaunch (s : State) (a : Agent) (n : Nat) : (s.advance a n).nextLaunch = s.nextLaunch := by simp [State.advance]
@[simp] theorem State.advance_quotes (s : State) (a : Agent) (n : Nat) : (s.advance a n).quotes = s.quotes := by simp [State.advance]
@[simp] theorem State.advance_nextQid (s : State) (a : Agent) (n : Nat) : (s.advance a n).nextQid = s.nextQid := by simp [State.advance]
@[simp] theorem State.advance_voids (s : State) (a : Agent) (n : Nat) : (s.advance a n).voids = s.voids := by simp [State.advance]
@[simp] theorem State.advance_walks (s : State) (a : Agent) (n : Nat) : (s.advance a n).walks = s.walks := by simp [State.advance]
@[simp] theorem State.advance_walkQueue (s : State) (a : Agent) (n : Nat) : (s.advance a n).walkQueue = s.walkQueue := by simp [State.advance]
@[simp] theorem State.advance_walking (s : State) (a : Agent) (n : Nat) : (s.advance a n).walking = s.walking := by simp [State.advance]
@[simp] theorem State.advance_refused (s : State) (a : Agent) (n : Nat) : (s.advance a n).refused = s.refused := by simp [State.advance]
@[simp] theorem State.advance_pins (s : State) (a : Agent) (n : Nat) : (s.advance a n).pins = s.pins := by simp [State.advance]
@[simp] theorem State.advance_dev (s : State) (a : Agent) (n : Nat) : (s.advance a n).dev = s.dev := by simp [State.advance]
@[simp] theorem State.advance_issue (s : State) (a : Agent) (n : Nat) : (s.advance a n).issue = s.issue := by simp [State.advance]
@[simp] theorem State.advance_agenda (s : State) (a : Agent) (n : Nat) : (s.advance a n).agenda = s.agenda := by simp [State.advance]
@[simp] theorem State.advance_moves (s : State) (a : Agent) (n : Nat) : (s.advance a n).moves = s.moves := by simp [State.advance]
@[simp] theorem State.advance_free (s : State) (a : Agent) (n : Nat) : (s.advance a n).free = s.free := by simp [State.advance]

/-! ### jump -/

@[simp] theorem State.jump_tick (s : State) (a : Agent) (target : W64) : (s.jump a target).tick = s.tick := by simp [State.jump]
@[simp] theorem State.jump_mem (s : State) (a : Agent) (target : W64) : (s.jump a target).mem = s.mem := by simp [State.jump]
@[simp] theorem State.jump_flawed (s : State) (a : Agent) (target : W64) : (s.jump a target).flawed = s.flawed := by simp [State.jump]
@[simp] theorem State.jump_cores (s : State) (a : Agent) (target : W64) : (s.jump a target).cores = s.cores := by simp [State.jump]
@[simp] theorem State.jump_flight (s : State) (a : Agent) (target : W64) : (s.jump a target).flight = s.flight := by simp [State.jump]
@[simp] theorem State.jump_nextId (s : State) (a : Agent) (target : W64) : (s.jump a target).nextId = s.nextId := by simp [State.jump]
@[simp] theorem State.jump_synced (s : State) (a : Agent) (target : W64) : (s.jump a target).synced = s.synced := by simp [State.jump]
@[simp] theorem State.jump_ahead (s : State) (a : Agent) (target : W64) : (s.jump a target).ahead = s.ahead := by simp [State.jump]
@[simp] theorem State.jump_launches (s : State) (a : Agent) (target : W64) : (s.jump a target).launches = s.launches := by simp [State.jump]
@[simp] theorem State.jump_nextLaunch (s : State) (a : Agent) (target : W64) : (s.jump a target).nextLaunch = s.nextLaunch := by simp [State.jump]
@[simp] theorem State.jump_quotes (s : State) (a : Agent) (target : W64) : (s.jump a target).quotes = s.quotes := by simp [State.jump]
@[simp] theorem State.jump_nextQid (s : State) (a : Agent) (target : W64) : (s.jump a target).nextQid = s.nextQid := by simp [State.jump]
@[simp] theorem State.jump_voids (s : State) (a : Agent) (target : W64) : (s.jump a target).voids = s.voids := by simp [State.jump]
@[simp] theorem State.jump_walks (s : State) (a : Agent) (target : W64) : (s.jump a target).walks = s.walks := by simp [State.jump]
@[simp] theorem State.jump_walkQueue (s : State) (a : Agent) (target : W64) : (s.jump a target).walkQueue = s.walkQueue := by simp [State.jump]
@[simp] theorem State.jump_walking (s : State) (a : Agent) (target : W64) : (s.jump a target).walking = s.walking := by simp [State.jump]
@[simp] theorem State.jump_refused (s : State) (a : Agent) (target : W64) : (s.jump a target).refused = s.refused := by simp [State.jump]
@[simp] theorem State.jump_pins (s : State) (a : Agent) (target : W64) : (s.jump a target).pins = s.pins := by simp [State.jump]
@[simp] theorem State.jump_dev (s : State) (a : Agent) (target : W64) : (s.jump a target).dev = s.dev := by simp [State.jump]
@[simp] theorem State.jump_issue (s : State) (a : Agent) (target : W64) : (s.jump a target).issue = s.issue := by simp [State.jump]
@[simp] theorem State.jump_agenda (s : State) (a : Agent) (target : W64) : (s.jump a target).agenda = s.agenda := by simp [State.jump]
@[simp] theorem State.jump_moves (s : State) (a : Agent) (target : W64) : (s.jump a target).moves = s.moves := by simp [State.jump]
@[simp] theorem State.jump_free (s : State) (a : Agent) (target : W64) : (s.jump a target).free = s.free := by simp [State.jump]

/-! ### the next free value -/

@[simp] theorem State.fresh_fst (s : State) : s.fresh.1 = Config.freeValue s.free := rfl
@[simp] theorem State.fresh_free (s : State) : s.fresh.2.free = s.free + 1 := rfl
@[simp] theorem State.fresh_tick (s : State) : s.fresh.2.tick = s.tick := rfl
@[simp] theorem State.fresh_mem (s : State) : s.fresh.2.mem = s.mem := rfl
@[simp] theorem State.fresh_flawed (s : State) : s.fresh.2.flawed = s.flawed := rfl
@[simp] theorem State.fresh_gangs (s : State) : s.fresh.2.gangs = s.gangs := rfl
@[simp] theorem State.fresh_cores (s : State) : s.fresh.2.cores = s.cores := rfl
@[simp] theorem State.fresh_steppes (s : State) : s.fresh.2.steppes = s.steppes := rfl
@[simp] theorem State.fresh_saddles (s : State) : s.fresh.2.saddles = s.saddles := rfl
@[simp] theorem State.fresh_flight (s : State) : s.fresh.2.flight = s.flight := rfl
@[simp] theorem State.fresh_nextId (s : State) : s.fresh.2.nextId = s.nextId := rfl
@[simp] theorem State.fresh_synced (s : State) : s.fresh.2.synced = s.synced := rfl
@[simp] theorem State.fresh_ahead (s : State) : s.fresh.2.ahead = s.ahead := rfl
@[simp] theorem State.fresh_launches (s : State) : s.fresh.2.launches = s.launches := rfl
@[simp] theorem State.fresh_nextLaunch (s : State) : s.fresh.2.nextLaunch = s.nextLaunch := rfl
@[simp] theorem State.fresh_quotes (s : State) : s.fresh.2.quotes = s.quotes := rfl
@[simp] theorem State.fresh_nextQid (s : State) : s.fresh.2.nextQid = s.nextQid := rfl
@[simp] theorem State.fresh_voids (s : State) : s.fresh.2.voids = s.voids := rfl
@[simp] theorem State.fresh_walks (s : State) : s.fresh.2.walks = s.walks := rfl
@[simp] theorem State.fresh_walkQueue (s : State) : s.fresh.2.walkQueue = s.walkQueue := rfl
@[simp] theorem State.fresh_walking (s : State) : s.fresh.2.walking = s.walking := rfl
@[simp] theorem State.fresh_refused (s : State) : s.fresh.2.refused = s.refused := rfl
@[simp] theorem State.fresh_pins (s : State) : s.fresh.2.pins = s.pins := rfl
@[simp] theorem State.fresh_dev (s : State) : s.fresh.2.dev = s.dev := rfl
@[simp] theorem State.fresh_issue (s : State) : s.fresh.2.issue = s.issue := rfl
@[simp] theorem State.fresh_agenda (s : State) : s.fresh.2.agenda = s.agenda := rfl
@[simp] theorem State.fresh_moves (s : State) : s.fresh.2.moves = s.moves := rfl

/-! ### association lists -/

@[simp] theorem aget_aput_same {α : Type} (d : α) (k : Nat) (v : α) (l : List (Nat × α)) : aget d k (aput k v l) = v := by
  induction l with
  | nil => simp [aput, aget]
  | cons p r ih =>
    obtain ⟨j, x⟩ := p
    simp only [aput]
    split
    · simp [aget]
    · split
      · simp [aget]
      · rename_i h _
        simp [aget, Ne.symm h, ih]

theorem aget_aput_other {α : Type} (d : α) {k j : Nat} (v : α) (l : List (Nat × α)) (h : j ≠ k) :
    aget d j (aput k v l) = aget d j l := by
  induction l with
  | nil => simp [aput, aget, Ne.symm h]
  | cons p r ih =>
    obtain ⟨i, x⟩ := p
    simp only [aput]
    split
    · rename_i e
      subst e
      simp [aget, Ne.symm h]
    · split
      · simp [aget, Ne.symm h]
      · simp [aget, ih]

@[simp] theorem afind_aput_same {α : Type} (k : Nat) (v : α) (l : List (Nat × α)) : afind k (aput k v l) = some v := by
  induction l with
  | nil => simp [aput, afind]
  | cons p r ih =>
    obtain ⟨j, x⟩ := p
    simp only [aput]
    split
    · simp [afind]
    · split
      · simp [afind]
      · rename_i h _
        simp [afind, Ne.symm h, ih]

theorem afind_aput_other {α : Type} {k j : Nat} (v : α) (l : List (Nat × α)) (h : j ≠ k) :
    afind j (aput k v l) = afind j l := by
  induction l with
  | nil => simp [aput, afind, Ne.symm h]
  | cons p r ih =>
    obtain ⟨i, x⟩ := p
    simp only [aput]
    split
    · rename_i e
      subst e
      simp [afind, Ne.symm h]
    · split
      · simp [afind, Ne.symm h]
      · simp [afind, ih]

/-! ### accessors after updates -/

@[simp] theorem State.gang_setGang (s : State) (g : Nat) (x : Gang) : (s.setGang g x).gang g = x := by
  simp [State.gang, State.setGang]

theorem State.gang_setGang_other (s : State) {g h : Nat} (x : Gang) (n : h ≠ g) : (s.setGang g x).gang h = s.gang h := by
  simp [State.gang, State.setGang, aget_aput_other _ _ _ n]

@[simp] theorem State.core_setCore (s : State) (c : Nat) (x : CoreSt) : (s.setCore c x).core c = x := by
  simp [State.core, State.setCore]

theorem State.core_setCore_other (s : State) {c d : Nat} (x : CoreSt) (n : d ≠ c) : (s.setCore c x).core d = s.core d := by
  simp [State.core, State.setCore, aget_aput_other _ _ _ n]

@[simp] theorem State.gang_setCore (s : State) (c : Nat) (x : CoreSt) (g : Nat) : (s.setCore c x).gang g = s.gang g := rfl
@[simp] theorem State.core_setGang (s : State) (g : Nat) (x : Gang) (c : Nat) : (s.setGang g x).core c = s.core c := rfl
@[simp] theorem State.launch?_setGang (s : State) (g : Nat) (x : Gang) (l : Nat) : (s.setGang g x).launch? l = s.launch? l := rfl
@[simp] theorem State.launch?_setCore (s : State) (c : Nat) (x : CoreSt) (l : Nat) : (s.setCore c x).launch? l = s.launch? l := rfl

theorem State.ctx_setCtx (s : State) (a : Agent) (x : Ctx) (h : ∀ g t, a ≠ .lane g t) : (s.setCtx a x).ctx a = x := by
  cases a with
  | lane g t => exact absurd rfl (h g t)
  | cond g => simp [State.setCtx, State.ctx]
  | steppe c t => simp [State.setCtx, State.ctx]
  | saddle c => simp [State.setCtx, State.ctx]

theorem State.gang_mapLanes (s : State) (g : Nat) (m : W32) (f : Fin 32 → Lane → Lane) :
    (s.mapLanes g m f).gang g = (s.gang g).mapLanes m f := by
  simp [State.mapLanes]

/-! ### lanes of a gang -/

theorem Gang.lane_setLane (x : Gang) {t : Nat} (l : Lane) (h : t < 32) : (x.setLane t l).lane t = l := by
  simp [Gang.setLane, Gang.lane, h]

theorem Gang.lane_setLane_other (x : Gang) {t u : Nat} (l : Lane) (h : u ≠ t) : (x.setLane t l).lane u = x.lane u := by
  unfold Gang.setLane Gang.lane
  split
  · split
    · simp [Ne.symm h]
    · rfl
  · rfl

@[simp] theorem Gang.setLane_cond (x : Gang) (t : Nat) (l : Lane) : (x.setLane t l).cond = x.cond := by
  unfold Gang.setLane; split <;> rfl

@[simp] theorem Gang.setLane_m (x : Gang) (t : Nat) (l : Lane) : (x.setLane t l).m = x.m := by
  unfold Gang.setLane; split <;> rfl

@[simp] theorem Gang.setLane_launch (x : Gang) (t : Nat) (l : Lane) : (x.setLane t l).launch = x.launch := by
  unfold Gang.setLane; split <;> rfl

end Sys2Proof.Machine
end

