-- ==== Sys2Proof/Laws/Gangs.lean ====
section
/-! SUPPORT. The threads of a mask, a gang changed lane by lane, and the values that registers end with. -/

namespace Sys2Proof.Machine

/-! ### masks -/

theorem mem_slots (t : Fin 32) : t ∈ slots := by
  revert t; decide

theorem slots_nodup : slots.Nodup := by decide

@[simp] theorem mem_threads (m : W32) (t : Fin 32) : t ∈ threads m ↔ m.getLsbD t.val = true := by
  simp [threads, mem_slots]

theorem threads_nodup (m : W32) : (threads m).Nodup := slots_nodup.filter _

@[simp] theorem threads_zero : threads 0 = [] := by decide

theorem oneHot_bit (t u : Fin 32) : (oneHot t.val).getLsbD u.val = decide (t = u) := by
  revert t u; decide

theorem oneHot_get (t u : Fin 32) : (oneHot t.val)[u.val] = decide (t = u) := by
  revert t u; decide

theorem threads_oneHot (t : Fin 32) : threads (oneHot t.val) = [t] := by
  revert t; decide

theorem maskFold_bit (p : Fin 32 → Bool) (l : List (Fin 32)) (m : W32) (u : Fin 32) :
    (l.foldl (fun m t => if p t then m ||| oneHot t.val else m) m).getLsbD u.val =
      (m.getLsbD u.val || (decide (u ∈ l) && p u)) := by
  induction l generalizing m with
  | nil => simp
  | cons t r ih =>
    rw [List.foldl_cons, ih]
    by_cases h : p t
    · by_cases e : t = u
      · subst e; simp [h, oneHot_get]
      · simp [h, oneHot_get, e, Ne.symm e]
    · by_cases e : t = u
      · subst e; simp [h]
      · simp [h, Ne.symm e]

/-- A mask has the bits of the threads that satisfy its test. -/
@[simp] theorem maskOf_bit (p : Fin 32 → Bool) (u : Fin 32) : (maskOf p).getLsbD u.val = p u := by
  rw [maskOf, maskFold_bit]; simp [mem_slots]

/-! ### lanes -/

@[simp] theorem Gang.lane_set (x : Gang) (t : Fin 32) (l : Lane) : (x.setLane t.val l).lane t.val = l :=
  x.lane_setLane l t.isLt

theorem Gang.lane_set_other (x : Gang) {t u : Fin 32} (l : Lane) (h : u ≠ t) :
    (x.setLane t.val l).lane u.val = x.lane u.val :=
  x.lane_setLane_other l (fun e => h (Fin.ext e))

/-- Setting a lane changes the lanes alone. -/
theorem Gang.setLane_rest (x : Gang) (t : Nat) (l : Lane) : x.setLane t l = { x with lanes := (x.setLane t l).lanes } := by
  unfold Gang.setLane; split <;> rfl

/-- A fold of lane updates over distinct threads gives each of them its own function's value. -/
theorem Gang.foldLanes (f : Fin 32 → Lane → Lane) (ts : List (Fin 32)) (h : ts.Nodup) (x : Gang) (u : Fin 32) :
    (ts.foldl (fun y t => y.setLane t.val (f t (y.lane t.val))) x).lane u.val =
      if u ∈ ts then f u (x.lane u.val) else x.lane u.val := by
  induction ts generalizing x with
  | nil => simp
  | cons t r ih =>
    rw [List.foldl_cons, ih (List.nodup_cons.mp h).2]
    have ht : t ∉ r := (List.nodup_cons.mp h).1
    by_cases e : u = t
    · subst e; simp [ht]
    · simp [e, x.lane_set_other _ e]

theorem Gang.foldLanes_rest (f : Fin 32 → Lane → Lane) (ts : List (Fin 32)) (x : Gang) :
    ts.foldl (fun y t => y.setLane t.val (f t (y.lane t.val))) x =
      { x with lanes := (ts.foldl (fun y t => y.setLane t.val (f t (y.lane t.val))) x).lanes } := by
  induction ts generalizing x with
  | nil => rfl
  | cons t r ih =>
    have h : ∀ y : Gang, y = { y with lanes := y.lanes } := fun _ => rfl
    rw [List.foldl_cons]
    generalize hy : x.setLane t.val (f t (x.lane t.val)) = y
    have e : { x with lanes := y.lanes } = y := by rw [← hy]; exact (x.setLane_rest _ _).symm
    have i := ih y
    rw [i]
    rw [← e]

/-- Every lane of a mask takes its function's value; the others stay. -/
@[simp] theorem Gang.mapLanes_lane (x : Gang) (m : W32) (f : Fin 32 → Lane → Lane) (u : Fin 32) :
    (x.mapLanes m f).lane u.val = if m.getLsbD u.val then f u (x.lane u.val) else x.lane u.val := by
  rw [Gang.mapLanes, Gang.foldLanes f _ (threads_nodup m)]; simp

/-- Changing lanes changes the lanes alone. -/
theorem Gang.mapLanes_rest (x : Gang) (m : W32) (f : Fin 32 → Lane → Lane) :
    x.mapLanes m f = { x with lanes := (x.mapLanes m f).lanes } := Gang.foldLanes_rest f _ x

@[simp] theorem Gang.mapLanes_cond (x : Gang) (m : W32) (f : Fin 32 → Lane → Lane) : (x.mapLanes m f).cond = x.cond := by
  rw [Gang.mapLanes_rest]

@[simp] theorem Gang.mapLanes_launch (x : Gang) (m : W32) (f : Fin 32 → Lane → Lane) :
    (x.mapLanes m f).launch = x.launch := by rw [Gang.mapLanes_rest]

@[simp] theorem Gang.mapLanes_m (x : Gang) (m : W32) (f : Fin 32 → Lane → Lane) : (x.mapLanes m f).m = x.m := by
  rw [Gang.mapLanes_rest]

@[simp] theorem Gang.mapLanes_wid (x : Gang) (m : W32) (f : Fin 32 → Lane → Lane) : (x.mapLanes m f).wid = x.wid := by
  rw [Gang.mapLanes_rest]

@[simp] theorem Gang.mapLanes_dq (x : Gang) (m : W32) (f : Fin 32 → Lane → Lane) : (x.mapLanes m f).dq = x.dq := by
  rw [Gang.mapLanes_rest]

@[simp] theorem Gang.mapLanes_uq (x : Gang) (m : W32) (f : Fin 32 → Lane → Lane) : (x.mapLanes m f).uq = x.uq := by
  rw [Gang.mapLanes_rest]

@[simp] theorem Gang.mapLanes_parked (x : Gang) (m : W32) (f : Fin 32 → Lane → Lane) :
    (x.mapLanes m f).parked = x.parked := by rw [Gang.mapLanes_rest]

@[simp] theorem Gang.mapLanes_slanes (x : Gang) (m : W32) (f : Fin 32 → Lane → Lane) :
    (x.mapLanes m f).slanes = x.slanes := by rw [Gang.mapLanes_rest]

@[simp] theorem Gang.mapLanes_scratch (x : Gang) (m : W32) (f : Fin 32 → Lane → Lane) :
    (x.mapLanes m f).scratch = x.scratch := by rw [Gang.mapLanes_rest]

/-! ### settling -/

@[simp] theorem Gang.settle_lane (x : Gang) (now : Nat) (u : Fin 32) :
    (x.settle now).lane u.val = (x.lane u.val).settle now := by
  simp [Gang.settle, Gang.lane]

@[simp] theorem Gang.settle_cond (x : Gang) (now : Nat) : (x.settle now).cond = x.cond.settle now := rfl
@[simp] theorem Gang.settle_launch (x : Gang) (now : Nat) : (x.settle now).launch = x.launch := rfl
@[simp] theorem Gang.settle_m (x : Gang) (now : Nat) : (x.settle now).m = x.m := rfl

/-! ### what a mask of one mux after another keeps -/

theorem mux_bit (m v o : W64) (i : Nat) (h : i < 64) : (mux m v o).getLsbD i = if m.getLsbD i then v.getLsbD i else o.getLsbD i := by
  simp only [mux, BitVec.getLsbD_or, BitVec.getLsbD_and, BitVec.getLsbD_not, h]
  cases m.getLsbD i <;> simp

@[simp] theorem mux_ones (v o : W64) : mux (BitVec.allOnes 64) v o = v := by
  apply BitVec.eq_of_getLsbD_eq
  intro i hi
  rw [mux_bit _ _ _ _ hi, BitVec.getLsbD_allOnes]
  simp [hi]

@[simp] theorem mux_zero (v o : W64) : mux 0 v o = o := by
  apply BitVec.eq_of_getLsbD_eq
  intro i hi
  rw [mux_bit _ _ _ _ hi]
  simp

end Sys2Proof.Machine
end

