-- ==== Sys2Proof/Laws/Memory.lean ====
section
/-! SUPPORT. Memory: every operation keeps the canonical form, a read after a write to the same byte gives
it, and a write leaves every other byte alone. -/

namespace Sys2Proof.Machine

theorem wfFrom_mono {n k : Nat} (h : k ≤ n) : ∀ {m : List Host.Cell}, wfFrom n m = true → wfFrom k m = true := by
  intro m hm
  cases m with
  | nil => rfl
  | cons p r =>
    obtain ⟨j, x⟩ := p
    simp only [wfFrom, Bool.and_eq_true, decide_eq_true_eq] at hm ⊢
    exact ⟨⟨Nat.le_trans h hm.1.1, hm.1.2⟩, hm.2⟩

theorem wfFrom_writeByte {n k : Nat} (v : Byte) (h : n ≤ k) :
    ∀ {m : List Host.Cell}, wfFrom n m = true → wfFrom n (writeByte k v m) = true := by
  intro m
  induction m generalizing n with
  | nil => intro _; simp only [writeByte]; split <;> simp_all [wfFrom]
  | cons p r ih =>
    obtain ⟨j, x⟩ := p
    intro hm
    simp only [wfFrom, Bool.and_eq_true, decide_eq_true_eq] at hm
    simp only [writeByte]
    split
    · rename_i e
      subst e
      split
      · exact wfFrom_mono (Nat.le_succ_of_le h) hm.2
      · rename_i hv
        simp [wfFrom, h, hv, hm.2]
    · split
      · rename_i hk
        split
        · simp [wfFrom, hm.1.1, hm.1.2, hm.2]
        · rename_i hv
          simp [wfFrom, h, hv, hm.1.2, hm.2]
          omega
      · rename_i hne hge
        have : j + 1 ≤ k := by omega
        simp [wfFrom, hm.1.1, hm.1.2, ih this hm.2]

/-- Writing a byte keeps the canonical form. -/
theorem wf_writeByte (k : Nat) (v : Byte) {m : List Host.Cell} (h : Memory.wf m = true) :
    Memory.wf (writeByte k v m) = true := wfFrom_writeByte v (Nat.zero_le k) h

/-- Writing bytes keeps the canonical form. -/
theorem wf_writeBytes (bs : List Byte) : ∀ (k : Nat) {m : List Host.Cell}, Memory.wf m = true →
    Memory.wf (writeBytes m k bs) = true := by
  induction bs with
  | nil => intro _ _ h; exact h
  | cons b r ih => intro k m h; exact ih (k + 1) (wf_writeByte k b h)

/-- Writing a value keeps the canonical form. -/
theorem wf_writeLE (k n v : Nat) {m : List Host.Cell} (h : Memory.wf m = true) :
    Memory.wf (writeLE m k n v) = true := wf_writeBytes _ k h

/-- A fold of steps that each keep the canonical form keeps it. -/
theorem wf_foldl {α : Type} (f : List Host.Cell → α → List Host.Cell)
    (hf : ∀ m a, Memory.wf m = true → Memory.wf (f m a) = true) :
    ∀ (l : List α) {m : List Host.Cell}, Memory.wf m = true → Memory.wf (l.foldl f m) = true := by
  intro l
  induction l with
  | nil => intro m h; exact h
  | cons a r ih => intro m h; exact ih (hf m a h)

/-- Memory right after reset is in canonical form. -/
theorem wf_reset : Memory.wf State.reset.mem = true := by decide

/-- A read after a write to the same byte gives the byte written. -/
theorem readByte_writeByte_same (k : Nat) (v : Byte) : ∀ {n : Nat} {m : List Host.Cell},
    wfFrom n m = true → readByte (writeByte k v m) k = v := by
  intro n m
  induction m generalizing n with
  | nil =>
    intro _
    simp only [writeByte]
    split
    · rename_i hv; simp [readByte, aget, hv]
    · simp [readByte, aget]
  | cons p r ih =>
    obtain ⟨j, x⟩ := p
    intro hm
    simp only [wfFrom, Bool.and_eq_true, decide_eq_true_eq] at hm
    have absent : ∀ {a b : Nat} {l : List Host.Cell}, wfFrom a l = true → b < a → readByte l b = unlisted := by
      intro a b l
      induction l generalizing a with
      | nil => intro _ _; rfl
      | cons q t iht =>
        obtain ⟨i, y⟩ := q
        intro hl hb
        simp only [wfFrom, Bool.and_eq_true, decide_eq_true_eq] at hl
        have : i ≠ b := by omega
        simp only [readByte, aget, this, if_false]
        exact iht hl.2 (by omega)
    simp only [writeByte]
    split
    · rename_i e
      subst e
      split
      · rename_i hv; subst hv; exact absent hm.2 (Nat.lt_succ_self k)
      · simp [readByte, aget]
    · split
      · rename_i hne hlt
        split
        · rename_i hv
          subst hv
          have : j ≠ k := by omega
          simp only [readByte, aget, this, if_false]
          exact absent hm.2 (by omega)
        · simp [readByte, aget]
      · rename_i hne _
        have : j ≠ k := fun e => hne e.symm
        simp only [readByte, aget, this, if_false]
        exact ih hm.2

/-- A write of a byte leaves every other byte alone. -/
theorem readByte_writeByte_other {k j : Nat} (v : Byte) (h : j ≠ k) (m : List Host.Cell) :
    readByte (writeByte k v m) j = readByte m j := by
  induction m with
  | nil =>
    simp only [writeByte]
    split
    · rfl
    · simp [readByte, aget, Ne.symm h]
  | cons p r ih =>
    obtain ⟨i, x⟩ := p
    simp only [writeByte]
    split
    · rename_i e
      subst e
      split <;> simp [readByte, aget, Ne.symm h]
    · split
      · split <;> simp [readByte, aget, Ne.symm h]
      · simp only [readByte, aget] at ih ⊢
        split
        · rfl
        · exact ih

/-- A write of bytes leaves every byte outside them alone. -/
theorem readByte_writeBytes_other {j : Nat} : ∀ (bs : List Byte) (k : Nat) (m : List Host.Cell),
    (j < k ∨ k + bs.length ≤ j) → readByte (writeBytes m k bs) j = readByte m j := by
  intro bs
  induction bs with
  | nil => intro _ _ _; rfl
  | cons b r ih =>
    intro k m h
    simp only [List.length_cons] at h
    simp only [writeBytes]
    rw [ih (k + 1) _ (by omega), readByte_writeByte_other b (by omega)]

theorem leBytes_length (n v : Nat) : (leBytes n v).length = n := by
  induction n generalizing v with
  | zero => rfl
  | succ n ih => simp [leBytes, ih]

/-- A write of a value leaves every byte outside it alone. -/
theorem readByte_writeLE_other {j k n : Nat} (v : Nat) (m : List Host.Cell) (h : j < k ∨ k + n ≤ j) :
    readByte (writeLE m k n v) j = readByte m j :=
  readByte_writeBytes_other _ k m (by simpa [leBytes_length] using h)

/-- A read of a byte just written as part of a list gives its byte. -/
theorem readByte_writeBytes_same : ∀ (bs : List Byte) (k i : Nat) {m : List Host.Cell}, Memory.wf m = true →
    (h : i < bs.length) → readByte (writeBytes m k bs) (k + i) = bs[i] := by
  intro bs
  induction bs with
  | nil => intro _ _ _ _ h; exact absurd h (by simp)
  | cons b r ih =>
    intro k i m hm h
    simp only [writeBytes]
    cases i with
    | zero =>
      rw [readByte_writeBytes_other r (k + 1) _ (by omega)]
      exact readByte_writeByte_same k b hm
    | succ i =>
      have := ih (k + 1) i (wf_writeByte k b hm) (by simpa using h)
      simpa [Nat.add_assoc, Nat.add_comm 1 i] using this

theorem readBytes_length (m : List Host.Cell) (k n : Nat) : (readBytes m k n).length = n := by
  induction n generalizing k with
  | zero => rfl
  | succ n ih => simp [readBytes, ih]

/-- A read of bytes just written gives them. -/
theorem readBytes_writeBytes (bs : List Byte) (k : Nat) {m : List Host.Cell} (h : Memory.wf m = true) :
    readBytes (writeBytes m k bs) k bs.length = bs := by
  induction bs generalizing k m with
  | nil => rfl
  | cons b r ih =>
    simp only [writeBytes, List.length_cons, readBytes, List.cons.injEq]
    refine ⟨?_, ih (k + 1) (wf_writeByte k b h)⟩
    have := readByte_writeBytes_same (b :: r) k 0 h (by simp)
    simpa [writeBytes] using this

theorem leNat_leBytes (n v : Nat) : leNat (leBytes n v) = v % 2 ^ (8 * n) := by
  induction n generalizing v with
  | zero => simp [leBytes, leNat, Nat.mod_one]
  | succ n ih =>
    simp only [leBytes, leNat, ih, BitVec.toNat_ofNat]
    rw [show 8 * (n + 1) = 8 + 8 * n by omega, Nat.pow_add, Nat.mod_mul]

/-- A value just written reads back. -/
theorem readLE_writeLE (k n v : Nat) {m : List Host.Cell} (h : Memory.wf m = true) :
    readLE (writeLE m k n v) k n = v % 2 ^ (8 * n) := by
  have := readBytes_writeBytes (leBytes n v) k h
  rw [leBytes_length] at this
  simp [readLE, writeLE, this, leNat_leBytes]

end Sys2Proof.Machine
end

