-- ==== Sys2Proof/Laws/Kept.lean ====
section
/-! SUPPORT. What the shared operations keep: memory in its canonical form, gangs in the order of their keys, the issue
context as it is. One lemma for each operation. -/

namespace Sys2Proof.Machine

/-- Gangs stand in the order of their keys, each once. -/
abbrev State.InOrder (s : State) : Prop := s.gangs.Pairwise fun x y => x.1 < y.1

/-- An operation that takes `s` to `t` keeps the canonical memory, the order of the gangs, and the issue context. -/
structure Keeps (s t : State) : Prop where
  mem : Memory.wf s.mem = true → Memory.wf t.mem = true
  gangs : s.InOrder → t.InOrder
  issue : t.issue = s.issue

theorem Keeps.refl (s : State) : Keeps s s := ⟨id, id, rfl⟩

theorem Keeps.trans {s t u : State} (h : Keeps s t) (k : Keeps t u) : Keeps s u :=
  ⟨k.mem ∘ h.mem, k.gangs ∘ h.gangs, k.issue.trans h.issue⟩

/-- An update of any other part of the state keeps all three. -/
theorem Keeps.of_eq {s t : State} (m : t.mem = s.mem) (g : t.gangs = s.gangs) (i : t.issue = s.issue) : Keeps s t :=
  ⟨fun h => m ▸ h, fun h => by unfold State.InOrder; rw [g]; exact h, i⟩

theorem Keeps.ite {s t u : State} {p : Prop} [Decidable p] (h : p → Keeps s t) (k : ¬ p → Keeps s u) : Keeps s (if p then t else u) := by
  split
  · exact h ‹_›
  · exact k ‹_›

theorem Keeps.foldl {α : Type} (f : State → α → State) (h : ∀ s x, Keeps s (f s x)) : ∀ (l : List α) (s : State), Keeps s (l.foldl f s)
  | [], s => .refl s
  | x :: l, s => (h s x).trans (Keeps.foldl f h l _)

/-! ## Lists by key -/

theorem mem_keys_aput {α : Type} {k : Nat} {v : α} : ∀ {l : List (Nat × α)} {p : Nat × α}, p ∈ aput k v l → p = (k, v) ∨ p ∈ l
  | [], p, h => by simpa [aput] using h
  | (j, x) :: r, p, h => by
    simp only [aput] at h
    split at h
    · rcases List.mem_cons.mp h with h | h
      · exact .inl h
      · exact .inr (List.mem_cons_of_mem _ h)
    · split at h
      · rcases List.mem_cons.mp h with h | h
        · exact .inl h
        · exact .inr h
      · rcases List.mem_cons.mp h with h | h
        · exact .inr (h ▸ List.mem_cons_self)
        · rcases mem_keys_aput h with h | h
          · exact .inl h
          · exact .inr (List.mem_cons_of_mem _ h)

/-- A value set by key leaves a list in order. -/
theorem aput_inOrder {α : Type} (k : Nat) (v : α) : ∀ {l : List (Nat × α)}, l.Pairwise (fun x y => x.1 < y.1) →
    (aput k v l).Pairwise fun x y => x.1 < y.1
  | [], _ => by simp [aput]
  | (j, x) :: r, h => by
    have h' := List.pairwise_cons.mp h
    simp only [aput]
    split
    · rename_i e
      exact List.pairwise_cons.mpr ⟨fun y m => e ▸ h'.1 y m, h'.2⟩
    · split
      · rename_i lt
        refine List.pairwise_cons.mpr ⟨fun y m => ?_, h⟩
        rcases List.mem_cons.mp m with rfl | m
        · exact lt
        · exact Nat.lt_trans lt (h'.1 y m)
      · rename_i ne lt
        refine List.pairwise_cons.mpr ⟨fun y m => ?_, aput_inOrder k v h'.2⟩
        rcases mem_keys_aput m with rfl | m
        · simp only at ne lt ⊢
          omega
        · exact h'.1 y m

/-- So does an entry dropped. -/
theorem filter_inOrder {α : Type} (p : Nat × α → Bool) {l : List (Nat × α)} (h : l.Pairwise fun x y => x.1 < y.1) :
    (l.filter p).Pairwise fun x y => x.1 < y.1 := h.filter p

/-- And every value changed in place. -/
theorem map_inOrder {α : Type} (f : Nat × α → Nat × α) (e : ∀ p, (f p).1 = p.1) {l : List (Nat × α)}
    (h : l.Pairwise fun x y => x.1 < y.1) : (l.map f).Pairwise fun x y => x.1 < y.1 :=
  List.pairwise_map.mpr (h.imp fun {a b} lt => by rw [e, e]; exact lt)

/-! ## Updates of the state -/

theorem Keeps.setGang (s : State) (g : Nat) (x : Gang) : Keeps s (s.setGang g x) := ⟨id, aput_inOrder g x, rfl⟩

theorem Keeps.setCore (s : State) (c : Nat) (x : CoreSt) : Keeps s (s.setCore c x) := .of_eq rfl rfl rfl

theorem Keeps.setLaunch (s : State) (l : Nat) (x : Launch) : Keeps s (s.setLaunch l x) := .of_eq rfl rfl rfl

theorem Keeps.setQuote (s : State) (q : Quote) : Keeps s (s.setQuote q) := .of_eq rfl rfl rfl

theorem Keeps.setCtx (s : State) (a : Agent) (x : Ctx) : Keeps s (s.setCtx a x) := by
  cases a with
  | lane g t => exact .refl s
  | cond g => exact .setGang s g _
  | steppe c t => exact .of_eq rfl rfl rfl
  | saddle c => exact .of_eq rfl rfl rfl

theorem Keeps.mapLanes (s : State) (g : Nat) (m : W32) (f : Fin 32 → Lane → Lane) : Keeps s (s.mapLanes g m f) := .setGang s g _

theorem Keeps.setDev (s : State) (d : Dev) : Keeps s { s with dev := d } := .of_eq rfl rfl rfl

theorem Keeps.pokeBytes (s : State) (k : Nat) (bs : List Byte) : Keeps s (s.pokeBytes k bs) := ⟨wf_writeBytes bs k, id, rfl⟩

theorem Keeps.pokeLE (s : State) (k n v : Nat) : Keeps s (s.pokeLE k n v) := .pokeBytes s k _

theorem Keeps.pokeDev (s : State) (pa : Nat) (bs : List Byte) : Keeps s (s.pokeDev pa bs) := by
  unfold State.pokeDev
  exact .ite (fun _ => .pokeBytes s _ _) fun _ => .refl s

/-! ## Records, quotations, charges -/

theorem Keeps.log (s : State) (kind io core asid qid : Nat) (detail : W64) : Keeps s (s.log kind io core asid qid detail) := by
  unfold State.log
  split
  · exact .refl s
  · exact .setDev s _

theorem Keeps.post (s : State) (r : Record) : Keeps s (s.post r) := .setDev s _

theorem Keeps.writeDev (s : State) (pa : Nat) (bs : List Byte) : Keeps s (s.writeDev pa bs) :=
  (Keeps.pokeDev s pa bs).trans (.of_eq rfl rfl rfl)

theorem Keeps.markLeaf (s : State) (at_ : Nat) (dirty : Bool) : Keeps s (s.markLeaf at_ dirty) := .writeDev s at_ _

theorem Keeps.writeVa (s : State) (asid va n v : Nat) : Keeps s (s.writeVa asid va n v) := by
  unfold State.writeVa
  split
  · split
    · exact (Keeps.ite (fun _ => .refl s) fun _ => .markLeaf s _ _).trans (.writeDev _ _ _)
    · exact .refl s
  · exact .refl s

theorem Keeps.putQuote (s : State) (q : Quote) : Keeps s (s.putQuote q) := (Keeps.setQuote s q).trans (.writeVa _ _ _ _ _)

theorem Keeps.breach (s : State) (qid asid kind : Nat) (val : W64) : Keeps s (s.breach qid asid kind val) :=
  (Keeps.log s _ _ _ _ _ _).trans (.post _ _)

theorem Keeps.charge (s : State) (qid party kind : Nat) (val : W64) : Keeps s (s.charge qid party kind val) := by
  unfold State.charge
  split
  · exact .refl s
  · rename_i q _
    have h : Keeps s (if q.party = 0 then
        s.putQuote { q with party := party, voided := q.voided || party = 1 || party = 2 } else s) :=
      .ite (fun _ => .putQuote s _) fun _ => .refl s
    exact .ite (fun _ => h.trans (.breach _ _ _ _ _)) fun _ => h

theorem Keeps.noteObject (s : State) (sLevel : Bool) (pa n : Nat) : Keeps s (s.noteObject sLevel pa n) :=
  Keeps.foldl _ (fun s _ => .charge s _ _ _ _) _ s

theorem Keeps.chargeLaunch (s : State) (launch cause : Nat) (stval : W64) (writes : Bool) :
    Keeps s (s.chargeLaunch launch cause stval writes) := by
  unfold State.chargeLaunch
  split
  · exact .refl s
  · split
    · exact .refl s
    · exact .charge s _ _ _ _

theorem Keeps.chargeFault (s : State) (g cause : Nat) (stval : W64) (writes : Bool) : Keeps s (s.chargeFault g cause stval writes) :=
  .chargeLaunch s _ _ _ _

theorem Keeps.uncorrectable (s : State) (unit asid qid : Nat) (stval : W64) : Keeps s (s.uncorrectable unit asid qid stval) :=
  (Keeps.log s _ _ _ _ _ _).trans (.setCore _ _ _)

theorem Keeps.uncorrectableAt (s : State) (a : Agent) (qid : Nat) (stval : W64) : Keeps s (s.uncorrectableAt a qid stval) := by
  cases a with
  | lane g t => exact .uncorrectable s _ _ _ _
  | cond g => exact .uncorrectable s _ _ _ _
  | steppe c t => exact .log s _ _ _ _ _ _
  | saddle c => exact .log s _ _ _ _ _ _

theorem Keeps.spend (s : State) (l pJ : Nat) : Keeps s (s.spend l pJ) := by
  unfold State.spend
  split
  · exact .setLaunch s l _
  · exact .refl s

theorem Keeps.spendIssue (s : State) (a : Agent) (i : Instr) : Keeps s (s.spendIssue a i) := by
  unfold State.spendIssue
  split
  · exact .ite (fun _ => .spend s _ _) fun _ => .refl s
  · exact .refl s

/-! ## Results, the program counter, translation -/

theorem Keeps.settle (s : State) (a : Agent) : Keeps s (s.settle a) := by
  cases a with
  | lane g t => exact .setGang s g _
  | cond g => exact .setGang s g _
  | steppe c t => exact Keeps.setCtx s (.steppe c t) _
  | saddle c => exact Keeps.setCtx s (.saddle c) _

theorem Keeps.advance (s : State) (a : Agent) (n : Nat) : Keeps s (s.advance a n) := .setCtx s a _

theorem Keeps.jump (s : State) (a : Agent) (target : W64) : Keeps s (s.jump a target) := .setCtx s a _

theorem Keeps.fresh (s : State) : Keeps s s.fresh.2 := .of_eq rfl rfl rfl

theorem Keeps.translate (s : State) (unit asid : Nat) (root : Option W64) (va : Nat) (acc : Acc) (user : Bool) :
    Keeps s (s.translate unit asid root va acc user).1 := by
  unfold State.translate
  simp only
  repeat' split
  all_goals first
    | exact .refl s
    | exact Keeps.setCore s _ _
    | exact (Keeps.fresh s).trans (.setCore _ _ _)
    | exact (Keeps.markLeaf s _ _).trans (.setCore _ _ _)
    | exact ((Keeps.markLeaf s _ _).trans (.fresh _)).trans (.setCore _ _ _)

/-! ## Faults and traps (R276–R281) -/

theorem Keeps.resetPool (s : State) : Keeps s s.resetPool := .of_eq rfl rfl rfl

theorem Keeps.locksToZero (s : State) : Keeps s s.locksToZero := .of_eq rfl rfl rfl

theorem Keeps.rollBack (s : State) : Keeps s s.rollBack := by
  unfold State.rollBack
  exact ((Keeps.setDev s _).trans ((Keeps.locksToZero _).trans (.resetPool _))).trans (.log _ _ _ _ _ _ _)

theorem Keeps.firmwareFault (s : State) (kind io : Nat) (detail : W64) : Keeps s (s.firmwareFault kind io detail) := by
  unfold State.firmwareFault
  have h := (Keeps.log s kind io 0xFFFF 0 0 detail).trans
    (Keeps.foldl (fun s (q : Quote) => s.charge q.id 3 7 (n64 kind)) (fun s q => .charge s _ _ _ _)
      ((s.log kind io 0xFFFF 0 0 detail).quotes.filter fun q => q.state = 4) _)
  exact .ite (fun _ => h.trans (.rollBack _)) fun _ => h.trans (.resetPool _)

theorem Keeps.steppeDouble (s : State) (a : Agent) : Keeps s (s.steppeDouble a) := by
  cases a with
  | steppe c t => exact ((Keeps.setCtx s _ _).trans (.log _ _ _ _ _ _ _)).trans (.setDev _ _)
  | lane g t => exact .refl s
  | cond g => exact .refl s
  | saddle c => exact .refl s

theorem Keeps.gangDouble (s : State) (g : Nat) (cause : Byte) (stval : W64) : Keeps s (s.gangDouble g cause stval) :=
  ((Keeps.setGang s g _).trans (.charge _ _ _ _ _)).trans (.post _ _)

theorem Keeps.groupFaultOf (s : State) (a : Agent) (cause : Byte) (stval : W64) (writes : Bool) :
    Keeps s (s.groupFaultOf a cause stval writes) := by
  unfold State.groupFaultOf
  cases a with
  | lane g t => exact .refl s
  | cond g => exact .ite (fun _ => .gangDouble s _ _ _) fun _ => (Keeps.chargeFault s _ _ _ _).trans (.setCtx _ _ _)
  | steppe c t => exact .ite (fun _ => .steppeDouble s _) fun _ => .setCtx s _ _
  | saddle c => exact .ite (fun _ => .firmwareFault s _ _ _) fun _ => .setCtx s _ _

theorem Keeps.groupFault (s : State) (a : Agent) (cause : Byte) (stval : W64) : Keeps s (s.groupFault a cause stval) :=
  .groupFaultOf s a cause stval true

theorem Keeps.laneFaultOf (s : State) (g : Nat) (m : W32) (cause : Byte) (stval : W64) (writes : Bool) :
    Keeps s (s.laneFaultOf g m cause stval writes) := by
  unfold State.laneFaultOf
  exact .ite (fun _ => .refl s) fun _ => (Keeps.chargeFault s _ _ _ _).trans (.setGang _ _ _)

theorem Keeps.laneFault (s : State) (g : Nat) (m : W32) (cause : Byte) (stval : W64) : Keeps s (s.laneFault g m cause stval) :=
  .laneFaultOf s g m cause stval true

theorem Keeps.setEvents (s : State) (l : List W64) : Keeps s (s.setEvents l) := .setDev s _

theorem Keeps.postEvent (s : State) (kind arg : Nat) (queue : Option Nat) : Keeps s (s.postEvent kind arg queue) := by
  unfold State.postEvent
  exact .ite (fun _ => .setEvents s _) fun _ => .setDev s _

theorem Keeps.postSignalEvent (s : State) (pa : Nat) (queue : Option Nat) : Keeps s (s.postSignalEvent pa queue) := by
  unfold State.postSignalEvent
  exact .ite (fun _ => .refl s) fun _ => .setEvents s _

theorem Keeps.takeEvent (s : State) (e : W64) : Keeps s (s.takeEvent e) := by
  unfold State.takeEvent
  exact .ite (fun _ => .setDev s _) fun _ => .setEvents s _

theorem Keeps.retryCopies (s : State) (launch core clk : Nat) : Keeps s (s.retryCopies launch core clk) := by
  unfold State.retryCopies
  exact .ite (fun _ => .refl s) fun _ => .setCore s _ _

theorem Keeps.chargeLate (s : State) (c : CopyCmd) : Keeps s (s.chargeLate c) := by
  unfold State.chargeLate
  refine .ite (fun _ => .refl s) fun _ => ?_
  split
  · exact .refl s
  · exact .ite (fun _ => .charge s _ _ _ _) fun _ => .charge s _ _ _ _

theorem Keeps.preemptFirm (s : State) (launch : Nat) : Keeps s (s.preemptFirm launch) := by
  unfold State.preemptFirm
  split
  · exact .refl s
  · split
    · exact .ite (fun _ => (Keeps.setLaunch s _ _).trans (.charge _ _ _ _ _)) fun _ => .refl s
    · exact .refl s

theorem Keeps.bootLoad (s : State) : Keeps s s.bootLoad :=
  .foldl (fun s (e : Nat × List Byte) => s.pokeDev e.1 e.2) (fun s e => .pokeDev s e.1 e.2) Config.steppeImage s

/-- An unrouted operand meets what its own thread's read met (R137). -/
@[simp] theorem routedFault_none (own : Bool) (w n : Nat) (m : W32) (bad : Fin 32 → Option Trap) (perm : W64) (t : Fin 32) :
    routedFault .none own w n m bad perm t = bad t := rfl

end Sys2Proof.Machine
end

