-- ==== Sys2Proof/Laws/Issue.lean ====
section
/-! SUPPORT. What the frames of the instruction families answer, and what the operations on memory and on accesses in
flight keep. One lemma says once everything a frame can do; a meaning built on the frame is then a statement about its
body. -/

namespace Sys2Proof.Machine

/-! ## What a lane instruction answers (R35, R36) -/

/-- With nothing in issue no step issues an instruction: the only stop. -/
theorem laneInstr_noAgent {s : State} (h : s.issue.who = none) (i : Instr) (body : Nat → W32 → State → State) :
    laneInstr i s body = .fault .noAgent := by
  simp only [laneInstr, h]

/-- The issue group executes: its results that are due land, the issue is charged, the body acts. -/
theorem laneInstr_runs {i : Instr} {s : State} {g t : Nat} (body : Nat → W32 → State → State)
    (h : s.issue.who = some (.lane g t))
    (k : encodingFault i .lane .u ((s.settle (.lane g t)).kernel g).laneRegs ((s.settle (.lane g t)).kernel g).groupRegs = none) :
    laneInstr i s body = .next (body g (s.settle (.lane g t)).issue.mask ((s.settle (.lane g t)).spendIssue (.lane g t) i)) := by
  simp only [laneInstr, h, k]

/-- The issue group parks with the encoding's cause and the first word. -/
theorem laneInstr_faults {i : Instr} {s : State} {g t : Nat} {c : Byte} (body : Nat → W32 → State → State)
    (h : s.issue.who = some (.lane g t))
    (k : encodingFault i .lane .u ((s.settle (.lane g t)).kernel g).laneRegs ((s.settle (.lane g t)).kernel g).groupRegs = some c) :
    laneInstr i s body =
      .next ((s.settle (.lane g t)).laneFault g (s.settle (.lane g t)).issue.mask c (firstWord i)) := by
  simp only [laneInstr, h, k]

/-- A conductor, Steppe or Saddle thread that reaches a lane instruction faults with 0x01. -/
theorem laneInstr_elsewhere {i : Instr} {s : State} {a : Agent} (body : Nat → W32 → State → State)
    (h : s.issue.who = some a) (e : ∀ g t, a ≠ .lane g t) :
    laneInstr i s body = .next (s.groupFault a 0x01 (firstWord i)) := by
  cases a with
  | lane g t => exact absurd rfl (e g t)
  | _ => simp only [laneInstr, h]

/-- A lane instruction refuses nothing. -/
theorem laneInstr_not_refused (i : Instr) (s : State) (body : Nat → W32 → State → State) (r : Refusal) :
    laneInstr i s body ≠ .refused r := by
  unfold laneInstr
  split
  · simp
  · simp only
    split <;> simp
  · simp

/-! ## What a group instruction answers -/

theorem groupInstr_noAgent {s : State} (h : s.issue.who = none) (i : Instr) (body : Agent → State → State) :
    groupInstr i s body = .fault .noAgent := by
  simp only [groupInstr, h]

/-- The thread executes: its results that are due land, the issue is charged, the body acts. -/
theorem groupInstr_runs {i : Instr} {s : State} {a : Agent} (body : Agent → State → State)
    (h : s.issue.who = some a) (e : ∀ g t, a ≠ .lane g t)
    (k : encodingFault i (agentKind a) ((s.settle a).levelOf a) 96 ((s.settle a).groupRegs a) = none)
    (r : (s.settle a).badG a i = none) :
    groupInstr i s body = .next (body a ((s.settle a).spendIssue a i)) := by
  cases a with
  | lane g t => exact absurd rfl (e g t)
  | _ => simp only [groupInstr, h, k, r]

/-- A register it reads holds an uncorrectable error: it faults with 0x10. -/
theorem groupInstr_struck {i : Instr} {s : State} {a : Agent} {n : Nat} (body : Agent → State → State)
    (h : s.issue.who = some a) (e : ∀ g t, a ≠ .lane g t)
    (k : encodingFault i (agentKind a) ((s.settle a).levelOf a) 96 ((s.settle a).groupRegs a) = none)
    (r : (s.settle a).badG a i = some n) :
    groupInstr i s body = .next ((s.settle a).badRegister a n) := by
  cases a with
  | lane g t => exact absurd rfl (e g t)
  | _ => simp only [groupInstr, h, k, r]

theorem groupInstr_faults {i : Instr} {s : State} {a : Agent} {c : Byte} (body : Agent → State → State)
    (h : s.issue.who = some a) (e : ∀ g t, a ≠ .lane g t)
    (k : encodingFault i (agentKind a) ((s.settle a).levelOf a) 96 ((s.settle a).groupRegs a) = some c) :
    groupInstr i s body = .next ((s.settle a).groupFault a c (firstWord i)) := by
  cases a with
  | lane g t => exact absurd rfl (e g t)
  | _ => simp only [groupInstr, h, k]

/-- A lane thread that reaches a group instruction parks with 0x01. -/
theorem groupInstr_lane {i : Instr} {s : State} {g t : Nat} (body : Agent → State → State)
    (h : s.issue.who = some (.lane g t)) :
    groupInstr i s body = .next (s.laneFault g s.issue.mask 0x01 (firstWord i)) := by
  simp only [groupInstr, h]

theorem groupInstr_not_refused (i : Instr) (s : State) (body : Agent → State → State) (r : Refusal) :
    groupInstr i s body ≠ .refused r := by
  unfold groupInstr
  split
  · simp
  · simp
  · simp only
    split
    · simp
    · split <;> simp

theorem Keeps.badRegister (s : State) (a : Agent) (k : Nat) : Keeps s (s.badRegister a k) :=
  (Keeps.uncorrectableAt s _ _ _).trans (.groupFaultOf _ _ _ _ _)

/-! ## What they keep: what the body keeps -/

theorem laneInstr_keeps {i : Instr} {s t : State} {body : Nat → W32 → State → State}
    (b : ∀ g m s, Keeps s (body g m s)) (h : laneInstr i s body = .next t) : Keeps s t := by
  unfold laneInstr at h
  split at h
  · exact nomatch h
  · rename_i g n _
    simp only at h
    split at h <;> cases h
    · exact (Keeps.settle s _).trans (.laneFault _ _ _ _ _)
    · exact ((Keeps.settle s _).trans (.spendIssue _ _ _)).trans (b _ _ _)
  · cases h
    exact .groupFault s _ _ _

theorem groupInstr_keeps {i : Instr} {s t : State} {body : Agent → State → State}
    (b : ∀ a s, Keeps s (body a s)) (h : groupInstr i s body = .next t) : Keeps s t := by
  unfold groupInstr at h
  split at h
  · exact nomatch h
  · cases h
    exact .laneFault s _ _ _ _
  · simp only at h
    split at h
    · cases h
      exact (Keeps.settle s _).trans (.groupFault _ _ _ _)
    · split at h <;> cases h
      · exact (Keeps.settle s _).trans (.badRegister _ _ _)
      · exact ((Keeps.settle s _).trans (.spendIssue _ _ _)).trans (b _ _)

theorem condInstr_keeps {i : Instr} {s t : State} {body : Nat → State → State}
    (b : ∀ g s, Keeps s (body g s)) (h : condInstr i s body = .next t) : Keeps s t := by
  refine groupInstr_keeps (fun a s => ?_) h
  cases a with
  | cond g => exact b g s
  | _ => exact .groupFault s _ _ _

/-! ## The shared bodies -/

theorem Keeps.laneFaultBy (s : State) (g : Nat) (m : W32) (c : Byte) (v : Fin 32 → W64) : Keeps s (s.laneFaultBy g m c v) := by
  unfold State.laneFaultBy
  refine .ite (fun _ => .refl s) fun _ => ?_
  exact ((Keeps.ite (fun _ => .uncorrectableAt s _ _ _) fun _ => .refl s).trans (.laneFault _ _ _ _ _)).trans (.mapLanes _ _ _ _)

/-- Every lane ALU instruction, whatever it computes. -/
theorem laneAlu_keeps {i : Instr} {s t : State} {w : Nat} {d : LDst} {a : Option LSrc} {b : Option LOpB} {n : Nat} {fp : Bool}
    {f : Lane → W64 → W64 → W64 → AluResult} (h : laneAlu i s w d a b n fp f = .next t) : Keeps s t := by
  refine laneInstr_keeps (fun g m s => ?_) h
  simp only
  split
  · exact .laneFaultBy s _ _ _ _
  · exact .mapLanes s _ _ _

theorem Keeps.groupResult (s : State) (a : Agent) (words : Nat) (d : Dst) (v : W64) (n : Nat) : Keeps s (s.groupResult a words d v n) :=
  (Keeps.advance s a words).trans (.setCtx _ _ _)

/-- Every group instruction that writes one register and does nothing else. -/
theorem groupWrite_keeps {i : Instr} {s t : State} {words : Nat} {d : GDst} {n : Nat} {f : State → Agent → W64}
    (h : groupWrite i s words d n f = .next t) : Keeps s t :=
  groupInstr_keeps (fun _ s => .groupResult s _ _ _ _ _) h

theorem Keeps.startWait (s : State) (a : Agent) (k : WaitKind) (n : Nat) : Keeps s (s.startWait a k n) := .setCtx s a _

theorem Keeps.endWait (s : State) (a : Agent) (d : Dst) (v : W64) : Keeps s (s.endWait a d v) :=
  ((Keeps.setCtx s a _).trans (.groupResult _ _ _ _ _ _)).trans (.setCtx _ _ _)

/-! ## Accesses: the check, the flight, its performance (R203–R215, R228) -/

theorem Keeps.outsideResident (s : State) (w : Option Site) (va : Nat) : Keeps s (s.outsideResident w va) := by
  unfold State.outsideResident
  split
  · exact .refl s
  · split
    · exact .refl s
    · exact .ite (fun _ => .charge s _ _ _ _) fun _ => .refl s

theorem Keeps.reach (s : State) (unit asid : Nat) (root : Option W64) (level : Level) (w : Option Site) (sp : Space) (va z : Nat) (acc : Acc) :
    Keeps s (s.reach unit asid root level w sp va z acc).1 := by
  unfold State.reach
  split
  · have h := Keeps.outsideResident s w va
    simp only
    split
    · exact h
    · have k := Keeps.translate (s.outsideResident w va) unit asid root va acc (level = .u)
      split <;> rename_i e <;> rw [e] at k <;> exact h.trans k
  · split
    · exact .refl s
    · split <;> exact .refl s

theorem Keeps.checkAccess (s : State) (a : Agent) (sp : Space) (addr : W64) (z : Nat) (acc : Acc) (locks : Bool) (ok : Loc → Bool) :
    Keeps s (s.checkAccess a sp addr z acc locks ok).1 := by
  unfold State.checkAccess
  simp only
  split
  · exact .refl s
  · have k := Keeps.reach s (agentUnit a) (s.asidOf a) (s.rootOf a) (s.levelOf a) (s.siteOf a) sp addr.toNat z acc
    split <;> rename_i e <;> rw [e] at k
    · exact k
    · split
      · exact k
      · split <;> exact k

theorem Keeps.loadBytes (s : State) (loc : Loc) (n : Nat) : Keeps s (s.loadBytes loc n).1 := by
  unfold State.loadBytes
  split
  · exact .refl s
  · split
    · exact .refl s
    · exact .of_eq rfl rfl rfl
  · exact .of_eq rfl rfl rfl
  · exact .of_eq rfl rfl rfl

theorem Keeps.noteGrants (s : State) (old : List Host.Cell) (core off n : Nat) : Keeps s (s.noteGrants old core off n) := by
  unfold State.noteGrants
  exact .ite (fun _ => .refl s) fun _ => Keeps.foldl _ (fun s q => .charge s _ _ _ _) _ s

theorem Keeps.addTask (s : State) (core part : Nat) (t : Task) : Keeps s (s.addTask core part t) := by
  unfold State.addTask
  simp only
  split
  · exact .setCore s _ _
  · exact .refl s

theorem Keeps.formingReady (s : State) (core : Nat) (f : Forming) : Keeps s (s.formingReady core f) := by
  unfold State.formingReady
  simp only
  split
  · exact (Keeps.setCore s _ _).trans (.addTask _ _ _ _)
  · exact .setCore s _ _

theorem Keeps.haltWatch (s : State) (core id reason : Nat) (w : Watch) : Keeps s (s.haltWatch core id reason w) := by
  unfold State.haltWatch
  exact ((Keeps.setCore s _ _).trans (Keeps.foldl _ (fun s f => .formingReady s core f) _ _)).trans (.post _ _)

theorem Keeps.stopWatch (s : State) (core id reason : Nat) : Keeps s (s.stopWatch core id reason) := by
  unfold State.stopWatch
  split
  · exact .refl s
  · refine .ite (fun _ => .refl s) fun _ => ?_
    have k := fun w q => (Keeps.haltWatch s core id reason w).trans (.charge _ q 1 5 (n64 id))
    simp only
    split
    · exact k _ _
    · split
      · exact .ite (fun _ => (k _ _).trans (.charge _ _ _ _ _)) fun _ => k _ _
      · exact k _ _

theorem Keeps.recordChange (s : State) (core id line : Nat) (mask v : W64) (gen : Nat) :
    Keeps s (s.recordChange core id line mask v gen) := by
  unfold State.recordChange
  simp only
  split
  · exact .refl s
  · refine .ite (fun _ => .refl s) fun _ => .ite (fun _ => .stopWatch s _ _ _) fun _ => ?_
    exact .ite (fun _ => .setCore s _ _) fun _ => .ite (fun _ => .stopWatch s _ _ _) fun _ => .setCore s _ _

theorem Keeps.noteChange (s : State) (core : Nat) (offs : List Nat) (gen : Nat) : Keeps s (s.noteChange core offs gen) := by
  unfold State.noteChange
  refine Keeps.foldl _ (fun s x => ?_) _ s
  simp only
  split
  · exact .refl s
  · exact .ite (fun _ => .recordChange s _ _ _ _ _ _) fun _ => Keeps.foldl _ (fun s y => .recordChange s _ _ _ _ _ _) _ s

theorem Keeps.storeSlice (s : State) (core off : Nat) (bs : List Byte) (gen : Nat) : Keeps s (s.storeSlice core off bs gen) := by
  unfold State.storeSlice
  have h := fun k bs n => (Keeps.pokeBytes s k bs).trans (.noteGrants _ s.mem core off n)
  exact .ite (fun _ => h _ _ _) fun _ => (h _ _ _).trans (.noteChange _ _ _ _)

/-- Bytes stored at their memory leave memory in its form, whatever else watches them. -/
theorem Keeps.storeFrom (s : State) (sLevel : Bool) (loc : Loc) (bs : List Byte) (gen : Nat) :
    Keeps s (s.storeFrom sLevel loc bs gen) := by
  unfold State.storeFrom
  split
  · exact .storeSlice s _ _ _ _
  · exact .ite (fun _ => (Keeps.pokeDev s _ _).trans (.noteObject _ _ _ _)) fun _ => .refl s
  · exact .refl s
  · exact .refl s

theorem Keeps.storeBytes (s : State) (loc : Loc) (bs : List Byte) (gen : Nat) : Keeps s (s.storeBytes loc bs gen) :=
  .storeFrom s false loc bs gen

theorem Keeps.dropLines (s : State) (unit : Nat) : Keeps s (s.dropLines unit) := .setCore s _ _

theorem Keeps.dropLine (s : State) (unit pa : Nat) : Keeps s (s.dropLine unit pa) := .setCore s _ _

theorem Keeps.loadCached (s : State) (unit pa n : Nat) : Keeps s (s.loadCached unit pa n).1 := by
  unfold State.loadCached
  simp only
  split
  · exact .refl s
  · exact ((Keeps.loadBytes s _ _).trans (.fresh _)).trans (.setCore _ _ _)

theorem Keeps.setAfter (s : State) (a : Agent) (ids : List Nat) : Keeps s (s.setAfter a ids) := by
  unfold State.setAfter
  split
  · exact .setGang s _ _
  · exact .setCtx s _ _

theorem Keeps.follow (s : State) (a : Agent) (ids : List Nat) : Keeps s (s.follow a ids) := by
  unfold State.follow
  split
  · exact .refl s
  · exact .setAfter s _ _

theorem Keeps.issueAccess (s : State) (a : Agent) (p : Passed) (size : Nat) (op : Access) (acq rel : Bool) (scope : Scope)
    (strong : Bool) (before : List Nat) : Keeps s (s.issueAccess a p size op acq rel scope strong before) := .of_eq rfl rfl rfl

theorem Keeps.removeFlight (s : State) (id : Nat) : Keeps s (s.removeFlight id) := .of_eq rfl rfl rfl

theorem Keeps.acquired (s : State) (a : Agent) (scope : Scope) : Keeps s (s.acquired a scope) := by
  unfold State.acquired
  exact .ite (fun _ => .dropLines s _) fun _ => .refl s

theorem Keeps.deliver (s : State) (a : Agent) (id : Nat) (lo hi : W64) : Keeps s (s.deliver a id lo hi) := by
  unfold State.deliver
  refine .ite (fun _ => .refl s) fun _ => ?_
  split
  · exact .setGang s _ _
  · exact .setCtx s _ _

theorem Keeps.joinBatch (s before : State) : Keeps s (s.joinBatch before) := .of_eq rfl rfl rfl

theorem Keeps.landBatch (s : State) (batch : Nat) : Keeps s (s.landBatch batch) := by
  unfold State.landBatch
  exact .ite (fun _ => .refl s) fun _ =>
    Keeps.foldl _ (fun s f => (Keeps.deliver s _ _ _ _).trans (.removeFlight _ _)) _ s

theorem Keeps.spendWork (s : State) (a : Agent) (pJ : Nat) : Keeps s (s.spendWork a pJ) := by
  unfold State.spendWork
  split
  · exact .ite (fun _ => .spend s _ _) fun _ => .refl s
  · exact .refl s

theorem Keeps.foldl_fst {α β : Type} (f : State × β → α → State × β) (h : ∀ s b x, Keeps s (f (s, b) x).1) :
    ∀ (l : List α) (s : State) (b : β), Keeps s (l.foldl f (s, b)).1
  | [], s, _ => .refl s
  | x :: l, s, b => (h s b x).trans (Keeps.foldl_fst f h l _ _)

theorem Keeps.checkThreads (s : State) (g : Nat) (m : W32) (sp : Space) (addr : Fin 32 → W64) (z : Nat) (acc : Acc) (locks : Bool)
    (ok : Loc → Bool) : Keeps s (s.checkThreads g m sp addr z acc locks ok).1 :=
  Keeps.foldl_fst _ (fun s _ _ => .checkAccess s _ _ _ _ _ _ _) _ s []

/-- Every lane memory instruction keeps what the issue of its accesses keeps. -/
theorem laneMemory_keeps {i : Instr} {s t : State} {sp : Space} {z : Nat} {acc : Acc} {locks : Bool} {ok : Loc → Bool} {words : Nat}
    {addr : ReadEnv → State → Nat → Fin 32 → Lane → Except Trap W64} {go : State → Nat → List (Fin 32 × Passed) → State}
    (b : ∀ s g ps, Keeps s (go s g ps)) (h : laneMemory i s sp z acc locks ok words addr go = .next t) : Keeps s t := by
  refine laneInstr_keeps (fun g m s => ?_) h
  simp only
  split
  · exact .laneFaultBy s _ _ _ _
  · have k := fun at_ => Keeps.checkThreads s g m sp at_ z acc locks ok
    split
    · exact (k _).trans (.laneFaultOf _ _ _ _ _ _)
    · exact .ite (fun _ => (k _).trans (b _ _ _)) fun _ => ((k _).trans (b _ _ _)).trans (.mapLanes _ _ _ _)

/-- Every group memory instruction keeps what the issue of its access keeps. -/
theorem groupMemory_keeps {i : Instr} {s t : State} {sp : Space} {z : Nat} {acc : Acc} {locks : Bool} {ok : Loc → Bool} {words : Nat}
    {addr : State → Agent → W64} {go : State → Agent → Passed → State} (b : ∀ s a p, Keeps s (go s a p))
    (h : groupMemory i s sp z acc locks ok words addr go = .next t) : Keeps s t := by
  refine groupInstr_keeps (fun a s => ?_) h
  simp only
  split
  · exact .groupFault s _ _ _
  · have k := Keeps.checkAccess s a sp (addr s a) z acc locks ok
    split <;> rename_i e <;> rw [e] at k
    · exact k.trans (.groupFaultOf _ _ _ _ _)
    · exact .ite (fun _ => k.trans (b _ _ _)) fun _ => (k.trans (b _ _ _)).trans (.advance _ _ _)

/-! ## A trap entered (R276) -/

/-- Everything taking a trap leaves: the saved registers, the status word, the level, the PC. -/
@[simp] theorem Ctx.enter_pc (c : Ctx) (now : Nat) (l : Level) (k v p x : W64) (ce st : Bool) : (c.enter now l k v p x ce st).pc = x := rfl
@[simp] theorem Ctx.enter_level (c : Ctx) (now : Nat) (l : Level) (k v p x : W64) (ce st : Bool) : (c.enter now l k v p x ce st).level = l := rfl
@[simp] theorem Ctx.enter_scause (c : Ctx) (now : Nat) (l : Level) (k v p x : W64) (ce st : Bool) : (c.enter now l k v p x ce st).scause = k := rfl
@[simp] theorem Ctx.enter_stval (c : Ctx) (now : Nat) (l : Level) (k v p x : W64) (ce st : Bool) : (c.enter now l k v p x ce st).stval = v := rfl
@[simp] theorem Ctx.enter_sepc (c : Ctx) (now : Nat) (l : Level) (k v p x : W64) (ce st : Bool) : (c.enter now l k v p x ce st).sepc = p := rfl
@[simp] theorem Ctx.enter_sstat (c : Ctx) (now : Nat) (l : Level) (k v p x : W64) (ce st : Bool) :
    (c.enter now l k v p x ce st).sstat = sstatEntry c.sstat c.level ce st := rfl
@[simp] theorem Ctx.enter_from (c : Ctx) (now : Nat) (l : Level) (k v p x : W64) (ce st : Bool) :
    (c.enter now l k v p x ce st).from_ = now + 1 := rfl
@[simp] theorem Ctx.enter_fault (c : Ctx) (now : Nat) (l : Level) (k v p x : W64) (ce st : Bool) : (c.enter now l k v p x ce st).fault = none := rfl

end Sys2Proof.Machine
end

