-- ==== Sys2Proof/Tests/Slice0.lean ====
section
/-! SUPPORT. Tests: words written out in the manual, small steps, and a witness for the hypotheses of every
statement. -/

namespace Sys2Proof.Tests

set_option Elab.async false

open Sys2Proof Sys2Proof.Machine Sys2Proof.Claims

/-! ## Small states -/

/-- Thread `t` of the gang in slot 0 of partition 0 of core 0, live at word 0. -/
def lane0 : Lane := { Lane.empty with st := .live }

/-- A gang with two live threads, as `f` leaves each. -/
def gang2 (f : Lane → Lane) : Gang :=
  { Gang.empty with lanes := Vector.ofFn fun t : Fin 32 => if t.val < 2 then f lane0 else Lane.empty }

/-- A kernel with code, a scratch of 4,096 bytes, barriers and shares. -/
def kernel0 : Kernel :=
  { placedKernel (List.replicate 40 0) with scratch := 4096, objectBytes := 4096, barCeiling := 1000, widths := [5, 2, 4, 0, 0, 0] }

/-- The launch that runs it. -/
def launch0 : Launch := { placedLaunch [] with kernel := kernel0 }

/-- The machine with one gang, gang 0, of launch 0. -/
def withGang (x : Gang) : State := { State.reset with gangs := [(0, x)], launches := [(0, launch0)] }

/-- Both threads of gang 0 issue together. -/
def lanes (x : Gang) : State := { withGang x with issue := { Issue.idle with who := some (.lane 0 0), mask := 3 } }

/-- Thread 0 issues alone. -/
def lane1 (x : Gang) : State := { withGang x with issue := { Issue.idle with who := some (.lane 0 0), mask := 1 } }

/-- The conductor of gang 0 issues at a level, at its first word. -/
def condOf (l : Level) (f : Ctx → Ctx) : Gang := { gang2 id with cond := f { Ctx.empty l .live with pc := 0x80000000 } }

def condS (x : Gang) : State := { withGang x with issue := { Issue.idle with who := some (.cond 0) } }

/-- Thread 0 of Steppe core 0 issues. -/
def steppeS (f : Ctx → Ctx) : State :=
  { State.reset with steppes := [(0, f (Ctx.empty .s .live))], issue := { Issue.idle with who := some (.steppe 0 0) } }

/-- Saddle core 0 issues. -/
def saddleS (f : Ctx → Ctx) : State :=
  { State.reset with saddles := [(0, f (Ctx.empty .f .live))], issue := { Issue.idle with who := some (.saddle 0) } }

/-- The state a lane instruction of gang 0 acts on. -/
def laneTurn (i : Instr) (s : State) : State := turn i s (.lane 0 0)

theorem turns {i : Instr} {s : State} {m : W32} (w : s.issue.who = some (.lane 0 0)) (k : s.issue.mask = m)
    (h : encodingFault i .lane .u (s.kernel 0).laneRegs (s.kernel 0).groupRegs = none) :
    LaneTurn i s 0 m (laneTurn i s) := ⟨⟨0, w, rfl⟩, k, h⟩

theorem groupTurns {i : Instr} {s : State} {a : Agent} (w : s.issue.who = some a) (k : agentKind a ≠ .lane)
    (h : encodingFault i (agentKind a) (s.levelOf a) 96 (s.groupRegs a) = none)
    (b : ((turn i s a).ctx a).bad.isEmpty = true := by decide +kernel) :
    GroupTurn i s a (turn i s a) := ⟨w, k, h, rfl, fun _ _ => by simp [List.isEmpty_iff.mp b]⟩

/-- Whether a result is there. -/
def isOk {ε α : Type} : Except ε α → Bool
  | .ok _ => true
  | .error _ => false

theorem okOf {ε α : Type} : {e : Except ε α} → isOk e = true → ∃ o, e = .ok o
  | .ok o, _ => ⟨o, rfl⟩
  | .error _, h => by cases h

/-- A statement about every thread of a mask, thread by thread. -/
theorem both {P : Fin 32 → Prop} (h0 : P 0) (h1 : P 1) : ∀ u : Fin 32, (3 : W32).getLsbD u.val = true → P u := by
  intro u h
  have : u = 0 ∨ u = 1 := by revert h; revert u; decide
  rcases this with rfl | rfl <;> assumption

theorem alone {P : Fin 32 → Prop} (h0 : P 0) : ∀ u : Fin 32, (1 : W32).getLsbD u.val = true → P u := by
  intro u h
  have : u = 0 := by revert h; revert u; decide
  rcases this with rfl; assumption

theorem allOk {ι ε α : Type} : ∀ {l : List (ι × Except ε α)}, (l.all fun e => isOk e.2) = true →
    ∃ ps : List (ι × α), l = ps.map fun e => (e.1, Except.ok e.2)
  | [], _ => ⟨[], rfl⟩
  | (u, .ok p) :: r, h => by
    obtain ⟨ps, h⟩ := allOk (l := r) (by simpa [isOk] using h)
    exact ⟨(u, p) :: ps, by rw [h]; rfl⟩
  | (u, .error _) :: r, h => by simp [isOk] at h

theorem checked {s1 : State} {g : Nat} {m : W32} {sp : Space} {at_ : Fin 32 → W64} {z : Nat} {acc : Acc} {locks : Bool}
    {allowed : Loc → Bool} (h : ((s1.checkThreads g m sp at_ z acc locks allowed).2.all fun e => isOk e.2) = true) :
    ∃ s2, ∃ ps : List (Fin 32 × Passed), s1.checkThreads g m sp at_ z acc locks allowed = (s2, ps.map fun e => (e.1, Except.ok e.2)) := by
  obtain ⟨ps, h⟩ := allOk h
  exact ⟨_, ps, by rw [← h]⟩

theorem groupChecked {s1 : State} {a : Agent} {sp : Space} {va : W64} {z : Nat} {acc : Acc} {locks : Bool}
    {allowed : Loc → Bool} (space : spaceHeld a sp = true) (h : isOk (s1.checkAccess a sp va z acc locks allowed).2 = true) :
    ∃ s2 p, GroupChecked s1 a sp va z acc locks allowed s2 p := by
  obtain ⟨p, h⟩ := okOf h
  exact ⟨_, p, space, by rw [← h]⟩

/-! ## Lane instructions -/

def addI : Instr := .add .i32 (.v 2) (.v 0) (.lane (.v 1))
def addS : State := lanes (gang2 id)

theorem witness_LaneIntegerResult :
    LaneTurn addI addS 0 3 (laneTurn addI addS) ∧ (∃ n, integer addI = some n ∧ n.ty = .i32) ∧
      ∃ o, gather (aluEnv addI (laneTurn addI addS) 0 (.v 2)) (laneTurn addI addS) 0 3 32 2 (.v 2) (some (.v 0))
        (some (.lane (.v 1))) = .ok o :=
  ⟨turns rfl rfl (by decide +kernel), ⟨_, rfl, rfl⟩, okOf (by decide +kernel)⟩

/-- The hypotheses at the last register, at `vz`, and through `v[x0]`. -/
theorem witness_LaneFloatResult :
    let i : Instr := .ffma .f32 (.v 95) .vz (.group 127)
    LaneTurn i addS 0 3 (laneTurn i addS) ∧ (∃ n, floating i = some n) ∧
      ∃ o, gather (aluEnv i (laneTurn i addS) 0 (.v 95)) (laneTurn i addS) 0 3 32 2 (.v 95) (some .vz) (some (.group 127)) = .ok o :=
  ⟨turns rfl rfl (by decide +kernel), ⟨_, rfl⟩, okOf (by decide +kernel)⟩

theorem witness_LaneConvertResult :
    let i : Instr := .cvt .f16 (.v 0) (.v 1) .i32 false .rne false
    LaneTurn i addS 0 3 (laneTurn i addS) ∧
      ∃ o, gather (aluEnv i (laneTurn i addS) 0 (.v 0)) (laneTurn i addS) 0 3 32 2 (.v 0) (some (.v 1)) none = .ok o :=
  ⟨turns rfl rfl (by decide +kernel), okOf (by decide +kernel)⟩

/-- The format word of blocks of 8 elements with 8-bit mantissas in v3 of both threads. -/
def packS : State := lanes (gang2 fun l => { l with v := l.v.set 3 8 })

theorem witness_LaneBlockResult :
    ∀ pack : Bool, let i : Instr := if pack then .bfpk .f16 (.v 0) (.v 1) (.v 3) else .bfpu .f16 (.v 0) (.v 1) (.v 3)
    LaneTurn i packS 0 3 (laneTurn i packS) ∧
      (∀ u : Fin 32, (3 : W32).getLsbD u.val = true →
        readSrc (aluEnv i (laneTurn i packS) 0 (.v 0)) u (laneOf (laneTurn i packS) 0 u) (.v 3) = .ok 8) ∧
      (∃ fmt, Format.ofWord 8 false = some fmt) ∧
      ∃ o, gather (aluEnv i (laneTurn i packS) 0 (.v 0)) (laneTurn i packS) 0 3 16 4 (.v 0) (some (.v 1)) none = .ok o := by
  intro pack
  cases pack <;>
    exact ⟨turns rfl rfl (by decide +kernel), both (by decide +kernel) (by decide +kernel), ⟨_, rfl⟩, okOf (by decide +kernel)⟩

/-- `route rot 1` before `add`, with zero fill: the first word of a legal unit. -/
def routeS : State :=
  { lanes (gang2 id) with
      launches := [(0, { launch0 with kernel := { kernel0 with laneCode := [0x66000402, 0x0283050E] } })] }

theorem witness_PrefixIsHeld :
    routeS.issue.who = some (.lane 0 0) ∧ routeS.issue.words = 0 ∧
      unitFault (routeS.kernel 0) ((routeS.settle (.lane 0 0)).gang 0 |>.lane 0).pc.toNat
        (((routeS.settle (.lane 0 0)).gang 0 |>.lane 0).loops.map (·.stop)) = none := by
  refine ⟨rfl, rfl, ?_⟩
  decide +kernel

theorem witness_PlainOperandsAreRead : addS.issue.route = none ∧ addS.issue.acc = none := ⟨rfl, rfl⟩

/-- The routed operand of both threads: a rotation by the most elements there are. -/
def routedS : State :=
  { addS with issue := { addS.issue with words := 1, route := some (.rot 255, .none, false) } }

theorem witness_RoutedOperand :
    (8, 8) ∈ [(8, 8), (16, 4), (32, 2), (64, 1)] ∧ routedS.issue.acc = none ∧ RouteSpec.rot 255 ≠ .none ∧
      ∃ o, gather (aluEnv addI routedS 0 (.v 2)) routedS 0 3 8 8 (.v 2) (some (.v 0)) (some (.lane (.v 1))) = .ok o :=
  ⟨by decide, rfl, by decide, okOf (by decide +kernel)⟩

/-- A fragment of tile 15, and of a tile that is invalid. -/
def fragmentS (bad : List Nat) : State :=
  { addS with
      cores := [(0, { CoreSt.empty with invalid := bad })]
      issue := { addS.issue with words := 1, acc := some (15, 63, false, false) } }

theorem witness_FragmentOperand :
    (∃ o, gather (aluEnv addI (fragmentS []) 0 (.v 2)) (fragmentS []) 0 3 32 2 (.v 2) (some (.v 0)) none = .ok o) ∧
      15 ∈ ((fragmentS [15]).core 0).invalid ∧
      ∀ u : Fin 32, (3 : W32).getLsbD u.val = true →
        (laneOf (fragmentS [15]) 0 u).bad = [] ∧ ∃ q, readDst (aluEnv addI (fragmentS [15]) 0 (.v 2)) (laneOf (fragmentS [15]) 0 u) (.v 2) = .ok q :=
  ⟨okOf (by decide +kernel), by decide, both ⟨by decide +kernel, okOf (by decide +kernel)⟩ ⟨by decide +kernel, okOf (by decide +kernel)⟩⟩

/-- Thread 0 takes `bbrnz gc3, v0, #-1` and thread 1 does not. -/
def branchI : Instr := .bbrnz 3 (.v 0) (-1)
def branchS : State :=
  let l (v : W64) : Lane := { lane0 with pc := 1, v := lane0.v.set 0 v, gc := Vector.replicate 4 1 }
  lanes { Gang.empty with lanes := (Gang.empty.lanes.set 0 (l 1)).set 1 (l 0) }

theorem witness_LaneBranches :
    LaneTurn branchI branchS 0 3 (laneTurn branchI branchS) ∧
      ∃ b, branch branchI = some b ∧ ∀ u : Fin 32, (3 : W32).getLsbD u.val = true →
        Takes (controlEnv branchI (laneTurn branchI branchS) 0) b u (laneOf (laneTurn branchI branchS) 0 u) (u = 0) ∧
          (decide (u = 0) = true →
            ((laneTurn branchI branchS).kernel 0).inSection false (awayFrom (laneOf (laneTurn branchI branchS) 0 u) b.off) = true ∧
              ∀ k, b.guarded = some k → (laneOf (laneTurn branchI branchS) 0 u).gc[k] ≠ 0) := by
  refine ⟨turns rfl rfl (by decide +kernel), _, rfl, both ⟨⟨1, by decide +kernel, by decide⟩, fun _ => ⟨by decide +kernel, ?_⟩⟩
    ⟨⟨0, by decide +kernel, by decide⟩, fun h => absurd h (by decide)⟩⟩
  intro k h
  cases h
  decide +kernel

/-- A loop at the end of its body with two turns to go, with one, and away from its end. -/
theorem witness_LoopsStepAndClose :
    let l (count stop : W64) : Lane := { lane0 with pc := 4, loops := [{ count := count, start := 2, stop := stop, depth := 0 }] }
    (∀ c s, (l c s).loops = { count := c, start := 2, stop := s, depth := 0 } :: []) ∧
      (5 : W64) = (l 2 5).pc.zeroExtend 64 + n64 1 ∧ 1 < (2 : W64).toNat ∧ (1 : W64).toNat ≤ 1 ∧ (6 : W64) ≠ 5 ∧
      ∀ e ∈ (l 2 5).loops, e.start.toNat ≤ (4 : W32).toNat ∧ (4 : W32).toNat < e.stop.toNat := by
  refine ⟨fun _ _ => rfl, by decide, by decide, by decide, by decide, by decide⟩

/-! ## Lane control, memory, queues -/

/-- Four entries on chip. -/
def full : Lane :=
  { lane0 with cdep := 4, tsp := 16, stack := List.replicate 4 { ret := 1, x := Vector.replicate 4 XReg.zero } }

/-- `call #39` onto an empty stack by both threads; onto a full one by one thread; `calli` of an entry. -/
theorem witness_LaneCalls :
    (LaneTurn (.call 39) addS 0 3 (laneTurn (.call 39) addS) ∧
      ∀ u : Fin 32, (3 : W32).getLsbD u.val = true →
        ((laneTurn (.call 39) addS).kernel 0).inSection false (awayFrom (laneOf (laneTurn (.call 39) addS) 0 u) 39) = true ∧
          (laneOf (laneTurn (.call 39) addS) 0 u).pushFault 4096 = none) ∧
    (let s := lane1 (gang2 fun _ => full)
     LaneTurn (.call 39) s 0 1 (laneTurn (.call 39) s) ∧ (1 : W32) = oneHot 0 ∧
      (laneOf (laneTurn (.call 39) s) 0 0).cdep < ((laneTurn (.call 39) s).kernel 0).maxDepth ∧
      (laneOf (laneTurn (.call 39) s) 0 0).pushFault 4096 = none ∧ 4 ≤ (laneOf (laneTurn (.call 39) s) 0 0).stack.length ∧
      Memory.wf s.mem = true ∧ Unwatched s (gangCore 0) ∧
      ((laneTurn (.call 39) s).gang 0).scratch + (laneOf (laneTurn (.call 39) s) 0 0).tsp.toNat + 16 ≤ 0xFF0000) ∧
    let s : State := { addS with launches := [(0, { launch0 with kernel := { kernel0 with funcs := [{ entry := 0, words := 40 }] } })] }
    LaneTurn (.calli .vz) s 0 3 (laneTurn (.calli .vz) s) ∧ ∀ u : Fin 32, (3 : W32).getLsbD u.val = true →
      readSrc (controlEnv (.calli .vz) (laneTurn (.calli .vz) s) 0) u (laneOf (laneTurn (.calli .vz) s) 0 u) .vz = .ok ((0 : W32).zeroExtend 64) ∧
        ((laneTurn (.calli .vz) s).kernel 0).isEntry false 0 = true := by
  refine ⟨⟨turns rfl rfl (by decide +kernel), both (by decide +kernel) (by decide +kernel)⟩,
    ⟨turns rfl rfl (by decide +kernel), by decide, by decide +kernel, by decide +kernel, by decide +kernel, by decide, ?_, by decide +kernel⟩,
    turns rfl rfl (by decide +kernel), both (by decide +kernel) (by decide +kernel)⟩
  intro e h
  cases h

/-- `ret` to an entry on chip, inside the section and past it, and to one in the slice at the lowest slot. -/
theorem witness_LaneReturns :
    (∀ r ∈ [(1 : W64), 40],
      let f : Frame := { ret := r, x := Vector.replicate 4 XReg.zero }
      let s := lanes (gang2 fun _ => { full with stack := List.replicate 4 f })
      LaneTurn .ret s 0 3 (laneTurn .ret s) ∧ ∀ u : Fin 32, (3 : W32).getLsbD u.val = true →
        (laneOf (laneTurn .ret s) 0 u).cdep ≠ 0 ∧ (laneOf (laneTurn .ret s) 0 u).stack = f :: List.replicate 3 f ∧
          ((laneTurn .ret s).kernel 0).inSection false (r.truncate 32) = decide (r = 1)) ∧
    let s := lane1 (gang2 fun _ => { lane0 with cdep := 5, tsp := 16 })
    LaneTurn .ret s 0 1 (laneTurn .ret s) ∧ (laneOf (laneTurn .ret s) 0 0).cdep ≠ 0 ∧
      (laneOf (laneTurn .ret s) 0 0).stack = [] ∧ (laneOf (laneTurn .ret s) 0 0).popFault 4096 = none ∧
      ((laneTurn .ret s).kernel 0).inSection false
        ((Frame.ofBytes (readBytes (laneTurn .ret s).mem (sliceKey 0 0) 16)).ret.truncate 32) = true := by
  refine ⟨?_, turns rfl rfl (by decide +kernel), by decide +kernel⟩
  intro r h
  simp only [List.mem_cons, List.not_mem_nil, or_false] at h
  rcases h with rfl | rfl <;> exact ⟨turns rfl rfl (by decide +kernel), both (by decide +kernel) (by decide +kernel)⟩

theorem witness_LaneExits :
    LaneTurn .exit addS 0 3 (laneTurn .exit addS) ∧ LaneTurn .ret addS 0 3 (laneTurn .ret addS) ∧
      ∀ u : Fin 32, (3 : W32).getLsbD u.val = true → (laneOf (laneTurn .ret addS) 0 u).cdep = 0 :=
  ⟨turns rfl rfl (by decide +kernel), turns rfl rfl (by decide +kernel), both (by decide +kernel) (by decide +kernel)⟩

theorem witness_LaneMasks :
    LaneTurn (.join 0) addS 0 3 (laneTurn (.join 0) addS) ∧ LaneTurn (.leave 11) addS 0 3 (laneTurn (.leave 11) addS) ∧
      LaneTurn (.wait 11) addS 0 3 (laneTurn (.wait 11) addS) :=
  ⟨turns rfl rfl (by decide +kernel), turns rfl rfl (by decide +kernel), turns rfl rfl (by decide +kernel)⟩

/-- A mask whose threads all wait, and one whose threads do not. -/
theorem witness_MaskRelease :
    let x := gang2 fun l => { l with st := .parkedMask 11 }
    let y : Gang := { x with m := x.m.set 11 3 }
    (y.m[11] ≠ 0 ∧ ∀ u : Fin 32, y.m[11].getLsbD u.val = true → (y.lane u.val).st = .parkedMask 11) ∧
      ¬ (x.m[11] ≠ 0 ∧ ∀ u : Fin 32, x.m[11].getLsbD u.val = true → (x.lane u.val).st = .parkedMask 11) := by
  decide +kernel

/-- A count at its bound, on a third loop; a count of 0; a guard. -/
theorem witness_LaneLoopsAndGuards :
    (∀ n : W64, n = 0 ∨ n = 7 →
      let i : Instr := .loop (.v 0) 255 7
      let s := lanes (gang2 fun l => { l with v := l.v.set 0 n, loops := List.replicate 2 { count := 1, start := 0, stop := 9, depth := 0 } })
      LaneTurn i s 0 3 (laneTurn i s) ∧ ∀ u : Fin 32, (3 : W32).getLsbD u.val = true →
        readSrc (controlEnv i (laneTurn i s) 0) u (laneOf (laneTurn i s) 0 u) (.v 0) = .ok n ∧
          (n ≠ 0 → n.toNat ≤ (7 : W32).toNat ∧ (laneOf (laneTurn i s) 0 u).loops.length < 3)) ∧
      LaneTurn (.guard 3 0x3FFFF) addS 0 3 (laneTurn (.guard 3 0x3FFFF) addS) := by
  refine ⟨?_, turns rfl rfl (by decide +kernel)⟩
  rintro n (rfl | rfl)
  · exact ⟨turns rfl rfl (by decide +kernel), both (by decide +kernel) (by decide +kernel)⟩
  · exact ⟨turns rfl rfl (by decide +kernel), both (by decide +kernel) (by decide +kernel)⟩

theorem witness_IndexRegistersSet :
    LaneTurn (.xset 3 127 127 63) addS 0 3 (laneTurn (.xset 3 127 127 63) addS) ∧
      LaneTurn (.xadd 0 (-64)) addS 0 3 (laneTurn (.xadd 0 (-64)) addS) ∧
      (0x75C00000 : W32).extractLsb' 25 7 = 0x3A ∧ (0x75C00000 : W32).extractLsb' 22 3 ≠ 0 ∧
      (0x76000080 : W32).extractLsb' 25 7 = 0x3B ∧ (0x76000080 : W32).extractLsb' 7 13 ≠ 0 :=
  ⟨turns rfl rfl (by decide +kernel), turns rfl rfl (by decide +kernel), by decide, by decide, by decide, by decide⟩

theorem witness_LaneReadsOfCsrs :
    ∀ i : Instr, i = .getwid (.v 95) 5 ∨ i = .csrr (.v 95) 0x48 ∧ csrHeld 0x48 .lane = true →
      LaneTurn i addS 0 3 (laneTurn i addS) ∧ ∀ u : Fin 32, (3 : W32).getLsbD u.val = true →
        ∃ q, readDst (controlEnv i (laneTurn i addS) 0) (laneOf (laneTurn i addS) 0 u) (.v 95) = .ok q := by
  rintro i (rfl | ⟨rfl, _⟩)
  · exact ⟨turns rfl rfl (by decide +kernel), both (okOf (by decide +kernel)) (okOf (by decide +kernel))⟩
  · exact ⟨turns rfl rfl (by decide +kernel), both (okOf (by decide +kernel)) (okOf (by decide +kernel))⟩

/-- The five CSRs that a lane writes. -/
theorem witness_LaneWritesOfCsrs :
    ∀ c ∈ [(1 : BitVec 12), 2, 3, 4, 0x4B], let i : Instr := .csrw (.v 0) c
      LaneTurn i addS 0 3 (laneTurn i addS) ∧ csrWritable c.toNat .lane = true ∧
        ∀ u : Fin 32, (3 : W32).getLsbD u.val = true →
          ∃ v, readSrc (controlEnv i (laneTurn i addS) 0) u (laneOf (laneTurn i addS) 0 u) (.v 0) = .ok v := by
  intro c h
  simp only [List.mem_cons, List.not_mem_nil, or_false] at h
  rcases h with rfl | rfl | rfl | rfl | rfl <;>
    exact ⟨turns rfl rfl (by decide +kernel), by decide, both (okOf (by decide +kernel)) (okOf (by decide +kernel))⟩

theorem witness_LaneWaits :
    LaneTurn .nop addS 0 3 (laneTurn .nop addS) ∧ LaneTurn (.waitc 0 15) addS 0 3 (laneTurn (.waitc 0 15) addS) ∧
      (∀ k, k = FenceKind.rel ∨ k = .acqrel → LaneTurn (.fence k .clu) addS 0 3 (laneTurn (.fence k .clu) addS)) ∧
      wideScope .clu = true ∧ gangCore 0 < 192 := by
  refine ⟨turns rfl rfl (by decide +kernel), turns rfl rfl (by decide +kernel), ?_, by decide, by decide⟩
  rintro k (rfl | rfl) <;> exact turns rfl rfl (by decide +kernel)

/-- Accesses to the last doubleword of the scratch. -/
def atEnd : State := lanes (gang2 fun l => { l with v := l.v.set 0 4088 })

theorem witness_LaneLoadsIssue :
    let i : Instr := .ld .dw (.v 95) (.v 0) .s 0
    LaneTurn i atEnd 0 3 (laneTurn i atEnd) ∧ (∃ x, loadOf i = some x) ∧
      (∀ u : Fin 32, (3 : W32).getLsbD u.val = true →
        (∃ q, loadDst (controlEnv i (laneTurn i atEnd) 0) .dw (laneOf (laneTurn i atEnd) 0 u) (.v 95) = .ok q) ∧
          readSrc (controlEnv i (laneTurn i atEnd) 0) u (laneOf (laneTurn i atEnd) 0 u) (.v 0) = .ok 4088) ∧
      ∃ s2 ps, Checked (laneTurn i atEnd) 0 3 .s (fun _ => 4088) 8 .load (fun _ => true) s2 ps :=
  ⟨turns rfl rfl (by decide +kernel), ⟨_, rfl⟩, both ⟨okOf (by decide +kernel), by decide +kernel⟩ ⟨okOf (by decide +kernel), by decide +kernel⟩,
    checked (by decide +kernel)⟩

theorem witness_LaneStoresIssue :
    let i : Instr := .strel .dw (.v 1) (.v 0) .s .sys
    LaneTurn i atEnd 0 3 (laneTurn i atEnd) ∧ (∃ x, storeOf i = some x) ∧
      (∀ u : Fin 32, (3 : W32).getLsbD u.val = true →
        (∃ q, storeValue (controlEnv i (laneTurn i atEnd) 0) .dw u (laneOf (laneTurn i atEnd) 0 u) (.v 1) = .ok q) ∧
          readSrc (controlEnv i (laneTurn i atEnd) 0) u (laneOf (laneTurn i atEnd) 0 u) (.v 0) = .ok 4088) ∧
      ∃ s2 ps, Checked (laneTurn i atEnd) 0 3 .s (fun _ => 4088) 8 .store (fun _ => true) s2 ps :=
  ⟨turns rfl rfl (by decide +kernel), ⟨_, rfl⟩, both ⟨okOf (by decide +kernel), by decide +kernel⟩ ⟨okOf (by decide +kernel), by decide +kernel⟩,
    checked (by decide +kernel)⟩

def casOp : AtomFields := { aop := .cas, order := .acqrel, scope := .cor, promote := false, vb := 1, vc := 2 }

theorem witness_LaneAtomicsIssue :
    let i : Instr := .atom .w64 (.v 95) (.v 0) .s casOp
    LaneTurn i atEnd 0 3 (laneTurn i atEnd) ∧
      (∀ u : Fin 32, (3 : W32).getLsbD u.val = true →
        atomReads (controlEnv i (laneTurn i atEnd) 0) u (laneOf (laneTurn i atEnd) 0 u) (.v 95) (.v 0) casOp = .ok (4088, 0, 0) ∧
          ∃ q, readDst (controlEnv i (laneTurn i atEnd) 0) (laneOf (laneTurn i atEnd) 0 u) (.v 95) = .ok q) ∧
      ∃ s2 ps, Checked (laneTurn i atEnd) 0 3 .s (fun _ => 4088) 8 .atom (hostAtomOk · .cas) s2 ps :=
  ⟨turns rfl rfl (by decide +kernel), both ⟨by decide +kernel, okOf (by decide +kernel)⟩ ⟨by decide +kernel, okOf (by decide +kernel)⟩,
    checked (by decide +kernel)⟩

theorem witness_LaneWaitsOnAddress :
    let i : Instr := .waita (.v 0) (.v 1) .cor .s true 1
    LaneTurn i atEnd 0 3 (laneTurn i atEnd) ∧
      (∀ u : Fin 32, (3 : W32).getLsbD u.val = true →
        readSrc (controlEnv i (laneTurn i atEnd) 0) u (laneOf (laneTurn i atEnd) 0 u) (.v 0) = .ok 4088 ∧
          (∃ q, readDst (controlEnv i (laneTurn i atEnd) 0) (laneOf (laneTurn i atEnd) 0 u) (.v 1) = .ok q) ∧
          readSrc (controlEnv i (laneTurn i atEnd) 0) u (laneOf (laneTurn i atEnd) 0 u) (asSource (.v 1)) = .ok 0) ∧
      ∃ s2 ps, (laneTurn i atEnd).checkThreads 0 3 (waitSpace .s) (fun _ => 4088) 8 .load false (fun _ => true) =
        (s2, List.map (fun e : Fin 32 × Passed => (e.1, Except.ok e.2)) ps) :=
  ⟨turns rfl rfl (by decide +kernel), both ⟨by decide +kernel, okOf (by decide +kernel), by decide +kernel⟩
    ⟨by decide +kernel, okOf (by decide +kernel), by decide +kernel⟩, checked (by decide +kernel)⟩

theorem witness_LaneTrap :
    LaneTurn (.trap 0x21) addS 0 3 (laneTurn (.trap 0x21) addS) ∧ LaneTurn (.trap 255) addS 0 3 (laneTurn (.trap 255) addS) ∧
      (3 : W32) ≠ 0 := ⟨turns rfl rfl (by decide +kernel), turns rfl rfl (by decide +kernel), by decide⟩

/-- Thread 0 alone, with both queues configured: 2 entries of 32 slots each. -/
def queueS : State :=
  let q : Queue := { cfg := n64 (0x2000 + 2 * 2 ^ 24 + 2 ^ 35), first := 0, entries := [] }
  lane1 { gang2 id with dq := q, uq := q }

theorem witness_LaneQueues :
    ∀ i : Instr, i = .qpop (.v 95) ∨ i = .qpush (.v 0) ∨ i = .qlen .vz →
      LaneTurn i queueS 0 (oneHot 0) (laneTurn i queueS) ∧ ((laneTurn i queueS).gang 0).dq.depth ≠ 0 ∧
        ((laneTurn i queueS).gang 0).uq.wide = true ∧
        (laneTurn i queueS).flawedAt (((laneTurn i queueS).gang 0).dq.slotKey 0 (laneOf (laneTurn i queueS) 0 0).qr 0) 8 = false ∧
        Unwatched queueS 0 ∧ ((laneTurn i queueS).gang 0).uq.slotAt (laneOf (laneTurn i queueS) 0 0).qw 0 + 8 ≤ 0xFF0000 ∧
        (∃ q, readDst (controlEnv i (laneTurn i queueS) 0) (laneOf (laneTurn i queueS) 0 0) (.v 95) = .ok q) ∧
        ∃ v, readSrc (controlEnv i (laneTurn i queueS) 0) 0 (laneOf (laneTurn i queueS) 0 0) (.v 0) = .ok v := by
  rintro i (rfl | rfl | rfl) <;>
    exact ⟨turns rfl (by decide) (by decide +kernel), by decide +kernel, by decide +kernel, by decide +kernel,
      (fun _ m => nomatch m), by decide +kernel, okOf (by decide +kernel), okOf (by decide +kernel)⟩

/-! ## Group instructions -/

/-- The conductor of gang 0 at U level, its registers as `f` leaves them. -/
def condU (f : Ctx → Ctx) : State := condS (condOf .u f)

def condTurn (i : Instr) (s : State) : State := turn i s (.cond 0)

/-- A register of a context, set. -/
def setG (n : Fin 192) (v : W64) (c : Ctx) : Ctx := { c with g := c.g.set n.val v }

theorem condTurns {i : Instr} {s : State} (w : s.issue.who = some (.cond 0))
    (h : encodingFault i .cond (s.levelOf (.cond 0)) 96 (s.groupRegs (.cond 0)) = none)
    (b : ((condTurn i s).ctx (.cond 0)).bad.isEmpty = true := by decide +kernel) : GroupTurn i s (.cond 0) (condTurn i s) :=
  groupTurns w (by decide) h b

theorem witness_GroupIntegerResult :
    ∀ i : Instr, i = .divs (.g 191) (.g 0) .gz true ∨ i = .limh .gz 0xFFFFFFFF →
      (∃ n, groupValue i = some n) ∧ GroupTurn i (condU id) (.cond 0) (condTurn i (condU id)) := by
  rintro i (rfl | rfl) <;> exact ⟨⟨_, rfl⟩, condTurns rfl (by decide +kernel)⟩

theorem witness_GroupAccessesIssue :
    let s := condU (setG 0 4088)
    (∀ i : Instr, i = .groupLdacq (.g 1) (.g 0) .s .sys ∨ i = .groupStrel (.g 1) (.g 0) .s .sys ∨
      i = .groupAtom .w64 (.g 1) (.g 0) .s casOp → GroupTurn i s (.cond 0) (condTurn i s)) ∧
    ∀ acc ∈ [Acc.load, .store, .atom], ∃ s2 p, GroupChecked s (.cond 0) .s 4088 8 acc true (fun _ => true) s2 p := by
  refine ⟨?_, ?_⟩
  · rintro i (rfl | rfl | rfl) <;> exact condTurns rfl (by decide +kernel)
  · intro acc h
    simp only [List.mem_cons, List.not_mem_nil, or_false] at h
    rcases h with rfl | rfl | rfl <;> exact groupChecked (by decide) (by decide +kernel)

theorem witness_GroupWaitsAndFences :
    let s := condU (setG 0 4088)
    (∀ i : Instr, i = .groupNop ∨ i = .groupWaitc 0 15 0 15 ∨ i = .groupFence .acqrel .clu ∨ i = .groupWaita 0 1 .cor .s true 1 →
      GroupTurn i s (.cond 0) (condTurn i s)) ∧
    (∃ s2 p, GroupChecked s (.cond 0) (waitSpace .s) 4088 8 .load false (fun _ => true) s2 p) ∧
    GroupTurn .idle (steppeS id) (.steppe 0 0) (turn .idle (steppeS id) (.steppe 0 0)) ∧
    ((turn .idle (steppeS id) (.steppe 0 0)).ctx (.steppe 0 0)).resumed = none ∧ agentUnit (.cond 0) < 192 := by
  refine ⟨?_, groupChecked (by decide) (by decide +kernel), groupTurns rfl (by decide) (by decide +kernel), by decide +kernel, by decide⟩
  rintro i (rfl | rfl | rfl | rfl) <;> exact condTurns rfl (by decide +kernel)

/-- A guarded branch back, taken to the first word with the guard at 1; with the guard at 0; a branch past the
section; one not taken. -/
theorem witness_GroupBranches :
    ((∀ n : BitVec 18, n = 0 ∨ n = 1 → let i : Instr := .groupBbr 3 (-1)
        let s := condU fun c => { c with pc := 0x80000001, gc := Vector.replicate 4 n }
        GroupTurn i s (.cond 0) (condTurn i s) ∧ groupTakes (condTurn i s) (.cond 0) none = true ∧
          inReach (condTurn i s) (.cond 0) (groupAway (condTurn i s) (.cond 0) (-1)) ∧
          ((condTurn i s).ctx (.cond 0)).gc[(3 : Fin 4)] = n)) ∧
    (let i : Instr := .b 40
     GroupTurn i (condU id) (.cond 0) (condTurn i (condU id)) ∧
       ¬ inReach (condTurn i (condU id)) (.cond 0) (groupAway (condTurn i (condU id)) (.cond 0) 40)) ∧
    let i : Instr := .bnz .gz 1
    GroupTurn i (condU id) (.cond 0) (condTurn i (condU id)) ∧
      groupTakes (condTurn i (condU id)) (.cond 0) (some (.gz, false)) = false := by
  refine ⟨?_, ⟨condTurns rfl (by decide +kernel), ?_⟩, condTurns rfl (by decide +kernel), by decide +kernel⟩
  · intro n h
    rcases h with h | h <;> subst h <;>
      exact ⟨condTurns rfl (by decide +kernel), rfl, Or.inr (by decide +kernel), by decide +kernel⟩
  · rintro (h | h)
    · exact absurd h (by decide +kernel)
    · exact absurd h (by decide +kernel)

/-- A call with room on chip and one with four entries; `calli`; `ret`, inside the section and past it; `exit` at U
level and in a handler. -/
theorem witness_GroupCallsAndReturns :
    let f : Frame := { ret := 0x80000001, x := Vector.replicate 4 XReg.zero }
    let s := condU id
    let four := condU fun c => { c with cdep := 4, tsp := 0, stack := List.replicate 4 f }
    (GroupTurn (.groupCall 39) s (.cond 0) (condTurn (.groupCall 39) s) ∧
      inReach (condTurn (.groupCall 39) s) (.cond 0) (groupAway (condTurn (.groupCall 39) s) (.cond 0) 39) ∧
      ((condTurn (.groupCall 39) s).ctx (.cond 0)).stack.length < 4 ∧
      ((condTurn (.groupCall 39) s).ctx (.cond 0)).cdep < ((condTurn (.groupCall 39) s).kernel 0).maxDepth) ∧
    (GroupTurn (.groupCall 0) four (.cond 0) (condTurn (.groupCall 0) four) ∧
      4 ≤ ((condTurn (.groupCall 0) four).ctx (.cond 0)).stack.length ∧
      ((condTurn (.groupCall 0) four).ctx (.cond 0)).tsp.toNat % 16 = 0 ∧
      (condTurn (.groupCall 0) four).inImage (.cond 0) = false ∧
      ((condTurn (.groupCall 0) four).ctx (.cond 0)).tsp.toNat + 16 ≤ ((condTurn (.groupCall 0) four).kernel 0).scratch) ∧
    (GroupTurn .groupRet four (.cond 0) (condTurn .groupRet four) ∧ ((condTurn .groupRet four).ctx (.cond 0)).cdep ≠ 0 ∧
      ((condTurn .groupRet four).ctx (.cond 0)).stack = f :: List.replicate 3 f ∧
      inReach (condTurn .groupRet four) (.cond 0) f.ret ∧ ¬ inReach (condTurn .groupRet four) (.cond 0) 0x80000028) ∧
    GroupTurn .groupExit s (.cond 0) (condTurn .groupExit s) ∧ (condTurn .groupExit s).levelOf (.cond 0) = .u ∧
    (condTurn .groupRet s).levelOf (.cond 0) = .u ∧ ((condTurn .groupRet s).ctx (.cond 0)).cdep = 0 ∧
    let h := condS (condOf .s id)
    GroupTurn .groupRet h (.cond 0) (condTurn .groupRet h) ∧ ((condTurn .groupRet h).ctx (.cond 0)).cdep = 0 ∧
      (condTurn .groupRet h).levelOf (.cond 0) ≠ .u := by
  refine ⟨⟨condTurns rfl (by decide +kernel), Or.inr (by decide +kernel), by decide +kernel, by decide +kernel⟩,
    ⟨condTurns rfl (by decide +kernel), by decide +kernel, by decide +kernel, by decide +kernel, by decide +kernel⟩,
    ⟨condTurns rfl (by decide +kernel), by decide +kernel, by decide +kernel, Or.inr (by decide +kernel), ?_⟩,
    condTurns rfl (by decide +kernel), by decide +kernel, by decide +kernel, by decide +kernel,
    condTurns rfl (by decide +kernel), by decide +kernel, by decide +kernel⟩
  rintro (h | h) <;> exact absurd h (by decide +kernel)

theorem witness_GroupLoopsAndGuards :
    (∀ n : W64, n = 0 ∨ n = 7 ∨ n = 8 → let i : Instr := .groupLoop (.g 0) 255 7
      GroupTurn i (condU (setG 0 n)) (.cond 0) (condTurn i (condU (setG 0 n))) ∧
        readG (condTurn i (condU (setG 0 n))) (.cond 0) (.g 0) = n ∧
        ((condTurn i (condU (setG 0 n))).ctx (.cond 0)).loops.length < 3) ∧
      GroupTurn (.groupGuard 3 0x3FFFF) (condU id) (.cond 0) (condTurn (.groupGuard 3 0x3FFFF) (condU id)) := by
  refine ⟨?_, condTurns rfl (by decide +kernel)⟩
  rintro n (rfl | rfl | rfl) <;> exact ⟨condTurns rfl (by decide +kernel), by decide +kernel, by decide +kernel⟩

/-- A CSR that is held and one that is not; every register that `csrw` writes, on a Steppe thread or a
handler. -/
theorem witness_GroupCsrs :
    (∀ c : BitVec 12, c = 7 ∨ c = 0x48 → GroupTurn (.groupCsrr (.g 0) c) (condU id) (.cond 0) (condTurn (.groupCsrr (.g 0) c) (condU id)) ∧
      csrHeld c.toNat .cond = decide (c = 7)) ∧
    (∀ c ∈ [(1 : BitVec 12), 2, 4, 0x100, 0x101, 0x102, 0x103, 0x105, 0x106, 0x107, 0x108, 0x10C, 0x10D],
      let i : Instr := .groupCsrw (.g 0) c
      GroupTurn i (steppeS id) (.steppe 0 0) (turn i (steppeS id) (.steppe 0 0)) ∧ csrWritable c.toNat .steppe = true) ∧
    (let i : Instr := .groupCsrw (.g 0) 0x108
     GroupTurn i (condS (condOf .s id)) (.cond 0) (condTurn i (condS (condOf .s id))) ∧ csrWritable 0x108 .cond = true) ∧
    (let i : Instr := .groupCsrw (.g 0) 0x200
     GroupTurn i (saddleS id) (.saddle 0) (turn i (saddleS id) (.saddle 0)) ∧ csrWritable 0x200 .saddle = true) ∧
    let i : Instr := .groupCsrw (.g 0) 0
    GroupTurn i (condU id) (.cond 0) (condTurn i (condU id)) ∧ csrWritable 0 .cond = false := by
  refine ⟨?_, ?_, ⟨condTurns rfl (by decide +kernel), by decide⟩,
    ⟨groupTurns rfl (by decide) (by decide +kernel), by decide⟩, condTurns rfl (by decide +kernel), by decide⟩
  · rintro c (rfl | rfl) <;> exact ⟨condTurns rfl (by decide +kernel), by decide⟩
  · intro c h
    simp only [List.mem_cons, List.not_mem_nil, or_false] at h
    rcases h with rfl | rfl | rfl | rfl | rfl | rfl | rfl | rfl | rfl | rfl | rfl | rfl | rfl <;>
      exact ⟨groupTurns rfl (by decide) (by decide +kernel), by decide⟩

/-- A narrow dq and a uq with one complete entry; a configuration that fits and one that does not. -/
def condQ (v : W64) : State :=
  let q (wide : Bool) : Queue :=
    { cfg := n64 (0x2000 + 2 * 2 ^ 24 + (if wide then 2 ^ 35 else 0)), first := 0, entries := [] }
  condS { condOf .u (setG 0 v) with
            dq := q false
            uq := { q false with entries := [{ filled := 1, left := 1, after := [], charge := 0 }] }
            store := 0x2000, storeBytes := 0x400 }

theorem witness_ConductorQueues :
    let s := condQ 0
    (∀ i : Instr, i = .groupQpush (.g 0) ∨ i = .groupQpop (.g 1) ∨ i = .groupQlen true .gz ∨ i = .qcfg false (.g 0) →
      GroupTurn i s (.cond 0) (condTurn i s) ∧ ((condTurn i s).gang 0).dq.depth ≠ 0 ∧ ((condTurn i s).gang 0).dq.wide = false ∧
        ((condTurn i s).gang 0).uq.entries = { filled := 1, left := 1, after := [], charge := 0 } :: [] ∧
        (((condTurn i s).gang 0).queue true).depth ≠ 0 ∧ Unwatched s 0 ∧ Memory.wf s.mem = true ∧
        (∀ j, j < 32 → ((condTurn i s).gang 0).dq.slotAt ((condTurn i s).gang 0).dq.writeIndex j + 8 ≤ 0xFF0000) ∧
        (condTurn i s).flawedAt (((condTurn i s).gang 0).uq.slotKey 0 ((condTurn i s).gang 0).uq.first 0) 8 = false) ∧
    ((condTurn (.qcfg false (.g 0)) s).gang 0).cfgOk false 0 = true ∧
    ((condTurn (.qcfg false (.g 0)) (condQ 1)).gang 0).cfgOk false 1 = false := by
  refine ⟨?_, by decide +kernel, by decide +kernel⟩
  rintro i (rfl | rfl | rfl | rfl) <;>
    exact ⟨condTurns rfl (by decide +kernel), by decide +kernel, by decide +kernel, by decide +kernel, by decide +kernel,
      (fun _ m => nomatch m), by decide, by decide +kernel, by decide +kernel⟩

/-- A conductor whose first registers hold a parameter block. -/
def condB (b : List W64) (f : Gang → Gang) : State :=
  condS (f (condOf .u fun c => { c with g := Vector.ofFn fun i : Fin 192 => b.getD i.val 0 }))

/-- A wide dq. -/
def wideQ (x : Gang) : Gang :=
  { x with dq := { cfg := n64 (0x2000 + 2 * 2 ^ 24 + 2 ^ 35), first := 0, entries := [] }
           sd := x.sd.set 0 { Stream.idle with loaded := true, c0 := 1, c1 := 1, c2 := 1 } }

/-- The largest counts and one of 0; a start with a wide queue and with none. -/
theorem witness_StreamsLoadAndStart :
    (let s := condB [0, 0x0000FFFFFFFFFFFF, 0, 0] id
     GroupTurn (.strm 3 0 3 .d) s (.cond 0) (condTurn (.strm 3 0 3 .d) s) ∧
       blockAt (condTurn (.strm 3 0 3 .d) s) 0 0 4 = [0, 0x0000FFFFFFFFFFFF, 0, 0]) ∧
    GroupTurn (.strm 3 0 3 .d) (condB [] id) (.cond 0) (condTurn (.strm 3 0 3 .d) (condB [] id)) ∧
    (let s := condB [] wideQ
     GroupTurn (.strmgo 0) s (.cond 0) (condTurn (.strmgo 0) s) ∧ ((condTurn (.strmgo 0) s).gang 0).dq.depth ≠ 0 ∧
       ((condTurn (.strmgo 0) s).gang 0).dq.wide = true ∧ ((condTurn (.strmgo 0) s).gang 0).sd[(0 : Fin 4)].entries ≠ 0) ∧
    GroupTurn (.strmgo 3) (condB [] id) (.cond 0) (condTurn (.strmgo 3) (condB [] id)) ∧
    ((condTurn (.strmgo 3) (condB [] id)).gang 0).dq.depth = 0 := by
  refine ⟨⟨condTurns rfl (by decide +kernel), by decide +kernel⟩, condTurns rfl (by decide +kernel),
    ⟨condTurns rfl (by decide +kernel), by decide +kernel, by decide +kernel, by decide +kernel⟩,
    condTurns rfl (by decide +kernel), by decide +kernel⟩

/-- A copy of 8 bytes to the end of the scratch; a block that begins at g191; a kind of 5; an address off by 4; a
range one byte past the scratch. -/
theorem witness_CopyIssues :
    let block (src dst : W64) : List W64 := [0x4800, src, dst, 8, 0, 0, 0, 0]
    (let s := condB (block 0 4088) id
     let s1 := condTurn (.cpy 0 (.g 8)) s
     GroupTurn (.cpy 0 (.g 8)) s (.cond 0) s1 ∧ (∃ l, s1.launch? (s1.gang 0).launch = some l) ∧
       copyBadReg (blockAt s1 0 0 8) = none ∧ (∀ e ∈ copyAddresses (blockAt s1 0 0 8), e.1 % e.2 = 0) ∧
       s1.outsideWindow { core := 0, launch := 0, block := 0, scratch := 0, level := .u } (copyChecked (blockAt s1 0 0 8)) = none) ∧
    (let s1 := condTurn (.cpy 191 .gz) (condB [] id)
     GroupTurn (.cpy 191 .gz) (condB [] id) (.cond 0) s1 ∧ (s1.kernel 0).groupRegs < 191 + 8 ∧
       ∀ k, copyBadReg (blockAt s1 0 191 8) = some k → (s1.kernel 0).groupRegs - 191 ≤ k) ∧
    (let s1 := condTurn (.cpy 0 .gz) (condB [5] id)
     copyBadReg (blockAt s1 0 0 8) = some 0) ∧
    (let s1 := condTurn (.cpy 0 .gz) (condB (block 4 0) id)
     copyBadReg (blockAt s1 0 0 8) = none ∧ (copyAddresses (blockAt s1 0 0 8)).find? (fun e => e.1 % e.2 ≠ 0) = some (4, 8)) ∧
    let s1 := condTurn (.cpy 0 .gz) (condB (block 0 4096) id)
    (∀ e ∈ copyAddresses (blockAt s1 0 0 8), e.1 % e.2 = 0) ∧
      s1.outsideWindow { core := 0, launch := 0, block := 0, scratch := 0, level := .u } (copyChecked (blockAt s1 0 0 8)) = some 4096 := by
  refine ⟨⟨condTurns rfl (by decide +kernel), ⟨_, rfl⟩, by decide +kernel, by decide +kernel, by decide +kernel⟩,
    ⟨condTurns rfl (by decide +kernel), by decide +kernel, ?_⟩, by decide +kernel, by decide +kernel, by decide +kernel⟩
  have : copyBadReg (blockAt (condTurn (.cpy 191 .gz) (condB [] id)) 0 191 8) = some 3 := by decide +kernel
  intro k h
  rw [this] at h
  cases h
  decide +kernel

theorem ordered_one {x : Gang} : Ordered (withGang x) := List.pairwise_singleton _ _

/-- A conductor that waits for nothing. -/
theorem unwaiting {i : Instr} {s : State} (h : ((condTurn i s).ctx (.cond 0)).wait.isNone = true)
    (k : ((condTurn i s).ctx (.cond 0)).resumed.isNone = true) (o : (condTurn i s).gangs.map (·.1) = [0]) :
    Unwaiting (condTurn i s) (.cond 0) := by
  refine ⟨by simpa using h, by simpa using k, ?_⟩
  unfold Ordered
  generalize (condTurn i s).gangs = l at o
  match l with
  | [] => exact List.Pairwise.nil
  | [x] => exact List.pairwise_singleton _ _
  | _ :: _ :: _ => simp at o

/-- Alone, no conductor waits. -/
theorem nobody {i : Instr} {s : State} (o : (condTurn i s).gangs.map (·.1) = [0]) : NoneWait (condTurn i s) 0 := by
  intro h x m n
  have : h ∈ (condTurn i s).gangs.map (·.1) := List.mem_map_of_mem m
  rw [o] at this
  simp at this
  exact absurd this n

/-- Core 0 with its baton as given. -/
def batonS (l : Level) (holder : Option Nat) (super : Bool) : State :=
  { condS (condOf l id) with
      cores := [(0, { CoreSt.empty with baton := { holder := holder, super := super, aside := none } })] }

/-- Taken while free, while held by a user and by itself, at both levels; passed with and without it. -/
theorem witness_BatonTakesAndPasses :
    ∀ l ∈ [Level.u, .s], ∀ h ∈ [none, some 0, some 1], ∀ i ∈ [Instr.mxctlTake, .mxctlPass],
      let s := batonS l h (l = .s && h ≠ some 1)
      GroupTurn i s (.cond 0) (condTurn i s) ∧ Unwaiting (condTurn i s) (.cond 0) ∧ NoneWait (condTurn i s) 0 := by
  intro l hl h hh i hi
  simp only [List.mem_cons, List.not_mem_nil, or_false] at hl hh hi
  rcases hl with rfl | rfl <;> rcases hh with rfl | rfl | rfl <;> rcases hi with rfl | rfl <;>
    exact ⟨condTurns rfl (by decide +kernel), unwaiting (by decide +kernel) (by decide +kernel) (by decide +kernel), nobody (by decide +kernel)⟩

/-- A user's operation block: a zero of one tile, no barrier. -/
def zeroTile : List W64 := [0xFF000002, 0, 0, 0, 0, 0, 0, 0]

/-- The same core with a conductor that holds the block. -/
def matrixS (b : List W64) (holder : Option Nat) : State :=
  { condB b id with cores := [(0, { CoreSt.empty with baton := { holder := holder, super := false, aside := none } })] }

/-- With and without the baton; an illegal kind; a store of tile 0 past the scratch. -/
theorem witness_MatrixIssues :
    (∀ h ∈ [none, some 0], let s := matrixS zeroTile h
     let s1 := condTurn (.mxq 0 (.g 8)) s
     GroupTurn (.mxq 0 (.g 8)) s (.cond 0) s1 ∧ Unwaiting s1 (.cond 0) ∧ 0 + 8 ≤ (s1.kernel 0).groupRegs ∧
       ¬ (false = false ∧ (mxFirst (blockAt s1 0 0 8) = 16 ∨ mxFirst (blockAt s1 0 0 8) = 17)) ∧
       mxBadReg (blockAt s1 0 0 8) false (s1.kernel 0).laneRegs = none ∧
       s1.mxOutside { core := 0, launch := 0, block := 0, scratch := 0, level := .u } (blockAt s1 0 0 8) = none) ∧
    (let s1 := condTurn (.mxq 0 .gz) (matrixS [5] (some 0))
     mxBadReg (blockAt s1 0 0 8) false (s1.kernel 0).laneRegs = some 0) ∧
    (let s1 := condTurn (.mxq 0 .gz) (matrixS [0xFF000003, 0, 0, 4096, 0x0020000000000100] (some 0))
     mxBadReg (blockAt s1 0 0 8) false (s1.kernel 0).laneRegs = none ∧
       s1.mxOutside { core := 0, launch := 0, block := 0, scratch := 0, level := .u } (blockAt s1 0 0 8) = some 4096) ∧
    GroupTurn (.mxctlTilewait 15) (matrixS [] none) (.cond 0) (condTurn (.mxctlTilewait 15) (matrixS [] none)) := by
  refine ⟨?_, by decide +kernel, by decide +kernel, condTurns rfl (by decide +kernel)⟩
  intro h m
  simp only [List.mem_cons, List.not_mem_nil, or_false] at m
  rcases m with rfl | rfl <;>
    exact ⟨condTurns rfl (by decide +kernel), unwaiting (by decide +kernel) (by decide +kernel) (by decide +kernel),
      by decide +kernel, by decide +kernel, by decide +kernel, by decide +kernel⟩

/-- Tables loaded by the holder; the area at the last place it fits, off by 512, and past the slice; an area with a marked
word. -/
theorem witness_MatrixContext :
    (let s := matrixS [] (some 0)
     let s1 := condTurn (.mxctlCtab 190) s
     GroupTurn (.mxctlCtab 190) s (.cond 0) s1 ∧ Unwaiting s1 (.cond 0) ∧ (s1.core 0).baton.holder = some 0 ∧
       (s1.core 0).baton.super = decide (s1.levelOf (.cond 0) ≠ .u) ∧ 190 + 2 ≤ (s1.kernel 0).groupRegs) ∧
    (∀ flawed ∈ [[], [(sliceKey 0 0xFB4000 + 263160) / 8]],
      let s := { condS (condOf .s (setG 0 0xFB4000)) with flawed := flawed }
      let s1 := condTurn (.mxrest (.g 0)) s
      GroupTurn (.mxrest (.g 0)) s (.cond 0) s1 ∧ Unwaiting s1 (.cond 0) ∧ readG s1 (.cond 0) (.g 0) = 0xFB4000 ∧
        s1.flawedAt (sliceKey 0 0xFB4000) 263168 = !flawed.isEmpty) ∧
    ∀ off ∈ [(0xFB4000 : W64), 0xFB4200, 0xFFFC00], ∀ i ∈ [Instr.mxsave (.g 0), .mxrest (.g 0)],
      let s := condS (condOf .s (setG 0 off))
      GroupTurn i s (.cond 0) (condTurn i s) ∧ Unwaiting (condTurn i s) (.cond 0) ∧
        readG (condTurn i s) (.cond 0) (.g 0) = off ∧ Memory.wf s.mem = true := by
  refine ⟨⟨condTurns rfl (by decide +kernel), unwaiting (by decide +kernel) (by decide +kernel) (by decide +kernel),
    by decide +kernel, by decide +kernel, by decide +kernel⟩, ?_, ?_⟩
  · intro f h
    simp only [List.mem_cons, List.not_mem_nil, or_false] at h
    rcases h with rfl | rfl <;>
      exact ⟨condTurns rfl (by decide +kernel), unwaiting (by decide +kernel) (by decide +kernel) (by decide +kernel), by decide +kernel,
        by decide +kernel⟩
  intro off h i m
  simp only [List.mem_cons, List.not_mem_nil, or_false] at h m
  rcases h with rfl | rfl | rfl <;> rcases m with rfl | rfl <;>
    exact ⟨condTurns rfl (by decide +kernel), unwaiting (by decide +kernel) (by decide +kernel) (by decide +kernel), by decide +kernel, by decide⟩

/-- Barrier 95, owned or not, as a counter and as a semaphore, with its count. -/
def barS (owner : Option Nat) (sem : Bool) (count : Nat) (v : W64) : State :=
  { condS (condOf .u (setG 0 v)) with
      mem := writeLE [] (sliceKey 0 (0xFF4000 + 16 * 95)) 8 ((if sem then 2 ^ 62 else 0) + count)
      cores := [(0, { CoreSt.empty with bars := [(95, { owner := owner, expected := 2, timeout := 1000, after := [] })] })] }

theorem barTurns (i : Instr) (s : State) (w : s.issue.who = some (.cond 0))
    (e : encodingFault i .cond (s.levelOf (.cond 0)) 96 (s.groupRegs (.cond 0)) = none)
    (h : ((condTurn i s).ctx (.cond 0)).wait.isNone = true) (k : ((condTurn i s).ctx (.cond 0)).resumed.isNone = true)
    (o : (condTurn i s).gangs.map (·.1) = [0]) (m : Memory.wf s.mem = true)
    (b : ((condTurn i s).ctx (.cond 0)).bad.isEmpty = true := by decide +kernel) :
    GroupTurn i s (.cond 0) (condTurn i s) ∧ Unwaiting (condTurn i s) (.cond 0) ∧ NoneWait (condTurn i s) 0 ∧ Memory.wf s.mem = true :=
  ⟨condTurns w e b, unwaiting h k o, nobody o, m⟩

/-- `init` with a timeout of 0, at the ceiling and past it, and of another launch's barrier; every `bar` without its
barrier, on another launch's, in the wrong mode, and in the right one. -/
theorem witness_BarriersCount :
    (∀ v ∈ [(2 : W64), 0x000003E800000002, 0x000003E900000002], let s := barS none false 0 v
     let s1 := condTurn (.barInit 95 (.g 0)) s
     GroupTurn (.barInit 95 (.g 0)) s (.cond 0) s1 ∧ Unwaiting s1 (.cond 0) ∧ Memory.wf s.mem = true ∧
       (s1.bar 0 95).owner = none ∧ readG s1 (.cond 0) (.g 0) = v ∧ (s1.kernel 0).barCeiling = 1000) ∧
    (let s := barS (some 7) false 0 0x000003E800000002
     let s1 := condTurn (.barInit 95 (.g 0)) s
     (GroupTurn (.barInit 95 (.g 0)) s (.cond 0) s1 ∧ Unwaiting s1 (.cond 0) ∧ NoneWait s1 0 ∧ Memory.wf s.mem = true) ∧
       (s1.bar 0 95).owner = some 7 ∧ 7 ≠ (s1.gang 0).launch) ∧
    ∀ o ∈ [none, some 0, some 7], ∀ sem ∈ [false, true],
      ∀ i ∈ [Instr.barArrive 95, .barWait 95 .gz, .barSync 95 .gz, .barPost 95 (.g 0), .barTake 95 .gz, .barStat 95 (.g 190)],
        let s := barS o sem 1 1
        GroupTurn i s (.cond 0) (condTurn i s) ∧ Unwaiting (condTurn i s) (.cond 0) ∧ NoneWait (condTurn i s) 0 ∧
          Memory.wf s.mem = true := by
  refine ⟨?_, ⟨barTurns _ _ rfl (by decide +kernel) (by decide +kernel) (by decide +kernel) (by decide +kernel)
    (by decide +kernel), by decide +kernel, by decide +kernel⟩, ?_⟩
  · intro v h
    simp only [List.mem_cons, List.not_mem_nil, or_false] at h
    rcases h with rfl | rfl | rfl <;>
      exact ⟨condTurns rfl (by decide +kernel), unwaiting (by decide +kernel) (by decide +kernel) (by decide +kernel),
        by decide +kernel, by decide +kernel, by decide +kernel, by decide +kernel⟩
  · intro o ho sem hs i hi
    simp only [List.mem_cons, List.not_mem_nil, or_false] at ho hs hi
    rcases ho with rfl | rfl | rfl <;> rcases hs with rfl | rfl <;> rcases hi with rfl | rfl | rfl | rfl | rfl | rfl <;>
      exact barTurns _ _ rfl (by decide +kernel) (by decide +kernel) (by decide +kernel) (by decide +kernel) (by decide +kernel)

/-- The conductor has seen phase 0 or phase 1; a count one below the expected number and two below; a value of 0
and of 1. -/
theorem witness_BarriersWait :
    (∀ seen ∈ [[], [(95, true)]], ∀ n ∈ [0, 1], ∀ i ∈ [Instr.barWait 95 (.g 0), .barSync 95 (.g 0)],
      let s := { barS (some 0) false n 0 with gangs := [(0, condOf .u fun c => { c with phases := seen })] }
      (GroupTurn i s (.cond 0) (condTurn i s) ∧ Unwaiting (condTurn i s) (.cond 0) ∧ NoneWait (condTurn i s) 0 ∧
          Memory.wf s.mem = true) ∧
        ((condTurn i s).bar 0 95).owner = some 0 ∧ ((condTurn i s).barWord 0 95).getLsbD 62 = false ∧
        aget false 95 ((condTurn i s).ctx (.cond 0)).phases = (seen ≠ [])) ∧
    ∀ n ∈ [0, 1], let s := barS (some 0) true n 0
      (GroupTurn (.barTake 95 .gz) s (.cond 0) (condTurn (.barTake 95 .gz) s) ∧ Unwaiting (condTurn (.barTake 95 .gz) s) (.cond 0) ∧
          NoneWait (condTurn (.barTake 95 .gz) s) 0 ∧ Memory.wf s.mem = true) ∧
        ((condTurn (.barTake 95 .gz) s).barWord 0 95).getLsbD 62 = true := by
  constructor
  · intro seen hs n hn i hi
    simp only [List.mem_cons, List.not_mem_nil, or_false] at hs hn hi
    rcases hs with rfl | rfl <;> rcases hn with rfl | rfl <;> rcases hi with rfl | rfl <;>
      exact ⟨barTurns _ _ rfl (by decide +kernel) (by decide +kernel) (by decide +kernel) (by decide +kernel) (by decide +kernel),
        by decide +kernel, by decide +kernel, by decide +kernel⟩
  · intro n hn
    simp only [List.mem_cons, List.not_mem_nil, or_false] at hn
    rcases hn with rfl | rfl <;>
      exact ⟨barTurns _ _ rfl (by decide +kernel) (by decide +kernel) (by decide +kernel) (by decide +kernel) (by decide +kernel),
        by decide +kernel⟩

/-! ## Watches, children, shares, quotations -/

/-- A quotation of ASID 0 for kernel 0. -/
def quote0 (state : Nat) : Quote :=
  { id := 1, record := 0x50000, asid := 0, state := state, cls := 0, party := 0, diag := 0, object := 0, shape := launch0.shape
    validity := 55000, deadline := 100, tmax := 1000, emax := 1000, cores := [(0, [0])], perCore := 0, devShare := 0
    meshShare := 0, retry := 0, actT := 0, actE := 0, auto := false, voided := false, kernel := some kernel0, slots := []
    rect := (1, 1), stream := none, packets := [], pendingLaunch := none, accepted := 0, envelope := 1500, window := (0, 0) }

/-- The registers hold a block, at a level. -/
def condL (l : Level) (b : List W64) : State :=
  condS (condOf l fun c => { c with g := Vector.ofFn fun i : Fin 192 => b.getD i.val 0 })

/-- One page of 64 GiB that the ASID 0 maps onto device memory, with every right: the ASID table at 0x20000, the
tables at 0x10000 and 0x30000. -/
def pagedMem : List Host.Cell := writeLE (writeLE (writeLE [] 0x20000 8 0x10000) 0x10000 8 0x30001) 0x30000 8 0xDF

def paged (s : State) : State :=
  { s with mem := pagedMem, dev := { s.dev with satb := 0x20000, ctvb := 0x40000 } }

theorem unwaitingOf {i : Instr} {s : State} {a : Agent} (h : ((turn i s a).ctx a).wait.isNone = true)
    (k : ((turn i s a).ctx a).resumed.isNone = true) (o : (turn i s a).gangs.map (·.1) ∈ [[], [0]]) :
    Unwaiting (turn i s a) a := by
  refine ⟨by simpa using h, by simpa using k, ?_⟩
  unfold Ordered
  generalize (turn i s a).gangs = l at o
  match l with
  | [] => exact List.Pairwise.nil
  | [x] => exact List.pairwise_singleton _ _
  | _ :: _ :: _ => simp at o

/-- Both of an instruction's hypotheses that every command has. -/
theorem command {i : Instr} {s : State} (w : s.issue.who = some (.cond 0))
    (e : encodingFault i .cond (s.levelOf (.cond 0)) 96 (s.groupRegs (.cond 0)) = none)
    (h : ((condTurn i s).ctx (.cond 0)).wait.isNone = true) (k : ((condTurn i s).ctx (.cond 0)).resumed.isNone = true)
    (o : (condTurn i s).gangs.map (·.1) = [0])
    (b : ((condTurn i s).ctx (.cond 0)).bad.isEmpty = true := by decide +kernel) :
    GroupTurn i s (.cond 0) (condTurn i s) ∧ Unwaiting (condTurn i s) (.cond 0) :=
  ⟨condTurns w e b, unwaiting h k o⟩

def watch0 : Watch :=
  { serial := 5, state := 1, base := 0, len := 64, perRange := false, limit := 1, scope := .cor, qid := 1, arg := 0, asid := 0, seq := 0
    reason := 0, launch := none, effect := 0 }

def armS (len : W64) (qid : W64) (l : Level) : State :=
  { condL l [0, 0x000100000000 * 256 + len, qid, 7] with quotes := [{ quote0 4 with cls := 2 }] }

/-- An arm of the longest range; of a length of 32; of another's quotation; each code of an arm and each fault; an answer
for an entry that is free, one of another ASID, one of one's own. -/
theorem witness_WatchesArmAndAnswer :
    (let s := armS 0x100000 1 .s
     let s1 := condTurn (.watchArm (.g 4) 0) s
     (GroupTurn (.watchArm (.g 4) 0) s (.cond 0) s1 ∧ Unwaiting s1 (.cond 0)) ∧
       s1.armFault ((List.range 4).map fun j => (s1.ctx (.cond 0)).reg (0 + j)) (s1.levelOf (.cond 0)) (s1.asidOf (.cond 0)) = none ∧
       s1.armCode ((List.range 4).map fun j => (s1.ctx (.cond 0)).reg (0 + j)) (s1.asidOf (.cond 0)) = .ok 0) ∧
    (let s := armS 32 1 .s
     let s1 := condTurn (.watchArm .gz 0) s
     (GroupTurn (.watchArm .gz 0) s (.cond 0) s1 ∧ Unwaiting s1 (.cond 0)) ∧
       s1.armFault ((List.range 4).map fun j => (s1.ctx (.cond 0)).reg (0 + j)) (s1.levelOf (.cond 0)) (s1.asidOf (.cond 0)) =
         some (0x02, 1)) ∧
    (let s := armS 64 2 .s
     let s1 := condTurn (.watchArm .gz 0) s
     s1.armFault ((List.range 4).map fun j => (s1.ctx (.cond 0)).reg (0 + j)) (s1.levelOf (.cond 0)) (s1.asidOf (.cond 0)) = none ∧
       s1.armCode ((List.range 4).map fun j => (s1.ctx (.cond 0)).reg (0 + j)) (s1.asidOf (.cond 0)) = .error (-3)) ∧
    (∀ v ∈ [(63 : W64), 64], let s := condL .u [v]
     let s1 := condTurn (.watchQuery (.g 1) (.g 0)) s
     (GroupTurn (.watchQuery (.g 1) (.g 0)) s (.cond 0) s1 ∧ Unwaiting s1 (.cond 0)) ∧ s1.present 0 = true ∧
       readG s1 (.cond 0) (.g 0) = v) ∧
    (let s := condL .u []
     s.exists_ (.cond 0) = true ∧ afind 5 (s.core 0).watches = none ∧ (s.core 0).forming = []) ∧
    (∀ e ∈ [(64, true, []), (0x100000, false, []), (64, true, [(0, watch0)])],
      let s := { armS (n64 e.1) 1 .s with
                  quotes := [{ quote0 4 with cls := 2, cores := if e.2.1 then [(0, [15])] else [] }]
                  cores := [(0, { CoreSt.empty with watches := e.2.2 })] }
      let s1 := condTurn (.watchArm (.g 4) 0) s
      (GroupTurn (.watchArm (.g 4) 0) s (.cond 0) s1 ∧ Unwaiting s1 (.cond 0)) ∧ s1.present 0 = true ∧
        (∃ q, s1.quote? 1 = some q ∧ q.cls = 2 ∧ q.state = 4 ∧ (q.partOn 0).isSome = e.2.1) ∧
        (afind 0 (s1.core 0).watches).isNone = (e.2.2 = [])) ∧
    (∀ b ∈ [[32, 0x100000040, 1, 7], [0, 0x40, 1, 7], [0, 0x100000040, 2 ^ 32, 7], [0xFF0000, 0x100000040, 1, 7], [0, 0x100000040, 1, 7]],
      let s := condL .u b
      GroupTurn (.watchArm (.g 4) 0) s (.cond 0) (condTurn (.watchArm (.g 4) 0) s) ∧
        Unwaiting (condTurn (.watchArm (.g 4) 0) s) (.cond 0)) ∧
    (let s := condL .u []
     granted s.mem 0 0 0 1 .load = false) ∧
    let k : WatchAsk := { id := 1, who := .cond 0, disarm := false, entry := 63, asid := 0, since := 0 }
    let s := { condL .u [] with quotes := [{ quote0 4 with cls := 2 }], cores := [(0, { CoreSt.empty with watches := [(63, watch0)] })] }
    afind k.entry (s.core 0).watches = some watch0 ∧ watch0.asid = k.asid ∧ (s.quote? watch0.qid).isSome = true := by
  refine ⟨⟨command rfl (by decide +kernel) (by decide +kernel) (by decide +kernel) (by decide +kernel), by decide +kernel, by decide +kernel⟩,
    ⟨command rfl (by decide +kernel) (by decide +kernel) (by decide +kernel) (by decide +kernel), by decide +kernel⟩,
    ⟨by decide +kernel, by decide +kernel⟩, ?_, by decide +kernel, ?_, ?_, by decide +kernel, by decide +kernel⟩
  · intro v h
    simp only [List.mem_cons, List.not_mem_nil, or_false] at h
    rcases h with rfl | rfl <;>
      exact ⟨command rfl (by decide +kernel) (by decide +kernel) (by decide +kernel) (by decide +kernel), by decide +kernel, by decide +kernel⟩
  · intro e h
    simp only [List.mem_cons, List.not_mem_nil, or_false] at h
    rcases h with rfl | rfl | rfl <;>
      exact ⟨command rfl (by decide +kernel) (by decide +kernel) (by decide +kernel) (by decide +kernel), by decide +kernel,
        ⟨_, rfl, by decide +kernel, by decide +kernel, by decide +kernel⟩, by decide +kernel⟩
  · intro b h
    simp only [List.mem_cons, List.not_mem_nil, or_false] at h
    rcases h with rfl | rfl | rfl | rfl | rfl <;>
      exact command rfl (by decide +kernel) (by decide +kernel) (by decide +kernel) (by decide +kernel)

/-- The kernel with a lane function and a conductor function, and a spawn depth. -/
def spawnS (b : List W64) (depth : Nat) : State :=
  { condL .u b with
      launches := [(0, { launch0 with
        kernel := { kernel0 with funcs := [{ entry := 0, words := 1 }, { entry := 0x80000000, words := 1 }], spawnDepth := depth } })] }

/-- Twelve children of 32 threads with both functions; one with none; 13; a depth of 0. -/
theorem witness_SpawnAddsChildren :
    (∀ r ∈ [(0x10000, 0x200C, 1), (0xFFFFFFFF, 0x0101, 1), (0x10000, 0x010D, 1), (0x10000, 0x0101, 0)],
      let s := spawnS [r.1, r.2.1, 5, 255] r.2.2
      GroupTurn (.spawn 0 (.g 9)) s (.cond 0) (condTurn (.spawn 0 (.g 9)) s) ∧ Unwaiting (condTurn (.spawn 0 (.g 9)) s) (.cond 0)) ∧
    (let s1 := condTurn (.spawn 0 (.g 9)) (spawnS [0x10000, 0x200C, 5, 255] 1)
     (s1.kernel 0).spawnEntry false (f64 ((blockAt s1 0 0 4).getD 0 0) 0 16) = some (some 0) ∧
       (s1.kernel 0).spawnEntry true (f64 ((blockAt s1 0 0 4).getD 0 0) 16 16) = some (some 0x80000000) ∧
       (s1.gang 0).depth + 1 ≤ (s1.kernel 0).spawnDepth ∧
       ((s1.core 0).parts.toList.getD 0 Part.empty).tasks.length + f64 ((blockAt s1 0 0 4).getD 1 0) 0 8 ≤ 16) ∧
    (let s1 := condTurn (.spawn 0 (.g 9)) (spawnS [0xFFFFFFFF, 0x0101, 5, 255] 1)
     (s1.kernel 0).spawnEntry false 0xFFFF = some none ∧ (s1.kernel 0).spawnEntry true 0xFFFF = some none) ∧
    let s1 := condTurn (.spawn 0 (.g 9)) (spawnS [0x10000, 0x0101, 5, 255] 0)
    (s1.kernel 0).spawnDepth < (s1.gang 0).depth + 1 := by
  refine ⟨?_, by decide +kernel, by decide +kernel, by decide +kernel⟩
  intro r h
  simp only [List.mem_cons, List.not_mem_nil, or_false] at h
  rcases h with rfl | rfl | rfl | rfl <;>
    exact command rfl (by decide +kernel) (by decide +kernel) (by decide +kernel) (by decide +kernel)

/-- Block 0 in the cores given, and a group with members in the slots given. -/
def shareS (v : W64) (cores : List Nat) (ms : List (Nat × Nat)) : State :=
  { condL .u [v] with
      launches := [(0, { launch0 with
        slots := [{ cores := cores.map fun c => (c, [0]), bases := [], block := some 0, last := none }]
        groups := if ms = [] then [] else [(0, 255, ms)] })] }

/-- A join of the last group while it is empty, full, and already one's own; of a block in two clusters; a
value of 256. -/
theorem witness_ShareGroups :
    ∀ e ∈ [((255 : W64), [0], []), (255, [0], (List.range 16).map fun k => (k, k + 1)), (255, [0], [(15, 0)]),
        (255, [0, 191], []), (256, [0], [])],
      ∀ i ∈ [Instr.shareJoin (.g 1) (.g 0), .shareLeave (.g 1), .shareQuery .gz (.g 0)],
        let s := shareS e.1 e.2.1 e.2.2
        (GroupTurn i s (.cond 0) (condTurn i s) ∧ Unwaiting (condTurn i s) (.cond 0)) ∧
          ∃ l, (condTurn i s).launch? ((condTurn i s).gang 0).launch = some l ∧
            (l.blockCluster 0 = none ↔ e.2.1 = [0, 191]) ∧ (l.groupOf 0 = none ↔ e.2.2 ≠ [(15, 0)]) ∧
            (freeSlot (l.members 0 255) = none ↔ e.2.2.length = 16) := by
  intro e he i hi
  simp only [List.mem_cons, List.not_mem_nil, or_false] at he hi
  rcases he with rfl | rfl | rfl | rfl | rfl <;> rcases hi with rfl | rfl | rfl <;>
    exact ⟨command rfl (by decide +kernel) (by decide +kernel) (by decide +kernel) (by decide +kernel), _, rfl, by decide +kernel⟩

def phaseS (step : Nat) (b : List W64) : State :=
  { condL .u b with launches := [(0, { launch0 with step := step })] }

/-- Each phase instruction in a computation step and in a communication step; a transfer of 8 bytes. -/
theorem witness_PhasesEnd :
    ∀ n ∈ [0, 1], ∀ i ∈ [Instr.phaseComm, .phaseComp, .phaseXfer 0 0xFFFFFFFF],
      let s := phaseS n [0x4800, 0, 4088, 8]
      let s1 := condTurn i s
      (GroupTurn i s (.cond 0) s1 ∧ Unwaiting s1 (.cond 0)) ∧
        (∃ l, s1.launch? (s1.gang 0).launch = some l ∧ l.step = n) ∧ copyKind (blockAt s1 0 0 8) = 0 ∧
        copyBadReg (blockAt s1 0 0 8) = none ∧ (∀ e ∈ copyAddresses (blockAt s1 0 0 8), e.1 % e.2 = 0) ∧
        s1.outsideWindow { core := 0, launch := 0, block := 0, scratch := 0, level := .u } (copyChecked (blockAt s1 0 0 8)) = none ∧
        ((s1.core 0).xfers.filter fun y => y.launch = (s1.gang 0).launch).length < 16 := by
  intro n hn i hi
  simp only [List.mem_cons, List.not_mem_nil, or_false] at hn hi
  rcases hn with rfl | rfl <;> rcases hi with rfl | rfl | rfl <;>
    exact ⟨command rfl (by decide +kernel) (by decide +kernel) (by decide +kernel) (by decide +kernel), ⟨_, rfl, rfl⟩,
      by decide +kernel, by decide +kernel, by decide +kernel, by decide +kernel, by decide +kernel⟩

/-- A request that is taken; an object off by 32; a record off by 32 and one that is not mapped; the longest
validity and one more. -/
theorem witness_QuoteRequests :
    (∀ e ∈ [((0 : W64), (0x50000 : W64), (0x0053EC6000000101 : W64)), (32, 0x50000, 1), (0, 0x50020, 1), (0, 0x1000000000, 1),
        (0, 0x50000, 0x0053EC6100000101)],
      let s := paged (condL .u [e.1, e.2.1, e.2.2, 1])
      GroupTurn (.quoteReq (.g 8) 0) s (.cond 0) (condTurn (.quoteReq (.g 8) 0) s) ∧
        Unwaiting (condTurn (.quoteReq (.g 8) 0) s) (.cond 0)) ∧
    f64 0x0053EC6000000101 32 32 = 5500000 ∧ f64 0x0053EC6100000101 32 32 = 5500001 ∧
    (let s1 := condTurn (.quoteReq (.g 8) 0) (paged (condL .u [0, 0x50000, 1, 1]))
     s1.writableUnder (s1.asidOf (.cond 0)) 0x50000 true = true ∧ s1.writableUnder 0 0x1000000000 true = false ∧
       (s1.quotes.filter fun q => q.state ≤ 4).length < 4096) := by
  refine ⟨?_, by decide +kernel, by decide +kernel, by decide +kernel⟩
  intro e h
  simp only [List.mem_cons, List.not_mem_nil, or_false] at h
  rcases h with rfl | rfl | rfl | rfl | rfl <;>
    exact command rfl (by decide +kernel) (by decide +kernel) (by decide +kernel) (by decide +kernel)

theorem noneNamed {s : State} {asid id : Nat} (h : (s.quotes.find? fun q => q.id = id && q.asid = asid).isNone = true) :
    ∀ q, ¬ Named s asid id q := by
  intro q n
  unfold Named at n
  rw [n] at h
  cases h

def quoteS (state now : Nat) (pin : List (Nat × Nat × Bool)) (v : W64) : State :=
  { paged (condL .u [v]) with
      tick := now, pins := [(0, 2 ^ 36, false)], quotes := [{ quote0 state with kernel := some { kernel0 with resident := pin } }] }

/-- Each state of a quotation, in time and at its deadline, with and without a page to pin; an id that is not there;
one of 33 bits. -/
theorem witness_QuotesAcceptAndDecline :
    (∀ i ∈ [Instr.quoteAcc (.g 1) (.g 0), .quoteDec (.g 1) (.g 0)],
      (∀ st ∈ [0, 1, 3, 5, 7], ∀ now ∈ [99, 100], let s := quoteS st now [] 1
       let s1 := condTurn i s
       (GroupTurn i s (.cond 0) s1 ∧ Unwaiting s1 (.cond 0)) ∧
         ∃ q, Named s1 (s1.asidOf (.cond 0)) 1 q ∧ q.packets = [] ∧ s1.quote? 1 = some q ∧ q.state = st ∧
           ((1 ≤ q.state ∧ q.state ≤ 3 ∧ q.deadline ≤ s.tick) ↔ st ∈ [1, 3] ∧ now = 100)) ∧
      ∀ v ∈ [(2 : W64), 0x100000001], let s := quoteS 1 0 [] v
       let s1 := condTurn i s
       (GroupTurn i s (.cond 0) s1 ∧ Unwaiting s1 (.cond 0)) ∧ ∀ q, ¬ Named s1 (s1.asidOf (.cond 0)) v.toNat q) ∧
    ∀ i ∈ [Instr.quoteAcc (.g 1) (.g 0)], ∀ p ∈ [[], [(0, 64, false)]],
      let s1 := condTurn i (quoteS 1 0 p 1)
      vectorBase s1.dev.ctvb ≠ 0 ∧ s1.dev.satb ≠ 0 ∧
        ((∀ y ∈ (Kernel.pinSet { kernel0 with resident := p }), s1.isPinned 0 y = true) ↔ p = []) := by
  refine ⟨?_, ?_⟩
  · intro i hi
    simp only [List.mem_cons, List.not_mem_nil, or_false] at hi
    constructor
    · intro st hs now hn
      simp only [List.mem_cons, List.not_mem_nil, or_false] at hs hn
      rcases hi with rfl | rfl <;> rcases hs with rfl | rfl | rfl | rfl | rfl <;> rcases hn with rfl | rfl <;>
        exact ⟨command rfl (by decide +kernel) (by decide +kernel) (by decide +kernel) (by decide +kernel), _, rfl, rfl, rfl, rfl,
          by decide +kernel⟩
    · intro v h
      simp only [List.mem_cons, List.not_mem_nil, or_false] at h
      rcases hi with rfl | rfl <;> rcases h with rfl | rfl <;>
        exact ⟨command rfl (by decide +kernel) (by decide +kernel) (by decide +kernel) (by decide +kernel), noneNamed (by decide +kernel)⟩
  · intro i hi p hp
    simp only [List.mem_cons, List.not_mem_nil, or_false] at hi hp
    subst hi
    rcases hp with rfl | rfl <;> exact ⟨by decide +kernel, by decide +kernel, by decide +kernel⟩
/-! ## Records, signals, system words, traps -/

/-- An id of a running launch, of a retired one whose record can be read, of one in state 1, and of none. -/
theorem witness_QuoteActualReads :
    dstG (.g 190) = .reg 190 ∧ (190 : Nat) + 1 < 192 ∧
    (∀ st ∈ [1, 4, 5], let s := { quoteS st 0 [] 1 with launches := [(0, { launch0 with qid := 1 })] }
      let s1 := condTurn (.quoteActual (.g 190) (.g 0)) s
      GroupTurn (.quoteActual (.g 190) (.g 0)) s (.cond 0) s1 ∧ (∃ q, Named s1 (s1.asidOf (.cond 0)) 1 q ∧ q.state = st) ∧
        (∃ k l, s1.launchOf 1 = some (k, l)) ∧ (s1.readVa 0 (0x50000 + 48) 8).isSome ∧ (s1.readVa 0 (0x50000 + 56) 8).isSome) ∧
    let s := quoteS 1 0 [] 2
    GroupTurn (.quoteActual (.g 190) (.g 0)) s (.cond 0) (condTurn (.quoteActual (.g 190) (.g 0)) s) ∧
      ∀ q, ¬ Named (condTurn (.quoteActual (.g 190) (.g 0)) s) 0 2 q := by
  refine ⟨by decide, by decide, ?_, condTurns rfl (by decide +kernel), noneNamed (by decide +kernel)⟩
  intro st h
  simp only [List.mem_cons, List.not_mem_nil, or_false] at h
  rcases h with rfl | rfl | rfl <;>
    exact ⟨condTurns rfl (by decide +kernel), ⟨_, rfl, rfl⟩, ⟨_, _, rfl⟩, by decide +kernel, by decide +kernel⟩

/-- Queue 4,095 of ASID 0 in a directory at 0x100000, with its flags, and the indices it has. -/
def queueMem (flags size read write : Nat) : List Host.Cell :=
  let e := 0x100000 + 64 * 4095
  writeLE (writeLE (writeLE (writeLE (writeLE pagedMem e 8 0x200000) (e + 8) 4 size) (e + 14) 2 flags) (e + 16) 8 write) (e + 24) 8 read

def submitS (v flags : Nat) (events : List W64) : State :=
  let s := paged (condL .u [n64 v, 0xFFFFFFFFFFFF])
  { s with mem := queueMem flags 16 0 0, dev := { s.dev with qdir := 0x100000, events := events } }

/-- The last queue valid, with no wake pending and with one; not valid; a value of 4,096; a signal at the last place of
the page. -/
theorem witness_SubmitAndSignals :
    (∀ e ∈ [(4095, 1, []), (4095, 1, [eventOf 1 3 (some 4095)]), (4095, 0, []), (4096, 1, [])],
      let s := submitS e.1 e.2.1 e.2.2
      let s1 := condTurn (.submit (.g 0) (.g 1)) s
      GroupTurn (.submit (.g 0) (.g 1)) s (.cond 0) s1 ∧
        ((readLE s1.mem (s1.dev.qdir + 64 * 4095 + 14) 2).testBit 0 = true ↔ e.2.1 = 1) ∧
        readLE s1.mem (s1.dev.qdir + 64 * 4095 + 12) 2 = 0 ∧ s1.asidOf (.cond 0) = 0 ∧
        s1.dev.events = e.2.2) ∧
    (f64 (eventOf 1 3 (some 4095)) 13 3 = 1 ∧ b64 (eventOf 1 3 (some 4095)) 12 = true ∧ f64 (eventOf 1 3 (some 4095)) 0 12 = 4095) ∧
    ∀ i ∈ [Instr.sigAdd (.g 0) (.g 1), .sigSet (.g 0) (.g 1)],
      let s := paged (condL .u [0xFFFFFFFF0, 5])
      GroupTurn i s (.cond 0) (condTurn i s) ∧
        ∃ s2 p, GroupChecked (condTurn i s) (.cond 0) .d 0xFFFFFFFF0 16 .store false (fun _ => true) s2 p := by
  refine ⟨?_, by decide +kernel, ?_⟩
  · intro e h
    simp only [List.mem_cons, List.not_mem_nil, or_false] at h
    rcases h with rfl | rfl | rfl | rfl <;>
      exact ⟨condTurns rfl (by decide +kernel), by decide +kernel, by decide +kernel, by decide +kernel, by decide +kernel⟩
  · intro i h
    simp only [List.mem_cons, List.not_mem_nil, or_false] at h
    rcases h with rfl | rfl <;> exact ⟨condTurns rfl (by decide +kernel), groupChecked (by decide) (by decide +kernel)⟩

/-- The fault queue at 0x300000 with 8 slots, as its words and its first record stand. -/
def faultMem (read write : Nat) (valid status : Nat) : List Host.Cell :=
  writeLE (writeLE (writeLE (writeLE (writeLE pagedMem 0x300000 8 write) 0x300008 8 read) 0x300010 4 8) 0x300040 1 valid)
    0x300043 1 status

def steppeG (vs : List W64) (mem : List Host.Cell) : State :=
  let s := steppeS fun c => { c with g := Vector.ofFn fun i : Fin 192 => vs.getD i.val 0 }
  { s with mem := mem, dev := { s.dev with sfqb := 0x300000 } }

def steppeTurns (i : Instr) (s : State) : Prop :=
  GroupTurn i s (.steppe 0 0) (turn i s (.steppe 0 0)) ∧ Unwaiting (turn i s (.steppe 0 0)) (.steppe 0 0) ∧ Memory.wf s.mem = true

theorem steppeTurnsOf {i : Instr} {s : State} (w : s.issue.who = some (.steppe 0 0))
    (e : encodingFault i .steppe (s.levelOf (.steppe 0 0)) 96 (s.groupRegs (.steppe 0 0)) = none)
    (h : ((turn i s (.steppe 0 0)).ctx (.steppe 0 0)).wait.isNone = true)
    (k : ((turn i s (.steppe 0 0)).ctx (.steppe 0 0)).resumed.isNone = true)
    (o : (turn i s (.steppe 0 0)).gangs.map (·.1) ∈ [[], [0]]) (m : Memory.wf s.mem = true)
    (b : ((turn i s (.steppe 0 0)).ctx (.steppe 0 0)).bad.isEmpty = true := by decide +kernel) : steppeTurns i s :=
  ⟨groupTurns w (by decide) e b, unwaitingOf h k o, m⟩

/-- Functions 0 to 2 of `tlbinv`, with an ASID of 16 and of 17 bits; a valid record in the last place before the index and
in none; an address of a slot and one past the last; core 7 and core 8. -/
theorem witness_SteppeWords :
    (∀ v ∈ [(0xFFFF : W64), 0x10000],
      ∀ i ∈ [Instr.sysTlbinv (.g 0) (.g 1) 0, .sysTlbinv (.g 0) (.g 1) 1, .sysTlbinv (.g 0) (.g 1) 2,
          .sysAsid (.g 1)],
        steppeTurns i (steppeG [0, v] [])) ∧
    (∀ m ∈ [faultMem 0 1 1 0, faultMem 0 0 1 0, faultMem 0 1 0 0], steppeTurns (.sysFqpop (.g 2)) (steppeG [] m)) ∧
    (∀ v ∈ [(0x300040 : W64), 0x300200, 0x300240, 0x300041], ∀ st ∈ [0, 1], steppeTurns (.sysEresume (.g 0)) (steppeG [v] (faultMem 0 8 1 st))) ∧
    (∀ v ∈ [((7 : W64), (255 : W64)), (8, 0), (0, 256)], steppeTurns (.sysMsi (.g 0) (.g 1)) (steppeG [v.1, v.2] [])) ∧
    (readLE (faultMem 0 1 1 0) 0x300000 8 = 1 ∧ readLE (faultMem 0 1 1 0) 0x300008 8 = 0 ∧ readByte (faultMem 0 1 1 0) 0x300040 ≠ 0 ∧
      0x300040 + 4 ≤ State.reset.dev.memBytes ∧ readByte (faultMem 0 1 1 0) 0x300043 = 0 ∧ readByte (faultMem 0 1 1 1) 0x300043 ≠ 0) := by
  refine ⟨?_, ?_, ?_, ?_, by decide +kernel⟩
  · intro v hv i hi
    simp only [List.mem_cons, List.not_mem_nil, or_false] at hv hi
    rcases hv with rfl | rfl <;> rcases hi with rfl | rfl | rfl | rfl <;>
      exact steppeTurnsOf rfl (by decide +kernel) (by decide +kernel) (by decide +kernel) (by decide +kernel) (by decide +kernel)
  · intro m h
    simp only [List.mem_cons, List.not_mem_nil, or_false] at h
    rcases h with rfl | rfl | rfl <;>
      exact steppeTurnsOf rfl (by decide +kernel) (by decide +kernel) (by decide +kernel) (by decide +kernel) (by decide +kernel)
  · intro v hv st hs
    simp only [List.mem_cons, List.not_mem_nil, or_false] at hv hs
    rcases hv with rfl | rfl | rfl | rfl <;> rcases hs with rfl | rfl <;>
      exact steppeTurnsOf rfl (by decide +kernel) (by decide +kernel) (by decide +kernel) (by decide +kernel) (by decide +kernel)
  · intro v h
    simp only [List.mem_cons, List.not_mem_nil, or_false] at h
    rcases h with rfl | rfl | rfl <;>
      exact steppeTurnsOf rfl (by decide +kernel) (by decide +kernel) (by decide +kernel) (by decide +kernel) (by decide +kernel)

def saddleG (v : W64) (dev : Dev → Dev) : State :=
  let s := saddleS (setG 0 v)
  { s with dev := dev s.dev }

theorem saddleTurns {i : Instr} {s : State} (w : s.issue.who = some (.saddle 0))
    (e : encodingFault i .saddle (s.levelOf (.saddle 0)) 96 (s.groupRegs (.saddle 0)) = none)
    (h : ((turn i s (.saddle 0)).ctx (.saddle 0)).wait.isNone = true)
    (k : ((turn i s (.saddle 0)).ctx (.saddle 0)).resumed.isNone = true)
    (o : (turn i s (.saddle 0)).gangs.map (·.1) ∈ [[], [0]])
    (b : ((turn i s (.saddle 0)).ctx (.saddle 0)).bad.isEmpty = true := by decide +kernel) :
    GroupTurn i s (.saddle 0) (turn i s (.saddle 0)) ∧ Unwaiting (turn i s (.saddle 0)) (.saddle 0) :=
  ⟨groupTurns w (by decide) e b, unwaitingOf h k o⟩

/-- An event behind one whose lock is held, and none; locks 255 and 256, free, held by oneself and by another; slot 1 with
and without its image verified. -/
theorem witness_SaddleWords :
    (∀ es ∈ [[], [eventOf 1 0 (some 7), eventOf 4 0 none]],
      let s := saddleG 0 fun d => { d with events := es, locks := [(7, 3)] }
      (GroupTurn (.sysEvqpop (.g 1)) s (.saddle 0) (turn (.sysEvqpop (.g 1)) s (.saddle 0)) ∧
        Unwaiting (turn (.sysEvqpop (.g 1)) s (.saddle 0)) (.saddle 0)) ∧ s.dev.suspended = false ∧ s.dev.heldEvents = [] ∧
        b64 (eventOf 1 0 (some 7)) 12 = true ∧ f64 (eventOf 1 0 (some 7)) 0 12 % 256 = 7 ∧ b64 (eventOf 4 0 none) 12 = false) ∧
    (∀ v ∈ [(255 : W64), 256], ∀ ls ∈ [[], [(255, 0)], [(255, 11)]], ∀ i ∈ [Instr.sysQlk (.g 0), .sysQulk (.g 0)],
      let s := saddleG v fun d => { d with locks := ls }
      GroupTurn i s (.saddle 0) (turn i s (.saddle 0)) ∧ Unwaiting (turn i s (.saddle 0)) (.saddle 0)) ∧
    (let s := saddleG 0 id
     (GroupTurn .sysHbeat s (.saddle 0) (turn .sysHbeat s (.saddle 0)) ∧ Unwaiting (turn .sysHbeat s (.saddle 0)) (.saddle 0)) ∧
       ∀ e ∈ (turn .sysHbeat s (.saddle 0)).saddles, e.2.st ≠ .held) ∧
    ∀ v ∈ [(1 : W64), 2], ∀ f ∈ [(0x80 : BitVec 8), 0],
      let s := saddleG v fun d => { d with fslot := f }
      GroupTurn (.sysSlot (.g 0)) s (.saddle 0) (turn (.sysSlot (.g 0)) s (.saddle 0)) ∧
        Unwaiting (turn (.sysSlot (.g 0)) s (.saddle 0)) (.saddle 0) := by
  refine ⟨?_, ?_, ⟨saddleTurns rfl (by decide +kernel) (by decide +kernel) (by decide +kernel) (by decide +kernel), by decide +kernel⟩, ?_⟩
  · intro es h
    simp only [List.mem_cons, List.not_mem_nil, or_false] at h
    rcases h with rfl | rfl <;>
      exact ⟨saddleTurns rfl (by decide +kernel) (by decide +kernel) (by decide +kernel) (by decide +kernel), by decide +kernel⟩
  · intro v hv ls hl i hi
    simp only [List.mem_cons, List.not_mem_nil, or_false] at hv hl hi
    rcases hv with rfl | rfl <;> rcases hl with rfl | rfl | rfl <;> rcases hi with rfl | rfl <;>
      exact saddleTurns rfl (by decide +kernel) (by decide +kernel) (by decide +kernel) (by decide +kernel)
  · intro v hv f hf
    simp only [List.mem_cons, List.not_mem_nil, or_false] at hv hf
    rcases hv with rfl | rfl <;> rcases hf with rfl | rfl <;>
      exact saddleTurns rfl (by decide +kernel) (by decide +kernel) (by decide +kernel) (by decide +kernel)

/-- `fence` of a lane section on a conductor, a `sys` word there, an `add` that reads a register in error, `limh` on a lane thread, and v95 with 32 lane
registers. -/
theorem witness_IllegalWordsFault :
    (encode (Instr.fence .acq .clu) ≠ [] ∧ bit ((encode (Instr.fence .acq .clu)).headD 0) 31 = false ∧
      (condU id).issue.who = some (.cond 0) ∧ agentKind (.cond 0) ≠ .lane) ∧
    (encode (.sysAsid .gz) ≠ [] ∧ bit ((encode (.sysAsid .gz)).headD 0) 31 = true ∧
      encodingFault (.sysAsid .gz) .cond (((condU id).settle (.cond 0)).levelOf (.cond 0)) 96
        (((condU id).settle (.cond 0)).groupRegs (.cond 0)) = some 0x01) ∧
    (let i : Instr := .groupAdd (.g 2) (.g 3) .gz false
     let s := condU fun c => { c with bad := [3] }
     bit ((encode i).headD 0) 31 = true ∧ (readsOf i).find? (fun k => ((s.settle (.cond 0)).ctx (.cond 0)).bad.contains k) = some 3 ∧
       encodingFault i .cond ((s.settle (.cond 0)).levelOf (.cond 0)) 96 ((s.settle (.cond 0)).groupRegs (.cond 0)) = none) ∧
    (bit ((encode (.groupExit)).headD 0) 31 = true ∧ addS.issue.who = some (.lane 0 0)) ∧
    let s := { addS with launches := [(0, { launch0 with kernel := { kernel0 with laneRegs := 32 } })] }
    let i : Instr := .add .i32 (.v 95) (.v 0) (.lane (.v 1))
    s.issue.who = some (.lane 0 0) ∧ bit ((encode i).headD 0) 31 = false ∧
      encodingFault i .lane .u ((s.settle (.lane 0 0)).kernel 0).laneRegs ((s.settle (.lane 0 0)).kernel 0).groupRegs = some 0x02 := by
  refine ⟨⟨by decide, by decide, rfl, by decide⟩, ⟨by decide, by decide, by decide +kernel⟩,
    ⟨by decide, by decide +kernel, by decide +kernel⟩, ⟨by decide, rfl⟩, rfl, by decide, by decide +kernel⟩

/-- A conductor with a fault of its own; threads 0 and 1 parked behind a group whose threads have all been resumed; no
handler set. -/
theorem witness_TrapsEnter :
    let x : Gang := condOf .u fun c => { c with fault := some (0x01, 5) }
    let y : Gang := { condOf .u id with parked := [{ mask := 0, pc := 0 }, { mask := 3, pc := 4 }] }
    let s (g : Gang) : State := paged (withGang g)
    afind 0 (s x).gangs = some x ∧ x.cond.sstat.getLsbD 2 = false ∧ x.cond.st ≠ .held ∧ (s x).stopping 0 = false ∧
      (s x).dev.ctvb &&& 0xFFFFFFFFFFFFF000 ≠ 0 ∧ afind 0 (s y).gangs = some y ∧ y.cond.fault = none ∧ y.debug = false ∧
      y.parked = [{ mask := 0, pc := 0 }] ++ { mask := 3, pc := 4 } :: [] ∧ (3 : W32) ≠ 0 ∧ (3 : W32).getLsbD 0 = true ∧
      (withGang x).dev.ctvb &&& 0xFFFFFFFFFFFFF000 = 0 := by
  refine ⟨rfl, by decide, by decide, by decide +kernel, by decide, rfl, rfl, rfl, rfl, by decide, by decide, by decide⟩

/-- A handler at S level with threads reported, in every mode; a stub at its 2,200 clk and after them; `eret` on a Steppe and on a Saddle thread. -/
theorem witness_HandlersReturn :
    (∀ m ∈ [(0 : BitVec 8), 1, 2, 3, 4, 5], ∀ i ∈ [Instr.eret, .eretLanes], ∀ w ∈ [(0 : W32), 3],
      let f : Frame := { ret := 1, x := Vector.replicate 4 XReg.zero }
      let s := condS { condOf .s (fun c => { c with sstat := 4 + m * 16, sepc := 0x80000000 }) with
        slanes := w, lanes := (gang2 fun l => { l with st := .parkedFault, cdep := 1, stack := [f] }).lanes }
      GroupTurn i s (.cond 0) (condTurn i s) ∧ ((condTurn i s).gang 0).slanes = w ∧
        (((condTurn i s).ctx (.cond 0)).sstat.extractLsb' 4 3).toNat = m.toNat ∧
        ∀ u : Fin 32, w.getLsbD u.val = true → (laneOf (condTurn i s) 0 u).cdep ≠ 0 ∧ (laneOf (condTurn i s) 0 u).stack ≠ []) ∧
    (∀ now ∈ [2200, 2201], let x := { condOf .s (fun c => { c with sstat := 4, sepc := 0x80000000 }) with stubs := [(3, 0)] }
     let s := { condS x with tick := now, launches := [(0, { launch0 with qid := 1 })], quotes := [quote0 4] }
     GroupTurn .eret s (.cond 0) (condTurn .eret s) ∧ ((∀ e ∈ ((condTurn .eret s).gang 0).stubs, s.tick ≤ e.2 + 2200) ↔ now = 2200) ∧
       ∃ q, (condTurn .eret s).quote? ((condTurn .eret s).qidOf 0) = some q ∧ q.party = 0) ∧
    GroupTurn .eret (steppeS id) (.steppe 0 0) (turn .eret (steppeS id) (.steppe 0 0)) ∧
    GroupTurn .eret (saddleS id) (.saddle 0) (turn .eret (saddleS id) (.saddle 0)) := by
  refine ⟨?_, ?_, groupTurns rfl (by decide) (by decide +kernel), groupTurns rfl (by decide) (by decide +kernel)⟩
  · intro m hm i hi w hw
    simp only [List.mem_cons, List.not_mem_nil, or_false] at hm hi hw
    rcases hm with rfl | rfl | rfl | rfl | rfl | rfl <;> rcases hi with rfl | rfl <;> rcases hw with rfl | rfl <;>
      exact ⟨condTurns rfl (by decide +kernel), by decide +kernel, by decide +kernel, by decide +kernel⟩
  · intro now h
    simp only [List.mem_cons, List.not_mem_nil, or_false] at h
    rcases h with rfl | rfl <;> exact ⟨condTurns rfl (by decide +kernel), by decide +kernel, _, rfl, rfl⟩

/-- `trap` on a conductor, in a handler, on a Steppe thread with and without a handler open, and on a Saddle core; vector
252 pending on Steppe thread 0. -/
theorem witness_TrapRaises :
    (∀ b ∈ [(0 : BitVec 8), 4], let s := condS (condOf .s fun c => { c with sstat := b })
      GroupTurn (.groupTrap 0x21) s (.cond 0) (condTurn (.groupTrap 0x21) s) ∧
        (((condTurn (.groupTrap 0x21) s).ctx (.cond 0)).sstat.getLsbD 2 = true ↔ b = 4)) ∧
    (∀ b ∈ [(0 : BitVec 8), 4], let s := steppeS fun c => { c with sstat := b, stvb := 0x1000 }
      GroupTurn (.groupTrap 255) s (.steppe 0 0) (turn (.groupTrap 255) s (.steppe 0 0)) ∧
        vectorBase ((turn (.groupTrap 255) s (.steppe 0 0)).ctx (.steppe 0 0)).stvb ≠ 0 ∧
        (((turn (.groupTrap 255) s (.steppe 0 0)).ctx (.steppe 0 0)).sstat.getLsbD 2 = true ↔ b = 4)) ∧
    (let s := saddleG 0 fun d => { d with ftvb := 0x1000 }
     GroupTurn (.groupTrap 0) s (.saddle 0) (turn (.groupTrap 0) s (.saddle 0)) ∧
       ((turn (.groupTrap 0) s (.saddle 0)).ctx (.saddle 0)).sstat.getLsbD 2 = false ∧
       vectorBase (turn (.groupTrap 0) s (.saddle 0)).dev.ftvb ≠ 0) ∧
    let s0 := steppeS fun c => { c with sstat := 8, stvb := 0x1000 }
    let s := { s0 with dev := { s0.dev with files := Vector.replicate 8 (2 ^ 252) } }
    (s.ctx (.steppe 0 0)).st = .live ∧ (s.ctx (.steppe 0 0)).from_ ≤ s.tick ∧ (s.ctx (.steppe 0 0)).sstat.getLsbD 3 = true ∧
      (s.ctx (.steppe 0 0)).sstat.getLsbD 2 = false ∧ vectorBase (s.ctx (.steppe 0 0)).stvb ≠ 0 ∧ 252 % 4 = 0 ∧
      (s.dev.files.getD 0 0).getLsbD 252 = true ∧ ∀ m, m < 252 → m % 4 = 0 → (s.dev.files.getD 0 0).getLsbD m = false := by
  refine ⟨?_, ?_, ⟨groupTurns rfl (by decide) (by decide +kernel), by decide +kernel, by decide +kernel⟩,
    by decide +kernel, by decide +kernel, by decide +kernel, by decide +kernel, by decide +kernel, by decide, by decide +kernel, by decide +kernel⟩
  · intro b h
    simp only [List.mem_cons, List.not_mem_nil, or_false] at h
    rcases h with rfl | rfl <;> exact ⟨condTurns rfl (by decide +kernel), by decide +kernel⟩
  · intro b h
    simp only [List.mem_cons, List.not_mem_nil, or_false] at h
    rcases h with rfl | rfl <;> exact ⟨groupTurns rfl (by decide) (by decide +kernel), by decide +kernel, by decide +kernel⟩

theorem witness_SysAsidSets :
    ∀ v ∈ [(0xFFFF : W64), 0x10000], let s := steppeG [v] []
      GroupTurn (.sysAsid (.g 0)) s (.steppe 0 0) (turn (.sysAsid (.g 0)) s (.steppe 0 0)) ∧
        readG (turn (.sysAsid (.g 0)) s (.steppe 0 0)) (.steppe 0 0) (.g 0) = v := by
  intro v h
  simp only [List.mem_cons, List.not_mem_nil, or_false] at h
  rcases h with rfl | rfl <;> exact ⟨groupTurns rfl (by decide) (by decide +kernel), by decide +kernel⟩

/-! ## Accesses performed, waits, engines -/

/-- An access of thread 0 to the slice of core 0. -/
def flight0 (off : Nat) (op : Access) (reply : Option W64) : Flight :=
  { id := 7, who := .lane 0 0, loc := .slice 0 off, va := 0, size := 8, pc := 0, level := .u, op := op, acq := false, rel := false
    scope := .thr, uncached := false, deps := [], gen := 0, via := none, stream := 31, reply := reply, high := 0, batch := 7 }

def flightS (off : Nat) (op : Access) (reply : Option W64) : State :=
  { withGang (gang2 fun l => { l with pend := [{ dst := .reg 95, mask := BitVec.allOnes 64, val := 0, due := none, src := some 7, hi := false }] }) with
      flight := [flight0 off op reply] }

/-- A slice write anywhere below the tables changes its bytes alone. -/
theorem writable {s : State} {c off n : Nat} (h : ∀ j, j < n → sliceHeld c (off + j) = true)
    (k : off + n ≤ 0xFF0000 ∨ 0xFF4000 ≤ off) (w : (s.core c).watches = []) : Writable s (.slice c off) n := by
  refine ⟨h, k, ?_⟩
  unfold Unwatched
  rw [w]
  simp

/-- At the first and at the last bytes of the slice that memory holds. -/
theorem witness_AccessesPerformed :
    ∀ off ∈ [0, 0xFF47F8],
      (let f := flight0 off (.load .dw) none
       let s := flightS off (.load .dw) none
       s.flight.find? (fun x => x.id = f.id) = some f ∧ f.reply = none ∧ s.depsMet f = true ∧ LoadReads s f 0 ∧
         s.flawedLoc f.loc f.size = false) ∧
      (let f := flight0 off (.store 5) none
       let s := flightS off (.store 5) none
       s.flight.find? (fun x => x.id = f.id) = some f ∧ s.depsMet f = true ∧ f.loc.key = some (sliceKey 0 off) ∧
         Writable s f.loc f.size ∧ Memory.wf s.mem = true) ∧
      (let f := flight0 off (.atom .cas .w64 0 9) none
       let s := flightS off (.atom .cas .w64 0 9) none
       s.flight.find? (fun x => x.id = f.id) = some f ∧ s.depsMet f = true ∧ s.homeCluster f.loc = some (clusterOf 0) ∧ f.stream < 32 ∧
         s.flawedLoc f.loc f.size = false ∧
         (∀ x ∈ s.flight, x.op.isAtom = true → x.reply = none → s.depsMet x = true → s.homeCluster x.loc = some (clusterOf 0) → x = f) ∧
         f.loc.key = some (sliceKey 0 off) ∧ Writable s f.loc (aSizeBytes .w64) ∧ Reads s f.loc (aSizeBytes .w64) 0 ∧ Memory.wf s.mem = true) ∧
      let f := flight0 off (.atom .cas .w64 0 9) (some 3)
      let s := flightS off (.atom .cas .w64 0 9) (some 3)
      s.flight.find? (fun x => x.id = f.id) = some f ∧ f.op.isAtom = true ∧ f.reply = some 3 ∧ s.exists_ f.who = true := by
  intro off h
  simp only [List.mem_cons, List.not_mem_nil, or_false] at h
  rcases h with rfl | rfl <;>
    exact ⟨⟨by decide +kernel, rfl, by decide +kernel, ⟨by decide +kernel, by decide +kernel⟩, by decide +kernel⟩,
      ⟨by decide +kernel, by decide +kernel, by decide +kernel, writable (by decide +kernel) (by decide) (by decide +kernel), by decide +kernel⟩,
      ⟨by decide +kernel, by decide +kernel, by decide +kernel, by decide, by decide +kernel, fun x m _ _ _ _ => by simpa [flightS] using m, by decide +kernel,
        writable (by decide +kernel) (by decide) (by decide +kernel), ⟨by decide +kernel, by decide +kernel⟩, by decide +kernel⟩,
      by decide +kernel, rfl, rfl, by decide +kernel⟩

/-- A conductor has set or stepped the signal at the last 64 bytes of the memory, which holds 3 and asks for
a vector and an event; with no event waiting, and with its own. -/
def signalS (add : Bool) (v : W64) (waits : Bool) : State :=
  let pa := State.reset.dev.memBytes - 64
  let s := withGang (gang2 id)
  { s with
      mem := writeLE (writeLE [] pa 8 3) (pa + 8) 8 0x20001
      dev := { s.dev with events := if waits then [eventOf 2 pa none] else [] }
      flight := [{ flight0 0 (.sig add v) none with loc := .dev pa, who := .cond 0 }] }

/-- A signal set, stepped and left as it was. -/
theorem witness_SignalsPerformed :
    ∀ add ∈ [false, true], ∀ v ∈ [(0 : W64), 3], ∀ waits ∈ [false, true],
      let s := signalS add v waits
      let pa := State.reset.dev.memBytes - 64
      ∃ f, s.flight = [f] ∧ f.op = .sig add v ∧ f.reply = none ∧ s.depsMet f = true ∧ f.loc = .dev pa ∧
        (s.homeCluster f.loc).isSome = true ∧ f.stream < 32 ∧ s.flawedLoc f.loc f.size = false ∧ Writable s (.dev pa) 8 ∧
        Memory.wf s.mem = true ∧ n64 (readLE s.mem pa 8) = 3 ∧ n64 (readLE s.mem (pa + 8) 8) = 0x20001 := by
  intro add ha v hv waits hw
  simp only [List.mem_cons, List.not_mem_nil, or_false] at ha hv hw
  rcases ha with rfl | rfl <;> rcases hv with rfl | rfl <;> rcases hw with rfl | rfl <;>
    exact ⟨_, rfl, rfl, rfl, by decide +kernel, rfl, by decide +kernel, by decide, by decide +kernel,
      ⟨by decide +kernel, .inl (by decide +kernel), fun q m => (List.not_mem_nil m).elim⟩, by decide +kernel, by decide +kernel,
      by decide +kernel⟩

/-- The loads of two threads by one instruction: the first to return, and the last. -/
theorem witness_AccessesPerformedTogether :
    ∀ reply ∈ [none, some (3 : W64)],
      let f := flight0 0 (.load .dw) none
      let x := { flight0 8 (.load .dw) reply with id := 8, who := .lane 0 1 }
      let s := { flightS 0 (.load .dw) none with flight := [f, x] }
      s.flight.find? (fun x => x.id = f.id) = some f ∧ s.depsMet f = true ∧ LoadReads s f 0 ∧ s.flawedLoc f.loc f.size = false ∧
        s.exists_ f.who = true ∧ (s.flight.map Flight.id).Nodup ∧
        (x ∈ s.flight ∧ x.id ≠ f.id ∧ x.batch = f.batch ∧ x.op.isLoad = true) ∧ s.exists_ x.who = true ∧
        agentKind x.who = .lane ∧ x.who ≠ f.who ∧ ∀ y ∈ s.flight, y.id ≠ f.id → y = x := by
  intro reply h
  simp only [List.mem_cons, List.not_mem_nil, or_false] at h
  rcases h with rfl | rfl <;>
    exact ⟨by decide +kernel, by decide +kernel, ⟨by decide +kernel, by decide +kernel⟩, by decide +kernel, by decide +kernel, by decide,
      by decide +kernel, by decide +kernel, by decide, by decide, by decide +kernel⟩

/-- Gang 0 waits, from clock 0 until clock 64, at a clock. -/
def waitS (l : Level) (k : WaitKind) (now : Nat) : State :=
  { withGang (condOf l fun c => { c with wait := some { kind := k, since := 0, deadline := 64 } }) with tick := now }

/-- A share of block 0 in slot 15 of group 255. -/
def leaveS : State :=
  { waitS .u (.leave .none) 0 with
      launches := [(0, { launch0 with
        slots := [{ cores := [(0, [0])], bases := [], block := some 0, last := none }], groups := [(0, 255, [(15, 0)])] })] }

/-- A launch whose one core has ended its step at clock 0. -/
def stepS (now : Nat) : State :=
  let l : Launch := { launch0 with slots := [{ cores := [(0, [0])], bases := [], block := some 0, last := none }], stepEnded := some 0 }
  { waitS .u .phase now with launches := [(0, l)] }

/-- A wait on an address one clock before its deadline, at it and after it, in `.s` and in `.d`, that reads what it waits for and not; each barrier wait;
the baton free and held at each level; a share that leaves; a wake and none; a step that has ended 31 and 32 clk
before. -/
theorem witness_WaitsEnd :
    (∀ now ∈ [63, 64, 65], ∀ expected ∈ [(0 : W64), 1], ∀ dotD ∈ [false, true],
      let loc : Loc := if dotD then .dev 0x50000 else .slice 0 0xFF47F8
      let k : WaitKind := .addr loc dotD expected (.reg 191) true .thr 0x50000
      let s := paged (waitS .u k now)
      s.waitOf (.cond 0) = some { kind := k, since := 0, deadline := 64 } ∧ s.mayRead (.cond 0) loc = true ∧
        (s.waitPlace (.cond 0) loc dotD 0x50000).2 = .ok loc ∧ (s.waitPlace (.cond 0) loc dotD 0x50000).1.flawedLoc loc 8 = false ∧
        Reads (s.waitPlace (.cond 0) loc dotD 0x50000).1 loc 8 0) ∧
    (∀ now ∈ [63, 64], ∀ k ∈ [WaitKind.bar 95 false .none, .take 0 (.reg 0)], let s := waitS .u k now
      (s.gang 0).cond.wait = some { kind := k, since := 0, deadline := 64 } ∧ s.frozen 0 = false) ∧
    (∀ l ∈ [Level.u, .s], let s := waitS l .baton 1
      Ordered s ∧ (∃ x, afind 0 s.gangs = some x ∧ x.cond.wait.map Wait.kind = some .baton ∧ x.cond.level = l ∧
          ∀ w, x.cond.wait = some w → w.since < s.tick) ∧ gangCore 0 = 0 ∧
        (∀ h y, (h, y) ∈ s.gangs → gangCore h = 0 → y.cond.wait.map Wait.kind = some .baton → h = 0) ∧
        (s.core 0).baton.holder = none) ∧
    ((leaveS.gang 0).cond.wait = some { kind := .leave .none, since := 0, deadline := 64 } ∧
      (∃ l, afind (leaveS.gang 0).launch leaveS.launches = some l ∧
        l.groupOf (leaveS.gang 0).block = some (0, 255, 15, [(15, 0)])) ∧ leaveS.flight = [] ∧ NoneShared leaveS 0 ∧
      let f := { flight0 0 (.store 5) none with via := some (0, 0, 255, 15) }
      let s := { leaveS with flight := [f] }
      f ∈ s.flight ∧ f.reply = none ∧ f.via = some ((s.gang 0).launch, 0, 255, 15)) ∧
    (∀ p ∈ [[], [{ mask := 1, pc := 0 : Parked }]],
      let s := withGang { condOf .u (fun c => { c with wait := some { kind := .idle, since := 0, deadline := 0 } }) with parked := p }
      (s.ctx (.cond 0)).wait.map Wait.kind = some .idle ∧ s.wakes (.cond 0) = decide (p ≠ [])) ∧
    ∀ now ∈ [31, 32], let s := stepS now
      Ordered s ∧ ∃ l, afind 0 s.launches = some l ∧ l.stepEnded = some 0 ∧ s.stepOver 0 l = true ∧ l.phase = .running := by
  refine ⟨?_, ?_, ?_, ⟨by decide +kernel, ⟨_, rfl, by decide +kernel⟩, rfl, ⟨fun _ _ m => (List.not_mem_nil m).elim, ?_⟩,
    List.mem_singleton.mpr rfl, rfl, by decide +kernel⟩, ?_, ?_⟩
  · intro now hn e he d hd
    simp only [List.mem_cons, List.not_mem_nil, or_false] at hn he hd
    rcases hn with rfl | rfl | rfl <;> rcases he with rfl | rfl <;> rcases hd with rfl | rfl <;>
      exact ⟨by decide +kernel, by decide +kernel, by decide +kernel, by decide +kernel, by decide +kernel, by decide +kernel⟩
  · intro now hn k hk
    simp only [List.mem_cons, List.not_mem_nil, or_false] at hn hk
    rcases hn with rfl | rfl <;> rcases hk with rfl | rfl <;> exact ⟨by decide +kernel, by decide +kernel⟩
  · intro l h
    simp only [List.mem_cons, List.not_mem_nil, or_false] at h
    rcases h with rfl | rfl <;>
      exact ⟨List.pairwise_singleton _ _, ⟨_, rfl, rfl, rfl, fun w e => by cases e; decide⟩, by decide, fun h y m _ _ => by simpa [waitS, withGang] using (congrArg Prod.fst (List.mem_singleton.mp m)), by decide +kernel⟩
  · intro h x m _ k r
    cases List.mem_singleton.mp m
    exact absurd r (by revert k; decide +kernel)
  · intro p h
    simp only [List.mem_cons, List.not_mem_nil, or_false] at h
    rcases h with rfl | rfl <;> exact ⟨by decide +kernel, by decide +kernel⟩
  · intro now h
    simp only [List.mem_cons, List.not_mem_nil, or_false] at h
    rcases h with rfl | rfl <;> exact ⟨List.pairwise_singleton _ _, _, rfl, by decide +kernel, by decide +kernel, by decide +kernel⟩

theorem inScratch {l : Launch} {x : Site} {a n : Nat} (h : a + n ≤ l.kernel.scratch) (k : l.kernel.scratch ≤ 0x10000) (z : x.scratch = 0)
    (p : a < 0x10000) : InScratch l x a n :=
  ⟨by omega, by omega, h, by omega⟩

def site0 (l : Level) : Site := { core := 0, launch := 0, block := 0, scratch := 0, level := l }

/-- A copy command of launch 0. -/
def copy0 (b : List W64) (done : Nat) (running xfer : Bool) : CopyCmd :=
  { copyCmd 1 0 0 (site0 .u) b 0 xfer [] with running := running, done := done }

def copyS (c : CopyCmd) : State := { withGang (gang2 id) with cores := [(0, { CoreSt.empty with copies := [c] })] }

theorem copyHead {b : List W64} {done : Nat} : CopyAtHead (copyS (copy0 b done true false)) 0 0 (copy0 b done true false) launch0 :=
  ⟨rfl, rfl, rfl, rfl, rfl, rfl, fun y m => by rw [List.mem_singleton.mp (show y ∈ [copy0 b done true false] from m)]; rfl⟩

theorem unwatched {s : State} {core : Nat} (h : (s.core core).watches = []) : Unwatched s core := by
  unfold Unwatched
  rw [h]
  simp

def stream0 (base : W64) : Stream :=
  { Stream.idle with loaded := true, running := true, size := 8, space := .s, base := base, c0 := 33, c1 := 1, c2 := 1, s0 := 8 }

def streamS (base : W64) : State :=
  withGang { condOf .u id with
               sd := Gang.empty.sd.set 3 (stream0 base), dq := { cfg := n64 (0x2000 + 2 * 2 ^ 24 + 2 ^ 35), first := 0, entries := [] } }

theorem streamAt {base : W64} : StreamAt (streamS base) 0 3 (stream0 base) launch0 :=
  ⟨rfl, rfl, rfl, by simp [stream0, Stream.idle, Stream.entries, Stream.elements, ceilDiv], rfl, rfl, rfl, rfl⟩

/-- A command not yet started; a copy, a fill and an add of 64 bytes at the end of the scratch; one of 8 bytes; a
completion word; a source one granule past the scratch; a transfer at its clock and one before it; a stream's first
entry, and one past the scratch. -/
theorem witness_EnginesRun :
    (let c := copy0 [0x4800, 0, 4032, 64] 0 false false
     (((copyS c).core 0).copies.find? fun y => y.launch = 0) = some c ∧ c.site.core = 0 ∧ c.stopped = false ∧
       (copyS c).unperformed c.after = []) ∧
    (∀ b ∈ [[(0x4800 : W64), 0, 4032, 64], [0x4801, 5, 4032, 64], [0x4A02, 0, 4032, 64], [0x4800, 0, 4088, 8]],
      CopyAtHead (copyS (copy0 b 0 true false)) 0 0 (copy0 b 0 true false) launch0 ∧ Memory.wf (copyS (copy0 b 0 true false)).mem = true ∧
        (copyS (copy0 b 0 true false)).flawed = [] ∧ Unwatched (copyS (copy0 b 0 true false)) 0 ∧ 0 < copyLength b ∧ copyLength b ≤ 64 ∧ copyCompletes b = false ∧
        copyToQueue b = false ∧ copySrcSpace b = .s ∧ copyDstSpace b = .s ∧ copyKind b < 3 ∧
        (copyKind b = 2 → copyType b = 2 ∧ copyLength b % 4 = 0) ∧
        (copyKind b ≠ 1 → InScratch launch0 (site0 .u) (copySrc b) (copyLength b)) ∧
        InScratch launch0 (site0 .u) (copyDst b) (copyLength b)) ∧
    (let b : List W64 := [0xA84800, 0, 4032, 64, 0, 4088, 1]
     CopyAtHead (copyS (copy0 b 1 true false)) 0 0 (copy0 b 1 true false) launch0 ∧ 1 = copyGranules b ∧ copyCompletes b = true ∧
       copyDoneSpace b = .s ∧ InScratch launch0 (site0 .u) (copyDoneAt b) 8) ∧
    (let b : List W64 := [0x4800, 4096, 0, 64]
     CopyAtHead (copyS (copy0 b 0 true false)) 0 0 (copy0 b 0 true false) launch0 ∧ 0 < copyLength b ∧ copyKind b = 0 ∧
       copySrcSpace b = .s ∧ launch0.kernel.scratch < copySrc b + min 64 (copyLength b)) ∧
    (let x : Xfer := { at_ := 9, part := 0, gang := 0, launch := 0, site := site0 .u, block := [0x4800, 0, 4032, 64], gen := 0 }
     let s : State := { copyS (copy0 [] 0 false false) with launches := [(0, { launch0 with step := 1 })], cores := [(0, { CoreSt.empty with xfers := [x] })] }
     (s.core 0).xfers = [x] ∧ afind x.launch s.launches = some { launch0 with step := 1 } ∧
       ((s.core 0).copies.filter fun k => k.part = x.part).length < 16 ∧ (s.core 0).locks.length + (copyLocks x.block).length ≤ 64) ∧
    (StreamAt (streamS 0) 0 3 (stream0 0) launch0 ∧ ((streamS 0).gang 0).dqRoom = true ∧ ((streamS 0).gang 0).dq.wide = true ∧
      ((streamS 0).gang 0).dq.slotAt (((streamS 0).gang 0).dq.first + ((streamS 0).gang 0).dq.entries.length) 0 + 256 ≤ 0xFF0000 ∧
      ∀ i, i < 32 → InScratch launch0 (site0 .u) ((stream0 0).address (32 * 0 + i)).toNat 8) ∧
    StreamAt (streamS 4092) 0 3 (stream0 4092) launch0 ∧ launch0.kernel.scratch < ((stream0 4092).address (32 * 0)).toNat + 8 := by
  refine ⟨⟨rfl, rfl, rfl, rfl⟩, ?_, ⟨copyHead, by decide, by decide, by decide, ⟨by decide, by decide, by decide, by decide⟩⟩,
    ⟨copyHead, by decide, by decide, by decide, by decide⟩, by decide +kernel,
    ⟨streamAt, by decide +kernel, by decide +kernel, by decide +kernel, ?_⟩, streamAt, by decide +kernel⟩
  · intro b h
    simp only [List.mem_cons, List.not_mem_nil, or_false] at h
    rcases h with rfl | rfl | rfl | rfl <;>
      exact ⟨copyHead, by decide, rfl, unwatched (by decide +kernel), by decide, by decide, by decide, by decide, by decide, by decide, by decide, by decide,
        fun _ => inScratch (by decide) (by decide) rfl (by decide), inScratch (by decide) (by decide) rfl (by decide)⟩
  · intro i h
    have e : ∀ i, i < 32 → ((stream0 0).address (32 * 0 + i)).toNat + 8 ≤ 4096 := by decide +kernel
    exact inScratch (e i h) (by decide) rfl (by have := e i h; omega)
/-! ## The matrix engine -/

def mxOp (b : List W64) (done ready : Nat) (running : Bool) : MxOp :=
  { seq := 1, launch := 0, gang := 0, site := site0 .u, super := false, block := b, bank := [], bankNo := false, regA := [], regB := [], regBad := (false, false)
    gen := 0, running := running, stopped := false, done := done, corrected := false, after := [], issued := 0, ready := ready }

def launchM : Launch := { launch0 with qid := 1, kernel := { kernel0 with scratch := 16384 } }

/-- Core 0 with an operation of a launch whose quotation has its party. -/
def mxS (o : MxOp) (now : Nat) (mem : List Host.Cell) : State :=
  { withGang (gang2 id) with
      tick := now, mem := mem, launches := [(0, launchM)], quotes := [{ quote0 4 with party := 1 }]
      cores := [(0, { CoreSt.empty with mx := [o] })] }

theorem mxPlain {b : List W64} {done ready now : Nat} {go : Bool} {mem : List Host.Cell} :
    ∀ y ∈ ((mxS (mxOp b done ready go) now mem).core 0).mx, y.super = false := by
  intro y m
  rw [List.mem_singleton.mp (show y ∈ [mxOp b done ready go] from m)]
  rfl

theorem mxRunning {b : List W64} {done ready now : Nat} {mem : List Host.Cell} :
    MxRunning (mxS (mxOp b done ready true) now mem) 0 (mxOp b done ready true) :=
  ⟨⟨rfl, Or.inr ⟨mxPlain, rfl, rfl⟩⟩, rfl, rfl⟩

theorem mxCharged {o : MxOp} {now : Nat} {mem : List Host.Cell} : Charged (mxS o now mem) 0 := by
  intro l q hl hq
  have e : l = launchM := by simpa [mxS, afind] using hl.symm
  subst e
  have : q = { quote0 4 with party := 1 } := by simpa [mxS, launchM, quote0] using hq.symm
  subst this
  decide

/-- Blocks of 8 elements of 8 bits; A and B at 0 and 4,096 in rows of 32 bytes, exponents from 8,192 on. -/
def mmaB (kind : W64) : List W64 :=
  [0x00000010FF000000 + kind, 8, 8, 0, 0x0020000000000020, 4096, 0x0020000000000020, 0x0000210000002000]

def moveB (kind : W64) : List W64 := [0xFF0F0000 + kind, 0, 0, 0, 0x0020000000000100]

def isFin : FVal → Bool
  | .fin _ _ _ => true
  | _ => false

theorem finOf : {v : FVal} → isFin v = true → ∃ n m e, v = .fin n m e
  | .fin n m e, _ => ⟨n, m, e, rfl⟩
  | .nan _, h => by cases h
  | .inf _, h => by cases h

/-- The exponent of the first block of row 0 of A in memory. -/
def mmaS (exponent : Nat) : State := mxS (mxOp (mmaB 0) 0 0 true) 8 (writeLE [] (sliceKey 0 8192) 1 exponent)

/-- A first step with every element of a row and a column finite, and with a NaN. -/
theorem witness_MatrixMultiplies :
    (∀ e ∈ [127, 255], MxRunning (mmaS e) 0 (mxOp (mmaB 0) 0 0 true) ∧ (mxOp (mmaB 0) 0 0 true).done < (mxOp (mmaB 0) 0 0 true).total ∧
      (mxOp (mmaB 0) 0 0 true).ready + (mxOp (mmaB 0) 0 0 true).stepClocks ≤ (mmaS e).tick ∧ mxKind (mmaB 0) = 0 ∧ mxKeep (mmaB 0) = false) ∧
    AllFinite (mmaS 127) (mxOp (mmaB 0) 0 0 true) 0 0 0 ∧ ((mmaS 255).mxA (mxOp (mmaB 0) 0 0 true) 0 0 0).isNaN = true := by
  refine ⟨?_, ?_, by decide +kernel⟩
  · intro e h
    simp only [List.mem_cons, List.not_mem_nil, or_false] at h
    rcases h with rfl | rfl <;> exact ⟨mxRunning, by decide +kernel, by decide +kernel, by decide, by decide⟩
  · have a : ∀ k, k < 32 → isFin ((mmaS 127).mxA (mxOp (mmaB 0) 0 0 true) 0 k 0) = true ∧
        isFin ((mmaS 127).mxB (mxOp (mmaB 0) 0 0 true) 0 k 0) = true := by decide +kernel
    exact fun k h => ⟨finOf (a k h).1, finOf (a k h).2⟩

/-- An operation before it starts; each kind of move of the last tile; the last clock before an operation ends and the
end; a stop of each kind that has one; a revoked window; an empty queue before and at its millisecond. -/
theorem witness_MatrixRuns :
    (let o := mxOp (moveB 3) 0 0 false
     Foremost (mxS o 0 []) 0 o ∧ o.running = false ∧ o.stopped = false ∧ (mxS o 0 []).unperformed o.after = []) ∧
    (∀ kind ∈ [(2 : W64), 3, 4], let o := mxOp (moveB kind) 0 0 true
      MxRunning (mxS o 32 []) 0 o ∧ (mxS o 32 []).flawed = [] ∧ o.done < o.total ∧ o.ready + o.stepClocks ≤ 32 ∧ mxKind o.block = kind.toNat ∧
        o.place.tile = 15 ∧ (mxSource o.block 3).space = .s ∧ o.place.tile ∉ ((mxS o 32 []).core 0).invalid ∧ Unwatched (mxS o 32 []) 0 ∧
        Memory.wf (mxS o 32 []).mem = true ∧
        (∀ r, r < 64 → InScratch launchM o.site ((mxSource o.block 3).element (64 * o.place.mi + r) (64 * o.place.nj)) 256)) ∧
    (let o := mxOp (moveB 3) 0 0 true
     let at_ (r k : Nat) := sliceKey 0 (o.site.scratch + (mxSource o.block 3).element (64 * o.place.mi + r) (64 * o.place.nj + k))
     ∀ r k u v, r < 64 → k < 64 → u < 64 → v < 64 → (r, k) ≠ (u, v) → at_ r k + 4 ≤ at_ u v ∨ at_ u v + 4 ≤ at_ r k) ∧
    (∀ now ∈ [7, 8], let o := mxOp (moveB 3) 1 0 true
      MxRunning (mxS o now []) 0 o ∧ o.total ≤ o.done ∧ (o.ready + 8 ≤ (mxS o now []).tick ↔ now = 8)) ∧
    (∀ kind ∈ [(0 : W64), 1], let o := mxOp (mmaB kind) 0 0 true
      MxRunning (mxS o 0 []) 0 o ∧ o.done < o.total ∧ Charged (mxS o 0 []) o.launch ∧ mxKind o.block ≤ 1) ∧
    (∀ kind ∈ [(3 : W64), 4], let o := mxOp (moveB kind) 0 0 true
      MxRunning (mxS o 0 []) 0 o ∧ o.done < o.total ∧ Charged (mxS o 0 []) o.launch ∧ mxKind o.block = kind.toNat) ∧
    (let o := mxOp [0xFF000003, 0, 0, 4, 0x0020000000000100] 0 0 true
     MxRunning (mxS o 0 []) 0 o ∧ o.done < o.total ∧ ((mxS o 0 []).mxRevoked o).isSome ∧ Charged (mxS o 0 []) o.launch) ∧
    ∀ now ∈ [1099999, 1100000], let o := mxOp (mmaB 1) 0 0 true
      MxRunning (mxS o now []) 0 o ∧ mxKind o.block = 1 ∧ o.done < o.total ∧ ((mxS o now []).core 0).sparse.getD (mxQueue o.block) [] = [] := by
  refine ⟨⟨⟨rfl, Or.inr ⟨mxPlain, rfl, rfl⟩⟩, rfl, rfl, rfl⟩, ?_, ?_, ?_, ?_, ?_,
    ⟨mxRunning, by decide, by decide +kernel, mxCharged⟩, ?_⟩
  · intro kind h
    simp only [List.mem_cons, List.not_mem_nil, or_false] at h
    rcases h with rfl | rfl | rfl <;>
      exact ⟨mxRunning, rfl, by decide, by decide, by decide, by decide, by decide, by decide +kernel, unwatched (by decide +kernel), by decide,
        fun r h => inScratch (by revert r; decide +kernel) (by decide) rfl (by revert r; decide +kernel)⟩
  · intro o at_ r k u v hr hk hu hv ne
    have e : ∀ r k, at_ r k = 2 ^ 60 + (r * 256 + k * 4) := by
      intro r k
      have a : (mxSource o.block 3) = { base := 0, fromRegs := false, space := .s, rot := 0, tilePitch := 0, rowPitch := 256 } := by decide
      have b : o.place.mi = 0 := by decide
      have c : o.place.nj = 0 := by decide
      simp only [at_, a, b, c, sliceKey, MxSource.element]
      show 2 ^ 60 + 0 * 2 ^ 24 + (0 + _) = _
      omega
    rw [e, e]
    simp only [ne_eq, Prod.mk.injEq, not_and] at ne
    omega
  · intro now h
    simp only [List.mem_cons, List.not_mem_nil, or_false] at h
    rcases h with rfl | rfl <;> exact ⟨mxRunning, by decide, by decide⟩
  · intro kind h
    simp only [List.mem_cons, List.not_mem_nil, or_false] at h
    rcases h with rfl | rfl <;> exact ⟨mxRunning, by decide, mxCharged, by decide⟩
  · intro kind h
    simp only [List.mem_cons, List.not_mem_nil, or_false] at h
    rcases h with rfl | rfl <;> exact ⟨mxRunning, by decide, mxCharged, by decide⟩
  · intro now h
    simp only [List.mem_cons, List.not_mem_nil, or_false] at h
    rcases h with rfl | rfl <;> exact ⟨mxRunning, by decide, by decide, by decide +kernel⟩
/-! ## Triggers, records, firmware, the device -/

def trigger0 (n : Nat) : Trigger :=
  { watch := 5, qid := 1, perRange := false, line := n, mask := 1, value := 0, seq := 0, count := 1, gen := 0, arg := 0, gang := none
    closed := false, since := n }

/-- A standing quotation with a budget, on partition 15 of core 0, and its watch. -/
def triggerS (now budget : Nat) (f : List Forming) (ts : List Trigger) : State :=
  { State.reset with
      tick := now, nextId := 9, launches := [(0, { launch0 with qid := 1 })]
      quotes := [{ quote0 4 with cls := 2, cores := [(0, [15])], kernel := some { kernel0 with budget := budget, window := 100 } }]
      cores := [(0, { CoreSt.empty with triggers := ts, forming := f, watches := [(63, watch0)] })] }

def forming0 : Forming := { qid := 1, serial := 7, since := 0 }

theorem oldest {now budget : Nat} {f : List Forming} {ts : List Trigger} (h : 0 < now) :
    OldestTrigger (triggerS now budget f (trigger0 0 :: ts)) 0 (trigger0 0) :=
  ⟨rfl, h, [], ts, rfl, fun _ m => by cases m⟩

/-- A trigger that joins, that begins a gang, that finds the budget spent; a gang one clock before its time and at it. -/
theorem witness_TriggersJoin :
    (∀ f ∈ [[], [forming0]], ∀ budget ∈ [0, 1], let s := triggerS 1 budget f [trigger0 0]
      OldestTrigger s 0 (trigger0 0) ∧ (∃ q, s.quotes.find? (fun y => y.id = 1) = some q ∧ (q.kernel.map (·.budget)).getD 0 = budget) ∧
        (s.core 0).forming = f ∧ s.waitingGangs 0 1 + ((s.core 0).left.filter fun d => d = (1, s.tick)).length < 16 ∧ (∀ y ∈ (s.core 0).triggers, y.gang ≠ some s.nextId) ∧
        (s.core 0).triggers.count (trigger0 0) = 1 ∧ (s.core 0).watches.find? (fun e => e.2.serial = 5) = some (63, watch0) ∧
        afind 63 (s.core 0).watches = some watch0 ∧ watch0.state = 1) ∧
    ∀ now ∈ [2199, 2200], let s := triggerS now 1 [forming0] [{ trigger0 0 with gang := some 7 }]
      (s.core 0).forming.find? (fun y => y.qid = 1) = some forming0 ∧
        (∃ n l, s.launches.find? (fun e => e.2.qid = 1) = some (n, l)) ∧
        ∃ q, s.quotes.find? (fun y => y.id = 1) = some q ∧ afind 0 q.cores = some [15] := by
  constructor
  · intro f hf b hb
    simp only [List.mem_cons, List.not_mem_nil, or_false] at hf hb
    rcases hf with rfl | rfl <;> rcases hb with rfl | rfl <;>
      exact ⟨oldest (by decide), ⟨_, rfl, rfl⟩, rfl, by decide +kernel, by decide +kernel, by decide +kernel, by decide +kernel, by decide +kernel, rfl⟩
  · intro now h
    simp only [List.mem_cons, List.not_mem_nil, or_false] at h
    rcases h with rfl | rfl <;> exact ⟨by decide +kernel, ⟨_, _, rfl⟩, _, rfl, by decide +kernel⟩

def record0 (c : Option Nat) : Record :=
  { kind := 1, cause := 0x0A, asid := 0, core := 0, stval := 0, info := 0, qid := 0, part := 0, slot := 0, sd := 0, pc := 0, claimed := c }

/-- The fault queue, a vector on its way, a record to post. -/
def recordS (mem : List Host.Cell) (c : Option Nat) : State :=
  { State.reset with
      mem := mem, dev := { State.reset.dev with sfqb := 0x300000, msis := [(7, 255, 0)], records := [record0 c] } }

/-- Saddle core 0 at an address whose line it does not hold, and at one of its line. -/
def lineS (pc : W64) : State :=
  let s := saddleS fun c => { c with pc := pc }
  s.setCore 200 { (s.core 200) with tlb := [placedPage], icache := [(0, List.replicate 64 0)] }

/-- A record not yet claimed, one whose slot is free, one whose slot is taken, one that waits for room; a line to fill and
none; a halt request; a binding at 2,200 clk and after it. -/
theorem witness_RecordsAndRequests :
    ((recordS [] none).dev.msis[0]? = some (7, 255, 0)) ∧
    (∀ c ∈ [none, some 7, some 8], ∀ valid ∈ [0, 1, 2], let s := recordS (faultMem 0 7 valid 0) c
      s.dev.records = record0 c :: [] ∧ s.dev.sfqb ≠ 0 ∧ Memory.wf s.mem = true ∧ readLE s.mem 0x300000 8 + 1 < 2 ^ 64 ∧
        0 < readLE s.mem 0x300010 4 ∧ 0x300040 + 64 ≤ s.dev.memBytes ∧ (readByte s.mem 0x300040 = 1 ↔ valid = 1)) ∧
    (agentKind (.saddle 0) ≠ .lane ∧ (lineS 4092).missingLine (.saddle 0) = some (.dev 4092) ∧ (lineS 56).missingLine (.saddle 0) = none ∧
      4092 / 64 * 64 + 64 ≤ (lineS 4092).dev.memBytes) ∧
    (let x : Gang := { condOf .u id with debug := true }
     afind 0 (paged (withGang x)).gangs = some x ∧ x.cond.fault = none ∧ x.cond.sstat.getLsbD 2 = false ∧ x.cond.st ≠ .held ∧
       (paged (withGang x)).stopping 0 = false ∧ (paged (withGang x)).dev.ctvb &&& 0xFFFFFFFFFFFFF000 ≠ 0) ∧
    ∀ now ∈ [2200, 2201],
      let s := { withGang { condOf .u id with stubs := [(3, 0)] } with tick := now, launches := [(0, launchM)], quotes := [quote0 4] }
      ((∀ e ∈ (s.gang 0).stubs, s.tick ≤ e.2 + 2200) ↔ now = 2200) ∧ (3, 0) ∈ (s.gang 0).stubs ∧
        ∃ l q, afind (s.gang 0).launch s.launches = some l ∧ s.quotes.find? (fun y => y.id = l.qid) = some q ∧ q.party = 0 := by
  refine ⟨rfl, ?_, by decide +kernel, by decide +kernel, ?_⟩
  · intro c hc v hv
    simp only [List.mem_cons, List.not_mem_nil, or_false] at hc hv
    rcases hc with rfl | rfl | rfl <;> rcases hv with rfl | rfl | rfl <;>
      exact ⟨rfl, by decide, by decide +kernel, by decide +kernel, by decide +kernel, by decide +kernel, by decide +kernel⟩
  · intro now h
    simp only [List.mem_cons, List.not_mem_nil, or_false] at h
    rcases h with rfl | rfl <;> exact ⟨by decide +kernel, by decide +kernel, _, _, rfl, rfl, rfl⟩

def devS (now : Nat) (f : Dev → Dev) : State := { State.reset with tick := now, dev := f State.reset.dev }

/-- A busy engine before and at its end, and a free one; core 0 waits for a switch and the others idle; the last clock of
the window and its end; the watchdog at its limit and before it, in normal service. -/
theorem witness_FirmwareRuns :
    (∃ x, afind 0 (withGang (gang2 id)).gangs = some x) ∧ (State.reset.dev.sec.stat.getLsbD 0 = false) ∧
    (∀ cmd ∈ [1, 2, 3, 4, 5, 6], ∀ now ∈ [99, 100],
      let s := devS now fun d => { d with sec := { d.sec with stat := 1, cmd := cmd, until_ := 100, dig := List.replicate 64 0, measure := Vector.replicate 16 (List.replicate 64 0) } }
      s.dev.sec.stat.getLsbD 0 = true ∧ (s.dev.sec.until_ ≤ s.tick ↔ now = 100) ∧ s.dev.sec.sponge.out = false ∧
        (s.dev.sec.measure.getD s.dev.sec.fmeas.toNat []).length = 64 ∧ s.dev.sec.dig.length = 64) ∧
    (let wait (k : WaitKind) : Option Wait := some { kind := k, since := 0, deadline := 0 }
     let s := { State.reset with saddles := (List.range 12).map fun k => (k, { Ctx.empty .f .live with wait := wait (if k = 11 then .slot 1 else .idle) }) }
     (s.ctx (.saddle 11)).wait.map Wait.kind = some (.slot 1) ∧
       ∀ k, k < 12 → k ≠ 11 → (s.ctx (.saddle k)).wait.map Wait.kind = some .idle) ∧
    (∀ now ∈ [99, 100], let s := devS now fun d => { d with windowEnd := some 100, fslot := 8 }
      s.dev.windowEnd = some 100 ∧ s.dev.fslot.getLsbD 3 = true ∧ (100 ≤ s.tick ↔ now = 100)) ∧
    (∀ now ∈ [99, 100], let s := devS now fun d => { d with fwdt := 100, fslot := 0 }
      s.dev.fwdt ≠ 0 ∧ s.dev.fslot.extractLsb' 5 2 = 0 ∧ s.dev.fslot.getLsbD 3 = false ∧
        (s.dev.watchdog + s.dev.fwdt.toNat ≤ s.tick ↔ now = 100) ∧ ∀ q ∈ s.quotes, q.state ≠ 4) ∧
    (let s := { devS 100 (fun d => { d with fwdt := 100, fslot := 0 }) with quotes := [quote0 4] }
     s.quotes.filter (fun x => decide (x.state = 4)) = [quote0 4] ∧ s.quotes.find? (fun x => x.id = (quote0 4).id) = some (quote0 4)) := by
  refine ⟨⟨_, rfl⟩, by decide, ?_, by decide +kernel, ?_, ?_, by decide +kernel, by decide +kernel⟩
  · intro cmd hc now hn
    simp only [List.mem_cons, List.not_mem_nil, or_false] at hc hn
    rcases hc with rfl | rfl | rfl | rfl | rfl | rfl <;> rcases hn with rfl | rfl <;>
      exact ⟨by decide +kernel, by decide +kernel, by decide +kernel, by decide +kernel, by decide +kernel⟩
  · intro now h
    simp only [List.mem_cons, List.not_mem_nil, or_false] at h
    rcases h with rfl | rfl <;> exact ⟨rfl, by decide +kernel, by decide +kernel⟩
  · intro now h
    simp only [List.mem_cons, List.not_mem_nil, or_false] at h
    rcases h with rfl | rfl <;>
      exact ⟨by decide +kernel, by decide +kernel, by decide +kernel, by decide +kernel, fun q m => by cases m⟩

/-- Each boot stage; images that have failed at this boot and not; temperatures at each limit; the envelope at its ends and off a step. -/
theorem witness_DeviceStarts :
    (∀ n ∈ [0, 1, 2, 3, 4, 5, 6, 7], let s := devS 0 fun d => { d with booted := n }
      s.dev.booted = n ∧ Memory.wf s.mem = true ∧ 4096 ≤ s.dev.qdir ∧ s.dev.frozen = false ∧ s.dev.box.length < 4095 ∧ s.dev.bootFails < 2) ∧
    (let s := devS 0 fun d => { d with booted := 2, bootFails := 2 }
     s.dev.booted = 2 ∧ 2 ≤ s.dev.bootFails) ∧
    (104 < (105 : BitVec 16).toNat ∧ (104 : BitVec 16).toNat < 105 ∧ State.reset.dev.hot = false ∧ (94 : BitVec 16).toNat < 95 ∧
      95 ≤ (95 : BitVec 16).toNat ∧ (114 : BitVec 16).toNat < 115 ∧ 115 ≤ (115 : BitVec 16).toNat) ∧
    900 % 25 = 0 ∧ 1500 % 25 = 0 ∧ 901 % 25 ≠ 0 ∧ 875 < 900 ∧ 1500 < 1525 := by
  refine ⟨?_, by decide, by decide, by decide⟩
  intro n h
  simp only [List.mem_cons, List.not_mem_nil, or_false] at h
  rcases h with rfl | rfl | rfl | rfl | rfl | rfl | rfl | rfl <;>
    exact ⟨rfl, by decide, by decide +kernel, by decide +kernel, by decide +kernel, by decide +kernel⟩

/-- Device memory past the information block writes plainly while nothing is bound. -/
theorem plainPage {s : State} {pa n : Nat} (h : pa + n ≤ s.dev.memBytes) (k : 4096 ≤ pa) (q : s.quotes = []) : Writable s (.dev pa) n :=
  ⟨h, Or.inl k, fun _ m => by rw [q] at m; cases m⟩

/-- One byte at the first place past the information block and eight at the end of memory; the ends of BAR 0; a device that
boot has halted; each host atomic; a launch within its allowance and one clock beyond it. -/
theorem witness_OutsideReaches :
    (∀ e ∈ [(4096, 1), (State.reset.dev.memBytes - 8, 8)],
      1 ≤ e.2 ∧ e.2 ≤ 8 ∧ Memory.wf State.reset.mem = true ∧ Writable State.reset (.dev e.1) e.2 ∧ e.1 < 2 ^ 38 ∧
        State.reset.dev.dark = false ∧ e.1 % 8 = 0) ∧
    (∀ e ∈ [(2 ^ 38, 8), (2 ^ 38 + 65528, 8)], 2 ^ 38 ≤ e.1 ∧ e.1 + e.2 ≤ 2 ^ 38 + 65536) ∧
    (devS 0 fun d => { d with booted := 2, bootFails := 2 }).dev.dark = true ∧
    (∀ op ∈ [Aop.add, .exch, .cas], op ∈ [Aop.add, .exch, .cas] ∧ Writable State.reset (.dev 4096) (aSizeBytes .w64)) ∧
    ∀ clk ∈ [10, 11, 64, 65], ∀ core ∈ [191, 192], let s := { State.reset with launches := [(0, launchM)], quotes := [{ quote0 4 with retry := 10 }] }
      ∃ l q, afind 0 s.launches = some l ∧ s.quotes.find? (fun x => x.id = l.qid) = some q ∧ clk ≠ 0 ∧ q.party = 0 ∧
        (l.retries + clk ≤ q.retry ↔ clk = 10) ∧ (core < 192 ↔ core = 191) := by
  refine ⟨?_, by decide, by decide +kernel, fun op h => ⟨h, plainPage (by decide +kernel) (by decide) rfl⟩, ?_⟩
  · intro e h
    simp only [List.mem_cons, List.not_mem_nil, or_false] at h
    rcases h with rfl | rfl <;>
      exact ⟨by decide, by decide, by decide, plainPage (by decide +kernel) (by decide +kernel) rfl, by decide +kernel, by decide +kernel, by decide +kernel⟩
  · intro clk h core k
    simp only [List.mem_cons, List.not_mem_nil, or_false] at h k
    rcases h with rfl | rfl | rfl | rfl <;> rcases k with rfl | rfl <;>
      exact ⟨_, _, rfl, rfl, by decide, rfl, by decide, by decide⟩
/-! ## Packets, quotations, launches -/

/-- Fields of a little-endian block, at an address: offset, value, bytes. -/
def fields (m : List Host.Cell) (base : Nat) (es : List (Nat × Nat × Nat)) : List Host.Cell :=
  es.foldl (fun m e => writeLE m (base + e.1) e.2.2 e.2.1) m

/-- Queue 4,095 with one packet at its read index, and the quotations given. -/
def packetS (es : List (Nat × Nat × Nat)) (qs : List Quote) : State :=
  let s := paged State.reset
  { s with
      mem := fields (queueMem 1 16 0 1) 0x200000 es
      quotes := qs, nextQid := 9, pins := [(0, 2 ^ 36, false)]
      dev := { s.dev with qdir := 0x100000, mapped := [4095] } }

/-- The packet as it is read. -/
def packetOf (s : State) : Packet :=
  { queue := 4095, index := 0, kind := (readByte s.mem 0x200000).toNat, bytes := readBytes s.mem 0x200000 64, done := 0, stopped := false }

theorem starts {s : State} {kind : Nat} {p : Packet} (h : s.slot 4095 = .packet p) (k : p.kind = kind) (a : p.headOk = true)
    (b : p.bodyOk = true) : Starts s 4095 kind p := ⟨h, k, a, b⟩

/-- Where an address leads, as a test. -/
def leads (s : State) (asid va k : Nat) : Bool :=
  match walkTable s.mem (s.asidRoot asid) va with
  | some (p, l, _) => b64 p 6 && b64 p 7 && decide (leafLoc p (2 ^ levelShift l) va = .dev k)
  | none => false

theorem leadsTo {s : State} {asid va k : Nat} (h : leads s asid va k = true) : LeadsTo s asid va k := by
  unfold leads at h
  split at h
  · next e =>
    simp only [Bool.and_eq_true, decide_eq_true_eq] at h
    exact ⟨_, _, _, e, h.1.1, h.1.2, h.2⟩
  · cases h

/-- A started packet that completes at the last place of its queue; a queue with nothing, one whose slot cannot be read, and
one with a header fault, a body fault and an unknown kind. -/
theorem witness_PacketsComplete :
    (let s0 := packetS [(0, 6, 1)] []
     let p := packetOf s0
     let s := { s0 with dev := { s0.dev with packets := [p] } }
     s.packet? 4095 0 = some p ∧ p.signals = false ∧ s.dev.mapped.length < 1024 ∧ Memory.wf s.mem = true ∧
       LeadsTo s 0 (s.slotVa 4095 0 + 2) 0x200002 ∧ Reached s 0x200002 2 ∧ Reached s (s.dev.qdir + 64 * 4095) 64 ∧ readLE s.mem (s.dev.qdir + 64 * 4095 + 12) 2 = 0 ∧
       0x200002 ≥ s.dev.qdir + 64 * 4095 + 64 ∧ s.dev.events.length < 8192) ∧
    (State.reset.slot 4095 = .none) ∧
    (let s0 := packetS [] []
     let s := { s0 with dev := { s0.dev with satb := 0 } }
     s.slot 4095 = .unreadable ∧ Memory.wf s.mem = true ∧ Reached s (s.dev.qdir + 64 * 4095) 64 ∧ s.copyOpen 4095 = none) ∧
    ∀ e ∈ [[(0, 6, 1), (4, 1, 1)], [(0, 6, 1), (8, 8, 8)], [(0, 9, 1)], []], let s := packetS e []
      s.slot 4095 = .packet (packetOf s) ∧ ((packetOf s).headOk = false ∨ (packetOf s).bodyOk = false) ∧
        ((packetOf s).kind = 0 ∨ 8 < (packetOf s).kind ∨ (packetOf s).kind = 6) := by
  refine ⟨⟨by decide +kernel, by decide +kernel, by decide +kernel, by decide +kernel, leadsTo (by decide +kernel), ⟨by decide +kernel, by decide +kernel⟩,
    ⟨by decide +kernel, by decide +kernel⟩, by decide +kernel, by decide +kernel, by decide +kernel⟩, by decide +kernel,
    ⟨by decide +kernel, by decide +kernel, ⟨by decide +kernel, by decide +kernel⟩, by decide +kernel⟩, ?_⟩
  intro e h
  simp only [List.mem_cons, List.not_mem_nil, or_false] at h
  rcases h with rfl | rfl | rfl | rfl <;> exact ⟨by decide +kernel, by decide +kernel, by decide +kernel⟩

/-- QUOTE with a record that can be written and one that cannot; ACCEPT, DECLINE and LAUNCH of no quotation and of one in
states 0, 1, 3 and 5, with and without a page to pin and with ceilings below and at its bounds. -/
theorem witness_QuotePacketsRun :
    (∀ r ∈ [0x50000, 0x1000000000], let s := packetS [(0, 1, 1), (8, 0x60000, 8), (16, r, 8)] []
      Starts s 4095 1 (packetOf s) ∧ (s.quotes.filter fun x => x.state ≤ 4).length < 4096 ∧ (packetOf s).u 16 8 = r ∧
        (s.writableUnder 0 ((packetOf s).u 16 8) true = true ↔ r = 0x50000)) ∧
    (∀ kind ∈ [2, 3, 4], let s := packetS [(0, kind, 1), (8, 0x50000, 8)] []
      Starts s 4095 kind (packetOf s) ∧ ∀ x, ¬ Named s 0 ((s.readVa 0 ((packetOf s).u 8 8) 4).getD 0) x) ∧
    (∀ kind ∈ [2, 3], ∀ st ∈ [0, 1, 3, 5], ∀ pin ∈ [[], [(0, 64, false)]],
      let q := { quote0 st with kernel := some { kernel0 with resident := pin } }
      let s0 := packetS [(0, kind, 1), (8, 0x50000, 8)] [q]
      let s := { s0 with mem := writeLE s0.mem 0x50000 4 1 }
      Starts s 4095 kind (packetOf s) ∧ (s.readVa 0 ((packetOf s).u 8 8) 4).getD 0 = 1 ∧ Named s 0 1 q ∧ s.quote? 1 = some q ∧
        q.packets = [] ∧ ¬ Late s q ∧ vectorBase s.dev.ctvb ≠ 0 ∧ s.dev.satb ≠ 0 ∧
        ((∀ y ∈ (Kernel.pinSet { kernel0 with resident := pin }), s.isPinned 0 y = true) ↔ pin = [])) ∧
    ∀ st ∈ [0, 3], ∀ most ∈ [999, 1000], ∀ pending ∈ [none, some 0],
      let q := { quote0 st with pendingLaunch := pending }
      let s0 := packetS [(0, 4, 1), (8, 0x50000, 8), (24, most, 8), (32, 1000, 8)] [q]
      let s := { s0 with mem := writeLE s0.mem 0x50000 4 1 }
      Starts s 4095 4 (packetOf s) ∧ (s.readVa 0 ((packetOf s).u 8 8) 4).getD 0 = 1 ∧ Named s 0 1 q ∧ q.packets = [] ∧
        ¬ Late s q ∧ q.kernel = some kernel0 ∧ (((packetOf s).u 24 8 ≠ 0 ∧ (packetOf s).u 24 8 < q.tmax) ↔ most = 999) := by
  refine ⟨?_, ?_, ?_, ?_⟩
  · intro r h
    simp only [List.mem_cons, List.not_mem_nil, or_false] at h
    rcases h with rfl | rfl <;>
      exact ⟨starts (by decide +kernel) (by decide +kernel) (by decide +kernel) (by decide +kernel), by decide +kernel, by decide +kernel, by decide +kernel⟩
  · intro k h
    simp only [List.mem_cons, List.not_mem_nil, or_false] at h
    rcases h with rfl | rfl | rfl <;>
      exact ⟨starts (by decide +kernel) (by decide +kernel) (by decide +kernel) (by decide +kernel), noneNamed (by decide +kernel)⟩
  · intro k hk st hs pin hp
    simp only [List.mem_cons, List.not_mem_nil, or_false] at hk hs hp
    rcases hk with rfl | rfl <;> rcases hs with rfl | rfl | rfl | rfl <;> rcases hp with rfl | rfl <;>
      exact ⟨starts (by decide +kernel) (by decide +kernel) (by decide +kernel) (by decide +kernel), by decide +kernel, rfl, rfl, rfl,
        by unfold Late; decide +kernel, by decide +kernel, by decide +kernel, by decide +kernel⟩
  · intro st hs m hm p hp
    simp only [List.mem_cons, List.not_mem_nil, or_false] at hs hm hp
    rcases hs with rfl | rfl <;> rcases hm with rfl | rfl <;> rcases hp with rfl | rfl <;>
      exact ⟨starts (by decide +kernel) (by decide +kernel) (by decide +kernel) (by decide +kernel), by decide +kernel, rfl, rfl,
        by unfold Late; decide +kernel, rfl, by decide +kernel⟩

/-- A grant of the first 4,096 bytes of core 1 to ASID 0. -/
def grantMem (m : List Host.Cell) : List Host.Cell := fields m (sliceKey 1 grantBase) [(4, 4096, 4), (10, 7, 1)]

def grantedS (es : List (Nat × Nat × Nat)) : State :=
  let s := packetS es []
  { s with mem := grantMem s.mem }

/-- A copy of one granule to the end of a grant and from past it; a signal off by 8 and one that is there; a barrier of one
signal at 0 and at 1; a watch past the slice, and one of no quotation. -/
theorem witness_OtherPacketsRun :
    (∀ src ∈ [0x1000000, 0x1001000], let s := grantedS [(0, 5, 1), (8, src, 8), (16, 0x1000FC0, 8), (24, 64, 8), (32, 9, 4)]
      let p := packetOf s
      let w := (s.openPacket p).startPacket 4095 0
      Starts s 4095 5 p ∧ s.copyOpen 4095 = none ∧ w.copyOpen 4095 = some p ∧ w.slot 4095 = .none ∧ w.flawed = [] ∧
        p.u 32 4 = 9 ∧ 64 * p.done + 64 ≤ p.u 24 8 ∧ (w.basinOk .u 0 src 64 .load = true ↔ src = 0x1000000) ∧
        w.basinOk .u 0 0x1000FC0 64 .store = true ∧ Unwatched w 1 ∧ Memory.wf w.mem = true) ∧
    (∀ a ∈ [0x70000, 0x1000000000], let s := packetS [(0, 6, 1), (8, a, 8), (16, 5, 8)] []
      Starts s 4095 6 (packetOf s) ∧ (s.signalPlace 0 a = if a = 0x70000 then some 0x70000 else none) ∧
        readLE s.mem 0x70008 8 < 2 ^ 18 ∧ LeadsTo s 0 0x70000 0x70000 ∧ Writable s (.dev 0x70000) 8) ∧
    (∀ v ∈ [0, 1], let s0 := packetS [(0, 7, 1), (8, 2, 4), (16, 0x70000, 8)] []
      let s := { s0 with mem := writeLE s0.mem 0x70000 8 v }
      Starts s 4095 7 (packetOf s) ∧ (packetOf s).u 8 4 / 2 % 8 = 1 ∧ ((packetOf s).u 8 4).testBit 0 = false ∧
        s.readVa 0 0x70000 8 = some v) ∧
    ∀ off ∈ [0, 0xFF0000], let s := grantedS [(0, 8, 1), (8, 0x1000000 + off, 8), (16, 0x10000000040, 8), (24, 1, 8)]
      let b := (List.range 4).map fun k => n64 ((packetOf s).u (8 + 8 * k) 8)
      Starts s 4095 8 (packetOf s) ∧ ((s.armFault b .u 0).isNone = true ↔ off = 0) ∧
        s.armCode b 0 = .error (-3) := by
  refine ⟨?_, ?_, ?_, ?_⟩
  · intro src h
    simp only [List.mem_cons, List.not_mem_nil, or_false] at h
    rcases h with rfl | rfl <;>
      exact ⟨starts (by decide +kernel) (by decide +kernel) (by decide +kernel) (by decide +kernel), by decide +kernel, by decide +kernel, by decide +kernel,
        by decide +kernel, by decide +kernel, by decide +kernel, by decide +kernel, by decide +kernel, unwatched (by decide +kernel), by decide +kernel⟩
  · intro a h
    simp only [List.mem_cons, List.not_mem_nil, or_false] at h
    rcases h with rfl | rfl <;>
      exact ⟨starts (by decide +kernel) (by decide +kernel) (by decide +kernel) (by decide +kernel), by decide +kernel,
        by decide +kernel, leadsTo (by decide +kernel), plainPage (by decide +kernel) (by decide) rfl⟩
  · intro v h
    simp only [List.mem_cons, List.not_mem_nil, or_false] at h
    rcases h with rfl | rfl <;>
      exact ⟨starts (by decide +kernel) (by decide +kernel) (by decide +kernel) (by decide +kernel), by decide +kernel, by decide +kernel, by decide +kernel⟩
  · intro off h
    simp only [List.mem_cons, List.not_mem_nil, or_false] at h
    rcases h with rfl | rfl <;>
      exact ⟨starts (by decide +kernel) (by decide +kernel) (by decide +kernel) (by decide +kernel), by decide +kernel, by decide +kernel⟩

/-- A wake of queue 4,095 with an index of its size, one more, and one below its write index, for a valid and an invalid
queue. -/
theorem witness_PoolServes :
    (∀ f ∈ [(0 : BitVec 8), 0x20], let s := devS 0 fun d => { d with fslot := f }
      (s.dev.fslot.extractLsb' 5 2 = 0 ↔ f = 0) ∧ s.dev.dark = false) ∧
    (∀ idx ∈ [16, 17], ∀ flags ∈ [0, 1],
      let s0 := paged State.reset
      let s := { s0 with mem := queueMem flags 16 0 0, dev := { s0.dev with qdir := 0x100000, events := [eventOf 1 idx (some 4095)] } }
      s.dev.events = [eventOf 1 idx (some 4095)] ∧ afind (4095 % 256) s.dev.locks = none ∧ Memory.wf s.mem = true ∧
        Reached s (s.dev.qdir + 64 * 4095) 64 ∧
        (readLE s.mem (s.dev.qdir + 64 * 4095 + 14) 2).testBit 0 = decide (flags = 1) ∧
        (idx ≤ readLE s.mem (s.dev.qdir + 64 * 4095 + 32) 8 + max 1 (readLE s.mem (s.dev.qdir + 64 * 4095 + 8) 4) ↔ idx = 16) ∧
        readLE s.mem (s.dev.qdir + 64 * 4095 + 16) 8 < idx ∧ LeadsTo s 0 (s.slotVa 4095 0 + 2) 0x200002 ∧
        Reached s 0x200002 2 ∧ 0x200002 ≥ s.dev.qdir + 64 * 4095 + 64 ∧
        ({ s with mem := writeLE s.mem (s.dev.qdir + 64 * 4095 + 12) 2 1 } : State).place 1 (s.slotVa 4095 0 + 2) = none) ∧
    (∀ v ∈ [0, 1],
      let s0 := packetS [(0, 7, 1), (8, 2, 4), (16, 0x70000, 8)] []
      let s := { s0 with mem := writeLE (writeLE s0.mem 0x70000 8 v) (0x100000 + 64 * 4095 + 24) 8 1, dev := { s0.dev with events := [eventOf 2 0x70000 none], packets := [packetOf s0] } }
      s.dev.packets = [packetOf s0] ∧ (packetOf s0).kind = 7 ∧ 0x70000 ∈ (packetOf s0).barrierAddrs ∧
        s.signalPlace (s.qOwner (packetOf s0).queue) 0x70000 = some 0x70000 ∧ s.readVa (s.qOwner 4095) 0x70000 8 = some v ∧
        (packetOf s0).index < s.qRead 4095) ∧
    ∀ now ∈ [1099999, 1100000], let s := devS now id
      (s.dev.tickBase + (if s.dev.fwdt = 0 then 1100000 else (s.dev.fwdt.toNat + 3) / 4) ≤ s.tick ↔ now = 1100000) ∧
        s.dev.events.length < 8192 := by
  refine ⟨by decide, ?_, ?_, ?_⟩
  · intro i hi f hf
    simp only [List.mem_cons, List.not_mem_nil, or_false] at hi hf
    rcases hi with rfl | rfl <;> rcases hf with rfl | rfl <;>
      exact ⟨rfl, by decide +kernel, by decide +kernel, ⟨by decide +kernel, by decide +kernel⟩, by decide +kernel, by decide +kernel, by decide +kernel,
        leadsTo (by decide +kernel), ⟨by decide +kernel, by decide +kernel⟩, by decide +kernel, by decide +kernel⟩
  · intro v h
    simp only [List.mem_cons, List.not_mem_nil, or_false] at h
    rcases h with rfl | rfl <;>
      exact ⟨rfl, by decide +kernel, by decide +kernel, by decide +kernel, by decide +kernel, by decide +kernel⟩
  · intro now h
    simp only [List.mem_cons, List.not_mem_nil, or_false] at h
    rcases h with rfl | rfl <;> exact ⟨by decide +kernel, by decide +kernel⟩

/-- An object with one lane function of one `ret`, at 0x60000. -/
def objectMem : List Host.Cell :=
  fields pagedMem 0x60000
    [(0, 0x314B5753, 4), (4, 1, 2), (6, 2, 2), (8, 192, 8), (16, 5, 8), (24, 8, 1), (64, 128, 4), (68, 1, 4), (128, 0x7E100000, 4)]

def walkS (object : Nat) (walking : List (Nat × Nat)) : State :=
  let s := paged State.reset
  { s with mem := objectMem, quotes := [{ quote0 0 with object := object }], walkQueue := [1], walking := walking }

/-- An object that is valid and one whose magic is not there; four walks under way; a walk that ends, cached and not, on a
cool die and a hot one. -/
theorem witness_WalksRun :
    4 ≤ (walkS 0x60000 (List.replicate 4 (9, 0))).walking.length ∧
    ∀ object ∈ [0x60000, 0x60040], let s := walkS object [(1, 5)]
      s.walkQueue = 1 :: [] ∧ s.walking.length < 4 ∧ (∃ q, s.quote? 1 = some q ∧ q.packets = [] ∧ q.state = 0 ∧ q.auto = false ∧ q.diag = 0 ∧
        (isOk (s.examine q) = true ↔ object = 0x60000) ∧ s.cachedWalk q = none) ∧ (∃ w ∈ s.walking, w.1 = 1) ∧
      let q := { quote0 0 with object := object }
      let w : Walk := { object := object, asid := 0, shape := q.shape, bytes := (s.objectSeen q).1, whole := (s.objectSeen q).2
                        found := { diag := 0, tmax := 7, emax := 9, retry := 0, kernel := none, device := false, mesh := false } }
      let u := { s with walks := [w], dev := { s.dev with hot := true } }
      u.quote? 1 = some q ∧ u.cachedWalk q = some w ∧ u.dev.hot = true := by
  refine ⟨by decide, ?_⟩
  intro o h
  simp only [List.mem_cons, List.not_mem_nil, or_false] at h
  rcases h with rfl | rfl <;>
    exact ⟨rfl, by decide, ⟨_, rfl, rfl, rfl, rfl, rfl, by decide +kernel, by decide +kernel⟩, ⟨(1, 5), List.mem_singleton.mpr rfl, rfl⟩,
      by decide +kernel, by decide +kernel, rfl⟩

/-- A quotation in states 1, 2 and 3 one clock before its deadline and at it, with pages that can be pinned. -/
theorem witness_BindingsEnd :
    ∀ st ∈ [1, 2, 3], ∀ now ∈ [99, 100],
      let q := { quote0 st with kernel := some { kernel0 with object := 0x60000 } }
      let s := { paged State.reset with tick := now, quotes := [q] }
      s.quote? 1 = some q ∧ q.packets = [] ∧ q.state = st ∧ (Late s q ↔ now = 100) ∧ q.cls ≤ 1 ∧
        ∀ p ∈ (Kernel.pinSet { kernel0 with object := 0x60000 }), s.isPinned q.asid p = true ∨ s.pinnable q.asid p = true := by
  intro st hs now hn
  simp only [List.mem_cons, List.not_mem_nil, or_false] at hs hn
  rcases hs with rfl | rfl | rfl <;> rcases hn with rfl | rfl <;>
    exact ⟨rfl, rfl, rfl, by unfold Late; decide, by decide, by decide +kernel⟩

/-- A block slot on partition 15 of core 191. -/
def slot0 : BlockSlot := { cores := [(191, [15])], bases := [(191, 4096)], block := none, last := none }

theorem witness_LaunchesStart :
    let q := { quote0 3 with pendingLaunch := some 5, packets := [(4095, 0, 4)], cores := [(191, [15])], slots := [slot0] }
    let s := { packetS [] [q] with tick := 99 }
    s.quote? 1 = some q ∧ q.state = 3 ∧ s.tick < q.deadline ∧ q.pendingLaunch = some 5 ∧ q.kernel = some kernel0 ∧
      q.packets = [(4095, 0, 4)] ∧ s.mayStart 4095 = true ∧ s.partsClear q.cores = true ∧ afind s.nextLaunch s.launches = none ∧
      kernel0.watch = false ∧ q.shape.neighbour = false ∧ ∀ b ∈ q.slots, b.block = none := by
  refine ⟨rfl, rfl, by decide, rfl, rfl, rfl, by decide +kernel, by decide +kernel, by decide +kernel, by decide, rfl, by decide⟩

/-- A block of two gangs, whose kernel declares both queues, beside a gang that stands. -/
theorem witness_BlocksStartWide :
    let l : Launch := { launch0 with shape := { ext := [32, 2, 1, 1, 1, 1], elastic := false, neighbour := false }
                                     kernel := { kernel0 with dqDecl := 16, uqDecl := 16 }, started := 0
                                     slots := [{ slot0 with cores := [(191, [14, 15])] }] }
    let s := { withGang (gang2 id) with launches := [(0, l)] }
    afind 0 s.launches = some l ∧ l.phase = .running ∧ l.kernel.watch = false ∧ l.shape.neighbour = false ∧ l.started < l.shape.blocks ∧
      l.slots[0]? = some { slot0 with cores := [(191, [14, 15])] } ∧ slot0.block = none ∧ (afind 0 s.gangs).isSome = true ∧
      afind (gangKey 191 14 0) s.gangs = none ∧
      ∃ t, exec (.blockStart 0) s = .next t ∧ (afind (gangKey 191 14 0) t.gangs).isSome = true := by
  refine ⟨rfl, rfl, by decide, rfl, by decide, rfl, rfl, by decide +kernel, by decide +kernel, _, rfl, by decide +kernel⟩

/-- The last block of two, while the first runs in another slot; a block of 32 threads. -/
theorem witness_BlocksStart :
    let l : Launch := { launch0 with shape := { ext := [32, 1, 2, 1, 1, 1], elastic := false, neighbour := false }
                                     slots := [{ slot0 with block := some 0, cores := [(190, [15])] }, slot0] }
    let s := { State.reset with launches := [(0, l)] }
    afind 0 s.launches = some l ∧ l.phase = .running ∧ l.kernel.watch = false ∧ l.shape.neighbour = false ∧ l.started < l.shape.blocks ∧
      l.slots[1]? = some slot0 ∧ slot0.block = none ∧ (∀ v, v < 1 → ∀ y, l.slots[v]? = some y → y.block ≠ none) ∧
      slot0.cores = [(191, [15])] ∧ slot0.bases = [(191, 4096)] ∧ l.shape.extent 1 = 1 ∧ l.kernel.dqDecl = 0 ∧ l.kernel.uqDecl = 0 ∧
      s.freeSlots 191 15 = 0 :: List.range' 1 11 := by
  refine ⟨rfl, rfl, by decide, rfl, by decide, rfl, rfl, ?_, rfl, rfl, by decide, by decide, by decide, by decide +kernel⟩
  intro v h y e
  obtain rfl : v = 0 := by omega
  cases e
  simp

/-- A ready child of 32 threads in partition 15 with its last gang slot free. -/
theorem witness_TasksStart :
    let y : Task :=
      { launch := 0, origin := .spawned, laneEntry := some 0, condEntry := none, wid := 0, block := 0, index := 0, depth := 1, threads := 32
        regs := List.replicate 32 [5, 0], gregs := [5, 0], bar := none, gens := [], cgen := 0, serial := 0, after := [], readyAt := 0, wide := false }
    let l := { launch0 with kernel := { kernel0 with laneRegs := 32 } }
    let s := { State.reset with
                launches := [(0, l)]
                cores := [(191, { CoreSt.empty with parts := CoreSt.empty.parts.set 15 { Part.empty with tasks := [y] } })]
                gangs := (List.range 11).map fun k => (gangKey 191 15 k, gang2 id) }
    ((s.core 191).part 15).tasks = [y] ∧ y.origin = .spawned ∧ afind y.launch s.launches = some l ∧ l.phase = .running ∧
      l.kernel.dqDecl = 0 ∧ l.kernel.uqDecl = 0 ∧ s.freeSlots 191 15 = 11 :: [] ∧ 12 - (([] : List Nat).length + 1) < l.kernel.fit := by
  refine ⟨by decide +kernel, rfl, rfl, rfl, by decide, by decide, by decide +kernel, by decide +kernel⟩

/-- A launch with a gang, one with nothing left, at its bound and one clock beyond it, with a packet and without, and one that
has retired before its packet. -/
theorem witness_LaunchesRetire :
    (¬ NothingLeft { withGang (gang2 id) with launches := [(0, launchM)] } 0 launchM) ∧
    (∃ l, l = { launchM with phase := .retired, packet := some (4095, 0) } ∧ l.phase = .retired ∧ l.packet = some (4095, 0)) ∧
    ∀ packet ∈ [none, some (4095, 0)], ∀ now ∈ [1100, 1102], ∀ cls ∈ [0, 1],
      let l := { launchM with packet := packet, lost := if cls = 1 then 0 else 500 }
      let q := { quote0 4 with cls := cls }
      let s := { State.reset with tick := now, launches := [(0, l)], quotes := [q] }
      afind 0 s.launches = some l ∧ l.phase ≠ .retired ∧ NothingLeft s 0 l ∧ s.quote? l.qid = some q ∧ q.packets = [] ∧
        s.dev.memBytes ≤ 2 ^ 60 ∧
        (q.tmax + (if q.cls = 1 then clkToNs l.lost else 0) < ((s.tick - launchM.start) * 10 + 10) / 11 ↔ now = 1102) := by
  refine ⟨fun n => n.gangs (0, gang2 id) (List.mem_singleton.mpr rfl) rfl, ⟨_, rfl, rfl, rfl⟩, ?_⟩
  intro p hp now h cls hc
  simp only [List.mem_cons, List.not_mem_nil, or_false] at hp h hc
  rcases hp with rfl | rfl <;> rcases h with rfl | rfl <;> rcases hc with rfl | rfl <;>
    exact ⟨rfl, by decide, ⟨by decide, rfl, rfl, rfl, fun e m => (List.not_mem_nil m).elim, fun e m => (List.not_mem_nil m).elim⟩, rfl, rfl,
      by decide +kernel, by decide⟩

/-- Barrier 95 of core 191 owned by a launch with nothing left. -/
theorem witness_LaunchesRetireBarriers :
    let c : CoreSt := { CoreSt.empty with bars := [(95, { Bar.free with owner := some 0 })] }
    let s := { State.reset with tick := 1100, launches := [(0, launchM)], quotes := [quote0 4], cores := [(191, c)] }
    NothingLeft s 0 launchM ∧ s.quote? launchM.qid = some (quote0 4) ∧ (s.bar 191 95).owner = some 0 := by
  refine ⟨⟨by decide, rfl, rfl, rfl, fun e m => (List.not_mem_nil m).elim, ?_⟩, rfl, rfl⟩
  intro e m
  cases List.mem_singleton.mp m
  decide +kernel

/-- A launch that stops, with its gang running and at a point; one whose save has lasted one clock less than it takes and all
of it; one saved, with its partition free and not. -/
theorem witness_LaunchesPreempted :
    (∀ st ∈ [LaneSt.live, .exited], let l := { launch0 with phase := .stopping }
      let s := { withGang { gang2 (fun x => { x with st := st }) with cond := Ctx.empty .u .exited } with launches := [(0, l)] }
      afind 0 s.launches = some l ∧ l.phase = .stopping ∧ l.halt = 0 ∧ s.launchStopped 0 l = decide (st = .exited)) ∧
    (let l := { launch0 with phase := .stopping, gone := 1, halt := 1 }
     let s (now : Nat) := { withGang (gang2 id) with tick := now, launches := [(0, l)] }
     afind 0 (s 0).launches = some l ∧ l.halt ≠ 0 ∧ 0 < (s 0).saveClocks 0 l ∧
       ¬ l.halt + (s ((s 0).saveClocks 0 l - 1)).saveClocks 0 l ≤ (s ((s 0).saveClocks 0 l - 1)).tick + 1 ∧
       l.halt + (s ((s 0).saveClocks 0 l)).saveClocks 0 l ≤ (s ((s 0).saveClocks 0 l)).tick + 1) ∧
    (∀ busy ∈ [true, false],
      let l := { launch0 with phase := .saved, saved := [(0, gang2 id)], slots := [{ slot0 with cores := [(0, [0])], block := some 0 }] }
      let s := { State.reset with
                  launches := [(0, l)]
                  cores := [(0, { CoreSt.empty with parts := Vector.replicate 16 { Part.empty with qid := if busy then some 7 else none } })] }
      afind 0 s.launches = some l ∧ l.phase = .saved ∧ l.saved = [(0, gang2 id)] ∧ (s.newParts l).isNone = busy) := by
  refine ⟨?_, ?_, ?_⟩
  · intro st h
    simp only [List.mem_cons, List.not_mem_nil, or_false] at h
    rcases h with rfl | rfl <;> exact ⟨rfl, rfl, rfl, by decide +kernel⟩
  · intro l s
    have same (now : Nat) : (s now).saveClocks 0 l = (s 0).saveClocks 0 l := rfl
    have long : 64 ≤ (s 0).saveClocks 0 l :=
      Nat.le_trans (Nat.le_trans (Nat.le_add_right 64 _) (Nat.le_add_left _ 0)) (Nat.le_max_right 0 _)
    refine ⟨rfl, by decide, by omega, ?_, ?_⟩
    · rw [same]
      change ¬ 1 + (s 0).saveClocks 0 l ≤ (s 0).saveClocks 0 l - 1 + 1
      omega
    · rw [same]
      exact Nat.le_of_eq (Nat.add_comm 1 _)
  · intro b h
    simp only [List.mem_cons, List.not_mem_nil, or_false] at h
    rcases h with rfl | rfl <;> exact ⟨rfl, rfl, rfl, by decide +kernel⟩
/-! ## Steps, encodings, the invariant -/

/-- A word from its fields, the highest first: value and width. -/
def ofFields (fs : List (Nat × Nat)) : W32 := BitVec.ofNat 32 (fs.foldl (fun n f => n * 2 ^ f.2 + f.1) 0)

def isNext (o : Host.Outcome State Fault Refusal) : Bool :=
  match o with
  | .next _ => true
  | _ => false

/-- The state after an instruction. -/
def after (o : Host.Outcome State Fault Refusal) : State :=
  match o with
  | .next t => t
  | _ => State.reset

theorem nextOf {o : Host.Outcome State Fault Refusal} (h : isNext o = true) : o = .next (after o) := by
  cases o <;> first | rfl | cases h

def fetched : Fetch → W32
  | .word w => w
  | _ => 0

def isWord : Fetch → Bool
  | .word _ => true
  | _ => false

theorem wordOf {f : Fetch} (h : isWord f = true) : f = .word (fetched f) := by
  cases f <;> first | rfl | cases h

/-- A Saddle core whose next word is `sys.evqpop g4`; a Steppe thread whose next word is `sys.fqpop g5`, no vector pending; a conductor whose next word is `movw g3, #-5`; two lane threads whose
next words are `route rot 1` and `add`. -/
def saddleRun : State := State.reset.withFetchWord 32 0xF6504000
def steppeRun : State := State.reset.withFetchWord 32 (ofFields [(1, 1), (0x3B, 6), (3, 5), (5, 8), (0, 12)]).toNat
def condRun : State := State.reset.withFetchWord 32 0xC007FFFB
def laneRun : State := State.reset.withFetchWord 64 0x02C1E40466000402

theorem standsOne {s : State} {a : Agent} {i : Instr} (f : isWord (s.fetchWord a 0).2 = true)
    (t : twoWords (fetched (s.fetchWord a 0).2) = false) (d : decode (fetched (s.fetchWord a 0).2) 0 = .ok i) :
    Stands s (s.fetchWord a 0).1 a i :=
  ⟨_, Or.inl ⟨t, Prod.ext rfl (wordOf f), d⟩⟩

theorem witness_StepRunsDecodedInstruction :
    (saddleRun.agenda = .run (.saddle 0) :: [] ∧ agentKind (.saddle 0) = .saddle ∧
      (State.settle { saddleRun with agenda := [] } (.saddle 0)).ctxReady (.saddle 0) = true ∧
      ∃ v, Stands saddleRun v (.saddle 0) (.sysEvqpop (.g 4)) ∧ isNext (exec (.sysEvqpop (.g 4)) { v with issue := { Issue.idle with who := some (.saddle 0) } }) = true) ∧
    (steppeRun.agenda = .run (.steppe 0 0) :: [] ∧ (∀ core thr, Agent.steppe 0 0 = .steppe core thr →
        ({ steppeRun with agenda := [] } : State).vectorDue core thr = none) ∧
      (State.settle { steppeRun with agenda := [] } (.steppe 0 0)).ctxReady (.steppe 0 0) = true ∧
      ∃ v, Stands steppeRun v (.steppe 0 0) (.sysFqpop (.g 5))) ∧
    (∀ s ∈ [condRun, laneRun], s.agenda = .pick 0 0 :: [] ∧ ((s.core 0).part 0).picked ≠ s.tick + 1 ∧ (afind (gangKey 0 0 0) s.gangs).isSome ∧
      (∀ j, j < 12 → j ≠ 0 → (afind (gangKey 0 0 j) s.gangs).isNone = true) ∧ ((s.core 0).part 0).busyUntil ≤ s.tick) ∧
    (let s1 := picking { condRun with agenda := [] } 0 0
     s1.ctxReady (.cond 0) = true ∧ s1.laneGroups 0 = [] ∧ ∃ v, Stands condRun v (.cond 0) (.movw (.g 3) (-5))) ∧
    let s1 := picking { laneRun with agenda := [] } 0 0
    s1.ctxReady (.cond 0) = false ∧ s1.laneGroups 0 = [(0, 1)] ∧
      ∃ v, Stands laneRun v (.lane 0 0) (.route .none (.rot 1) false) := by
  refine ⟨⟨by decide +kernel, rfl, by decide +kernel, _, standsOne (by decide +kernel) (by decide +kernel) (by decide +kernel), by decide +kernel⟩,
    ⟨by decide +kernel, fun _ _ e => by cases e; decide +kernel, by decide +kernel, _, standsOne (by decide +kernel) (by decide +kernel) (by decide +kernel)⟩, ?_,
    ⟨by decide +kernel, by decide +kernel, _, standsOne (by decide +kernel) (by decide +kernel) (by decide +kernel)⟩,
    by decide +kernel, by decide +kernel, _, standsOne (by decide +kernel) (by decide +kernel) (by decide +kernel)⟩
  intro s h
  simp only [List.mem_cons, List.not_mem_nil, or_false] at h
  rcases h with rfl | rfl <;> exact ⟨by decide +kernel, by decide +kernel, by decide +kernel, by decide +kernel, by decide +kernel⟩

theorem witness_EncodeDecodeRoundTrip :
    wellFormed (.groupLoop (.g 191) 255 0xFFFFFFFF) = true ∧ encode (.groupLoop (.g 191) 255 0xFFFFFFFF) ≠ [] ∧
      wellFormed (.atom .w32 (.v 95) .vz .g { aop := .fadd, order := .acqrel, scope := .fab, promote := true, vb := 0x64, vc := 0 }) = true := by
  decide

/-- One word, and two. -/
theorem witness_WordsHaveOneMeaning :
    decode 0x66000402 0 = .ok (.route .none (.rot 1) false) ∧ twoWords 0x66000402 = false ∧
      decode 0xC2060000 7 = .ok (.lim (.g 3) 7) ∧ twoWords 0xC2060000 = true := by
  decide

theorem witness_SoundStateIsKept :
    Safety.Sound State.reset ∧ Safety.Sound condRun ∧ step condRun = .next (after (step condRun)) :=
  ⟨⟨by decide, List.Pairwise.nil, rfl⟩, ⟨by decide +kernel, List.pairwise_singleton _ _, by decide +kernel⟩, nextOf (by decide +kernel)⟩

/-! ## Words written out from the formats (R37–R58) -/

/-- Formats LA, LI, LW; the unary subops; `cvt`; blocks (R37–R41). -/
theorem decode_lane_arithmetic :
    decode (ofFields [(0, 1), (0x01, 6), (1, 3), (95, 7), (0x64, 7), (127, 7), (1, 1)]) 0 = .ok (.add .i16 (.v 95) .vz (.group 127)) ∧
    decode (ofFields [(0, 1), (0x1C, 6), (3, 3), (0x63, 7), (0x65, 7), (7, 7), (0, 1)]) 0 = .ok (.bswap .i64 (.vx 3) .tid) ∧
    decode (ofFields [(0, 1), (0x1D, 6), (2, 3), (3, 7), (4, 7), (0x80, 8)]) 0 = .ok (.addi .i32 (.v 3) (.v 4) (-128)) ∧
    decode (ofFields [(0, 1), (0x24, 6), (0, 3), (0x64, 7), (0x4000, 15)]) 0 = .ok (.movi .i8 .vz 0x4000) ∧
    decode (ofFields [(0, 1), (0x2F, 6), (5, 3), (1, 7), (2, 7), (14, 7), (0, 1)]) 0 = .ok (.fclass .bf16 (.v 1) (.v 2)) ∧
    decode (ofFields [(0, 1), (0x30, 6), (7, 3), (1, 7), (2, 7), (2, 3), (1, 1), (3, 2), (0, 1), (0, 1)]) 0 =
      .ok (.cvt .f8 (.v 1) (.v 2) .i32 true .rdn false) ∧
    decode 0x4F018104 0 = .ok (.fmul .f16 (.v 3) (.v 1) (.lane (.v 2))) ∧ decode 0x51840605 0 = .ok (.ffma .f32 (.v 8) (.v 6) (.group 2)) ∧
    decode 0x59810002 0 = .ok (.fclt .f32 (.v 2) (.v 0) (.lane (.v 1))) ∧ decode 0x6383040A 0 = .ok (.bfpk .f32 (.v 6) (.v 4) (.v 5)) ∧
    decode 0x6583860A 0 = .ok (.bfpu .f32 (.v 7) (.v 6) (.v 5)) := by
  decide

/-- Prefixes, as R146 and R147 write them out. -/
theorem decode_prefixes :
    decode 0x66000403 0 = .ok (.route .none (.rot 1) true) ∧ decode 0x66001402 0 = .ok (.route .none (.shup 1) false) ∧
      decode 0x66000804 0 = .ok (.route .none (.bcast 2) false) ∧ decode 0x66000C02 0 = .ok (.route .none (.bfly 1) false) ∧
      decode 0x66001012 0 = .ok (.route .none (.perm 9) false) ∧ decode 0x66C02C04 0 = .ok (.route (.bfly 1) (.bfly 2) false) ∧
      decode 0x68660000 0 = .ok (.accsrc 3 12 false false) ∧ decode 0x683FE000 0 = .ok (.accsrc 1 63 true true) := by
  decide

/-- Formats LM, LM ordered, the two words of `atom`, LB, LC and LS (R37, R40, R42–R44). -/
theorem decode_lane_memory_and_control :
    decode (ofFields [(0, 1), (0x35, 6), (7, 3), (94, 7), (0x65, 7), (4, 3), (16, 5)]) 0 = .ok (.ld .qw (.v 94) .tid .g (-16)) ∧
    decode (ofFields [(0, 1), (0x36, 6), (1, 3), (9, 7), (8, 7), (1, 3), (15, 5)]) 0 = .ok (.st .u16 (.v 9) (.v 8) .b 15) ∧
    decode (ofFields [(0, 1), (0x37, 6), (4, 3), (9, 7), (8, 7), (0, 3), (7, 3), (0, 2)]) 0 = .ok (.ldacq .s8 (.v 9) (.v 8) .d .fab) ∧
    decode (ofFields [(0, 1), (0x39, 6), (3, 3), (9, 7), (8, 7), (2, 3), (0, 5)])
        (ofFields [(10, 4), (3, 2), (5, 3), (1, 1), (6, 7), (7, 7), (0, 8)]) =
      .ok (.atom .w64 (.v 9) (.v 8) .s { aop := .cas, order := .acqrel, scope := .dev, promote := true, vb := 6, vc := 7 }) ∧
    decode (ofFields [(0, 1), (0x3C, 6), (1, 3), (0, 7), (0x61, 7), (0, 8)]) 0 = .ok (.qpush (.vx 1)) ∧
    decode 0x74110100 0 = .ok (.xset 1 8 4 0) ∧ decode 0x7610007F 0 = .ok (.xadd 1 (-1)) ∧
    decode (ofFields [(0, 1), (0x3D, 6), (1, 1), (0xFFFFFF, 24)]) 0 = .ok (.call (-1)) ∧
    decode (ofFields [(0, 1), (0x3E, 6), (1, 1), (5, 7), (0x10000, 17)]) 0 = .ok (.brnz (.v 5) 0x10000) ∧
    decode (ofFields [(0, 1), (0x3F, 6), (6, 5), (5, 7), (255, 8), (0, 5)]) 9 = .ok (.loop (.v 5) 255 9) ∧
    decode (ofFields [(0, 1), (0x3F, 6), (8, 5), (3, 2), (5, 7), (0x400, 11)]) 0 = .ok (.bbrz 3 (.v 5) (-1024)) ∧
    decode (ofFields [(0, 1), (0x3F, 6), (11, 5), (5, 7), (6, 7), (6, 3), (3, 2), (1, 1)]) 7 = .ok (.waita (.v 5) (.v 6) .sys .n true 7) ∧
    decode (ofFields [(0, 1), (0x3F, 6), (13, 5), (2, 2), (7, 3), (0, 15)]) 0 = .ok (.fence .rel .fab) ∧
    decode (ofFields [(0, 1), (0x3F, 6), (17, 5), (5, 7), (0, 1), (0x048, 12)]) 0 = .ok (.csrw (.v 5) 0x048) := by
  decide

/-- Formats GA, GI, GW, GL, GM, the two words of `atom`, GB, GBc and GS (R48–R52). -/
theorem decode_group_arithmetic_and_control :
    decode 0x8E0E1013 0 = .ok (.divu (.g 7) (.g 8) (.g 9) true) ∧ decode 0xB0060204 0 = .ok (.sel (.g 3) (.g 1) (.g 2)) ∧
    decode (ofFields [(1, 1), (0x19, 6), (191, 8), (0xC3, 8), (0x100, 9)]) 0 = .ok (.groupAddi (.g 191) .gtick (-256)) ∧
    decode (ofFields [(1, 1), (0x22, 6), (0xC0, 8), (0, 17)]) 0x12345678 = .ok (.limh .gz 0x12345678) ∧
    decode (ofFields [(1, 1), (0x23, 6), (1, 8), (0xC1, 8), (4, 3), (0x20, 6)]) 0 = .ok (.groupLd (.g 1) .gwid .g (-32)) ∧
    decode (ofFields [(1, 1), (0x26, 6), (0xC2, 8), (1, 8), (1, 3), (4, 3), (0, 3)]) 0 = .ok (.groupStrel .glive (.g 1) .b .nbr) ∧
    decode (ofFields [(1, 1), (0x27, 6), (1, 8), (2, 8), (3, 3), (2, 3), (0, 3)])
        (ofFields [(11, 4), (0, 2), (2, 3), (0, 1), (0, 7), (127, 7), (0, 8)]) =
      .ok (.groupAtom .w32 (.g 1) (.g 2) .n { aop := .incw, order := .rlx, scope := .cor, promote := false, vb := 0, vc := 127 }) ∧
    decode (ofFields [(1, 1), (0x28, 6), (0x1000000, 25)]) 0 = .ok (.b 0x1000000) ∧
    decode (ofFields [(1, 1), (0x2B, 6), (5, 8), (0x1FFFF, 17)]) 0 = .ok (.bnz (.g 5) (-1)) ∧
    decode (ofFields [(1, 1), (0x2C, 6), (3, 5), (5, 8), (1, 8), (0, 4)]) 1 = .ok (.groupLoop (.g 5) 1 1) ∧
    decode (ofFields [(1, 1), (0x2C, 6), (5, 5), (3, 2), (5, 8), (0x200, 10)]) 0 = .ok (.groupBbrz 3 (.g 5) (-512)) ∧
    decode (ofFields [(1, 1), (0x2C, 6), (8, 5), (1, 4), (2, 4), (3, 4), (4, 4), (0, 4)]) 0 = .ok (.groupWaitc 1 2 3 4) ∧
    decode (ofFields [(1, 1), (0x2C, 6), (9, 5), (127, 7), (5, 7), (0, 3), (2, 2), (0, 1)]) 8 = .ok (.groupWaita 127 5 .thr .s false 8) := by
  decide

/-- Queues, streams, engines, barriers, watches, shares, phases, quotations and system words (R48, R53–R58). -/
theorem decode_units :
    decode (ofFields [(1, 1), (0x2D, 6), (0, 5), (1, 1), (5, 8), (0, 11)]) 0 = .ok (.qcfg true (.g 5)) ∧
    decode (ofFields [(1, 1), (0x2E, 6), (3, 2), (5, 8), (0, 15)]) (ofFields [(0, 26), (1, 3), (3, 3)]) = .ok (.strm 3 5 3 .b) ∧
    decode 0xE0102800 0 = .ok (.mxq 8 (.g 20)) ∧ decode 0xE4102800 0 = .ok (.cpy 8 (.g 20)) ∧
    decode (ofFields [(1, 1), (0x31, 6), (2, 5), (17, 5), (0, 15)]) 0 = .ok (.mxctlTilewait 17) ∧
    decode (ofFields [(1, 1), (0x31, 6), (3, 5), (190, 8), (0, 12)]) 0 = .ok (.mxctlCtab 190) ∧
    decode (ofFields [(1, 1), (0x33, 6), (6, 5), (95, 7), (5, 8), (0, 5)]) 0 = .ok (.barStat 95 (.g 5)) ∧
    decode (ofFields [(1, 1), (0x34, 6), (0, 5), (5, 8), (6, 8), (0, 4)]) 0 = .ok (.watchArm (.g 5) 6) ∧
    decode (ofFields [(1, 1), (0x35, 6), (6, 8), (5, 8), (0, 9)]) 0 = .ok (.spawn 6 (.g 5)) ∧
    decode (ofFields [(1, 1), (0x36, 6), (2, 5), (5, 8), (6, 8), (0, 4)]) 0 = .ok (.shareQuery (.g 5) (.g 6)) ∧
    decode (ofFields [(1, 1), (0x37, 6), (2, 5), (5, 8), (0, 12)]) 77 = .ok (.phaseXfer 5 77) ∧
    decode (ofFields [(1, 1), (0x38, 6), (3, 5), (5, 8), (6, 8), (0, 4)]) 0 = .ok (.quoteActual (.g 5) (.g 6)) ∧
    decode (ofFields [(1, 1), (0x39, 6), (5, 8), (6, 8), (0, 9)]) 0 = .ok (.submit (.g 5) (.g 6)) ∧
    decode (ofFields [(1, 1), (0x3A, 6), (1, 5), (5, 8), (6, 8), (0, 4)]) 0 = .ok (.sigAdd (.g 5) (.g 6)) ∧
    decode (ofFields [(1, 1), (0x3B, 6), (0, 5), (5, 8), (6, 8), (1, 4)]) 0 = .ok (.sysTlbinv (.g 5) (.g 6) 1) ∧
    decode (ofFields [(1, 1), (0x3B, 6), (3, 5), (5, 8), (0, 12)]) 0 = .ok (.sysFqpop (.g 5)) := by
  decide

/-- Reserved and illegal encodings are refused by name: opcode 0, a type of another list, a selector past the last, a set
zero bit, subops past the last, a mask past m11, a reserved kind of a route spec, its parameter where there is none, and a
`perm` register past the last (R36, R38, R39, R41–R45, R50, R55). -/
theorem decode_refuses :
    decode 0 0 = .error .illegal ∧ decode 0x80000000 0 = .error .illegal ∧
    decode (ofFields [(0, 1), (0x01, 6), (4, 3), (0, 22)]) 0 = .error .operand ∧
    decode (ofFields [(0, 1), (0x01, 6), (0, 3), (0x66, 7), (0, 15)]) 0 = .error .operand ∧
    decode (ofFields [(0, 1), (0x01, 6), (0, 3), (0x65, 7), (0, 15)]) 0 = .error .operand ∧
    decode (ofFields [(0, 1), (0x1C, 6), (0, 3), (0, 14), (8, 7), (0, 1)]) 0 = .error .illegal ∧
    decode (ofFields [(0, 1), (0x1C, 6), (0, 3), (0, 14), (7, 7), (1, 1)]) 0 = .error .operand ∧
    decode (ofFields [(0, 1), (0x3F, 6), (3, 5), (12, 4), (0, 16)]) 0 = .error .operand ∧
    decode (ofFields [(0, 1), (0x3F, 6), (19, 5), (0, 20)]) 0 = .error .illegal ∧
    decode (ofFields [(1, 1), (0x33, 6), (1, 5), (96, 7), (0, 13)]) 0 = .error .operand ∧
    decode (ofFields [(1, 1), (0x3C, 6), (0, 25)]) 0 = .error .illegal ∧
    decode (ofFields [(0, 1), (0x33, 6), (0, 3), (1, 9), (0, 13)]) 0 = .error .operand ∧
    decode (ofFields [(0, 1), (0x33, 6), (4, 3), (96, 9), (0, 13)]) 0 = .error .operand ∧
    decode (ofFields [(0, 1), (0x33, 6), (0, 12), (7, 3), (0, 10)]) 0 = .error .operand := by
  decide

/-- An ill-formed term for each check of `wellFormed` and of the register counts (R36, R38–R46, R48–R58). -/
theorem smoke_wellFormed :
    wellFormed (.cvt .f16 (.v 0) (.v 0) .i8 true .frm true) = false ∧ wellFormed (.cvt .i8 (.v 0) (.v 0) .f16 true .frm true) = false ∧
    wellFormed (.cvt .f32 (.v 0) (.v 0) .f32 false .frm false) = false ∧ wellFormed (.accsrc 2 0 false true) = false ∧
    wellFormed (.ld .qw (.v 1) .vz .s 0) = false ∧ wellFormed (.st .qw (.v 1) .vz .s 0) = false ∧ wellFormed (.st .s32 (.v 0) .vz .s 0) = false ∧
    wellFormed (.ldacq .qw (.v 0) .vz .s .thr) = false ∧ wellFormed (.strel .s8 (.v 0) .vz .s .thr) = false ∧
    wellFormed (.atom .w64 (.v 0) .vz .s { aop := .fadd, order := .rlx, scope := .thr, promote := false, vb := 0, vc := 0 }) = false ∧
    wellFormed (.atom .w32 (.v 0) .vz .s { aop := .add, order := .acq, scope := .nbr, promote := true, vb := 0, vc := 0 }) = false ∧
    wellFormed (.groupAtom .w32 (.g 0) .gz .s { aop := .add, order := .rel, scope := .dev, promote := true, vb := 0, vc := 0 }) = false ∧
    wellFormed (.loop (.v 0) 0 1) = false ∧ wellFormed (.groupLoop (.g 0) 1 0) = false ∧ wellFormed (.bbr 0 0) = false ∧
    wellFormed (.groupBbrnz 0 (.g 0) 1) = false ∧ wellFormed (.waita (.v 0) (.v 0) .thr .s true 0) = false ∧
    wellFormed (.groupWaita 0 0 .thr .s true 0) = false ∧ wellFormed (.fence .zero .dev) = false ∧ wellFormed (.groupFence .zero .dev) = false ∧
    wellFormed (.sysTlbinv .gz .gz 3) = false ∧ wellFormed (.barStat 0 .gz) = false ∧ wellFormed (.quoteActual (.g 191) .gz) = false ∧
    fitsCounts 32 64 (.add .i8 (.v 31) (.v 32) (.lane (.v 0))) = false ∧ fitsCounts 32 64 (.add .i8 (.v 31) (.v 0) (.group 64)) = false ∧
    fitsCounts 32 64 (.ld .qw (.v 31) .vz .s 0) = false ∧ fitsCounts 32 64 (.route (.perm 32) .none false) = false ∧
    fitsCounts 96 64 (.groupAdd (.g 64) .gz .gz false) = false ∧ fitsCounts 96 64 (.strm 0 61 0 .s) = false ∧
    fitsCounts 96 64 (.groupWaita 64 0 .thr .s true 1) = false ∧ fitsCounts 96 64 (.barStat 0 (.g 63)) = false := by
  decide

/-! ## Worked examples of the manual, one step each -/

/-- What an instruction leaves in a register of thread `t`, its latency over. -/
def laneGets (i : Instr) (s : State) (t : Fin 32) (r : Nat) : W64 := (laneOf (after (exec i s)) 0 t).final r
def laneFlags (i : Instr) (s : State) (t : Fin 32) : BitVec 5 := ffls (laneOf (after (exec i s)) 0 t)
def condGets (i : Instr) (s : State) (r : Nat) : W64 := ((after (exec i s)).ctx (.cond 0)).final r

/-- Registers of one thread. -/
def regs (vs : List W64) (l : Lane) : Lane := { l with v := Vector.ofFn fun i : Fin 96 => vs.getD i.val 0 }

/-- Threads 0 to 3 live with their own registers, issuing together. -/
def four (vs : List (List W64)) : State :=
  { lanes { Gang.empty with lanes := Vector.ofFn fun t : Fin 32 => if t.val < 4 then regs (vs.getD t.val []) lane0 else Lane.empty } with
      issue := { Issue.idle with who := some (.lane 0 0), mask := 15 } }

/-- R162: saturation of bytes, both ways. -/
theorem test_addss : laneGets (.addss .i8 (.v 2) (.v 0) (.lane (.v 1))) (lane1 (gang2 (regs [0x807F05, 0xFF0103]))) 0 2 = 0x807F08 := by
  decide +kernel

/-- R159: each halfword wraps on its own. -/
theorem test_add_wraps : laneGets (.add .i16 (.v 2) (.v 0) (.lane (.v 1))) (lane1 (gang2 (regs [0xFFFF00017FFF, 0x000100020001]))) 0 2 = 0x00038000 := by
  decide +kernel

/-- The product of R167's example, its flags and its disabled elements. -/
theorem test_fmul :
    let s := lane1 (gang2 fun l => { regs [0, 0x00007C013C007BFF, 0x3C003C0000014000] l with emask := 3 })
    laneGets (.fmul .f16 (.v 3) (.v 1) (.lane (.v 2))) s 0 3 = 0x17C00 ∧ laneFlags (.fmul .f16 (.v 3) (.v 1) (.lane (.v 2))) s 0 = 5 := by
  decide +kernel

/-- R168: −0 and +0 compare equal; 1.0 is less than 2.0. -/
theorem test_fclt :
    laneGets (.fclt .f32 (.v 2) (.v 0) (.lane (.v 1))) (lane1 (gang2 (regs [0x3F80000080000000, 0x4000000000000000]))) 0 2 = 0xFFFFFFFF00000000 := by
  decide +kernel

/-- R171: 0.3 and 500.0 to E4M3; 3.0 × 10^9 to i32. -/
theorem test_cvt :
    laneGets (.cvt .f8 (.v 1) (.v 0) .f32 false .rne false) (lane1 (gang2 (regs [0x43FA00003E99999A]))) 0 1 = 0x7E2A ∧
      laneGets (.cvt .f8 (.v 1) (.v 0) .f32 false .rtz false) (lane1 (gang2 (regs [0x3E99999A]))) 0 1 = 0x29 ∧
      laneGets (.cvt .i32 (.v 1) (.v 0) .f32 false .rne true) (lane1 (gang2 (regs [0x4F32D05E]))) 0 1 = 0x7FFFFFFF := by
  decide +kernel

/-- R180's four threads, plain and in FP4 mode. -/
theorem test_bfpk :
    let s (fmt : W64) := four [[0, 0, 0, 0, 0xBF4000003F800000, fmt], [0, 0, 0, 0, 0x404000003F000000, fmt],
                               [0, 0, 0, 0, 0xBFA0000040200000, fmt], [0, 0, 0, 0, 0x3EC0000000000000, fmt]]
    let i : Instr := .bfpk .f32 (.v 6) (.v 4) (.v 5)
    ([0, 1, 2, 3].map fun t => laneGets i (s 4) t 6) = [0x81000000000000E2, 0x8100000000000061, 0x81000000000000E5, 0x8100000000000010] ∧
      ([0, 1, 2, 3].map fun t => laneFlags i (s 4) t) = [1, 0, 1, 1] ∧
      ([0, 1, 2, 3].map fun t => laneGets i (s 0x104) t 6) = [0x7E000000000000B4, 0x7E00000000000072, 0x7E000000000000C6, 0x7E00000000000020] := by
  decide +kernel

/-- R146's table: what the unit of a prefix and `add.i64 v3, vz, v2` gives the four threads. -/
theorem test_route :
    let s := four [[0, 0, 10, 0, 0, 0, 0, 0, 0, 3], [0, 0, 20, 0, 0, 0, 0, 0, 0, 2], [0, 0, 30, 0, 0, 0, 0, 0, 0, 1], [0, 0, 40]]
    let unit (r : RouteSpec) (own : Bool) : List W64 :=
      let p := { s with issue := { s.issue with words := 1, route := some (.none, r, own) } }
      [0, 1, 2, 3].map fun t => laneGets (.add .i64 (.v 3) .vz (.lane (.v 2))) p t 3
    unit (.rot 1) false = [20, 30, 40, 0] ∧ unit (.rot 1) true = [20, 30, 40, 40] ∧ unit (.shup 1) false = [0, 10, 20, 30] ∧
      unit (.bcast 2) false = [30, 30, 30, 30] ∧ unit (.bfly 1) false = [20, 10, 40, 30] ∧ unit (.perm 9) false = [40, 30, 20, 10] := by
  decide +kernel

/-- R173: division by zero, the division that overflows, and the same operands unsigned. -/
theorem test_div :
    condGets (.divs (.g 7) (.g 8) (.g 9) false) (condL .u [0, 0, 0, 0, 0, 0, 0, 0, 7, 0]) 7 = 0xFFFFFFFFFFFFFFFF ∧
      condGets (.rems (.g 7) (.g 8) (.g 9) false) (condL .u [0, 0, 0, 0, 0, 0, 0, 0, 7, 0]) 7 = 7 ∧
      condGets (.divs (.g 7) (.g 8) (.g 9) true) (condL .u [0, 0, 0, 0, 0, 0, 0, 0, 0x180000000, 0xFFFFFFFFFFFFFFFF]) 7 = 0xFFFFFFFF80000000 ∧
      condGets (.divu (.g 7) (.g 8) (.g 9) true) (condL .u [0, 0, 0, 0, 0, 0, 0, 0, 0x180000000, 0xFFFFFFFFFFFFFFFF]) 7 = 0 := by
  decide +kernel

/-- R173, R174: a sum of W = 1 is sign-extended; `sel`'s condition is its destination. -/
theorem test_group_alu :
    condGets (.groupAdd (.g 2) (.g 0) (.g 1) true) (condL .u [0x7FFFFFFF, 1]) 2 = 0xFFFFFFFF80000000 ∧
      condGets (.groupShrs (.g 2) (.g 0) (.g 1) false) (condL .u [0x8000000000000000, 0x47]) 2 = 0xFF00000000000000 ∧
      condGets (.movw (.g 3) (-5)) (condL .u []) 3 = 0xFFFFFFFFFFFFFFFB := by
  decide +kernel

/-- R142: `xadd` wraps cur modulo 128. -/
theorem test_xadd :
    let s := lane1 (gang2 fun l => { l with x := l.x.set 1 { base := 8, count := 4, cur := 0 } })
    let l := laneOf (after (exec (.xadd 1 (-1)) s)) 0 0
    l.x[1] = { base := 8, count := 4, cur := 0 } ∧ l.finalX 1 = { base := 8, count := 4, cur := 127 } := by
  decide +kernel

/-- R12, R212: a store's bytes lie with the least significant at the lowest address. -/
theorem test_store_performed :
    let t := after (exec (.storePerformed 7) (flightS 0x100 (.store 0x1122334455667788) none))
    readByte t.mem (sliceKey 0 0x100) = 0x88 ∧ readByte t.mem (sliceKey 0 0x107) = 0x11 ∧ t.flight = [] := by
  decide +kernel

/-- R244: `incw` at its bound goes to 0. -/
theorem test_atom_performed :
    let s := { flightS 0x100 (.atom .incw .w32 0 9) none with mem := writeLE [] (sliceKey 0 0x100) 4 9 }
    readLE (after (exec (.serviceGangStep (clusterOf 0)) s)).mem (sliceKey 0 0x100) 4 = 0 := by
  decide +kernel

/-- R276, R277: a conductor's fault goes to its vector, 64 bytes for each cause. -/
theorem test_trap_entry :
    let s := paged (withGang (condOf .u fun c => { c with fault := some (0x0A, 5) }))
    let c := ((after (exec (.trapEntry 0) s)).gang 0).cond
    c.pc = 0x40000 + 64 * 0x0A ∧ c.scause = 0x0A ∧ c.stval = 5 ∧ c.sepc = 0x80000000 ∧ c.level = .s := by
  decide +kernel

/-- The worked kernel of R87. -/
def walked : Prog :=
  let p := ({ base := 0, bytes := #[] } : Obj).prog
  { p with
      k := { p.k with laneEntry := some 0 }
      lanes := sectOf false 0 [0x48C00008, 0x48808000, 0x7E600020, 8, 0x3A808103, 0x7E200000] }

/-- R87: its lane path ends at clock 38 and takes 12 lane issues of 35 pJ. -/
theorem test_walk_worked :
    let p := walked.valid.price
      { line := 2236, gran := 4, q := 4, hn := 0, narrow := true, l0 := 4, parts := 1, copyExtra := 0, holdExtra := 0, streams := [], tileWork := [], sharedWork := 0 } 0
    p.lane = 38 ∧ p.pJ = 420 := by
  decide +kernel

end Sys2Proof.Tests
end

namespace Sys2Proof.Machine

/-! ## Combining what the parts of an operation keep -/

section
variable {s t u : State} {a : Agent} {g : Nat}

/-- The state that an operation answers beside another value. -/
theorem Keeps.fst {α : Type} {p : State × α} {x : α} (h : Keeps s p.1) (e : p = (t, x)) : Keeps s t := by
  rw [e] at h
  exact h

theorem Keeps.snd {α : Type} {p : α × State} {x : α} (h : Keeps s p.2) (e : p = (x, t)) : Keeps s t := by
  rw [e] at h
  exact h

/-- The last of several operations first: each says which state it began from. -/
theorem Keeps.after (k : Keeps t u) (h : Keeps s t) : Keeps s u := h.trans k

theorem Keeps.either {p : Prop} [Decidable p] (h : Keeps s t) (k : Keeps s u) : Keeps s (if p then t else u) :=
  .ite (fun _ => h) fun _ => k

theorem Keeps.either_fst {α : Type} {p : Prop} [Decidable p] {x y : State × α} (h : Keeps s x.1) (k : Keeps s y.1) :
    Keeps s (if p then x else y).1 := by
  split
  · exact h
  · exact k

theorem Keeps.dite {p : Prop} [Decidable p] {f : p → State} {k : ¬ p → State} (h : ∀ x, Keeps s (f x)) (j : ∀ x, Keeps s (k x)) :
    Keeps s (if x : p then f x else k x) := by
  split
  · exact h _
  · exact j _

/-- An operation that acts under a condition alone. -/
theorem Keeps.when {p : Prop} [Decidable p] (h : Keeps s t) : Keeps s (if p then t else s) := .either h (.refl s)

theorem Keeps.unless {p : Prop} [Decidable p] (h : Keeps s t) : Keeps s (if p then s else t) := .either (.refl s) h

theorem Keeps.fold {α : Type} {f : State → α → State} {l : List α} (h : ∀ s x, Keeps s (f s x)) : Keeps s (l.foldl f s) :=
  .foldl f h l s

theorem Keeps.fold_fst {α β : Type} {f : State × β → α → State × β} {l : List α} {b : β}
    (h : ∀ s b x, Keeps s (f (s, b) x).1) : Keeps s (l.foldl f (s, b)).1 := .foldl_fst f h l s b

/-- Gangs dropped from the table leave the others in their order. -/
theorem Keeps.filterGangs {p : Nat × Gang → Bool} : Keeps s { s with gangs := s.gangs.filter p } :=
  ⟨id, filter_inOrder p, rfl⟩

/-- So does a change of gangs in their places. -/
theorem Keeps.mapGangs {f : Nat × Gang → Nat × Gang} (e : ∀ p, (f p).1 = p.1) : Keeps s { s with gangs := s.gangs.map f } :=
  ⟨id, map_inOrder f e, rfl⟩

/-! ## Instruction fetch (R35, R117) -/

theorem Keeps.codeLoc {va : Nat} : Keeps s (s.codeLoc a va).1 := Keeps.translate s _ _ _ _ _ _

theorem Keeps.codeByte {va : Nat} : Keeps s (s.codeByte a va).1 := by
  have k : Keeps s (s.codeLoc a va).1 := .codeLoc
  unfold State.codeByte
  split
  · exact .refl s
  · exact k.fst ‹_›
  · simp only
    split
    · split <;> exact k.fst ‹_›
    · split <;> exact (k.fst ‹_›).trans (.setCore _ _ _)

theorem Keeps.imageWord {va : Nat} : Keeps s (s.imageWord a va).1 := by
  unfold State.imageWord
  extract_lets step
  have bytes : Keeps s ([0, 1, 2, 3].foldl step (s, .ok (some []))).1 := by
    refine .fold_fst fun s b k => ?_
    unfold step
    split
    next e =>
      cases e
      split <;> exact Keeps.fst .codeByte ‹_›
    next => exact .refl s
  split <;> exact bytes.fst ‹_›

theorem Keeps.fetchWord {n : Nat} : Keeps s (s.fetchWord a n).1 := by
  cases a with
  | lane g t => exact .refl s
  | cond g =>
    unfold State.fetchWord
    simp only
    split
    · exact .imageWord
    · exact .refl s
  | steppe c t => exact .imageWord
  | saddle c => exact .imageWord

theorem Keeps.fetch {n : Nat} : Keeps s (s.fetch a n).1 := by
  unfold State.fetch
  split
  · exact Keeps.fst .fetchWord ‹_›
  · exact Keeps.fst .fetchWord ‹_›
  · exact Keeps.fst .fetchWord ‹_›
  · rename_i w e
    have k := Keeps.fst .fetchWord e
    simp only
    split
    · split <;> exact k.trans (Keeps.fst .fetchWord ‹_›)
    · exact k

end

section
variable {s t : State} {a : Agent} {g core : Nat}

/-! ## Registers of the device (R78, R271, R302) -/

theorem Keeps.settleVoids : Keeps s s.settleVoids := by
  refine .trans (.of_eq ?_ ?_ ?_) (.fold fun s _ => .charge s _ _ _ _) <;> rfl

theorem Keeps.countError : Keeps s (s.countError core) := .setCore s _ _

theorem Keeps.groupEcc {v : W64} : Keeps s (s.groupEcc a v) :=
  (Keeps.uncorrectableAt s _ _ _).trans (.groupFaultOf _ _ _ _ _)

theorem Keeps.writeMask {k : Fin 12} {v : W64} : Keeps s (s.writeMask g k v) := .setGang s _ _

theorem Keeps.heartbeat : Keeps s (s.heartbeat core) := by
  unfold State.heartbeat
  exact .either (.of_eq rfl rfl rfl) (.setDev s _)

theorem Keeps.switchSlot {n : Nat} : Keeps s (s.switchSlot core n) :=
  (((Keeps.locksToZero s).trans (.setDev _ _)).trans (.log _ _ _ _ _ _ _)).trans (.resetPool _)

theorem Keeps.secStart {cmd : Nat} : Keeps s (s.secStart core cmd) := .unless (.setDev s _)

theorem Keeps.spongeFor : Keeps s s.spongeFor.1 := by
  unfold State.spongeFor
  simp only
  split
  · exact .of_eq rfl rfl rfl
  · exact .refl s

theorem Keeps.secDone : Keeps s s.secDone := by
  unfold State.secDone
  refine .unless ?_
  split
  case h_2 => exact ((Keeps.setDev s _).trans (.setDev _ _)).trans (.log _ _ _ _ _ _ _)
  case h_3 => exact (Keeps.setDev s _).trans (.log _ _ _ _ _ _ _)
  case h_5 => exact Keeps.spongeFor.trans (.setDev _ _)
  all_goals exact .setDev s _

theorem Keeps.writeSecData {v : W64} : Keeps s (s.writeSecData v) := .unless (.setDev s _)

/-! ## Accesses and fences (R212, R228, R248) -/

theorem Keeps.engineReach {x : Site} {sp : Space} {va z : Nat} {acc : Acc} : Keeps s (s.engineReach x sp va z acc).1 :=
  .reach s _ _ _ _ _ _ _ _ _

theorem Keeps.covers : Keeps s (s.covers a) := by
  unfold State.covers
  split
  · exact .refl s
  · exact .of_eq rfl rfl rfl

theorem Keeps.sync : Keeps s (s.sync a) := .of_eq rfl rfl rfl

theorem Keeps.fenced {k : FenceKind} {c : Scope} : Keeps s (s.fenced a k c) := by
  cases k with
  | acq => exact .acquired s _ _
  | acqrel => exact (Keeps.follow s _ _).trans (.acquired _ _ _)
  | rel => exact .follow s _ _
  | zero => exact .refl s

theorem Keeps.awaitG {id : Nat} {d : Dst} : Keeps s (s.awaitG a id d) := .setCtx s _ _

/-! ## Queues (R149–R155) -/

theorem Keeps.dqClaim {vals : List W64} {after : List Nat} {charge : Nat} : Keeps s (s.dqClaim g vals after charge) :=
  (Keeps.fold fun s _ => .storeSlice s _ _ _ _).trans (.setGang _ _ _)

theorem Keeps.uqPush {n : Nat} {v : W64} : Keeps s (s.uqPush g n v) :=
  ((Keeps.unless (.storeSlice s _ _ _ _)).trans (.setGang _ _ _)).trans .covers

theorem Keeps.uqPop : Keeps s (s.uqPop g).2.2 := by
  unfold State.uqPop
  simp only
  split
  · exact .refl s
  · exact .setGang s _ _

theorem Keeps.writeControl {up : Bool} : Keeps s (s.writeControl g up) :=
  ((((Keeps.pokeLE s _ _ _).trans (.pokeLE _ _ _ _)).trans (.pokeLE _ _ _ _)).trans (.pokeLE _ _ _ _)).trans (.pokeLE _ _ _ _)

/-! ## Calls of lane threads (R130, R131) -/

theorem Keeps.onLane {l : Fin 32} {f : Lane → Lane} : Keeps s (s.onLane g l f) := .setGang s _ _

theorem Keeps.lanePush {l : Nat} {f : Frame} : Keeps s (s.lanePush g l f) :=
  .either ((Keeps.storeBytes s _ _ _).trans (.setGang _ _ _)) (.setGang s _ _)

theorem Keeps.expireStubs : Keeps s (s.expireStubs g) := .unless ((Keeps.setGang s _ _).trans (.charge _ _ _ _ _))

theorem Keeps.spendSpills {m : W32} : Keeps s (s.spendSpills g m) := .when (.spendWork s _ _)

theorem Keeps.spendRefills {m : W32} : Keeps s (s.spendRefills g m) := .when (.spendWork s _ _)

theorem Keeps.laneCall {l : Fin 32} {at_ : W32} : Keeps s (s.laneCall g l at_) := by
  unfold State.laneCall
  exact Keeps.lanePush.trans .onLane

theorem Keeps.laneExit {l : Fin 32} : Keeps s (s.laneExit g l) := .setGang s _ _

theorem Keeps.lanePop {l : Fin 32} {go : Bool} : Keeps s (s.lanePop g l go) := .onLane

/-! ## Calls, registers and handlers of a context (R130, R131, R271, R280, R324) -/

theorem Keeps.spillPlace {at_ : W64} {acc : Acc} : Keeps s (s.spillPlace a at_ acc).1 := by
  unfold State.spillPlace
  simp only
  split
  · split <;> exact Keeps.fst (.checkAccess s _ _ _ _ _ _ _) ‹_›
  · split
    · split <;> exact .refl s
    · exact .refl s

theorem Keeps.spendSpill : Keeps s (s.spendSpill a) := .spendWork s _ _

theorem Keeps.groupCall {target : W64} : Keeps s (s.groupCall a target) := by
  unfold State.groupCall
  refine .either (.setCtx s _ _) ?_
  split
  · exact (Keeps.fst .spillPlace ‹_›).trans (.groupFaultOf _ _ _ _ _)
  · exact (((Keeps.fst .spillPlace ‹_›).trans .spendSpill).trans (.storeBytes _ _ _ _)).trans (.setCtx _ _ _)

theorem Keeps.dropBaton : Keeps s (s.dropBaton a) := by
  cases a with
  | cond g => exact .setCore s _ _
  | lane g t => exact .refl s
  | steppe c t => exact .refl s
  | saddle c => exact .refl s

theorem Keeps.exitCtx : Keeps s (s.exitCtx a) := (Keeps.setCtx s _ _).trans .dropBaton

theorem Keeps.groupExit {word : W64} : Keeps s (s.groupExit a word) := .either (.groupFault s _ _ _) .exitCtx

theorem Keeps.popTo {f : Frame} {st : List Frame} {tsp : W64} : Keeps s (s.popTo a f st tsp) := by
  unfold State.popTo
  simp only
  split
  · exact (Keeps.setCtx s _ _).trans (.groupFault _ _ _ _)
  · exact .setCtx s _ _

theorem Keeps.groupRet : Keeps s (s.groupRet a) := by
  unfold State.groupRet
  simp only
  split
  · exact .popTo
  · split
    · exact (Keeps.fst .spillPlace ‹_›).trans (.groupFaultOf _ _ _ _ _)
    · exact (((Keeps.fst .spillPlace ‹_›).trans (.loadBytes _ _ _)).trans .spendSpill).trans .popTo

theorem Keeps.writeCsr {n : Nat} {v : W64} : Keeps s (s.writeCsr a n v) := by
  unfold State.writeCsr
  simp only
  iterate 3 refine .either (.setCtx s _ _) ?_
  refine .dite (fun _ => ?_) fun _ => ?_
  · split
    · exact .writeMask
    · exact .refl s
  · iterate 8 refine .either (.setCtx s _ _) ?_
    iterate 6 refine .either (.setDev s _) ?_
    exact .either .secStart (.either .writeSecData (.when (.setDev s _)))

theorem Keeps.resumeLane {mode : Nat} {l : Fin 32} : Keeps s (s.resumeLane g mode l) := by
  unfold State.resumeLane
  simp only
  split <;> exact .setGang s _ _

theorem Keeps.resumeReported {mode : Nat} : Keeps s (s.resumeReported g mode) :=
  (((Keeps.when .spendRefills).trans (.fold fun _ _ => .resumeLane)).trans (.when (.post _ _))).trans (.setGang _ _ _)

theorem Keeps.eretCore {lanes : Bool} {word : W64} : Keeps s (s.eretCore g lanes word) := by
  unfold State.eretCore
  split
  · exact .groupFault s _ _ _
  · refine (Keeps.expireStubs (g := g)).trans (.either ?_ (.either ?_ ?_))
    · exact Keeps.resumeReported.trans (.setCtx _ _ _)
    · exact (Keeps.post _ _).trans (.setCtx _ _ _)
    · exact .setGang _ _ _

theorem Keeps.eretOwn : Keeps s (s.eretOwn a) := .setCtx s _ _

end

/-! ## What an instruction keeps -/

/-- An outcome keeps what `s` has: its next state does, where it answers one. -/
def KeepsOut (s : State) (o : Out) : Prop := ∀ t, o = .next t → Keeps s t

section
variable {s t : State} {i : Instr} {a : Agent} {g : Nat}

theorem KeepsOut.next (h : Keeps s t) : KeepsOut s (.next t) := fun _ e => by
  cases e
  exact h

/-- A move whose condition does not hold. -/
theorem KeepsOut.stay : KeepsOut s (.next s) := .next (.refl s)

theorem KeepsOut.trans {o : Out} (h : Keeps s t) (k : KeepsOut t o) : KeepsOut s o := fun u e => h.trans (k u e)

theorem KeepsOut.either {p : Prop} [Decidable p] {o q : Out} (h : KeepsOut s o) (k : KeepsOut s q) :
    KeepsOut s (if p then o else q) := by
  split
  · exact h
  · exact k

theorem KeepsOut.laneInstr {body : Nat → W32 → State → State} (b : ∀ g m s, Keeps s (body g m s)) :
    KeepsOut s (laneInstr i s body) := fun _ => laneInstr_keeps b

theorem KeepsOut.groupInstr {body : Agent → State → State} (b : ∀ a s, Keeps s (body a s)) :
    KeepsOut s (groupInstr i s body) := fun _ => groupInstr_keeps b

theorem KeepsOut.condInstr {body : Nat → State → State} (b : ∀ g s, Keeps s (body g s)) :
    KeepsOut s (condInstr i s body) := fun _ => condInstr_keeps b

theorem KeepsOut.laneAlu {w : Nat} {d : LDst} {a : Option LSrc} {b : Option LOpB} {n : Nat} {fp : Bool}
    {f : Lane → W64 → W64 → W64 → AluResult} : KeepsOut s (laneAlu i s w d a b n fp f) := fun _ => laneAlu_keeps

theorem KeepsOut.intImm {ty : IntTy} {d : LDst} {a : LSrc} {imm : BitVec 8} {op : ElementOp} :
    KeepsOut s (intImm i ty d a imm op s) := .laneAlu

theorem KeepsOut.groupWrite {words : Nat} {d : GDst} {n : Nat} {f : State → Agent → W64} :
    KeepsOut s (groupWrite i s words d n f) := fun _ => groupWrite_keeps

theorem KeepsOut.groupAlu {d : GDst} {x y : GSrc} {w : Bool} {n : Nat} {op : ElementOp} :
    KeepsOut s (groupAlu i s d x y w n op) := .groupWrite

theorem KeepsOut.groupImm {d : GDst} {x : GSrc} {v : W64} {op : ElementOp} : KeepsOut s (groupImm i s d x v op) := .groupWrite

/-! ## Lane instructions (R120–R136, R149–R155, R179–R181, R209–R212, R243–R249) -/

theorem KeepsOut.laneBlock {ty : FpTy} {d : LDst} {a b : LSrc}
    {f : Format → W32 → (Fin 32 → W64) → Fin 32 → Lane → W64 × BitVec 5} : KeepsOut s (laneBlock i s ty d a b f) := by
  refine .laneInstr fun g m s => ?_
  simp only
  split
  · exact .laneFaultBy s _ _ _ _
  · refine .either (.laneFault s _ _ _ _) ?_
    split
    · exact .laneFault s _ _ _ _
    · split
      · exact .laneFaultBy s _ _ _ _
      · exact .mapLanes s _ _ _

theorem KeepsOut.laneLoad {z : LSize} {d : LDst} {a : LSrc} {sp : Space} {off : Int} {acq : Bool} {c : Scope} :
    KeepsOut s (laneLoad i s z d a sp off acq c) := fun _ =>
  laneMemory_keeps fun s _ _ => ((Keeps.spendWork s _ _).trans
    (.fold fun s _ => (Keeps.issueAccess s _ _ _ _ _ _ _ _ _).trans (.setGang _ _ _))).trans (.joinBatch _ _)

theorem KeepsOut.laneStore {z : LSize} {v a : LSrc} {sp : Space} {off : Int} {rel : Bool} {c : Scope} :
    KeepsOut s (laneStore i s z v a sp off rel c) := fun _ =>
  laneMemory_keeps fun s _ _ => (Keeps.spendWork s _ _).trans
    (.fold_fst fun s _ _ => .issueAccess s _ _ _ _ _ _ _ _ _)

theorem KeepsOut.execAtom {z : ASize} {d : LDst} {a : LSrc} {sp : Space} {f : AtomFields} :
    KeepsOut s (execAtom z d a sp f s) := by
  unfold Machine.execAtom
  refine fun _ => laneMemory_keeps fun s _ _ => ?_
  refine (Keeps.spendWork s _ _).trans (.fold_fst fun s _ _ => ?_)
  exact (Keeps.issueAccess s _ _ _ _ _ _ _ _ _).trans (.setGang _ _ _)

theorem KeepsOut.execWaita {a : LSrc} {b : LDst} {c : Scope} {sp : WSpace} {eq : Bool} {timeout : W32} :
    KeepsOut s (execWaita a b c sp eq timeout s) := fun _ =>
  laneMemory_keeps fun _ _ _ => .fold fun s _ => .setGang s _ _

theorem KeepsOut.laneStep {words : Nat} {f : Nat → W32 → State → State} (b : ∀ g m s, Keeps s (f g m s)) :
    KeepsOut s (laneStep i s words f) := .laneInstr fun g m s => (b g m s).trans (.mapLanes _ _ _ _)

theorem KeepsOut.laneQueue {up : Bool} {chk : State → Nat → ReadEnv → Fin 32 → Lane → Option Trap}
    {go : State → Nat → Fin 32 → State} (b : ∀ s g t, Keeps s (go s g t)) : KeepsOut s (laneQueue i s up chk go) := by
  refine .laneInstr fun g m s => ?_
  simp only
  split
  · exact .laneFaultBy s _ _ _ _
  · exact .either (.laneFault s _ _ _ _) ((Keeps.fold fun s t => b s g t).trans (.mapLanes _ _ _ _))

theorem KeepsOut.laneEachWith {order : List Byte} {chk : ReadEnv → State → Nat → Fin 32 → Lane → Option Trap}
    {pre failed : State → Nat → W32 → State} {go : State → Nat → Fin 32 → State} (p : ∀ s g m, Keeps s (pre s g m))
    (q : ∀ s g m, Keeps s (failed s g m)) (b : ∀ s g t, Keeps s (go s g t)) :
    KeepsOut s (laneEachWith i s order chk pre failed go) := by
  refine .laneInstr fun g m s => ?_
  simp only
  split
  · exact (Keeps.when (q _ _ _)).trans (.laneFaultBy _ _ _ _ _)
  · exact (p _ _ _).trans (.fold fun s t => b s g t)

theorem KeepsOut.laneEach {order : List Byte} {chk : ReadEnv → State → Nat → Fin 32 → Lane → Option Trap}
    {go : State → Nat → Fin 32 → State} (b : ∀ s g t, Keeps s (go s g t)) : KeepsOut s (laneEach i s order chk go) :=
  .laneEachWith (fun s _ _ => .refl s) (fun s _ _ => .refl s) b

theorem KeepsOut.laneBranch {off : Int} {cond : ReadEnv → Fin 32 → Lane → Except Trap Bool} :
    KeepsOut s (laneBranch i s off cond) := .laneEach fun _ _ _ => .onLane

theorem KeepsOut.laneGuarded {k : Fin 4} {off : Int} {cond : ReadEnv → Fin 32 → Lane → Except Trap Bool} :
    KeepsOut s (laneGuarded i s k off cond) := .laneEach fun _ _ _ => .onLane

theorem KeepsOut.laneWrite {d : LDst} {bad : Option Trap} {v : State → Nat → Fin 32 → Lane → W64} :
    KeepsOut s (laneWrite i s d bad v) := .laneEach fun _ _ _ => .onLane

theorem KeepsOut.laneMask {k : Fin 12} {f : W32 → W32 → W32} {park : Bool} : KeepsOut s (laneMask i s k f park) :=
  .laneInstr fun _ _ s => .setGang s _ _

theorem KeepsOut.execQpop {d : LDst} : KeepsOut s (execQpop d s) :=
  .laneQueue fun s _ _ => ((Keeps.setGang s _ _).trans (.spendWork _ _ _)).trans (.follow _ _ _)

theorem KeepsOut.execRet : KeepsOut s (execRet s) :=
  .laneEachWith (fun _ _ _ => .spendRefills) (fun _ _ _ => Keeps.spendRefills.trans (.fold fun _ _ => .lanePop))
    fun _ _ _ => .either .laneExit .lanePop

theorem KeepsOut.execTrap {code : BitVec 8} : KeepsOut s (execTrap code s) :=
  .laneInstr fun _ _ s => (Keeps.laneFault s _ _ _ _).trans (.when (.setGang _ _ _))

/-! ## Group instructions (R119, R130–R136, R149–R155, R209–R212, R243–R249, R271, R280) -/

theorem KeepsOut.groupLoad {d : GDst} {r : GSrc} {sp : Space} {off : Int} {acq : Bool} {c : Scope} :
    KeepsOut s (groupLoad i s d r sp off acq c) := fun _ =>
  groupMemory_keeps fun s _ _ => ((Keeps.spendWork s _ _).trans (.issueAccess _ _ _ _ _ _ _ _ _ _)).trans .awaitG

theorem KeepsOut.groupStore {v r : GSrc} {sp : Space} {off : Int} {rel : Bool} {c : Scope} :
    KeepsOut s (groupStore i s v r sp off rel c) := fun _ =>
  groupMemory_keeps fun s _ _ => (Keeps.spendWork s _ _).trans (.issueAccess _ _ _ _ _ _ _ _ _ _)

theorem KeepsOut.execGroupAtom {z : ASize} {d : GDst} {r : GSrc} {sp : Space} {f : AtomFields} :
    KeepsOut s (execGroupAtom z d r sp f s) := fun _ =>
  groupMemory_keeps fun s _ _ => ((Keeps.spendWork s _ _).trans (.issueAccess _ _ _ _ _ _ _ _ _ _)).trans .awaitG

theorem KeepsOut.signalInstr {x y : GSrc} {add : Bool} : KeepsOut s (signalInstr i s x y add) := fun _ =>
  groupMemory_keeps fun s _ _ => .either (.groupFault s _ _ _)
    (((Keeps.spendWork s _ _).trans (.issueAccess _ _ _ _ _ _ _ _ _ _)).trans (.advance _ _ _))

theorem KeepsOut.groupEach {chk : State → Agent → Option Trap} {go : State → Agent → State} (b : ∀ s a, Keeps s (go s a)) :
    KeepsOut s (groupEach i s chk go) := by
  refine .groupInstr fun a s => ?_
  split
  · exact .groupFault s _ _ _
  · exact b s a

theorem KeepsOut.groupBranch {off : Int} {taken : State → Agent → Bool} : KeepsOut s (groupBranch i s off taken) :=
  .groupEach fun s _ => .either (.jump s _ _) (.advance s _ _)

theorem KeepsOut.groupGuarded {k : Fin 4} {off : Int} {cond : State → Agent → Bool} : KeepsOut s (groupGuarded i s k off cond) :=
  .groupEach fun s _ => .either ((Keeps.setCtx s _ _).trans (.jump _ _ _)) (.advance s _ _)

theorem KeepsOut.execGroupTrap {code : BitVec 8} : KeepsOut s (execGroupTrap code s) := by
  refine .groupInstr fun a s => (Keeps.groupFault s a 0x14 (code.zeroExtend 64)).trans ?_
  simp only
  split
  · exact .setGang _ _ _
  · exact .refl _

theorem KeepsOut.handlerReturn {lanes : Bool} : KeepsOut s (handlerReturn i s lanes) := by
  refine .groupInstr fun a s => ?_
  cases a with
  | cond g => exact .eretCore
  | lane g t => exact .eretOwn
  | steppe c t => exact .eretOwn
  | saddle c => exact .eretOwn

theorem KeepsOut.condQueue {up : Bool} {go : Nat → State → State} (b : ∀ g s, Keeps s (go g s)) :
    KeepsOut s (condQueue i s up go) := .condInstr fun g s => .either (.groupFault s _ _ _) (b g s)

theorem KeepsOut.execGroupQpop {d : GDst} : KeepsOut s (execGroupQpop d s) := by
  refine .condQueue fun g s => ?_
  simp only
  split
  · exact .groupEcc
  · exact (Keeps.uqPop.trans (.follow _ _ _)).trans (.groupResult _ _ _ _ _ _)

theorem KeepsOut.execQcfg {up : Bool} {r : GSrc} : KeepsOut s (execQcfg up r s) :=
  .condInstr fun _ s => .either (((Keeps.setGang s _ _).trans (.unless .writeControl)).trans (.advance _ _ _))
    (.groupFault s _ _ _)

end

section
variable {s t : State} {i : Instr} {a : Agent} {g core : Nat}

/-! ## Copies and streams (R213–R218, R223) -/

theorem Keeps.nextCopy {launch : Nat} : Keeps s (s.nextCopy launch core).2 := by
  unfold State.nextCopy
  split
  · exact .refl s
  · exact .setLaunch s _ _

theorem Keeps.copyEnter {c : CopyCmd} : Keeps s (s.copyEnter c) := .setCore s _ _

theorem Keeps.engineSpan {x : Site} {sp : Space} {addr n : Nat} {acc : Acc} : Keeps s (s.engineSpan x sp addr n acc).1 := by
  unfold State.engineSpan
  extract_lets unit head
  clear_value head
  split
  · exact .fst .engineReach ‹_›
  · split
    · exact .fst .engineReach ‹_›
    · split <;> exact (Keeps.fst .engineReach ‹_›).trans (.fst .engineReach ‹_›)

theorem Keeps.soundSpan {x : Site} {sp : Space} {addr n : Nat} {acc : Acc} : Keeps s (s.soundSpan x sp addr n acc).1 := by
  unfold State.soundSpan
  split
  · exact .fst .engineSpan ‹_›
  · split <;> exact .fst .engineSpan ‹_›

theorem Keeps.readSpan {ps : List (Loc × Nat)} : Keeps s (s.readSpan ps).1 :=
  .fold_fst fun s _ x => .loadBytes s x.1 x.2

theorem Keeps.engineStore {l : Loc} {bs : List Byte} {gen : Nat} : Keeps s (s.engineStore core l bs gen) := by
  refine (Keeps.storeBytes s l bs gen).trans ?_
  cases l with
  | dev pa => exact (Keeps.dropLine _ _ _).trans (.dropLine _ _ _)
  | slice c o => exact .refl _
  | host pa => exact .refl _
  | peer n pa => exact .refl _

theorem Keeps.writeSpan {gen : Nat} : ∀ {ps : List (Loc × Nat)} {bs : List Byte} {s : State}, Keeps s (s.writeSpan core gen ps bs)
  | [], _, s => .refl s
  | (_, _) :: _, _, _ => Keeps.engineStore.trans .writeSpan

theorem Keeps.reduceSpan {gen n : Nat} {ps : List (Loc × Nat)} {bs : List Byte} : Keeps s (s.reduceSpan core gen n ps bs) :=
  .fold_fst fun _ _ _ => .fold fun s _ => (Keeps.loadBytes s _ _).trans .engineStore

theorem Keeps.copyIndexAt {x : Site} {b : List W64} {n : Nat} : Keeps s (s.copyIndexAt x b n).1 := by
  unfold State.copyIndexAt
  split
  · exact .fst .soundSpan ‹_›
  · exact (Keeps.fst .soundSpan ‹_›).trans .readSpan

theorem Keeps.copySide {x : Site} {b : List W64} {base n : Nat} {indexed : Bool} : Keeps s (s.copySide x b base n indexed).1 := by
  unfold State.copySide
  split
  · split <;> exact .fst .copyIndexAt ‹_›
  · exact .refl s

theorem Keeps.copySources {c : CopyCmd} {j n : Nat} : Keeps s (s.copySources c j n).1 := by
  unfold State.copySources
  simp only
  split
  · exact .refl s
  · split
    · exact .fst .copySide ‹_›
    · exact (Keeps.fst .copySide ‹_›).trans .soundSpan

theorem Keeps.copyTargets {c : CopyCmd} {j n : Nat} : Keeps s (s.copyTargets c j n).1 := by
  unfold State.copyTargets
  simp only
  split
  · exact .refl s
  · split
    · exact .fst .copySide ‹_›
    · exact (Keeps.fst .copySide ‹_›).trans .soundSpan

theorem Keeps.setCopy {c : CopyCmd} : Keeps s (s.setCopy c) := .setCore s _ _

theorem Keeps.spendEngine {x : Site} {pJ : Nat} : Keeps s (s.spendEngine x pJ) := .when (.spend s _ _)

theorem Keeps.served {launch : Nat} : Keeps s (s.served core launch) := .setCore s _ _

theorem Keeps.copyGranule {c : CopyCmd} : Keeps s (s.copyGranule c).1 := by
  have moved {t : State} {x : Site} {pJ core launch : Nat} {d : CopyCmd} :
      Keeps t (((t.spendEngine x pJ).setCopy d).served core launch) := (Keeps.spendEngine.trans .setCopy).trans .served
  unfold State.copyGranule
  extract_lets b core i n
  split
  · exact .fst .copySources ‹_›
  · split
    · exact (Keeps.fst .copySources ‹_›).trans (.fst .copyTargets ‹_›)
    · refine ((Keeps.fst .copySources ‹_›).trans (.fst .copyTargets ‹_›)).trans ?_
      split
      rename_i data e
      refine (Keeps.fst (.either_fst (.refl _) .readSpan) e).trans (.either_fst ?_ (.either_fst ?_ ?_))
      · refine .either_fst moved (.either_fst (.refl _) ((Keeps.setCore _ _ _).trans moved))
      · exact Keeps.reduceSpan.trans moved
      · exact Keeps.writeSpan.trans moved

theorem Keeps.copyRun {launch : Nat} : ∀ {n : Nat} {s : State}, Keeps s (s.copyRun core launch n).1
  | 0, s => .refl s
  | n + 1, s => by
    unfold State.copyRun
    split
    · exact .refl s
    · split
      · exact (Keeps.fst .copyGranule ‹_›).trans .copyRun
      · exact .copyGranule

theorem Keeps.copyWriteDone {c : CopyCmd} : Keeps s (s.copyWriteDone c).1 := by
  unfold State.copyWriteDone
  extract_lets b at_
  refine .either_fst (.refl s) ?_
  split
  · exact .fst .engineReach ‹_›
  · refine (Keeps.fst .engineReach ‹_›).trans (.either_fst (.refl _) ?_)
    split
    exact (Keeps.fst (.either_fst (.loadBytes _ _ _) (.refl _)) ‹_›).trans .engineStore

theorem Keeps.unlock {o : LockOwner} : Keeps s (s.unlock core o) := .setCore s _ _

theorem Keeps.copyLeave {c : CopyCmd} : Keeps s (s.copyLeave c) := Keeps.unlock.trans (.setCore _ _ _)

theorem Keeps.copyHalt {c : CopyCmd} {cause : Byte} {addr : W64} {writes : Bool} : Keeps s (s.copyHalt c cause addr writes) :=
  ((Keeps.setCopy.trans (.when (.uncorrectable _ _ _ _ _))).trans (.when (.chargeLaunch _ _ _ _ _))).trans (.post _ _)

theorem Keeps.streamElement {w : Site} {d : Stream} {n : Nat} : Keeps s (s.streamElement w d n).1 := by
  unfold State.streamElement
  refine .either_fst (.refl s) ?_
  simp only
  split
  · exact .fst .soundSpan ‹_›
  · exact (Keeps.fst .soundSpan ‹_›).trans .readSpan

theorem Keeps.streamEntry {w : Site} {d : Stream} {j : Nat} : Keeps s (s.streamEntry w d j).1 := by
  refine .fold_fst fun s r k => ?_
  cases r with
  | error f => exact .refl s
  | ok vs =>
    simp only
    split <;> exact .fst .streamElement ‹_›

theorem Keeps.streamClaim {k : Fin 4} : Keeps s (s.streamClaim g k) := by
  unfold State.streamClaim
  split
  · exact .refl s
  · refine .unless ?_
    split
    · exact .refl s
    · refine (Keeps.fst .streamEntry ‹_›).trans ?_
      exact ((Keeps.setGang _ _ _).trans .dqClaim).trans (.when .unlock)

theorem Keeps.streamHalt {k : Fin 4} : Keeps s (s.streamHalt g k) := by
  unfold State.streamHalt
  split
  · exact .refl s
  · split
    · exact .refl s
    · exact (((Keeps.setGang s _ _).trans (.when (.uncorrectable _ _ _ _ _))).trans (.when (.chargeLaunch _ _ _ _ _))).trans
        (.post _ _)

theorem Keeps.struck {key : Option Nat} : Keeps s (s.struck key) := by
  cases key with
  | none => exact .refl s
  | some k => exact .of_eq rfl rfl rfl

theorem Keeps.copyFinish {launch : Nat} {c : CopyCmd} : Keeps s (s.copyFinish core launch c).1 := by
  unfold State.copyFinish
  extract_lets top n
  refine .either_fst (.refl s) ?_
  split
  · exact (Keeps.fst .copyRun ‹_›).trans (.either_fst .copyWriteDone (.refl _))
  · exact .copyRun

/-! ## Barriers (R250, R251) -/

theorem Keeps.setBarWord {b : Nat} {w : W64} : Keeps s (s.setBarWord core b w) := .pokeLE s _ _ _

theorem Keeps.setBar {b : Nat} {x : Bar} : Keeps s (s.setBar core b x) := .setCore s _ _

theorem Keeps.releaseWaiter {d : Dst} {after : List Nat} : Keeps s (s.releaseWaiter g d after) :=
  ((Keeps.endWait s _ _ _).trans (.follow _ _ _)).trans .sync

theorem Keeps.barArrival {b : Nat} {after : List Nat} : Keeps s (s.barArrival core b after) :=
  Keeps.setBar.trans (.either (Keeps.setBarWord.trans (.fold fun _ _ => .releaseWaiter)) .setBarWord)

theorem Keeps.serveTakes {b : Nat} : Keeps s (s.serveTakes core b) :=
  .fold fun _ _ => .unless (Keeps.setBarWord.trans .releaseWaiter)

theorem Keeps.unitArrival {b launch : Nat} {after : List Nat} : Keeps s (s.unitArrival core b launch after) :=
  .either .barArrival .countError

theorem Keeps.recordPhase {b : Nat} : Keeps s (s.recordPhase g b) := .setGang s _ _

theorem Keeps.awaitPhase {b : Fin 96} {seen : Bool} {d : Dst} : Keeps s (s.awaitPhase g b seen d) :=
  (Keeps.startWait s _ _ _).trans (.when .releaseWaiter)

theorem Keeps.serveSemaphores : Keeps s (s.serveSemaphores core) := .fold fun _ _ => .serveTakes

theorem Keeps.groupPair {d : GDst} {lo hi : W64} : Keeps s (s.groupPair a d lo hi) :=
  (Keeps.groupResult s _ _ _ _ _).trans (.setCtx _ _ _)

theorem KeepsOut.execBarWaitTimeout : KeepsOut s (execBarWaitTimeout g s) := by
  unfold Machine.execBarWaitTimeout
  split
  · exact .stay
  · split
    · exact .either (.next (.endWait s _ _ _)) .stay
    · exact .either (.next (.endWait s _ _ _)) .stay
    · exact .stay

/-- Where the outcome of an event is taken for the state, what it keeps is kept. -/
theorem KeepsOut.state {o : Out} : KeepsOut s o → Keeps s (match o with | .next t => t | _ => s) := by
  intro h
  cases o with
  | next t => exact h t rfl
  | fault r => exact .refl s
  | refused r => exact .refl s

theorem Keeps.barDeadline : Keeps s (s.barDeadline g) := KeepsOut.execBarWaitTimeout.state

end

section
variable {s t : State} {i : Instr} {a : Agent} {g core launch : Nat}

theorem KeepsOut.execCpy {p : Fin 192} {d : GDst} : KeepsOut s (execCpy p d s) := by
  refine .condInstr fun g s => ?_
  split
  · exact .refl s
  · simp only
    split
    · exact .groupFault s _ _ _
    · exact (Keeps.nextCopy.trans .copyEnter).trans (.groupResult _ _ _ _ _ _)

theorem KeepsOut.execStrm {k : Fin 4} {p : Fin 192} {z : BitVec 2} {sp : Space} : KeepsOut s (execStrm k p z sp s) := by
  refine .condInstr fun g s => ?_
  split
  · exact .groupFault s _ _ _
  · exact (Keeps.setGang s _ _).trans (.advance _ _ _)

theorem KeepsOut.execStrmgo {k : Fin 4} : KeepsOut s (execStrmgo k s) := by
  refine .condInstr fun g s => .either (.groupFault s _ _ _) ?_
  simp only
  split
  · exact .refl s
  · exact (Keeps.unless ((Keeps.setCore s _ _).trans (.setGang _ _ _))).trans (.advance _ _ _)

theorem KeepsOut.barInstr {b : Fin 96} {init : Bool} {go : Nat → State → State} (k : ∀ g s, Keeps s (go g s)) :
    KeepsOut s (barInstr i s b init go) := .condInstr fun g s => .either (k g s) (.groupFault s _ _ _)

theorem KeepsOut.barMode {b : Fin 96} {sem : Bool} {go : Nat → State → State} (k : ∀ g s, Keeps s (go g s)) :
    KeepsOut s (barMode i s b sem go) := .barInstr fun g s => .either (k g s) (.groupFault s _ _ _)

theorem KeepsOut.execBarInit {b : Fin 96} {r : GSrc} : KeepsOut s (execBarInit b r s) :=
  .barInstr fun _ s => .either (.groupFault s _ _ _) (.either (.groupFault s _ _ _)
    (((Keeps.setBar.trans .setBarWord).trans .recordPhase).trans (.advance _ _ _)))

theorem KeepsOut.execBarArrive {b : Fin 96} : KeepsOut s (execBarArrive b s) :=
  .barMode fun _ _ => ((Keeps.recordPhase.trans .covers).trans .barArrival).trans (.advance _ _ _)

theorem KeepsOut.execBarSync {b : Fin 96} {d : GDst} : KeepsOut s (execBarSync b d s) := by
  refine .barMode fun g s => ?_
  split
  · exact .awaitPhase
  · exact ((Keeps.recordPhase.trans .covers).trans .barArrival).trans .awaitPhase

theorem KeepsOut.execBarPost {b : Fin 96} {r : GSrc} : KeepsOut s (execBarPost b r s) :=
  .barMode fun _ _ => ((Keeps.setBar.trans .setBarWord).trans .covers).trans (.advance _ _ _)

theorem KeepsOut.execBarStat {b : Fin 96} {d : GDst} : KeepsOut s (execBarStat b d s) :=
  .barInstr fun _ _ => (Keeps.recordPhase.trans .groupPair).trans (.follow _ _ _)

/-! ## The matrix engine (R182–R198) -/

theorem Keeps.setBaton {b : Baton} : Keeps s (s.setBaton core b) := .setCore s _ _

theorem Keeps.grantBaton {before : Nat} : Keeps s (s.grantBaton core before) := by
  unfold State.grantBaton
  split
  · exact .refl s
  · exact (Keeps.setBaton.trans (.when (.setCore _ _ _))).trans (.endWait _ _ _ _)

theorem KeepsOut.execMxctlPass : KeepsOut s (execMxctlPass s) :=
  .condInstr fun _ s => .either (.groupFault s _ _ _)
    (((Keeps.when (.setCore s _ _)).trans .setBaton).trans (.advance _ _ _))

theorem KeepsOut.execMxq {p : Fin 192} {d : GDst} : KeepsOut s (execMxq p d s) := by
  refine .condInstr fun g s => ?_
  split
  · exact .refl s
  · simp only
    split
    · exact .groupFault s _ _ _
    · exact ((Keeps.unless .recordPhase).trans (.setCore _ _ _)).trans (.groupResult _ _ _ _ _ _)

theorem KeepsOut.execMxctlCtab {p : Fin 192} : KeepsOut s (execMxctlCtab p s) :=
  .condInstr fun _ s => .either (.groupFault s _ _ _) (.either (.groupFault s _ _ _)
    ((Keeps.setCore s _ _).trans (.advance _ _ _)))

theorem Keeps.saveArea {off gen : Nat} {bs : List Byte} : Keeps s (s.saveArea core off bs gen) := by
  have k := (Keeps.storeBytes s (.slice core off) (bs.take (grantBase - off)) gen).trans
    (Keeps.unless (p := bs.length ≤ grantBase + grantBytes - off) (.storeBytes _ (.slice core (off + (grantBase + grantBytes - off)))
      (bs.drop (grantBase + grantBytes - off)) gen))
  exact ⟨k.mem, k.gangs, rfl⟩

theorem KeepsOut.execMxsave {r : GSrc} : KeepsOut s (execMxsave r s) := by
  refine .condInstr fun g s => ?_
  simp only
  split
  · exact .groupFault s _ _ _
  · exact (Keeps.advance s _ _).trans .saveArea

theorem KeepsOut.execMxrest {r : GSrc} : KeepsOut s (execMxrest r s) := by
  refine .condInstr fun g s => ?_
  simp only
  split
  · exact .groupFault s _ _ _
  · exact .either .groupEcc (((Keeps.loadBytes s _ _).trans (.setCore _ _ _)).trans (.advance _ _ _))

theorem Keeps.mxMultiply {o : MxOp} {entry : List Byte} : Keeps s (s.mxMultiply o entry) := .setCore s _ _

theorem Keeps.mxMoveRow {o : MxOp} {r : Nat} : Keeps s (s.mxMoveRow o r) := by
  refine .fold fun s k => .either ?_ ?_
  · split
    · exact .fst .engineReach ‹_›
    · exact (Keeps.fst .engineReach ‹_›).trans .engineStore
  · split
    · exact .fst .engineReach ‹_›
    · exact ((Keeps.fst .engineReach ‹_›).trans (.loadBytes _ _ _)).trans (.setCore _ _ _)

theorem Keeps.setMx {o : MxOp} : Keeps s (s.setMx o) := .setCore s _ _

theorem Keeps.mxReport {o : MxOp} {cause : Byte} {steps bits : Nat} : Keeps s (s.mxReport o cause steps bits) :=
  .unless (.pokeLE s _ _ _)

theorem Keeps.mxLeave {o : MxOp} {cause : Byte} {steps bits : Nat} : Keeps s (s.mxLeave o cause steps bits) :=
  ((Keeps.mxReport.trans .unlock).trans (.setCore _ _ _)).trans (.unless .unitArrival)

theorem Keeps.mxCharge {o : MxOp} {party : Nat} {v : W64} : Keeps s (s.mxCharge o party v) := by
  unfold State.mxCharge
  split
  · exact .charge s _ _ _ _
  · exact .refl s

theorem Keeps.mxInvalidate {o : MxOp} : Keeps s (s.mxInvalidate o) := .setCore s _ _

theorem Keeps.mxStop {o : MxOp} {cause : Byte} {bits : Nat} {v : W64} : Keeps s (s.mxStop o cause bits v) :=
  (Keeps.mxInvalidate.trans .mxLeave).trans .mxCharge

theorem Keeps.mxProtocol {o : MxOp} : Keeps s (s.mxProtocol o) := Keeps.mxLeave.trans .mxCharge

theorem Keeps.mxStepped {o : MxOp} : Keeps s (s.mxStepped o) :=
  ((Keeps.spendEngine.trans (.fresh _)).trans (.when .countError)).trans .setMx

theorem Keeps.mxEcc {o : MxOp} {bit : Nat} : Keeps s (s.mxEcc o bit) := (Keeps.uncorrectable s _ _ _ _).trans .mxStop

theorem Keeps.mxValidate {o : MxOp} : Keeps s (s.mxValidate o) := .setCore s _ _

theorem Keeps.mxPopEntry {o : MxOp} : Keeps s (s.mxPopEntry o) := .setCore s _ _

theorem Keeps.mxMmaStep {o : MxOp} {entry : List Byte} : Keeps s (s.mxMmaStep o entry) :=
  (Keeps.mxMultiply.trans (.when .mxValidate)).trans .mxStepped

theorem Keeps.mxMove {o : MxOp} {kind : Nat} : Keeps s (s.mxMove o kind) := by
  have rows : Keeps s ((List.range 64).foldl (fun s r => s.mxMoveRow o r) s) := .fold fun _ _ => .mxMoveRow
  unfold State.mxMove
  split
  · exact .mxMmaStep
  · split
    · exact .refl s
    · exact Keeps.mxPopEntry.trans (.either .mxProtocol .mxMmaStep)
  · exact ((Keeps.setCore s _ _).trans .mxValidate).trans .mxStepped
  · exact rows.trans .mxStepped
  · exact (rows.trans .mxValidate).trans .mxStepped

theorem Keeps.mxStep {o : MxOp} : Keeps s (s.mxStep o) := by
  unfold State.mxStep
  refine .either .mxStop (.unless ?_)
  split
  · exact .mxEcc
  · exact .mxMove

theorem KeepsOut.execMatrixOpStart : KeepsOut s (execMatrixOpStart core s) := by
  unfold Machine.execMatrixOpStart
  split
  · exact .stay
  · exact .either .stay (.next .setMx)

theorem KeepsOut.execMatrixNativeStep : KeepsOut s (execMatrixNativeStep core s) := by
  unfold Machine.execMatrixNativeStep
  split
  · exact .stay
  · exact .either .stay (.next .mxStep)

theorem KeepsOut.execMatrixOpComplete : KeepsOut s (execMatrixOpComplete core s) := by
  unfold Machine.execMatrixOpComplete
  split
  · exact .stay
  · exact .either .stay (.next .mxLeave)

theorem KeepsOut.execMatrixErrorStop {bit : Fin 4} : KeepsOut s (execMatrixErrorStop core bit s) := by
  unfold Machine.execMatrixErrorStop
  split
  · exact .stay
  · exact .either .stay (.next (.either .mxStop .mxEcc))

theorem KeepsOut.execMatrixWindowFault : KeepsOut s (execMatrixWindowFault core s) := by
  unfold Machine.execMatrixWindowFault
  split
  · exact .stay
  · split
    · exact .stay
    · exact .either .stay (.next (((Keeps.mxReport.trans .setMx).trans (.when (.chargeLaunch _ _ _ _ _))).trans (.post _ _)))

theorem KeepsOut.execSparsityQueueTimeout : KeepsOut s (execSparsityQueueTimeout core s) := by
  unfold Machine.execSparsityQueueTimeout
  split
  · exact .stay
  · exact .either (.next .mxProtocol) .stay

/-! ## Watches and triggers (R256–R267) -/

theorem Keeps.armEntry {n : Nat} {b : List W64} {asid : Nat} {owner : Option Nat} : Keeps s (s.armEntry n b asid owner) :=
  .of_eq rfl rfl rfl

theorem Keeps.disarm {entry : Nat} {w : Watch} : Keeps s (s.disarm core entry w).1 :=
  (Keeps.setCore s _ _).trans (.fold fun s _ => .formingReady s _ _)

theorem Keeps.watchAnswer {k : WatchAsk} : Keeps s (s.watchAnswer core k) := by
  unfold State.watchAnswer
  extract_lets c s1
  have k : Keeps s s1 := .setCore s _ _
  clear_value s1
  split
  refine k.trans (.trans (.fst ?_ ‹_›) (.deliver _ _ _ _ _))
  split
  · exact .refl _
  · exact .either_fst (.refl _) (.either_fst .disarm (.refl _))

theorem Keeps.formingOf {qid : Nat} : Keeps s (s.formingOf core qid).1 := by
  unfold State.formingOf
  simp only
  split
  · exact .refl s
  · exact .of_eq rfl rfl rfl

theorem Keeps.joinTrigger {x : Trigger} : Keeps s (s.joinTrigger core x) := by
  unfold State.joinTrigger
  split
  · exact .refl s
  · refine .either ?_ ?_
    · split
      · exact .stopWatch s _ _ _
      · exact .refl s
    · exact (((Keeps.setQuote s _).trans .formingOf).trans (.setCore _ _ _)).trans (.when (.formingReady _ _ _))

theorem Keeps.joinsDue : ∀ {n : Nat} {s : State}, Keeps s (s.joinsDue core n)
  | 0, s => .refl s
  | n + 1, s => by
    unfold State.joinsDue
    split
    · exact Keeps.joinTrigger.trans .joinsDue
    · exact .refl s

theorem Keeps.gangsDue : Keeps s (s.gangsDue core) := .fold fun s _ => .formingReady s _ _

theorem Keeps.watchClock : Keeps s (s.watchClock core) :=
  (Keeps.gangsDue.trans .joinsDue).trans (.fold fun _ _ => .watchAnswer)

theorem KeepsOut.execWatchArm {d : GDst} {p : Fin 192} : KeepsOut s (execWatchArm d p s) := by
  refine .groupInstr fun a s => ?_
  simp only
  split
  · exact .groupFault s _ _ _
  · split
    · exact .either (.groupFault s _ _ _) (.groupResult s _ _ _ _ _)
    · exact Keeps.armEntry.trans (.groupResult _ _ _ _ _ _)

theorem KeepsOut.watchAsk {d : GDst} {r : GSrc} {disarm : Bool} : KeepsOut s (watchAsk i s d r disarm) := by
  refine .groupInstr fun a s => .either (.groupFault s _ _ _) (.either (.groupResult s _ _ _ _ _) ?_)
  refine .trans (.trans (.of_eq ?_ ?_ ?_) .awaitG) (.advance _ _ _) <;> rfl

theorem KeepsOut.execTriggerJoin : KeepsOut s (execTriggerJoin core s) := by
  unfold Machine.execTriggerJoin
  split
  · exact .next .joinTrigger
  · exact .stay

theorem KeepsOut.execFormingGangReady {qid : Nat} : KeepsOut s (execFormingGangReady core qid s) := by
  unfold Machine.execFormingGangReady
  split
  · exact .either (.next (.formingReady s _ _)) .stay
  · exact .stay

/-! ## Sharing groups, children, phases (R111–R114, R252–R254) -/

theorem KeepsOut.execShareJoin {d : GDst} {r : GSrc} : KeepsOut s (execShareJoin d r s) := by
  refine .condInstr fun g s => .either (.groupFault s _ _ _) ?_
  simp only
  split
  · exact .refl s
  · split
    · exact .groupResult s _ _ _ _ _
    · refine .either (.groupResult s _ _ _ _ _) ?_
      split
      · exact .groupResult s _ _ _ _ _
      · exact (Keeps.setLaunch s _ _).trans (.groupResult _ _ _ _ _ _)

theorem KeepsOut.execShareLeave {d : GDst} : KeepsOut s (execShareLeave d s) := by
  refine .condInstr fun g s => ?_
  split
  · exact .groupResult s _ _ _ _ _
  · exact .startWait s _ _ _

theorem KeepsOut.execShareQuery {d : GDst} {r : GSrc} : KeepsOut s (execShareQuery d r s) := by
  refine .condInstr fun g s => .either (.groupFault s _ _ _) ?_
  split
  · exact .refl s
  · exact .groupResult s _ _ _ _ _

theorem KeepsOut.execShareLeaveRevoke : KeepsOut s (execShareLeaveRevoke g s) := by
  unfold Machine.execShareLeaveRevoke
  split
  · split
    · exact .next (.endWait s _ _ _)
    · exact .either .stay (.next ((Keeps.setLaunch s _ _).trans (.endWait _ _ _ _)))
  · exact .stay

theorem KeepsOut.execSpawn {p : Fin 192} {d : GDst} : KeepsOut s (execSpawn p d s) := by
  refine .condInstr fun g s => .either (.groupFault s _ _ _) (.either (.groupFault s _ _ _) ?_)
  simp only
  split
  · refine .either (.groupResult s _ _ _ _ _) (.either (.groupResult s _ _ _ _ _) ?_)
    exact ((Keeps.when .recordPhase).trans (.fold fun s _ => .addTask s _ _ _)).trans (.groupResult _ _ _ _ _ _)
  · exact .groupResult s _ _ _ _ _

theorem KeepsOut.phaseEnd {communication : Bool} : KeepsOut s (phaseEnd i s communication) := by
  refine .condInstr fun g s => ?_
  split
  · exact .refl s
  · exact .either (.startWait s _ _ _) (.groupFault s _ _ _)

theorem KeepsOut.execPhaseXfer {p : Fin 192} {at_ : W32} : KeepsOut s (execPhaseXfer p at_ s) := by
  refine .condInstr fun g s => ?_
  split
  · refine .either (.groupFault s _ _ _) ?_
    simp only
    split
    · exact .groupFault s _ _ _
    · exact .either (.groupFault s _ _ _) ((Keeps.setCore s _ _).trans (.advance _ _ _))
  · exact .refl s

theorem Keeps.noteStep : Keeps s (s.noteStep launch) := by
  unfold State.noteStep
  split
  · exact .refl s
  · exact .unless (.unless (.setLaunch s _ _))

theorem KeepsOut.execPhaseStepStart : KeepsOut s (execPhaseStepStart launch s) := by
  unfold Machine.execPhaseStepStart
  split
  · exact .stay
  · split
    · exact .stay
    · exact .either .stay (.next ((Keeps.setLaunch s _ _).trans (.fold fun s _ => .endWait s _ _ _)))

end

section
variable {s t : State} {i : Instr} {a : Agent} {g core launch : Nat}

/-! ## Memory cleared (R106, R303) -/

theorem wfFrom_filter {n : Nat} (p : Host.Cell → Bool) : ∀ {m : List Host.Cell}, wfFrom n m = true → wfFrom n (m.filter p) = true := by
  intro m
  induction m generalizing n with
  | nil => exact id
  | cons c r ih =>
    obtain ⟨j, x⟩ := c
    intro h
    simp only [wfFrom, Bool.and_eq_true, decide_eq_true_eq] at h
    obtain ⟨⟨le, ne⟩, rest⟩ := h
    rw [List.filter_cons]
    split
    · simp [wfFrom, le, ne, ih rest]
    · exact wfFrom_mono (Nat.le_succ_of_le le) (ih rest)

/-- Bytes dropped leave memory in its canonical form. -/
theorem wf_filter (p : Host.Cell → Bool) {m : List Host.Cell} (h : Memory.wf m = true) : Memory.wf (m.filter p) = true :=
  wfFrom_filter p h

theorem Keeps.zeroSlice {off n : Nat} : Keeps s (s.zeroSlice core off n) := ⟨wf_filter _, id, rfl⟩

/-! ## The pool's structures (R64–R75) -/

theorem Keeps.enterWake {q idx : Nat} : Keeps s (s.enterWake q idx) := .either (.setEvents s _) (.setEvents s _)

theorem Keeps.grantLock {n : Nat} : Keeps s (s.grantLock n core) := .setDev s _

theorem Keeps.freeLock {n : Nat} : Keeps s (s.freeLock n) := .setDev s _

theorem Keeps.setDir {q off n v : Nat} : Keeps s (s.setDir q off n v) := .writeDev s _ _

theorem Keeps.setFlag {q bit : Nat} {on : Bool} : Keeps s (s.setFlag q bit on) := .setDir

theorem Keeps.stopQueue {q n : Nat} : Keeps s (s.stopQueue q n) := Keeps.setFlag.trans .setDir

theorem Keeps.haltQueue {q n : Nat} : Keeps s (s.haltQueue q n) := Keeps.stopQueue.trans (.setDev _ _)

theorem Keeps.unhalt {q : Nat} : Keeps s (s.unhalt q) := .unless (.setDev s _)

theorem Keeps.postWake {q idx : Nat} : Keeps s (s.postWake q idx) := Keeps.unhalt.trans .enterWake

theorem Keeps.postVector {v : Nat} : Keeps s (s.postVector core v) := .setDev s _

theorem Keeps.signalChange {pa : Nat} {v : W64} : Keeps s (s.signalChange pa v) :=
  (Keeps.when .postVector).trans (.when (.postSignalEvent _ _ _))

theorem Keeps.signalUpdate {pa : Nat} {f : W64 → W64} : Keeps s (s.signalUpdate pa f) :=
  (Keeps.storeBytes s _ _ _).trans (.unless .signalChange)

theorem Keeps.dirtyVa {asid va : Nat} : Keeps s (s.dirtyVa asid va) := by
  unfold State.dirtyVa
  split
  · exact .unless (.markLeaf s _ _)
  · exact .refl s

theorem Keeps.poolSignal {asid va : Nat} {f : W64 → W64} : Keeps s (s.poolSignal asid va f) := by
  unfold State.poolSignal
  split
  · exact Keeps.dirtyVa.trans .signalUpdate
  · exact .refl s

theorem Keeps.takeSlot {q : Nat} : Keeps s (s.takeSlot q) := ((Keeps.setDev s _).trans .setFlag).trans .setFlag

theorem Keeps.unmap {q : Nat} : Keeps s (s.unmap q) := by
  unfold State.unmap
  extract_lets _ s1
  have k : Keeps s s1 := (Keeps.setDev s _).trans .setFlag
  exact k.trans (.when .setFlag)

theorem Keeps.mapQueue {q : Nat} : Keeps s (s.mapQueue q) := by
  unfold State.mapQueue
  refine .either .takeSlot ?_
  split
  · exact Keeps.unmap.trans .takeSlot
  · exact .setFlag

theorem Keeps.remap : Keeps s s.remap := by
  unfold State.remap
  refine .unless ?_
  split
  · exact .refl s
  · split
    · exact Keeps.unmap.trans .takeSlot
    · exact .refl s

theorem Keeps.startPacket {q n : Nat} : Keeps s (s.startPacket q n) := .when .setDir

theorem Keeps.retirePackets {q : Nat} : Keeps s (s.retirePackets q) := .setDir

theorem Keeps.complete {q n status : Nat} : Keeps s (s.complete q n status) := by
  unfold State.complete
  split
  · exact .refl s
  · refine .after .remap <| .after (.postEvent _ _ _ _) <| .after (.when .haltQueue) <| .after .retirePackets <|
      .after .startPacket <| .after (.setDev _ _) <| .after (.when .poolSignal) (.writeVa s _ _ _ _)

/-! ## Quotations (R81–R101) -/

theorem Keeps.answer {id : Nat} : Keeps s (s.answer id) := by
  unfold State.answer
  split
  · exact .refl s
  · exact (Keeps.setQuote s _).trans (.fold fun _ _ => .complete)

theorem Keeps.moveQuote {q : Quote} {state : Nat} : Keeps s (s.moveQuote q state) := (Keeps.putQuote s _).trans .answer

theorem Keeps.expire {q : Quote} : Keeps s (s.expire q) := .moveQuote

theorem Keeps.firstRecord {asid record id cls : Nat} : Keeps s (s.firstRecord asid record id cls) :=
  ((Keeps.writeVa s _ _ _ _).trans (.writeVa _ _ _ _ _)).trans (.writeVa _ _ _ _ _)

theorem Keeps.request {asid object record validity : Nat} {shape : Shape} {auto user : Bool} :
    Keeps s (s.request asid object record shape validity auto user).2 := by
  unfold State.request
  split
  · exact .refl s
  · split
    · exact .refl s
    · split
      · exact .refl s
      · exact .after .firstRecord (.of_eq rfl rfl rfl)

theorem Keeps.writeRecord {q : Quote} : Keeps s (s.writeRecord q) := by
  have w {s : State} {asid va n v : Nat} : Keeps s (s.writeVa asid va n v) := .writeVa s _ _ _ _
  unfold State.writeRecord
  extract_lets cores v s1 s2
  have k1 : Keeps s s1 := .after w <| .after w <| .after w <| .after w w
  have k2 : Keeps s1 s2 := .after w <| .after w <| .after w w
  exact (k1.trans k2).trans w

theorem Keeps.writeCores {q : Quote} {n : Nat} : Keeps s (s.writeCores q n) := .writeVa s _ _ _ _

theorem Keeps.writeGrant {base n asid : Nat} : Keeps s (s.writeGrant core base n asid) := by
  unfold State.writeGrant
  simp only
  split
  · exact .refl s
  · exact .pokeBytes s _ _

theorem Keeps.clearGrant {base asid : Nat} : Keeps s (s.clearGrant core base asid) :=
  .fold fun s _ => .when (.pokeLE s _ _ _)

theorem Keeps.markParts {cores : List (Nat × List Nat)} {qid : Option Nat} : Keeps s (s.markParts cores qid) :=
  .fold fun s _ => .setCore s _ _

theorem Keeps.openLaunch {q : Quote} {k : Kernel} {arg : W64} {packet : Option (Nat × Nat)} :
    Keeps s (s.openLaunch q k arg packet).2 := by
  refine .trans (.trans (.trans (.of_eq ?_ ?_ ?_) (.unless (.fold fun _ _ => .writeGrant))) .markParts)
    (.when (.fold fun s _ => .setCore s _ _)) <;> rfl

theorem Keeps.preemptFor {q : Quote} : Keeps s (s.preemptFor q) := .of_eq rfl rfl rfl

theorem Keeps.accepted {q : Quote} : Keeps s (s.accepted q) := by
  unfold State.accepted
  split
  · exact .refl s
  · exact .either ((Keeps.openLaunch.trans (.fold fun _ _ => .fold fun _ _ => .zeroSlice)).trans .moveQuote)
      ((Keeps.when .preemptFor).trans .moveQuote)

theorem Keeps.either_snd {α : Type} {p : Prop} [Decidable p] {x y : α × State} (h : Keeps s x.2) (k : Keeps s y.2) :
    Keeps s (if p then x else y).2 := by
  split
  · exact h
  · exact k

theorem Keeps.accept {asid id : Nat} : Keeps s (s.accept asid id).2 := by
  unfold State.accept
  split
  · exact .refl s
  · refine .either_snd .expire (.either_snd (.refl s) (.either_snd (.refl s) ?_))
    split
    · exact .refl s
    · exact .either_snd .accepted .moveQuote

theorem Keeps.closeLaunch {id : Nat} {l : Launch} : Keeps s (s.closeLaunch id l) :=
  ((Keeps.unless (.fold fun _ _ => .clearGrant)).trans (.fold fun _ _ => .zeroSlice)).trans (.of_eq rfl rfl rfl)

theorem Keeps.dropLaunch {id : Nat} : Keeps s (s.dropLaunch id) := .of_eq rfl rfl rfl

theorem Keeps.decline {asid id : Nat} : Keeps s (s.decline asid id).2 := by
  unfold State.decline
  split
  · exact .refl s
  · refine .either_snd .expire (.either_snd .moveQuote (.either_snd ?_ (.refl s)))
    refine .trans ?_ .moveQuote
    split
    · exact Keeps.closeLaunch.trans .dropLaunch
    · exact .refl s

theorem KeepsOut.execQuoteReq {d : GDst} {p : Fin 192} : KeepsOut s (execQuoteReq d p s) :=
  .groupInstr fun _ s => .either (.groupFault s _ _ _) (Keeps.request.trans (.groupResult _ _ _ _ _ _))

theorem KeepsOut.quoteId {d : GDst} {r : GSrc} {go : State → Agent → Nat → Int × State} (b : ∀ s a n, Keeps s (go s a n).2) :
    KeepsOut s (quoteId i s d r go) :=
  .groupInstr fun a s => .either (.groupFault s _ _ _) ((b s a _).trans (.groupResult _ _ _ _ _ _))

theorem KeepsOut.execQuoteActual {d : GDst} {r : GSrc} : KeepsOut s (execQuoteActual d r s) :=
  .groupInstr fun _ s => .either (.groupFault s _ _ _) ((Keeps.groupResult s _ _ _ _ _).trans (.setCtx _ _ _))

theorem KeepsOut.execQuoteWalkStart : KeepsOut s (execQuoteWalkStart s) := by
  unfold Machine.execQuoteWalkStart
  split
  · split
    · exact .next (.of_eq rfl rfl rfl)
    · have k (q : Quote) : Keeps s ((q.packets.filter fun (_, _, k) => k = 1).foldl (fun s (n, i, _) => s.startPacket n i) s) :=
        .fold fun _ _ => .startPacket
      simp only
      split
      · exact .next ((k _).trans (.of_eq rfl rfl rfl))
      · exact .next ((k _).trans (.of_eq rfl rfl rfl))
  · exact .stay

theorem KeepsOut.execQuoteWalkEnd {qid : Nat} : KeepsOut s (execQuoteWalkEnd qid s) := by
  unfold Machine.execQuoteWalkEnd
  split
  · exact .stay
  · refine .either .stay ?_
    split
    extract_lets s1 others s2 s3 asked
    have k : Keeps s s3 := .after .writeCores <| .after .writeRecord <| .after (.setQuote _ _) (.of_eq rfl rfl rfl)
    have done {s : State} {st : Nat} : Keeps s (asked.foldl (fun s (p, i, _) => s.complete p i st) s) :=
      .fold fun _ _ => .complete
    clear_value s3
    refine .trans k (.either ?_ (.next ((Keeps.setQuote _ _).trans done)))
    split
    have h := Keeps.snd .accept ‹_›
    exact .either (.next (h.trans done)) (.next h)

theorem KeepsOut.execPinDone {qid : Nat} {ok : Bool} : KeepsOut s (execPinDone qid ok s) := by
  unfold Machine.execPinDone
  split
  · exact .stay
  · refine .either .stay (.either (.next .expire) ?_)
    split
    · exact .stay
    · exact .either (.next (.after .accepted (.of_eq rfl rfl rfl))) (.next .moveQuote)

theorem KeepsOut.execValidityDeadline {qid : Nat} : KeepsOut s (execValidityDeadline qid s) := by
  unfold Machine.execValidityDeadline
  split
  · exact .stay
  · exact .next (.when .expire)

end

section
variable {s t : State} {i : Instr} {a : Agent} {g core launch : Nat}

/-! ## Launches, blocks, gangs (R103–R120, R293) -/

theorem Keeps.startGang {l : Launch} {x : Start} : Keeps s (s.startGang launch l x) := by
  unfold State.startGang
  split
  · exact .refl s
  · exact ((Keeps.setGang s _ _).trans (.unless .writeControl)).trans (.unless .writeControl)

theorem Keeps.startBlock {slot block : Nat} : Keeps s (s.startBlock launch slot block) := by
  unfold State.startBlock
  split
  · exact .refl s
  · split
    · exact .refl s
    · refine .after (.fold fun s j => ?_) <| .after (.fold fun _ _ => .zeroSlice) (.setLaunch s _ _)
      split
      · exact .refl s
      · exact .startGang

theorem Keeps.startNext : Keeps s (s.startNext launch) := by
  unfold State.startNext
  split
  · exact .refl s
  · split
    · exact .refl s
    · exact .unless ((Keeps.setLaunch s _ _).trans (.fold fun _ _ => .startBlock))

theorem Keeps.startAcquire {x : Task} : Keeps s (s.startAcquire core x) := .when (.dropLines s _)

theorem Keeps.startTask {part : Nat} {x : Task} : ∀ t ∈ s.startTask core part x, Keeps s t := by
  unfold State.startTask
  extract_lets s1
  have k : Keeps s s1 := .startAcquire
  clear_value s1
  split
  · exact fun _ h => nomatch h
  · simp only
    split <;> intro t h <;> obtain ⟨j, _, rfl⟩ := Option.map_eq_some_iff.mp h
    · exact k.trans (.after .startGang <| .after (.setLaunch _ _ _) (.setCore _ _ _))
    · exact k.trans .startGang

theorem Keeps.endBlock {block : Nat} : Keeps s (s.endBlock launch block) := by
  unfold State.endBlock
  split
  · exact .refl s
  · exact (Keeps.when (.fold fun _ _ => .fold fun _ _ => .zeroSlice)).trans (.setLaunch _ _ _)

theorem Keeps.endBlocks : Keeps s s.endBlocks :=
  .fold fun _ _ => .unless (.fold fun _ _ => .when .endBlock)

theorem Keeps.reap : Keeps s (s.reap g) := by
  unfold State.reap
  split
  · exact .refl s
  · refine .unless (.after (.setCore _ _ _) <| .after .filterGangs <| .after .dropBaton ?_)
    split
    · exact .unitArrival
    · exact .refl s

theorem Keeps.settleBound {qid kind actual bound : Nat} : Keeps s (s.settleBound qid kind actual bound) := by
  unfold State.settleBound
  split
  · exact .refl s
  · exact .when (.charge s _ _ _ _)

theorem Keeps.settleQuote {q : Quote} {l : Launch} : Keeps s (s.settleQuote q l) := by
  unfold State.settleQuote
  extract_lets n e s1 s2
  have k : Keeps s s2 := Keeps.settleBound.trans .settleBound
  clear_value s2
  split
  · exact k
  · exact k.trans (((Keeps.writeVa s2 _ _ _ _).trans (.writeVa _ _ _ _ _)).trans .moveQuote)

theorem Keeps.freeRetired : Keeps s s.freeRetired := .of_eq rfl rfl rfl

theorem KeepsOut.execLaunchStart {qid : Nat} : KeepsOut s (execLaunchStart qid s) := by
  unfold Machine.execLaunchStart
  split
  · exact .stay
  · refine .either (.next .expire) ?_
    simp only
    split
    · refine .next (.after (.fold fun _ _ => .startNext) <| .after .moveQuote <| .after .openLaunch ?_)
      split
      · exact .startPacket
      · exact .refl s
    · exact .stay

theorem KeepsOut.execReadyTaskDispatch {part : Nat} : KeepsOut s (execReadyTaskDispatch core part s) := by
  unfold Machine.execReadyTaskDispatch
  simp only
  split
  · refine .either .stay ?_
    split
    · exact .stay
    · exact .next ((Keeps.startTask _ ‹_›).trans (.setCore _ _ _))
  · exact .stay

theorem KeepsOut.execRetirement : KeepsOut s (execRetirement launch s) := by
  unfold Machine.execRetirement
  split
  · exact .stay
  · split
    · exact .next (Keeps.dropLaunch.trans .complete)
    · exact .next .dropLaunch
    · refine .either .stay ?_
      split
      · exact .stay
      · exact .next ((Keeps.closeLaunch.trans .settleQuote).trans (.either .dropLaunch (.setLaunch _ _ _)))

/-! ## Packets and the service of events (R65–R75, R96, R97, R260) -/

theorem Keeps.serveIndex {q idx : Nat} : Keeps s (s.serveIndex q idx) :=
  .unless (.either ((Keeps.writeVa s _ _ _ _).trans .stopQueue) .setDir)

theorem Keeps.serveWake {q idx : Nat} : Keeps s (s.serveWake q idx) := .when (Keeps.serveIndex.trans .mapQueue)

theorem Keeps.takeWith {e : W64} : Keeps s (s.takeWith e) :=
  (Keeps.fold fun s _ => .takeEvent s _).trans (.takeEvent _ _)

theorem Keeps.nameSignal {asid va : Nat} {on : Bool} : Keeps s (s.nameSignal asid va on) := by
  unfold State.nameSignal
  split
  · exact .refl s
  · exact Keeps.dirtyVa.trans (.storeBytes _ _ _ _)

theorem Keeps.barrierDone {p : Packet} : Keeps s (s.barrierDone p) := by
  refine Keeps.complete.trans (.fold fun s at_ => ?_)
  split
  · exact .when .nameSignal
  · exact .refl s

theorem Keeps.openPacket {p : Packet} : Keeps s (s.openPacket p) := .setDev s _

theorem Keeps.finish {p : Packet} {status : Nat} : Keeps s (s.finish p status) := .complete

theorem Keeps.waitOn {id : Nat} {p : Packet} : Keeps s (s.waitOn id p) := by
  unfold State.waitOn
  split
  · exact .setQuote s _
  · exact .refl s

theorem Keeps.awaitStart {id : Nat} {p : Packet} : Keeps s (s.awaitStart id p) := by
  unfold State.awaitStart
  split
  · exact .setQuote s _
  · exact .refl s

theorem Keeps.poolSpan {asid : Nat} {sp : Space} {addr n : Nat} {acc : Acc} : Keeps s (s.poolSpan asid sp addr n acc).1 := by
  unfold State.poolSpan
  extract_lets head one found
  have k1 (s : State) (x m : Nat) : Keeps s (one s x m).1 := by
    simp only [one]
    split <;> exact .fst (.reach s _ _ _ _ _ _ _ _ _) ‹_›
  have k : Keeps s found.1 := by
    simp only [found]
    split
    · exact .fst (k1 _ _ _) ‹_›
    · refine (Keeps.fst (k1 _ _ _) ‹_›).trans (.either_fst (.refl _) ?_)
      split <;> exact .fst (k1 _ _ _) ‹_›
  clear_value found
  split
  · exact .fst k rfl
  · split <;> exact .fst k rfl

theorem Keeps.setPacket {p : Packet} : Keeps s (s.setPacket p) := .setDev s _

theorem Keeps.poolHalt {p : Packet} {f : Trap} : Keeps s (s.poolHalt p f) :=
  ((Keeps.when (.log s _ _ _ _ _ _)).trans .setPacket).trans (.post _ _)

theorem Keeps.poolGranule {p : Packet} : Keeps s (s.poolGranule p) := by
  unfold State.poolGranule
  extract_lets asid w at_ over_
  have ends (s : State) (p : Packet) : Keeps s (over_ s p) := .when .complete
  refine .either (ends _ _) ?_
  split
  · exact (Keeps.fst .poolSpan ‹_›).trans .poolHalt
  · refine (Keeps.fst .poolSpan ‹_›).trans ?_
    split
    · exact (Keeps.fst .poolSpan ‹_›).trans .poolHalt
    · exact (Keeps.fst .poolSpan ‹_›).trans (.after (ends _ _) <| .after .setPacket <| .after .writeSpan .readSpan)

theorem KeepsOut.execWakeEvent : KeepsOut s (execWakeEvent core s) := by
  unfold Machine.execWakeEvent
  split
  · simp only
    split
    · exact .next (Keeps.takeWith.trans .serveWake)
    · exact .next .takeWith
  · exact .stay

theorem KeepsOut.execSignalChanged : KeepsOut s (execSignalChanged core s) := by
  unfold Machine.execSignalChanged
  split
  · extract_lets names open_ s1
    have k : Keeps s s1 := Keeps.takeWith.trans (.fold fun _ _ => .when .barrierDone)
    clear_value s1
    split
    · exact .next (k.trans (.when .mapQueue))
    · exact .next k
  · exact .stay

theorem KeepsOut.packetArm {q : Nat} {kinds : Nat → Bool} {go : Packet → State → State}
    (b : ∀ p t, Keeps s t → Keeps s (go p t)) : KeepsOut s (packetArm q kinds s go) := by
  unfold Machine.packetArm
  split
  · exact .stay
  · exact .next .stopQueue
  · exact .either .stay (.either (.next (b _ _ .openPacket)) (.next (Keeps.openPacket.trans .complete)))

theorem KeepsOut.execInvalid {q : Nat} : KeepsOut s (execInvalid q s) := .packetArm fun _ _ k => k.trans .finish

theorem KeepsOut.execQuote {q : Nat} : KeepsOut s (execQuote q s) :=
  .packetArm fun _ _ k => .unless ((k.trans .request).trans (.either .finish .waitOn))

theorem KeepsOut.execAccept {q : Nat} : KeepsOut s (execAccept q s) :=
  .packetArm fun _ _ k => (k.trans .accept).trans (.either .finish (.either .finish (Keeps.startPacket.trans .waitOn)))

theorem KeepsOut.execDecline {q : Nat} : KeepsOut s (execDecline q s) :=
  .packetArm fun _ _ k => (k.trans .decline).trans .finish

theorem KeepsOut.execLaunch {q : Nat} : KeepsOut s (execLaunch q s) := by
  refine .packetArm fun p t k => k.trans ?_
  extract_lets id asid t1
  have k1 : Keeps t t1 := by
    simp only [t1]
    split
    · exact .when .expire
    · exact .refl t
  clear_value t1
  refine k1.trans ?_
  simp only
  split
  · exact .finish
  · refine .either .finish (.either (Keeps.decline.trans .finish) (.either .finish (.either .awaitStart (.either ?_ .finish))))
    exact Keeps.accept.trans (.either .finish .awaitStart)

theorem KeepsOut.execCopy {q : Nat} : KeepsOut s (execCopy q s) := by
  unfold Machine.execCopy
  extract_lets start starts
  have k (s : State) : KeepsOut s (start s) := .packetArm fun _ _ k => k.trans .startPacket
  split
  · exact k s
  · exact .next .poolGranule
  · exact .trans (.fresh s) (.either (k _) (.next .poolGranule))

theorem KeepsOut.execSignal {q : Nat} : KeepsOut s (execSignal q s) := by
  refine .packetArm fun p t k => k.trans ?_
  simp only
  split
  · exact .finish
  · exact .either .finish ((Keeps.dirtyVa.trans .signalUpdate).trans .finish)

theorem KeepsOut.execBarrier {q : Nat} : KeepsOut s (execBarrier q s) :=
  .packetArm fun _ _ k => ((k.trans .startPacket).trans (.fold fun _ _ => .nameSignal)).trans (.when .barrierDone)

theorem KeepsOut.execWatch {q : Nat} : KeepsOut s (execWatch q s) := by
  refine .packetArm fun p t k => k.trans ?_
  simp only
  split
  · exact (Keeps.writeVa t _ _ _ _).trans .finish
  · split
    · exact (Keeps.writeVa t _ _ _ _).trans .finish
    · exact (Keeps.armEntry.trans (.writeVa _ _ _ _ _)).trans .finish

theorem Keeps.wakeStore {q : Nat} {idx : W64} : Keeps s (s.wakeStore q idx) := .either (.log s _ _ _ _ _ _) .postWake

theorem KeepsOut.execPeriodicTick : KeepsOut s (execPeriodicTick s) :=
  .either .stay (.next ((Keeps.setDev s _).trans (.unless (.postEvent _ _ _ _))))

theorem KeepsOut.execSubmit {x y : GSrc} : KeepsOut s (execSubmit x y s) :=
  .groupInstr fun _ s => .either (.groupFault s _ _ _) (.either (.groupFault s _ _ _) (.either (.groupFault s _ _ _)
    (Keeps.postWake.trans (.advance _ _ _))))

end

section
variable {s t : State} {i : Instr} {a : Agent} {g core launch : Nat}

/-! ## `sys` and the fault queue (R72, R78, R282–R288) -/

theorem Keeps.dropTlb {mode va asid : Nat} : Keeps s (s.dropTlb mode va asid) := .of_eq rfl rfl rfl

theorem Keeps.noteUnmapped {mode va asid : Nat} : Keeps s (s.noteUnmapped mode va asid) := by
  refine .fold fun s q => ?_
  split
  · exact .charge s _ _ _ _
  · exact .refl s

theorem Keeps.resumeHeld {mask : W32} {cond : Bool} {pc : W64} : Keeps s (s.resumeHeld g mask cond pc).1 :=
  .either_fst (.refl s) (.either_fst (.either_fst (.refl s) (.setGang s _ _)) (.mapLanes s _ _ _))

theorem Keeps.resumeCopy {gang qid seq n : Nat} : Keeps s (s.resumeCopy core gang qid seq n).1 := by
  unfold State.resumeCopy
  simp only
  split
  · exact .refl s
  · exact .setCopy

theorem Keeps.resumePool {queue n done : Nat} : Keeps s (s.resumePool queue n done).1 := by
  unfold State.resumePool
  split
  · exact .either_fst .complete (.refl s)
  · exact .refl s

theorem Keeps.resumeStream {gang qid n : Nat} {k : Fin 4} : Keeps s (s.resumeStream gang qid k n).1 := by
  unfold State.resumeStream
  split
  · exact .setGang s _ _
  · split
    · exact .setLaunch s _ _
    · exact .refl s

theorem Keeps.resumeMx {qid seq : Nat} : Keeps s (s.resumeMx core qid seq).1 := by
  unfold State.resumeMx
  simp only
  split
  · exact .setMx
  · split
    · exact .setLaunch s _ _
    · exact .refl s

theorem Keeps.endGang : Keeps s (s.endGang g).1 := by
  unfold State.endGang
  refine .either_fst (.refl s) ?_
  dsimp only
  exact .after .exitCtx (.setGang s _ _)

theorem Keeps.resumeRecord {pa : Nat} : Keeps s (s.resumeRecord pa).1 := by
  unfold State.resumeRecord
  extract_lets u core g here info
  refine .either_fst (.refl s) ?_
  split
  · exact .either_fst .resumeHeld (.refl s)
  · exact .either_fst .resumePool .resumeCopy
  · exact .resumeStream
  · exact .resumeMx
  · exact .either_fst .endGang (.refl s)
  · exact .refl s

theorem Keeps.actResume {pa : Nat} : Keeps s (s.actResume pa) := Keeps.resumeRecord.trans (.writeDev _ _ _)

theorem Keeps.actResumes : Keeps s s.actResumes := (Keeps.setDev s _).trans (.fold fun _ _ => .actResume)

theorem Keeps.serveLock {n : Nat} : Keeps s (s.serveLock n) := by
  unfold State.serveLock
  split
  · exact (Keeps.grantLock.trans (.setDev _ _)).trans (.endWait _ _ _ _)
  · exact .refl s

theorem Keeps.wakeIdle : Keeps s (s.wakeIdle a) := by
  unfold State.wakeIdle
  split
  · exact .endWait s _ _ _
  · exact .refl s

theorem Keeps.wakeConductors : Keeps s s.wakeConductors := .fold fun _ _ => .wakeIdle

theorem KeepsOut.execSysTlbinv {x y : GSrc} {f : BitVec 2} : KeepsOut s (execSysTlbinv x y f s) :=
  .groupInstr fun _ s => .either (.groupFault s _ _ _) ((Keeps.dropTlb.trans .noteUnmapped).trans (.advance _ _ _))

theorem KeepsOut.execSysAsid {x : GSrc} : KeepsOut s (execSysAsid x s) :=
  .groupInstr fun _ s => .either (.groupFault s _ _ _) ((Keeps.setCtx s _ _).trans (.advance _ _ _))

theorem KeepsOut.execSysFqpop {d : GDst} : KeepsOut s (execSysFqpop d s) :=
  .groupInstr fun _ s => (Keeps.unless (.writeDev s _ _)).trans (.groupResult _ _ _ _ _ _)

theorem KeepsOut.execSysEresume {x : GSrc} : KeepsOut s (execSysEresume x s) :=
  .groupInstr fun _ s => .either (.groupFault s _ _ _) ((Keeps.setDev s _).trans (.advance _ _ _))

theorem KeepsOut.execSysMsi {x y : GSrc} : KeepsOut s (execSysMsi x y s) :=
  .groupInstr fun _ s => .either (.groupFault s _ _ _) (Keeps.postVector.trans (.advance _ _ _))

theorem KeepsOut.execSysEvqpop {d : GDst} : KeepsOut s (execSysEvqpop d s) := by
  refine .groupInstr fun a s => ?_
  split
  · exact .groupResult s _ _ _ _ _
  · refine .after (.groupResult _ _ _ _ _ _) ?_
    split
    · exact (Keeps.takeEvent s _).trans .grantLock
    · exact .takeEvent s _

theorem KeepsOut.execSysQlk {x : GSrc} : KeepsOut s (execSysQlk x s) :=
  .groupInstr fun _ s => .either (.groupFault s _ _ _) (((Keeps.setDev s _).trans (.startWait _ _ _ _)).trans .serveLock)

theorem KeepsOut.execSysQulk {x : GSrc} : KeepsOut s (execSysQulk x s) :=
  .groupInstr fun _ s => .either (.groupFault s _ _ _)
    (((Keeps.freeLock.trans .serveLock).trans .remap).trans (.advance _ _ _))

theorem KeepsOut.execSysSlot {x : GSrc} : KeepsOut s (execSysSlot x s) :=
  .groupInstr fun _ s => .either (.groupFault s _ _ _) ((Keeps.setDev s _).trans (.startWait _ _ _ _))

/-! ## Accesses performed (R201, R212, R225–R249) -/

theorem Keeps.setFlight {f : Flight} : Keeps s (s.setFlight f) := .of_eq rfl rfl rfl

theorem Keeps.readFlight {f : Flight} : Keeps s (s.readFlight f).1 := by
  unfold State.readFlight
  split
  · exact .either_fst (.loadBytes s _ _) (.loadCached s _ _ _)
  · exact .loadBytes s _ _

theorem Keeps.performLoad {f : Flight} {z : LSize} : Keeps s (s.performLoad f z) :=
  .after (.landBatch _ _) <| .after .setFlight <| .after (.when ((Keeps.acquired _ _ _).trans .sync)) .readFlight

theorem Keeps.cacheWrite {loc : Loc} {bs : List Byte} : Keeps s (s.cacheWrite core loc bs) := by
  unfold State.cacheWrite
  split
  · exact .setCore s _ _
  · exact .refl s

theorem Keeps.performStore {f : Flight} {v : BitVec 128} : Keeps s (s.performStore f v) :=
  (Keeps.cacheWrite.trans (.storeFrom _ _ _ _ _)).trans (.removeFlight _ _)

theorem Keeps.dropFor {loc : Loc} : Keeps s (s.dropFor a loc) := by
  unfold State.dropFor
  split
  · exact .dropLine s _ _
  · exact .refl s

theorem Keeps.performAtom {f : Flight} {op : Aop} {z : ASize} {b c : W64} : Keeps s (s.performAtom f op z b c) := by
  refine .after (.when ((Keeps.acquired _ _ _).trans .sync)) <| .after .setFlight <| .after .dropFor <|
    .trans (.loadBytes s f.loc (aSizeBytes z)) ?_
  split
  · exact .storeFrom _ _ _ _ _
  · exact .refl _

theorem Keeps.performSig {f : Flight} {add : Bool} {v : W64} : Keeps s (s.performSig f add v) := by
  refine .after (.removeFlight _ _) <| .after .dropFor ?_
  split
  · exact .signalUpdate
  · exact .refl s

theorem Keeps.strike {loc : Loc} : Keeps s (s.strike loc) := by
  unfold State.strike
  split
  · exact .of_eq rfl rfl rfl
  · exact .refl s

theorem Keeps.readError {f : Flight} : Keeps s (s.readError f) := by
  unfold State.readError
  extract_lets v s1 lost
  have k : Keeps s s1 := (Keeps.removeFlight s _).trans (.landBatch _ _)
  clear_value s1
  split
  · exact k.trans ((Keeps.setGang _ _ _).trans (.laneFaultBy _ _ _ _ _))
  · exact k.trans ((Keeps.setCtx _ _ _).trans .groupEcc)

theorem Keeps.metError {f : Flight} : Keeps s (s.metError f) :=
  .either ((Keeps.removeFlight s _).trans (.landBatch _ _)) (.when .readError)

theorem Keeps.performRmw {f : Flight} : Keeps s (s.performRmw f) := by
  refine .either .metError ?_
  split
  · exact .performAtom
  · exact .performSig
  · exact .refl s
  · exact .refl s

theorem Keeps.endAddrWait {d : Dst} {v : W64} : Keeps s (s.endAddrWait a d v) := by
  unfold State.endAddrWait
  split
  · exact .setGang s _ _
  · simp only
    exact ((Keeps.setCtx s _ _).trans (.groupResult _ _ _ _ _ _)).trans (.setCtx _ _ _)

theorem Keeps.waitPlace {loc : Loc} {dotD : Bool} {va : W64} : Keeps s (s.waitPlace a loc dotD va).1 :=
  .either_fst (.translate s _ _ _ _ _ _) (.refl s)

theorem Keeps.waitFault {cause : Byte} {va : W64} : Keeps s (s.waitFault a cause va) := by
  unfold State.waitFault
  split
  · exact .laneFaultBy s _ _ _ _
  · exact .laneFaultOf s _ _ _ _ _
  · exact (Keeps.setCtx s _ _).trans (.either .groupEcc (.groupFaultOf _ _ _ _ _))

theorem Keeps.observe {w : Wait} {final : Bool} : Keeps s (s.observe a w final) := by
  unfold State.observe
  split
  · refine .unless ?_
    split
    · exact (Keeps.fst .waitPlace ‹_›).trans .waitFault
    · refine (Keeps.fst .waitPlace ‹_›).trans (.either .waitFault ?_)
      split
      refine (Keeps.fst (.loadBytes _ _ _) ‹_›).trans ?_
      exact .either ((Keeps.endAddrWait.trans (.acquired _ _ _)).trans .sync) (.when .endAddrWait)
  · exact .refl s

theorem Keeps.finalRead : Keeps s (s.finalRead a) := by
  unfold State.finalRead
  split
  · exact .when .observe
  · exact .refl s

theorem Keeps.finalReads : Keeps s s.finalReads :=
  .after (.fold fun _ _ => .finalRead) <| .after (.fold fun _ _ => .finalRead) (.fold fun _ _ => .fold fun _ _ => .finalRead)

theorem KeepsOut.execLoadReturn {id : Nat} {ecc : Bool} : KeepsOut s (execLoadReturn id ecc s) := by
  unfold Machine.execLoadReturn
  split
  · exact .stay
  · split
    · exact .either .stay (.next ((Keeps.when .strike).trans (.either .metError .performLoad)))
    · exact .stay

theorem KeepsOut.execStorePerformed {id : Nat} : KeepsOut s (execStorePerformed id s) := by
  unfold Machine.execStorePerformed
  split
  · exact .stay
  · split
    · exact .next (.when .performStore)
    · exact .stay

theorem KeepsOut.execAtomicReply {id : Nat} : KeepsOut s (execAtomicReply id s) := by
  unfold Machine.execAtomicReply
  split
  · exact .stay
  · split
    · exact .stay
    · exact .next ((Keeps.deliver s _ _ _ _).trans (.removeFlight _ _))
    · exact .either (.next .performRmw) .stay

theorem KeepsOut.execWaitaReread : KeepsOut s (execWaitaReread a s) := by
  unfold Machine.execWaitaReread
  split
  · exact .next (.when .observe)
  · exact .stay

theorem KeepsOut.execWaitaTimeout : KeepsOut s (execWaitaTimeout a s) := by
  unfold Machine.execWaitaTimeout
  split
  · exact .next (.when .observe)
  · exact .stay

/-! ## Traps, records and engines on their own (R117, R215, R223, R276–R284) -/

theorem Keeps.enterHandler {cause : Byte} {v : W64} {lanes : Option Parked} : Keeps s (s.enterHandler g cause v lanes) :=
  (Keeps.fresh s).trans (.setGang _ _ _)

theorem Keeps.takeTrap : Keeps s (s.takeTrap g) := by
  unfold State.takeTrap
  refine .unless ?_
  split
  · exact .enterHandler
  · exact ((Keeps.chargeFault s _ _ _ _).trans (.setGang _ _ _)).trans .enterHandler
  · exact (Keeps.setGang s _ _).trans .enterHandler
  · exact .refl s

theorem Keeps.interrupted {v : Nat} : Keeps s (s.interrupted a v) := (Keeps.when (.endWait s _ _ _)).trans (.setCtx _ _ _)

theorem Keeps.fqInterrupt : Keeps s s.fqInterrupt := .when .postVector

theorem Keeps.postRecord {n : Nat} {r : Record} : Keeps s (s.postRecord n r) := by
  unfold State.postRecord
  split
  · exact .unless ((Keeps.writeDev s _ _).trans (.setDev _ _))
  · exact .unless (.after .wakeConductors <| .after .fqInterrupt <| .after (.setDev _ _) <| .after (.writeDev _ _ _) (.writeDev s _ _))

theorem KeepsOut.execSteppeInterrupt {thr : Nat} : KeepsOut s (execSteppeInterrupt core thr s) := by
  unfold Machine.execSteppeInterrupt
  split
  · exact .stay
  · exact .next ((Keeps.setDev s _).trans .interrupted)

theorem KeepsOut.execMsiDelivery {n : Nat} : KeepsOut s (execMsiDelivery n s) := by
  unfold Machine.execMsiDelivery
  split
  · exact .stay
  · exact .next (.setDev s _)

theorem KeepsOut.execFaultRecordPost {n : Nat} : KeepsOut s (execFaultRecordPost n s) := by
  unfold Machine.execFaultRecordPost
  split
  · exact .either .stay (.next .postRecord)
  · exact .stay

theorem KeepsOut.execInstructionFetchFill : KeepsOut s (execInstructionFetchFill a s) := by
  unfold Machine.execInstructionFetchFill
  split
  · exact .stay
  · exact .next ((Keeps.loadBytes s _ _).trans (.setCore _ _ _))

theorem KeepsOut.execCopyStart : KeepsOut s (execCopyStart core launch s) := by
  unfold Machine.execCopyStart
  split
  · exact .stay
  · exact .either .stay (.next .setCopy)

theorem KeepsOut.execCopyCompletion : KeepsOut s (execCopyCompletion core launch s) := by
  unfold Machine.execCopyCompletion
  split
  · exact .stay
  · split
    · exact .next (((Keeps.fst .copyFinish ‹_›).trans .copyLeave).trans (.chargeLate _ _))
    · exact .next (.fst .copyFinish ‹_›)
    · exact .stay

theorem KeepsOut.execCopyStop {ecc : Option Nat} : KeepsOut s (execCopyStop core launch ecc s) := by
  unfold Machine.execCopyStop
  simp only
  split
  · exact .stay
  · split
    · split
      · exact .next ((Keeps.struck.trans (.fst .copyFinish ‹_›)).trans .copyHalt)
      · exact .stay
    · exact .stay

theorem KeepsOut.execXferStart : KeepsOut s (execXferStart core s) := by
  unfold Machine.execXferStart
  split
  · exact .stay
  · exact .either .stay (.next ((Keeps.nextCopy.trans (.setCore _ _ _)).trans .copyEnter))

theorem KeepsOut.execSlotSwitch : KeepsOut s (execSlotSwitch s) := by
  unfold Machine.execSlotSwitch
  split
  · exact .next .switchSlot
  · exact .stay

theorem KeepsOut.execRollBack : KeepsOut s (execRollBack s) := by
  unfold Machine.execRollBack
  split
  · exact .either (.next (.rollBack s)) .stay
  · exact .stay

theorem KeepsOut.execWatchdogExpiry : KeepsOut s (execWatchdogExpiry s) := .either .stay (.next (.firmwareFault s _ _ _))

/-! ## The outside (R75, R79, R254, R296–R304) -/

theorem Keeps.answered {bs : List Byte} : Keeps s (s.answered bs) := .setDev s _

theorem Keeps.outsideWrite {addr n : Nat} {v : W64} : Keeps s (s.outsideWrite addr n v) := .storeBytes s _ _ _

theorem Keeps.outsideAccess {addr n : Nat} {wr : Option W64} : Keeps s (s.outsideAccess addr n wr) := by
  unfold State.outsideAccess
  refine .unless ?_
  split
  · exact .outsideWrite
  · exact .answered

theorem KeepsOut.execHostBar4Access {addr n : Nat} {wr : Option W64} : KeepsOut s (execHostBar4Access addr n wr s) :=
  .either .stay (.either (.next .outsideAccess) (.either .stay (.next .answered)))

theorem KeepsOut.execHostAtomicop {addr : Nat} {z : ASize} {op : Aop} {b c : W64} : KeepsOut s (execHostAtomicop addr z op b c s) := by
  unfold Machine.execHostAtomicop
  refine .either .stay ?_
  simp only
  split
  · exact .next (Keeps.answered.trans .outsideWrite)
  · exact .next .answered

theorem KeepsOut.execPeerAccess {peer addr n : Nat} {wr : Option W64} : KeepsOut s (execPeerAccess peer addr n wr s) := by
  refine .either .stay (.either ?_ (.next .outsideAccess))
  split
  · exact .either (.next .wakeStore) .stay
  · exact .stay

theorem KeepsOut.execMeshOrLinkRetry {retry : Retry} : KeepsOut s (execMeshOrLinkRetry launch retry s) := by
  unfold Machine.execMeshOrLinkRetry
  split
  · exact .stay
  · extract_lets clk n t s1
    have k : Keeps s s1 := .when ((Keeps.setLaunch s _ _).trans (.retryCopies _ _ _ _))
    split
    · exact .either (.next (k.trans (.charge _ _ _ _ _))) (.next k)
    · exact .next k

theorem Keeps.stage {n : Nat} : Keeps s (s.stage n) := (Keeps.setDev s _).trans (.log _ _ _ _ _ _ _)

theorem Keeps.bootVerify : Keeps s s.bootVerify :=
  .unless ((Keeps.log s _ _ _ _ _ _).trans (.either .stage (.setDev _ _)))

theorem Keeps.bootTables : Keeps s s.bootTables :=
  .after .stage <| .after (.pokeBytes _ _ _) ⟨wf_filter _, id, rfl⟩

theorem Keeps.bootStart : Keeps s s.bootStart := by
  unfold State.bootStart
  extract_lets s1 _ s2 _ thread s3 owed s4
  have k : Keeps s s3 := .after (.resetPool _) <| .trans (.stage (n := 7)) (.of_eq rfl rfl rfl)
  exact k.trans (.after (.fold fun s _ => .breach s _ _ _ _) (.setDev _ _))

theorem KeepsOut.execBootStageReached {pairs : BitVec 12} {clusters : BitVec 48} :
    KeepsOut s (execBootStageReached pairs clusters s) := by
  unfold Machine.execBootStageReached
  split
  · exact .next .stage
  · exact .next .stage
  · exact .next .bootVerify
  · exact .next ((Keeps.setDev s _).trans .stage)
  · exact .next ((Keeps.setDev s _).trans .stage)
  · exact .next .bootTables
  · exact .next ((Keeps.bootLoad s).trans .bootStart)
  · exact .stay

theorem KeepsOut.execErrorCounterUpdate : KeepsOut s (execErrorCounterUpdate core s) :=
  .either (.next (((Keeps.setCore s _ _).trans (.pokeLE _ _ _ _)).trans (.pokeLE _ _ _ _))) .stay

theorem Keeps.reply {kind : Nat} {ws : List W64} : Keeps s (s.reply kind ws) := .setDev s _

theorem Keeps.spdm {kind : Nat} : Keeps s (s.spdm kind) := .of_eq rfl rfl rfl

theorem KeepsOut.execTelemetryRead : KeepsOut s (execTelemetryRead s) := by
  refine .next (.after .reply (.of_eq ?_ ?_ ?_)) <;> rfl

/-! ## Pre-emption (R290–R292) -/

theorem Keeps.notePoints : Keeps s s.notePoints := .of_eq rfl rfl rfl

theorem Keeps.freeze {id : Nat} {l : Launch} : Keeps s (s.freeze id l) := (Keeps.setLaunch s _ _).trans (.mapGangs fun _ => rfl)

theorem Keeps.saveControls : Keeps s (s.saveControls g) := (Keeps.unless .writeControl).trans (.unless .writeControl)

theorem Keeps.saveLaunch {id : Nat} {l : Launch} : Keeps s (s.saveLaunch id l) :=
  .after (.setLaunch _ _ _) <| .after (.fold fun s _ => .setCore s _ _) <| .after .filterGangs (.fold fun _ _ => .saveControls)

theorem Keeps.resumeCore {id : Nat} {l : Launch} {m : List (Nat × List (Nat × Nat))} {e : Nat × List (Nat × Nat)} :
    Keeps s (s.resumeCore id l m e) := .setCore s _ _

theorem Keeps.resumeLaunch {id : Nat} {l : Launch} {m : List (Nat × List (Nat × Nat))} : Keeps s (s.resumeLaunch id l m) := by
  unfold State.resumeLaunch
  extract_lets away n s1 s2 s3
  have k : Keeps s s2 := (Keeps.fold fun _ _ => .resumeCore).trans (.fold fun s _ => .setGang s _ _)
  clear_value s2
  refine .after (.setLaunch _ _ _) (k.trans ?_)
  simp only [s3]
  split
  · exact .setQuote _ _
  · exact .refl _

theorem KeepsOut.execPreemptionSave : KeepsOut s (execPreemptionSave launch s) := by
  unfold Machine.execPreemptionSave
  split
  · exact .stay
  · exact .either .stay (.either (.either (.next .freeze) .stay) (.either .stay (.next .saveLaunch)))

theorem KeepsOut.execPreemptionResume : KeepsOut s (execPreemptionResume launch s) := by
  unfold Machine.execPreemptionResume
  split
  · exact .stay
  · refine .either .stay ?_
    split
    · exact .next .resumeLaunch
    · exact .stay

end

section
variable {s t u : State} {i : Instr} {a : Agent} {g core launch : Nat}

/-! ## Every instruction and event -/

/-- Memory stays in its canonical form and the gangs in their order, whatever becomes of the issue context. -/
structure Carries (s t : State) : Prop where
  mem : Memory.wf s.mem = true → Memory.wf t.mem = true
  gangs : s.InOrder → t.InOrder

/-- So they do, and where nothing is in issue nothing comes into issue. -/
structure Continues (s t : State) : Prop extends Carries s t where
  idle : s.issue = Issue.idle → t.issue = Issue.idle

/-- What an outcome carries on, where it answers a next state. -/
def ContinuesOut (s : State) (o : Out) : Prop := ∀ t, o = .next t → Continues s t

theorem Carries.trans (h : Carries s t) (k : Carries t u) : Carries s u := ⟨k.mem ∘ h.mem, k.gangs ∘ h.gangs⟩

theorem Continues.trans (h : Continues s t) (k : Continues t u) : Continues s u :=
  ⟨h.toCarries.trans k.toCarries, k.idle ∘ h.idle⟩

theorem Keeps.continues (h : Keeps s t) : Continues s t := ⟨⟨h.mem, h.gangs⟩, h.issue.trans⟩

theorem Keeps.carries (h : Keeps s t) : Carries s t := h.continues.toCarries

theorem KeepsOut.continues {o : Out} (h : KeepsOut s o) : ContinuesOut s o := fun t e => (h t e).continues

theorem ContinuesOut.next (h : Continues s t) : ContinuesOut s (.next t) := fun _ e => by
  cases e
  exact h

/-- After a reset memory is empty, no gang is left, and nothing is in issue. -/
theorem Continues.afterReset : Continues s s.afterReset := ⟨⟨fun _ => rfl, fun _ => .nil⟩, fun _ => rfl⟩

theorem Continues.resetMain {cause : Nat} : Continues s (s.resetMain cause) :=
  ((Keeps.log s _ _ _ _ _ _).continues.trans .afterReset).trans ((Keeps.setDev _ _).trans .stage).continues

theorem ContinuesOut.execPowerOn : ContinuesOut s (execPowerOn s) :=
  .next (Continues.afterReset.trans ((Keeps.setDev _ _).trans .stage).continues)

theorem ContinuesOut.execThermalEmergency {temp : BitVec 16} : ContinuesOut s (execThermalEmergency temp s) := by
  unfold Machine.execThermalEmergency
  split
  · exact KeepsOut.stay.continues
  · exact .next (((Keeps.log s _ _ _ _ _ _).trans (.setDev _ _)).continues.trans .resetMain)

/-- A `route` or `accsrc` word changes the issue context, where there is one (R47). -/
theorem ContinuesOut.prefixWord {take : Issue → Issue} : ContinuesOut s (prefixWord i s take) := by
  intro t e
  unfold Machine.prefixWord at e
  split at e
  · exact nomatch e
  · rename_i g n who
    have k : Keeps s (s.settle (.lane g n)) := .settle s _
    have busy : s.issue ≠ Issue.idle := fun h => by simp [h, Issue.idle] at who
    simp only at e
    split at e <;> cases e
    · exact (k.trans (.laneFault _ _ _ _ _)).continues
    · have j := k.trans (.spendIssue (s.settle (.lane g n)) (.lane g n) i)
      exact ⟨⟨j.mem, j.gangs⟩, fun h => absurd h busy⟩
  · cases e
    exact (Keeps.groupFault s _ _ _).continues

/-- Every instruction word and every event: no step of any of them leaves memory out of its form or the gangs out of
their order, and only a `route` or `accsrc` in a unit changes what is in issue (R12, R47, R199). -/
theorem exec_continues (i : Instr) (s : State) : ContinuesOut s (exec i s) := by
  cases i
  all_goals unfold exec
  case route | accsrc => exact .prefixWord
  case powerOn => exact .execPowerOn
  case mainSideReset => exact .next .resetMain
  case thermalEmergency => exact .execThermalEmergency
  case add | sub | mul | mulhs | mulhu | mad | mins | minu | maxs | maxu | and | or | xor | shl | shru | shrs | addss | addus
    | subss | subus | ceq | cne | clts | cltu | cles | cleu | bsel | not | neg | abs | popc | clz | ctz | brev | bswap | movi
    | fadd | fsub | fmul | ffma | fmin | fmax | fceq | fclt | fcle | fcun
    | fneg | fabs | fsqrt | frcp | frsq | fexp2 | flog2 | fsinpi | fcospi | ftanh | ffloor | fceil | ftrunc | frint | fclass
    | cvt => exact KeepsOut.laneAlu.continues
  case addi | andi | ori | xori | shli | shrui | shrsi => exact KeepsOut.intImm.continues
  case bfpk | bfpu => exact KeepsOut.laneBlock.continues
  case ld | ldacq => exact KeepsOut.laneLoad.continues
  case st | strel => exact KeepsOut.laneStore.continues
  case atom => exact KeepsOut.execAtom.continues
  case waita => exact KeepsOut.execWaita.continues
  case xset | xadd | loop | guard | csrw | nop => exact (KeepsOut.laneEach fun _ _ _ => .onLane).continues
  case exit => exact (KeepsOut.laneEach fun _ _ _ => .laneExit).continues
  case qpop => exact KeepsOut.execQpop.continues
  case qpush => exact (KeepsOut.laneQueue fun _ _ _ => .uqPush).continues
  case qlen => exact (KeepsOut.laneQueue fun s _ _ => .setGang s _ _).continues
  case br | brz | brnz => exact KeepsOut.laneBranch.continues
  case call | calli =>
    exact (KeepsOut.laneEachWith (fun _ _ _ => .spendSpills) (fun s _ _ => .refl s) fun _ _ _ => .laneCall).continues
  case ret => exact KeepsOut.execRet.continues
  case join | leave | wait => exact KeepsOut.laneMask.continues
  case bbr | bbrz | bbrnz => exact KeepsOut.laneGuarded.continues
  case waitc => exact (KeepsOut.laneStep fun _ _ s => .refl s).continues
  case fence => exact (KeepsOut.laneStep fun _ _ _ => .fold fun _ _ => .fenced).continues
  case trap => exact KeepsOut.execTrap.continues
  case getwid | csrr => exact KeepsOut.laneWrite.continues
  case groupAdd | groupSub | groupMul | groupMulhs | groupMulhu | divs | divu | rems | remu | groupMins | groupMinu | groupMaxs
    | groupMaxu | groupAnd | groupOr | groupXor | groupShl | groupShru | groupShrs | groupCeq | groupCne | groupClts
    | groupCltu => exact KeepsOut.groupAlu.continues
  case groupAddi | groupAndi | groupOri | groupXori | groupShli | groupShrui | groupShrsi => exact KeepsOut.groupImm.continues
  case sel | movw | lim | limh => exact KeepsOut.groupWrite.continues
  case groupLd | groupLdacq => exact KeepsOut.groupLoad.continues
  case groupSt | groupStrel => exact KeepsOut.groupStore.continues
  case groupAtom => exact KeepsOut.execGroupAtom.continues
  case groupWaita => exact KeepsOut.continues fun _ => groupMemory_keeps fun s _ _ => .startWait s _ _ _
  case b | bz | bnz => exact KeepsOut.groupBranch.continues
  case groupCall | groupCalli => exact (KeepsOut.groupEach fun _ _ => .groupCall).continues
  case groupLoop => exact (KeepsOut.groupEach fun s _ => .either (.advance s _ _) (.setCtx s _ _)).continues
  case groupRet => exact (KeepsOut.groupInstr fun _ _ => .either .groupExit .groupRet).continues
  case groupExit => exact (KeepsOut.groupInstr fun _ _ => .groupExit).continues
  case groupGuard => exact (KeepsOut.groupInstr fun _ s => (Keeps.setCtx s _ _).trans (.advance _ _ _)).continues
  case groupWaitc | groupNop => exact (KeepsOut.groupInstr fun _ s => .advance s _ _).continues
  case groupFence => exact (KeepsOut.groupInstr fun _ _ => Keeps.fenced.trans (.advance _ _ _)).continues
  case groupTrap => exact KeepsOut.execGroupTrap.continues
  case groupCsrr => exact (KeepsOut.groupInstr fun _ s => .either (.groupResult s _ _ _ _ _) (.groupFault s _ _ _)).continues
  case groupCsrw =>
    exact (KeepsOut.groupInstr fun _ s => .either (Keeps.writeCsr.trans (.advance _ _ _)) (.groupFault s _ _ _)).continues
  case idle => exact (KeepsOut.groupInstr fun _ s => .startWait s _ _ _).continues
  case groupBbr | groupBbrz | groupBbrnz => exact KeepsOut.groupGuarded.continues
  case eret | eretLanes => exact KeepsOut.handlerReturn.continues
  case qcfg => exact KeepsOut.execQcfg.continues
  case groupQpush =>
    exact (KeepsOut.condQueue fun _ _ => (Keeps.dqClaim.trans .covers).trans (.advance _ _ _)).continues
  case groupQpop => exact KeepsOut.execGroupQpop.continues
  case groupQlen => exact (KeepsOut.condQueue fun _ s => .groupResult s _ _ _ _ _).continues
  case strm => exact KeepsOut.execStrm.continues
  case strmgo => exact KeepsOut.execStrmgo.continues
  case mxq => exact KeepsOut.execMxq.continues
  case mxctlTake => exact (KeepsOut.condInstr fun _ s => .either (.groupFault s _ _ _) (.startWait s _ _ _)).continues
  case mxctlPass => exact KeepsOut.execMxctlPass.continues
  case mxctlTilewait => exact (KeepsOut.condInstr fun _ s => .advance s _ _).continues
  case mxctlCtab => exact KeepsOut.execMxctlCtab.continues
  case mxsave => exact KeepsOut.execMxsave.continues
  case mxrest => exact KeepsOut.execMxrest.continues
  case cpy => exact KeepsOut.execCpy.continues
  case barInit => exact KeepsOut.execBarInit.continues
  case barArrive => exact KeepsOut.execBarArrive.continues
  case barWait => exact (KeepsOut.barMode fun _ _ => .awaitPhase).continues
  case barSync => exact KeepsOut.execBarSync.continues
  case barPost => exact KeepsOut.execBarPost.continues
  case barTake => exact (KeepsOut.barMode fun _ s => .startWait s _ _ _).continues
  case barStat => exact KeepsOut.execBarStat.continues
  case watchArm => exact KeepsOut.execWatchArm.continues
  case watchDisarm | watchQuery => exact KeepsOut.watchAsk.continues
  case spawn => exact KeepsOut.execSpawn.continues
  case shareJoin => exact KeepsOut.execShareJoin.continues
  case shareLeave => exact KeepsOut.execShareLeave.continues
  case shareQuery => exact KeepsOut.execShareQuery.continues
  case phaseComp | phaseComm => exact KeepsOut.phaseEnd.continues
  case phaseXfer => exact KeepsOut.execPhaseXfer.continues
  case quoteReq => exact KeepsOut.execQuoteReq.continues
  case quoteAcc => exact (KeepsOut.quoteId fun _ _ _ => .accept).continues
  case quoteDec => exact (KeepsOut.quoteId fun _ _ _ => .decline).continues
  case quoteActual => exact KeepsOut.execQuoteActual.continues
  case submit => exact KeepsOut.execSubmit.continues
  case sigSet | sigAdd => exact KeepsOut.signalInstr.continues
  case sysTlbinv => exact KeepsOut.execSysTlbinv.continues
  case sysAsid => exact KeepsOut.execSysAsid.continues
  case sysEresume => exact KeepsOut.execSysEresume.continues
  case sysFqpop => exact KeepsOut.execSysFqpop.continues
  case sysMsi => exact KeepsOut.execSysMsi.continues
  case sysEvqpop => exact KeepsOut.execSysEvqpop.continues
  case sysQlk => exact KeepsOut.execSysQlk.continues
  case sysQulk => exact KeepsOut.execSysQulk.continues
  case sysHbeat => exact (KeepsOut.groupInstr fun _ _ => Keeps.heartbeat.trans (.advance _ _ _)).continues
  case sysSlot => exact KeepsOut.execSysSlot.continues
  case maskWrite => exact (KeepsOut.either (.next .writeMask) .stay).continues
  case fslotWrite | fwdtWrite | sfqbWrite => exact (KeepsOut.next (.setDev s _)).continues
  case secDigest | secVerify | secExtend | secResetSponge | secAbsorb | secSqueeze => exact (KeepsOut.next .secStart).continues
  case secCommandDone => exact (KeepsOut.next .secDone).continues
  case invalid => exact KeepsOut.execInvalid.continues
  case quote => exact KeepsOut.execQuote.continues
  case accept => exact KeepsOut.execAccept.continues
  case decline => exact KeepsOut.execDecline.continues
  case launch => exact KeepsOut.execLaunch.continues
  case copy => exact KeepsOut.execCopy.continues
  case signal => exact KeepsOut.execSignal.continues
  case barrier => exact KeepsOut.execBarrier.continues
  case watch => exact KeepsOut.execWatch.continues
  case wakeRegisterStore => exact (KeepsOut.either (.next .wakeStore) .stay).continues
  case wakeEvent => exact KeepsOut.execWakeEvent.continues
  case signalChanged => exact KeepsOut.execSignalChanged.continues
  case periodicTick => exact KeepsOut.execPeriodicTick.continues
  case idleWake => exact (KeepsOut.either (.next .wakeIdle) .stay).continues
  case quoteWalkStart => exact KeepsOut.execQuoteWalkStart.continues
  case quoteWalkEnd => exact KeepsOut.execQuoteWalkEnd.continues
  case pinDone => exact KeepsOut.execPinDone.continues
  case validityDeadline => exact KeepsOut.execValidityDeadline.continues
  case launchStart => exact KeepsOut.execLaunchStart.continues
  case blockStart => exact (KeepsOut.next .startNext).continues
  case readyTaskDispatch => exact KeepsOut.execReadyTaskDispatch.continues
  case retirement => exact KeepsOut.execRetirement.continues
  case preemptionSave => exact KeepsOut.execPreemptionSave.continues
  case preemptionResume => exact KeepsOut.execPreemptionResume.continues
  case registerWriteback => exact (KeepsOut.next (.settle s _)).continues
  case loadReturn => exact KeepsOut.execLoadReturn.continues
  case storePerformed => exact KeepsOut.execStorePerformed.continues
  case serviceGangStep => exact (KeepsOut.next (.fold fun _ _ => .performRmw)).continues
  case atomicReply => exact KeepsOut.execAtomicReply.continues
  case instructionFetchFill => exact KeepsOut.execInstructionFetchFill.continues
  case trapEntry => exact (KeepsOut.either (.next .takeTrap) .stay).continues
  case steppeInterrupt => exact KeepsOut.execSteppeInterrupt.continues
  case msiDelivery => exact KeepsOut.execMsiDelivery.continues
  case faultRecordPost => exact KeepsOut.execFaultRecordPost.continues
  case waitaReread => exact KeepsOut.execWaitaReread.continues
  case waitaTimeout => exact KeepsOut.execWaitaTimeout.continues
  case barWaitTimeout => exact KeepsOut.execBarWaitTimeout.continues
  case batonGrant => exact (KeepsOut.next .grantBaton).continues
  case shareLeaveRevoke => exact KeepsOut.execShareLeaveRevoke.continues
  case copyStart => exact KeepsOut.execCopyStart.continues
  case copyCompletion => exact KeepsOut.execCopyCompletion.continues
  case copyStop => exact KeepsOut.execCopyStop.continues
  case xferStart => exact KeepsOut.execXferStart.continues
  case streamEntryClaim => exact (KeepsOut.either .stay (.next .streamClaim)).continues
  case streamStop => exact (KeepsOut.either .stay (.next (Keeps.struck.trans .streamHalt))).continues
  case phaseStepStart => exact KeepsOut.execPhaseStepStart.continues
  case matrixOpStart => exact KeepsOut.execMatrixOpStart.continues
  case matrixNativeStep => exact KeepsOut.execMatrixNativeStep.continues
  case matrixOpComplete => exact KeepsOut.execMatrixOpComplete.continues
  case matrixErrorStop => exact KeepsOut.execMatrixErrorStop.continues
  case matrixWindowFault => exact KeepsOut.execMatrixWindowFault.continues
  case sparsityQueueTimeout => exact KeepsOut.execSparsityQueueTimeout.continues
  case triggerJoin => exact KeepsOut.execTriggerJoin.continues
  case formingGangReady => exact KeepsOut.execFormingGangReady.continues
  case slotSwitch => exact KeepsOut.execSlotSwitch.continues
  case rollBack => exact KeepsOut.execRollBack.continues
  case watchdogExpiry => exact KeepsOut.execWatchdogExpiry.continues
  case errorCounterUpdate => exact KeepsOut.execErrorCounterUpdate.continues
  case hostBar4Access => exact KeepsOut.execHostBar4Access.continues
  case hostAtomicop => exact KeepsOut.execHostAtomicop.continues
  case peerAccess => exact KeepsOut.execPeerAccess.continues
  case slotImageWrite => exact (KeepsOut.next (.setDev s _)).continues
  case thermalTrip => exact (KeepsOut.either .stay (.next ((Keeps.setDev s _).trans (.log _ _ _ _ _ _ _)))).continues
  case thermalRecovery => exact (KeepsOut.either (.next (.setDev s _)) .stay).continues
  case setEnvelope => exact (KeepsOut.either (.next ((Keeps.setDev s _).trans (.log _ _ _ _ _ _ _))) .stay).continues
  case getVersion | getCapabilities | negotiateAlgorithms | getDigests | getCertificate | challenge =>
    exact (KeepsOut.next .spdm).continues
  case getMeasurements => exact (KeepsOut.next .reply).continues
  case telemetryRead => exact KeepsOut.execTelemetryRead.continues
  case blackBoxRead => exact (KeepsOut.next ((Keeps.setDev s _).trans .reply)).continues
  case debugHalt => exact (KeepsOut.either (.next (.setGang s _ _)) .stay).continues
  case managementRequest => exact (KeepsOut.next (.postEvent s _ _ _)).continues
  case meshOrLinkRetry => exact KeepsOut.execMeshOrLinkRetry.continues
  case lazyBindingAllowanceExpiry => exact (KeepsOut.next .expireStubs).continues
  case bootStageReached => exact KeepsOut.execBootStageReached.continues

end

section
variable {s t u : State} {i : Instr} {a : Agent} {g core part launch : Nat} {m : W32} {cause : Byte} {v : W64} {o : Out}

/-! ## The picker and the end of a clock -/

theorem Keeps.setPart {f : Part → Part} : Keeps s (s.setPart core part f) := .dite (fun _ => .setCore s _ _) fun _ => .refl s

theorem Keeps.settlePart : Keeps s (s.settlePart core part) := .mapGangs fun _ => rfl

theorem Keeps.fetchFault : Keeps s (s.fetchFault a cause v) := by
  unfold State.fetchFault
  split
  · exact .laneFaultOf s _ _ _ _ _
  · exact .either .groupEcc (.groupFaultOf s _ _ _ _)

theorem Keeps.faultByPc : Keeps s (s.faultByPc g m cause v) := .fold fun s _ => .laneFault s _ _ _ _

theorem Keeps.maskStall : Keeps s (s.maskStall g) := .when ((Keeps.mapLanes s _ _ _).trans .faultByPc)

theorem Keeps.queueStall : Keeps s (s.queueStall g) := Keeps.faultByPc.trans (.when (.groupFault _ _ _ _))

theorem Keeps.endGangClock : Keeps s (s.endGangClock g) :=
  .unless <| .after .takeTrap <| .after .queueStall <| .after .maskStall (.setGang s _ _)

theorem Keeps.eachGang {f : State → Nat → State} (h : ∀ s g, Keeps s (f s g)) : Keeps s (s.eachGang f) := .fold h

theorem Keeps.endCoreClock : Keeps s (s.endCoreClock core) :=
  .after (.setCore _ _ _) <| .after .grantBaton .serveSemaphores

theorem Keeps.beginClock : Keeps s s.beginClock := by
  unfold State.beginClock
  extract_lets s1
  have k : Keeps s s1 := by
    unfold s1
    split
    · exact KeepsOut.execRollBack _ ‹_›
    · exact .refl s
  split
  · exact k.trans (KeepsOut.execWatchdogExpiry _ ‹_›)
  · exact k

theorem Keeps.nextTick : Keeps s s.nextTick := .of_eq rfl rfl rfl

theorem Keeps.settleGangs : Keeps s { s with gangs := s.gangs.map fun (g, x) => (g, x.settle s.tick) } := .mapGangs fun _ => rfl

theorem Keeps.endClock : Keeps s s.endClock :=
  .after (.fold fun _ _ => .watchClock) <| .after .beginClock <| .after .actResumes <| .after .nextTick <|
  .after .settleVoids <| .after .notePoints <| .after .freeRetired <| .after .endBlocks <|
  .after (.eachGang fun _ _ => .reap) <| .after (.fold fun _ _ => .noteStep) <| .after (.eachGang fun _ _ => .barDeadline) <|
  .after (.fold fun _ _ => .endCoreClock) <| .after (.eachGang fun _ _ => .endGangClock) <|
  .after (.eachGang fun _ _ => .expireStubs) <| .after .finalReads .settleGangs

/-! ## Faults of the device -/

theorem Keeps.moveGranule : Keeps s (s.moveGranule core launch) := by
  unfold State.moveGranule
  split
  · exact .refl s
  · refine .unless ?_
    split
    · exact Keeps.fst .copyGranule ‹_›
    · exact .refl s

theorem Keeps.countLost : Keeps s (s.countLost core) := .setCore s _ _

theorem Keeps.tableLost : Keeps s (s.tableLost core) :=
  (Keeps.uncorrectable s _ _ _ _).trans (.fold fun s _ => .charge s _ _ _ _)

theorem Keeps.upset {x : Upset} : Keeps s (s.upset x) := by
  cases x <;> unfold State.upset <;> dsimp only
  case word => exact .struck
  case laneReg => exact .when (.setGang s _ _)
  case groupReg => exact .when (.setCtx s _ _)
  case corrected => exact .when .countError
  case line | tlb => exact .when ((Keeps.setCore s _ _).trans .countLost)
  case code => exact .setCore s _ _
  case oneCopy => exact .when .countLost
  case table => exact .when .tableLost
  case firm => exact .preemptFirm s _
  case watch =>
    split
    · exact .refl s
    · exact .unless ((Keeps.haltWatch s _ _ _ _).trans .tableLost)

/-! ## Issue -/

/-- What a run of a unit does to memory and the gangs, whatever it leaves in issue. -/
theorem runUnit_carries : ∀ (n : Nat) (s t : State), runUnit a n s = .next t → Carries s t
  | 0, s, t, e => by
    cases e
    exact (Keeps.refl s).carries
  | n + 1, s, t, e => by
    unfold runUnit at e
    split at e
    next f => cases e; exact (Keeps.fst .fetch f).carries
    next f => cases e; exact ((Keeps.fst .fetch f).trans .fetchFault).carries
    next r i f =>
      have k : Carries s r := (Keeps.fst .fetch f).carries
      split at e
      next w d =>
        have k := k.trans (exec_continues i r w d).toCarries
        split at e
        · have j := runUnit_carries n _ t e
          exact ⟨j.mem ∘ k.mem, j.gangs ∘ k.gangs⟩
        · cases e; exact k
      next d => exact absurd e (d t)

theorem ContinuesOut.stay : ContinuesOut s (.next s) := .next (Keeps.refl s).continues

theorem ContinuesOut.either {p : Prop} [Decidable p] {o o' : Out} (h : ContinuesOut s o) (k : ContinuesOut s o') :
    ContinuesOut s (if p then o else o') := by
  split
  · exact h
  · exact k

/-- An operation that first changes the state and then comes out somehow. -/
theorem Keeps.thenOut (h : Keeps s t) (k : ContinuesOut t o) : ContinuesOut s o := fun u e => h.continues.trans (k u e)

/-- An issue leaves nothing half issued, wherever its unit stopped. -/
theorem ContinuesOut.issueAs : ContinuesOut s (s.issueAs a m) := by
  intro t e
  unfold State.issueAs at e
  split at e
  next r d =>
    cases e
    have k := runUnit_carries 3 _ r d
    exact ⟨⟨k.mem, k.gangs⟩, fun _ => rfl⟩
  next d => exact absurd e (d t)

theorem ContinuesOut.issueGroup {pc : Nat} : ContinuesOut s (s.issueGroup g pc m) :=
  (Keeps.laneFault s _ _ _ _).thenOut (.either .stay .issueAs)

theorem ContinuesOut.issueLanes {k : Nat} : ContinuesOut s (s.issueLanes core part k) := by
  unfold State.issueLanes
  dsimp only
  split
  · exact .stay
  · exact (Keeps.setGang s _ _).thenOut (Keeps.setPart.thenOut .issueGroup)

theorem ContinuesOut.issueCond {k : Nat} : ContinuesOut s (s.issueCond core part k) := Keeps.setPart.thenOut .issueAs

theorem ContinuesOut.pick : ContinuesOut s (s.pick core part) := by
  have cond (t : State) (p : Option Nat) {o : Out} (h : ContinuesOut t o) :
      ContinuesOut t (match p with | some k => t.issueCond core part k | none => o) := by
    split
    · exact .issueCond
    · exact h
  unfold State.pick
  refine .either .stay ((Keeps.settlePart.trans .setPart).thenOut (.either (cond _ _ .stay) (cond _ _ ?_)))
  split
  · exact .issueLanes
  · exact cond _ _ .stay

theorem ContinuesOut.runOwn : ContinuesOut s (s.runOwn a) := by
  have own : ContinuesOut s (if (s.settle a).ctxReady a then (s.settle a).issueAs a 0 else .next (s.settle a)) :=
    (Keeps.settle s a).thenOut (.either .issueAs .stay)
  unfold State.runOwn
  split
  · exact .either (KeepsOut.execSteppeInterrupt.continues) own
  · exact own
  · exact .stay

/-! ## The step -/

theorem ContinuesOut.happen : ContinuesOut s (s.happen i) := .either (exec_continues i s) .stay

theorem ContinuesOut.fold {α : Type} {f : Out → α → Out} {l : List α} (h : ∀ o x, ContinuesOut s o → ContinuesOut s (f o x))
    (k : ContinuesOut s o) : ContinuesOut s (l.foldl f o) :=
  List.foldlRecOn l f k fun o k x _ => h o x k

theorem ContinuesOut.clock : ContinuesOut s s.clock := by
  have part {o : Out} (n : Nat) (h : ContinuesOut s o) :
      ContinuesOut s (match (generalizing := false) o with | .next s => s.pick (n / 16) (n % 16) | o => o) := by
    split
    · exact fun t e => (h _ rfl).trans (ContinuesOut.pick t e)
    · exact h
  intro t e
  unfold State.clock at e
  extract_lets picked at e
  have k : ContinuesOut s picked := .fold (fun _ n => part n) .stay
  clear_value picked
  split at e
  · exact ContinuesOut.next ((k _ rfl).trans Keeps.endClock.continues) t e
  · exact k t e

theorem ContinuesOut.act {x : Move} : ContinuesOut s (s.act x) := by
  cases x with
  | pick => exact .pick
  | run => exact .runOwn
  | event => exact .happen
  | granule => exact .next Keeps.moveGranule.continues
  | upset => exact .next Keeps.upset.continues
  | clock => exact .clock

/-- No step brings anything into issue, takes memory out of its canonical form or the gangs out of their order. -/
theorem step_continues : ContinuesOut s (step s) := by
  unfold step
  split
  · refine Keeps.thenOut ?_ ContinuesOut.act
    exact .of_eq rfl rfl rfl
  · refine Keeps.thenOut ?_ ContinuesOut.act
    exact .of_eq rfl rfl rfl

theorem Continues.sound (h : Continues s t) (k : Safety.Sound s) : Safety.Sound t :=
  ⟨h.mem k.mem, h.gangs k.gangs, h.idle k.issue⟩

end

/-- Settles O59: every operation of the model, and so every instruction, event and move, carries the parts of a sound
state on (`exec_continues`, `step_continues`); an issue ends with nothing in issue. -/
theorem soundStateIsKept : Obligations.SoundStateIsKept := by
  unfold Obligations.SoundStateIsKept
  exact fun _ t sound e => (step_continues t e).sound sound

section
variable {es : List (Option Trap)} {f : Trap} {order : List Byte} {m : W32} {chk : Fin 32 → Option Trap} {c : Byte} {v : W64}

/-! ## The fault that stands first (R36, R140) -/

theorem firstTrap_some (h : firstTrap es = some f) : some f ∈ es ∧ f.1 ∈ operandOrder := by
  unfold firstTrap at h
  obtain ⟨k, first, h⟩ := Option.bind_eq_some_iff.mp h
  have found := Option.join_eq_some_iff.mp h
  have cause : f.1 = k := by simpa using List.find?_some found
  exact ⟨List.mem_of_find?_eq_some found, cause ▸ List.mem_of_find?_eq_some first⟩

/-- Reads fail together when one of them fails with a cause of operand read. -/
theorem firstTrap_eq_none : firstTrap es = none ↔ ∀ f, some f ∈ es → f.1 ∉ operandOrder := by
  constructor
  · intro h f mem cause
    have h := Option.bind_eq_none_iff.mp h
    obtain ⟨k, first⟩ : ∃ k, (operandOrder.find? fun k => es.any fun y => y.map (·.1) = some k) = some k := by
      refine Option.isSome_iff_exists.mp (List.find?_isSome.mpr ⟨f.1, cause, ?_⟩)
      exact List.any_eq_true.mpr ⟨_, mem, by simp⟩
    have some_y := List.find?_some first
    obtain ⟨z, found⟩ := Option.isSome_iff_exists.mp (List.find?_isSome.mpr (List.any_eq_true.mp some_y))
    have h := h k first
    rw [found] at h
    cases z with
    | none => simpa using List.find?_some found
    | some z => exact nomatch h
  · intro h
    cases e : firstTrap es with
    | none => rfl
    | some f => exact absurd (firstTrap_some e).2 (h f (firstTrap_some e).1)

/-- Where all that fails fails alike, that is the fault. -/
theorem firstTrap_of_only (mem : some f ∈ es) (cause : f.1 ∈ operandOrder) (only : ∀ y, some y ∈ es → y = f) :
    firstTrap es = some f := by
  cases e : firstTrap es with
  | none => exact absurd cause (firstTrap_eq_none.mp e f mem)
  | some y => rw [only y (firstTrap_some e).1]

theorem firstFault_eq_none : firstFault order m chk = none ↔
    ∀ u : Fin 32, m.getLsbD u.val = true → ∀ f, chk u = some f → f.1 ∉ order := by
  have find : firstFault order m chk = none ↔
      (order.find? fun c => (threads m).any fun t => (chk t).map (·.1) = some c) = none := by
    unfold firstFault
    split <;> simp_all
  rw [find, List.find?_eq_none]
  simp only [List.any_eq_true, mem_threads, decide_eq_true_eq, Option.map_eq_some_iff, not_exists, not_and]
  exact ⟨fun h u on f e cause => h f.1 cause u on f e rfl, fun h c cause u on f e eq => h u on f e (eq ▸ cause)⟩

/-- Where every thread meets the same fault, the whole group takes it. -/
theorem firstFault_of_all {u : Fin 32} (on : m.getLsbD u.val = true) (cause : c ∈ order)
    (all : ∀ u : Fin 32, m.getLsbD u.val = true → chk u = some (c, v)) :
    ∃ x, firstFault order m chk = some (c, m, x) ∧ ∀ u : Fin 32, m.getLsbD u.val = true → x u = v := by
  cases e : firstFault order m chk with
  | none => exact absurd cause (firstFault_eq_none.mp e u on _ (all u on))
  | some r =>
    unfold firstFault at e
    split at e
    · exact nomatch e
    next k found =>
      cases e
      have same : c = k := by
        have met := List.find?_some found
        obtain ⟨t, there, eq⟩ := List.any_eq_true.mp met
        have eq := of_decide_eq_true eq
        rw [all t ((mem_threads m t).mp there)] at eq
        exact Option.some.inj eq
      subst same
      refine ⟨_, congrArg some (congrArg (Prod.mk c) (congrArg (·, _) ?_)), fun u on => by simp [all u on]⟩
      refine BitVec.eq_of_getLsbD_eq fun i lt => ?_
      have bit := maskOf_bit (fun t => m.getLsbD t.val && ((chk t).map (·.1) = some c)) ⟨i, lt⟩
      cases h : m.getLsbD i with
      | false => simpa [h] using bit
      | true => simpa [h, all ⟨i, lt⟩ h] using bit

end

section
variable {w n : Nat} {es : List Nat} {k : Nat}

/-! ## Packed elements (R39) -/

theorem element_lt (w : Nat) (v : W64) (k : Nat) : element w v k < 2 ^ w := Nat.mod_lt _ (Nat.two_pow_pos w)

/-- Elements stand side by side, the first of them lowest, and leave the bits above them clear. -/
theorem packElements_toNat {e : Nat} (fits : w * (es.length + 1) ≤ 64) :
    (packElements w es).toNat < 2 ^ (w * es.length) ∧
      (packElements w (e :: es)).toNat = e % 2 ^ w + 2 ^ w * (packElements w es).toNat := by
  induction es generalizing e with
  | nil =>
    have low : e % 2 ^ w < 2 ^ 64 :=
      (Nat.mod_lt _ (Nat.two_pow_pos w)).trans_le (Nat.pow_le_pow_right two_pos (by simpa using fits))
    exact ⟨by simp [packElements], by simpa [packElements, n64] using low⟩
  | cons d es ih =>
    have fits' : w * (es.length + 1) + w ≤ 64 := by simpa only [Nat.mul_add, Nat.mul_one, List.length_cons] using fits
    obtain ⟨lt, eq⟩ := ih (e := d) (by omega)
    have small (x : Nat) : x % 2 ^ w < 2 ^ w := Nat.mod_lt _ (Nat.two_pow_pos w)
    have rest : (packElements w (d :: es)).toNat < 2 ^ (w * (es.length + 1)) := by
      rw [eq, Nat.mul_add, Nat.mul_one, Nat.add_comm (w * _), Nat.pow_add]
      calc d % 2 ^ w + 2 ^ w * (packElements w es).toNat
          < 2 ^ w + 2 ^ w * (packElements w es).toNat := Nat.add_lt_add_right (small d) _
        _ = 2 ^ w * ((packElements w es).toNat + 1) := by rw [Nat.mul_add, Nat.mul_one, Nat.add_comm]
        _ ≤ 2 ^ w * 2 ^ (w * es.length) := Nat.mul_le_mul_left _ lt
    refine ⟨rest, ?_⟩
    have low : e % 2 ^ w < 2 ^ 64 := (small e).trans_le (Nat.pow_le_pow_right two_pos (by omega))
    have shifted : (packElements w (d :: es)).toNat * 2 ^ w < 2 ^ 64 :=
      calc (packElements w (d :: es)).toNat * 2 ^ w
          < 2 ^ (w * (es.length + 1)) * 2 ^ w := Nat.mul_lt_mul_of_pos_right rest (Nat.two_pow_pos w)
        _ = 2 ^ (w * (es.length + 1) + w) := (Nat.pow_add ..).symm
        _ ≤ 2 ^ 64 := Nat.pow_le_pow_right two_pos fits'
    rw [packElements, BitVec.toNat_or, BitVec.toNat_shiftLeft, n64, BitVec.toNat_ofNat, Nat.mod_eq_of_lt low,
      Nat.shiftLeft_eq, Nat.mod_eq_of_lt shifted, Nat.or_comm, Nat.mul_comm, ← Nat.two_pow_add_eq_or_of_lt (small e),
      Nat.add_comm]

theorem element_packElements (fits : w * es.length ≤ 64) (lt : k < es.length) : element w (packElements w es) k = es[k] % 2 ^ w := by
  induction es generalizing k with
  | nil => exact absurd lt (Nat.not_lt_zero k)
  | cons e es ih =>
    rw [List.length_cons] at fits
    obtain ⟨-, eq⟩ := packElements_toNat (e := e) fits
    unfold element f64 at ih ⊢
    rw [eq]
    cases k with
    | zero => simp
    | succ k =>
      have ih := ih (k := k) (by rw [Nat.mul_add] at fits; omega) (by simpa using lt)
      rw [Nat.add_mul, Nat.one_mul, Nat.add_comm (k * w), Nat.pow_add, ← Nat.div_div_eq_div_mul,
        Nat.add_mul_div_left _ _ (Nat.two_pow_pos w), Nat.div_eq_of_lt (Nat.mod_lt _ (Nat.two_pow_pos w)), Nat.zero_add, ih]
      rfl

theorem subs_eq_range (h : n ≤ 8) : subs n = List.range n := by
  rw [subs, show [0, 1, 2, 3, 4, 5, 6, 7] = List.range 8 from rfl, List.take_range, Nat.min_eq_left h]

theorem element_packElements_subs {f : Nat → Nat} (h : n ≤ 8) (fits : w * n ≤ 64) (lt : k < n) :
    element w (packElements w ((subs n).map f)) k = f k % 2 ^ w := by
  rw [subs_eq_range h, element_packElements (by simpa using fits) (by simpa using lt)]
  simp

/-! ## The Defile (R144–R146) -/

/-- Element `k` of a routed operand in thread `u`: its source element, where there is one in the issue group, and
the fill where there is none. -/
def routedElement (spec : RouteSpec) (own : Bool) (w n : Nat) (m : W32) (val : Fin 32 → W64) (perm : W64) (u : Fin 32)
    (k : Nat) : Nat :=
  let fill := if own then element w (val u) k else 0
  match Claims.sourceOf spec (32 * n) (u.val * n + k) (element w perm k) with
  | none => fill
  | some j => if h : j / n < 32 then if m.getLsbD (j / n) then element w (val ⟨j / n, h⟩) (j % n) else fill else fill

variable {spec : RouteSpec} {own : Bool} {m : W32} {val : Fin 32 → W64} {perm : W64} {u : Fin 32}

theorem sourceElement_eq_sourceOf (e p : Nat) : sourceElement spec e n p = Claims.sourceOf spec (32 * n) e p := by
  cases spec with
  | shup => simp only [sourceElement, Claims.sourceOf, ← Nat.not_le, ite_not]
  | shdn => simp only [sourceElement, Claims.sourceOf, ← Nat.not_lt, ite_not]
  | _ => rfl

theorem routed_eq (h : spec ≠ .none) :
    routed spec own w n m val perm u = packElements w ((subs n).map (routedElement spec own w n m val perm u)) := by
  have elements : routedElement spec own w n m val perm u = fun k =>
      let fill := if own then element w (val u) k else 0
      match sourceElement spec (u.val * n + k) n (element w perm k) with
      | none => fill
      | some j => if h : j / n < 32 then if m.getLsbD (j / n) then element w (val ⟨j / n, h⟩) (j % n) else fill else fill := by
    funext k
    rw [sourceElement_eq_sourceOf]
    rfl
  rw [elements]
  cases spec with
  | none => exact absurd rfl h
  | _ => rfl

theorem routedElement_lt : routedElement spec own w n m val perm u k < 2 ^ w := by
  have fill : (if own then element w (val u) k else 0) < 2 ^ w := by
    split
    · exact element_lt ..
    · exact Nat.two_pow_pos w
  unfold routedElement
  dsimp only
  split
  · exact fill
  · split
    · split
      · exact element_lt ..
      · exact fill
    · exact fill

theorem element_routed (h : spec ≠ .none) (few : n ≤ 8) (fits : w * n ≤ 64) (lt : k < n) :
    element w (routed spec own w n m val perm u) k = routedElement spec own w n m val perm u k := by
  rw [routed_eq h, element_packElements_subs few fits lt, Nat.mod_eq_of_lt routedElement_lt]

end

section
variable {e : ReadEnv} {s : State} {g : Nat} {m : W32} {w n : Nat} {d : LDst} {a : Option LSrc} {b : Option LOpB}
  {u : Fin 32} {r : LSrc} {o : Operands}

/-! ## What the reads of one thread give and what they meet -/

/-- Every failure of a read is one that operand read orders (R140). -/
def OrderedFailure {α : Type} (x : Except Trap α) : Prop := ∀ f, errOf x = some f → f.1 ∈ operandOrder

theorem OrderedFailure.ok {α : Type} {x : α} : OrderedFailure (.ok x) := fun _ h => nomatch h

theorem OrderedFailure.error {α : Type} {c : Byte} {v : W64} (h : c ∈ operandOrder) :
    OrderedFailure (.error (c, v) : Except Trap α) := by
  rintro _ ⟨⟩
  exact h

theorem OrderedFailure.bind {α β : Type} {x : Except Trap α} {f : α → Except Trap β} (h : OrderedFailure x)
    (k : ∀ y, OrderedFailure (f y)) : OrderedFailure (x.bind f) := by
  cases x with
  | error => exact fun f e => h f e
  | ok y => exact k y

theorem OrderedFailure.map {α β : Type} {x : Except Trap α} {f : α → β} (h : OrderedFailure x) : OrderedFailure (x.map f) := by
  cases x with
  | error => exact fun f e => h f e
  | ok => exact .ok

theorem OrderedFailure.either {α : Type} {p : Prop} [Decidable p] {x y : Except Trap α} (h : OrderedFailure x)
    (k : OrderedFailure y) : OrderedFailure (if p then x else y) := by
  split
  · exact h
  · exact k

theorem OrderedFailure.sound {l : Lane} {k : Nat} : OrderedFailure (l.sound k) := .either (.error (by decide)) .ok

theorem OrderedFailure.xReg {x : XReg} {k : Fin 4} {lanes : Nat} {word : W64} : OrderedFailure (xReg x k lanes word) :=
  .either (.error (by decide)) (.either (.error (by decide)) .ok)

theorem OrderedFailure.readSrc {l : Lane} : OrderedFailure (readSrc e u l r) := by
  cases r with
  | v => exact .sound
  | vx => exact OrderedFailure.xReg.bind fun _ => .sound
  | vz | tid => exact .ok

theorem OrderedFailure.readDst {l : Lane} : OrderedFailure (readDst e l d) := by
  cases d with
  | v | vz => exact .ok
  | vx => exact OrderedFailure.xReg.map

theorem OrderedFailure.readB {x : Gang} {l : Lane} {r : LOpB} : OrderedFailure (readB e x u l r) := by
  cases r with
  | lane => exact .readSrc
  | group => exact .either (.error (by decide)) .ok

theorem errOf_eq_none {α : Type} {x : Except Trap α} : errOf x = none ↔ ∃ v, x = .ok v := by
  cases x <;> simp [errOf]

theorem okOr_of_errOf {α : Type} {x : Except Trap α} {y : α} (h : errOf x = none) : x = .ok (okOr y x) := by
  cases x with
  | error => exact nomatch h
  | ok => rfl

theorem errOf_sound {l : Lane} {k : Nat} : errOf (l.sound k) = none ↔ k ∉ l.bad := by
  unfold Lane.sound
  split <;> simp_all [errOf]

/-! ## The operands of a group -/

/-- A read that an `accsrc` of the issue context may turn to a fragment: `onB` says which operand it is (R147). -/
def fragmentRead (s : State) (g : Nat) (onB : Bool) (u : Fin 32) (plain : Except Trap W64) : Except Trap W64 :=
  match s.issue.acc with
  | some (tile, row, ob, sup) =>
    if ob = onB then
      let k := fragTile tile sup
      if (s.core (gangCore g)).invalid.contains k then .error (0x15, n64 k)
      else .ok (fragment (s.core (gangCore g)) k row.toNat u)
    else plain
  | none => plain

/-- Thread `u`'s read of operand a. -/
def readOperandA (e : ReadEnv) (s : State) (g : Nat) (a : Option LSrc) (u : Fin 32) : Except Trap W64 :=
  match a with
  | some r => fragmentRead s g false u (readSrc e u (Claims.laneOf s g u) r)
  | none => .ok 0

/-- Thread `u`'s read of operand b. -/
def readOperandB (e : ReadEnv) (s : State) (g : Nat) (b : Option LOpB) (u : Fin 32) : Except Trap W64 :=
  match b with
  | some r => fragmentRead s g true u (readB e (s.gang g) u (Claims.laneOf s g u) r)
  | none => .ok 0

/-- The failure of a read of the destination that an instruction reads before it writes it. -/
def oldFailure (e : ReadEnv) (l : Lane) (q : Except Trap Dst) : Option Trap :=
  match e.old, q with
  | true, .ok (.reg k) => errOf (l.sound k)
  | _, _ => none

/-- What a routed operand's reads meet in thread `u`. -/
def routedFailures (spec : RouteSpec) (own : Bool) (w n : Nat) (m : W32) (l : Lane) (read : Fin 32 → Except Trap W64)
    (u : Fin 32) : List (Option Trap) :=
  [ownOf (errOf (read u)), routedFault spec own w n m (fun t => struckOf (errOf (read t))) (l.reg (permReg spec)) u]

/-- Everything that can fail in thread `u`. -/
def failures (e : ReadEnv) (s : State) (g : Nat) (m : W32) (w n : Nat) (d : LDst) (a : Option LSrc) (b : Option LOpB)
    (u : Fin 32) : List (Option Trap) :=
  let l := Claims.laneOf s g u
  let (ra, rb, own) := s.issue.route.getD (.none, .none, false)
  routedFailures ra own w n m l (readOperandA e s g a) u ++ routedFailures rb own w n m l (readOperandB e s g b) u ++
    [errOf (readDst e l d), oldFailure e l (readDst e l d)] ++ e.perms.map fun k => errOf (l.sound k)

/-- The operands where nothing fails. -/
def operandsOf (e : ReadEnv) (s : State) (g : Nat) (m : W32) (w n : Nat) (d : LDst) (a : Option LSrc) (b : Option LOpB) :
    Operands :=
  let (ra, rb, own) := s.issue.route.getD (.none, .none, false)
  let routedTo (spec : RouteSpec) (read : Fin 32 → Except Trap W64) (u : Fin 32) : W64 :=
    routed spec own w n m (fun t => okOr 0 (read t)) ((Claims.laneOf s g u).reg (permReg spec)) u
  { a := routedTo ra (readOperandA e s g a)
    b := routedTo rb (readOperandB e s g b)
    old := fun u =>
      match okOr .none (readDst e (Claims.laneOf s g u) d) with
      | .reg k => (Claims.laneOf s g u).reg k
      | _ => 0
    dst := fun u => okOr .none (readDst e (Claims.laneOf s g u) d) }

theorem gather_eq : gather e s g m w n d a b =
    match firstFault operandOrder m fun u => firstTrap (failures e s g m w n d a b u) with
    | some f => .error f
    | none => .ok (operandsOf e s g m w n d a b) := by
  rfl

end

section
variable {e : ReadEnv} {s : State} {g : Nat} {m : W32} {w n : Nat} {d : LDst} {a : Option LSrc} {b : Option LOpB}
  {u : Fin 32} {r : LSrc} {o : Operands} {va vb vo : W64} {q : Dst}

/-! ## When the operands of a group are read (R14, R140) -/

theorem gather_eq_ok : gather e s g m w n d a b = .ok o ↔
    (∀ u : Fin 32, m.getLsbD u.val = true → firstTrap (failures e s g m w n d a b u) = none) ∧
      operandsOf e s g m w n d a b = o := by
  have whole : firstFault operandOrder m (fun u => firstTrap (failures e s g m w n d a b u)) = none ↔
      ∀ u : Fin 32, m.getLsbD u.val = true → firstTrap (failures e s g m w n d a b u) = none := by
    rw [firstFault_eq_none]
    refine forall₂_congr fun u _ => ⟨fun h => ?_, fun h f e => by simp [h] at e⟩
    exact Option.eq_none_iff_forall_ne_some.mpr fun f e => h f e (firstTrap_some e).2
  rw [gather_eq, ← whole]
  split
  next h => simp [h]
  next h => simp [h]

theorem OrderedFailure.fragmentRead {onB : Bool} {x : Except Trap W64} (h : OrderedFailure x) :
    OrderedFailure (fragmentRead s g onB u x) := by
  unfold Machine.fragmentRead
  split
  · exact .either (.either (.error (by decide)) .ok) h
  · exact h

theorem OrderedFailure.readOperandA : OrderedFailure (readOperandA e s g a u) := by
  cases a with
  | none => exact .ok
  | some => exact .fragmentRead .readSrc

theorem OrderedFailure.readOperandB : OrderedFailure (readOperandB e s g b u) := by
  cases b with
  | none => exact .ok
  | some => exact .fragmentRead .readB

theorem oldFailure_ordered {l : Lane} {x : Except Trap Dst} {f : Trap} (h : oldFailure e l x = some f) : f.1 ∈ operandOrder := by
  unfold oldFailure at h
  split at h
  · exact OrderedFailure.sound f h
  · exact nomatch h

theorem oldFailure_eq_none {l : Lane} : oldFailure e l (.ok q) = none ↔ (e.old = true → ∀ n, q = .reg n → n ∉ l.bad) := by
  unfold oldFailure
  split
  next k old h => cases h; simp [old, errOf_sound]
  next h => exact ⟨fun _ old n eq => absurd (eq ▸ rfl) (h n old), fun _ => rfl⟩

/-- Without a route, what can fail in a thread is its own. -/
theorem failures_of_plain (route : s.issue.route = none) : failures e s g m w n d a b u =
    let l := Claims.laneOf s g u
    [ownOf (errOf (readOperandA e s g a u)), struckOf (errOf (readOperandA e s g a u)),
      ownOf (errOf (readOperandB e s g b u)), struckOf (errOf (readOperandB e s g b u)),
      errOf (readDst e l d), oldFailure e l (readDst e l d)] ++ e.perms.map fun k => errOf (l.sound k) := by
  unfold failures
  rw [route]
  simp [routedFailures]

/-- A failure is an uncorrectable error or another one. -/
theorem own_or_struck {x : Option Trap} {f : Trap} : x = some f ↔ some f = ownOf x ∨ some f = struckOf x := by
  constructor
  · rintro rfl
    by_cases h : f.1 = 0x10
    · exact .inr (Option.filter_eq_some_iff.mpr ⟨rfl, by simpa using h⟩).symm
    · exact .inl (Option.filter_eq_some_iff.mpr ⟨rfl, by simpa using h⟩).symm
  · rintro (h | h) <;> exact (Option.filter_eq_some_iff.mp h.symm).1

/-- What a thread meets without a route: a failure of one of its reads. -/
theorem mem_failures_of_plain {f : Trap} (route : s.issue.route = none) : some f ∈ failures e s g m w n d a b u ↔
    errOf (readOperandA e s g a u) = some f ∨ errOf (readOperandB e s g b u) = some f ∨
      errOf (readDst e (Claims.laneOf s g u) d) = some f ∨
      oldFailure e (Claims.laneOf s g u) (readDst e (Claims.laneOf s g u) d) = some f ∨
      ∃ k ∈ e.perms, errOf ((Claims.laneOf s g u).sound k) = some f := by
  rw [failures_of_plain route, own_or_struck (x := errOf (readOperandA e s g a u)),
    own_or_struck (x := errOf (readOperandB e s g b u))]
  simp only [List.mem_append, List.mem_cons, List.mem_map, List.not_mem_nil, or_false, or_assoc, eq_comm (a := some f)]

theorem failures_whole (route : s.issue.route = none) : firstTrap (failures e s g m w n d a b u) = none ↔
    errOf (readOperandA e s g a u) = none ∧ errOf (readOperandB e s g b u) = none ∧
      errOf (readDst e (Claims.laneOf s g u) d) = none ∧
      oldFailure e (Claims.laneOf s g u) (readDst e (Claims.laneOf s g u) d) = none ∧
      ∀ k ∈ e.perms, k ∉ (Claims.laneOf s g u).bad := by
  have ordered (f : Trap) (mem : some f ∈ failures e s g m w n d a b u) : f.1 ∈ operandOrder := by
    rcases (mem_failures_of_plain route).mp mem with h | h | h | h | ⟨k, -, h⟩
    · exact OrderedFailure.readOperandA f h
    · exact OrderedFailure.readOperandB f h
    · exact OrderedFailure.readDst f h
    · exact oldFailure_ordered h
    · exact OrderedFailure.sound f h
  have none_met : firstTrap (failures e s g m w n d a b u) = none ↔ ∀ f, some f ∉ failures e s g m w n d a b u :=
    firstTrap_eq_none.trans (forall_congr' fun f => ⟨fun h mem => h mem (ordered f mem), fun h mem => absurd mem h⟩)
  simp only [none_met, mem_failures_of_plain route, Option.eq_none_iff_forall_ne_some, ← errOf_sound, not_or, not_exists, not_and,
    forall_and, ne_eq]
  exact ⟨fun ⟨ha, hb, hd, ho, hp⟩ => ⟨ha, hb, hd, ho, fun k mem f => hp f k mem⟩,
    fun ⟨ha, hb, hd, ho, hp⟩ => ⟨ha, hb, hd, ho, fun f k mem => hp k mem f⟩⟩

/-- Without a route, an operand is its own thread's read. -/
theorem operandsOf_of_plain (route : s.issue.route = none) :
    (operandsOf e s g m w n d a b).a u = okOr 0 (readOperandA e s g a u) ∧
      (operandsOf e s g m w n d a b).b u = okOr 0 (readOperandB e s g b u) := by
  unfold operandsOf
  rw [route]
  exact ⟨rfl, rfl⟩

/-! ## Operands of no route and no fragment (R38, R139) -/

theorem readOperandA_of_plain (acc : s.issue.acc = none) :
    readOperandA e s g (some r) u = readSrc e u (Claims.laneOf s g u) r := by
  unfold readOperandA fragmentRead
  rw [acc]

theorem readOperandB_of_plain {r : LOpB} (acc : s.issue.acc = none) :
    readOperandB e s g (some r) u = readB e (s.gang g) u (Claims.laneOf s g u) r := by
  unfold readOperandB fragmentRead
  rw [acc]

theorem failures_none_of_plainReads (route : s.issue.route = none) (acc : s.issue.acc = none)
    (h : Claims.PlainReads e (s.gang g) u d a b va vb vo q) : firstTrap (failures e s g m w n d a b u) = none := by
  have dst : readDst e (Claims.laneOf s g u) d = .ok q := h.dst
  refine (failures_whole route).mpr ⟨?_, ?_, errOf_eq_none.mpr ⟨q, dst⟩, ?_, h.perms⟩
  · cases a with
    | none => rfl
    | some r => exact errOf_eq_none.mpr ⟨va, (readOperandA_of_plain acc).trans (h.a r rfl)⟩
  · cases b with
    | none => rfl
    | some r => exact errOf_eq_none.mpr ⟨vb, (readOperandB_of_plain acc).trans (h.b r rfl)⟩
  · rw [dst]
    exact oldFailure_eq_none.mpr h.whole

theorem plainReads_of_failures_none (route : s.issue.route = none) (acc : s.issue.acc = none)
    (h : firstTrap (failures e s g m w n d a b u) = none) :
    Claims.PlainReads e (s.gang g) u d a b ((operandsOf e s g m w n d a b).a u) ((operandsOf e s g m w n d a b).b u)
      ((operandsOf e s g m w n d a b).old u) ((operandsOf e s g m w n d a b).dst u) := by
  obtain ⟨readA, readB, readDst, old, perms⟩ := (failures_whole route).mp h
  have readDst := okOr_of_errOf (y := Dst.none) readDst
  rw [readDst] at old
  obtain ⟨isA, isB⟩ := operandsOf_of_plain (e := e) (g := g) (m := m) (w := w) (n := n) (d := d) (a := a) (b := b) (u := u) route
  rw [isA, isB]
  refine ⟨?_, ?_, readDst, ?_, oldFailure_eq_none.mp old, perms⟩
  · rintro r rfl
    exact (readOperandA_of_plain acc).symm.trans (okOr_of_errOf readA)
  · rintro r rfl
    exact (readOperandB_of_plain acc).symm.trans (okOr_of_errOf readB)
  · intro n eq
    have eq : okOr .none (Machine.readDst e (Claims.laneOf s g u) d) = .reg n := eq
    simp only [operandsOf, eq]
    rfl

theorem plainOperandsAreRead : Claims.PlainOperandsAreRead := by
  intro e s g m w n d a b route acc
  refine ⟨⟨fun ⟨o, h⟩ u on => ?_, fun h => ?_⟩, fun o h u on => ?_⟩
  · exact ⟨_, _, _, _, plainReads_of_failures_none route acc ((gather_eq_ok.mp h).1 u on)⟩
  · refine ⟨_, gather_eq_ok.mpr ⟨fun u on => ?_, rfl⟩⟩
    obtain ⟨va, vb, vo, q, reads⟩ := h u on
    exact failures_none_of_plainReads route acc reads
  · obtain ⟨whole, rfl⟩ := gather_eq_ok.mp h
    exact plainReads_of_failures_none route acc (whole u on)

/-! ## Routed operands (R144–R146) -/

theorem operandsOf_of_routed {ra rb : RouteSpec} {own : Bool} (route : s.issue.route = some (ra, rb, own)) :
    (operandsOf e s g m w n d a b).a u = routed ra own w n m (fun t => okOr 0 (readOperandA e s g a t))
      ((Claims.laneOf s g u).reg (permReg ra)) u := by
  unfold operandsOf
  rw [route]
  rfl

theorem permOf_eq_permReg (spec : RouteSpec) : Claims.permOf spec = permReg spec := by cases spec <;> rfl

theorem routedOperand : Claims.RoutedOperand := by
  intro e s g m w n d r b ra rb own o size route acc routes h u k on lt
  obtain ⟨-, rfl⟩ := gather_eq_ok.mp h
  obtain ⟨few, fits⟩ : n ≤ 8 ∧ w * n ≤ 64 := by
    simp only [List.mem_cons, Prod.mk.injEq, List.not_mem_nil, or_false] at size
    rcases size with ⟨rfl, rfl⟩ | ⟨rfl, rfl⟩ | ⟨rfl, rfl⟩ | ⟨rfl, rfl⟩ <;> decide
  have read : (fun t => okOr 0 (readOperandA e s g (some r) t)) = fun t => okOr 0 (readSrc e t (Claims.laneOf s g t) r) :=
    funext fun t => congrArg (okOr 0) (readOperandA_of_plain acc)
  rw [operandsOf_of_routed route, read, element_routed routes few fits lt, permOf_eq_permReg]
  unfold routedElement
  dsimp only
  cases source : Claims.sourceOf ra (32 * n) (u.val * n + k) (element w ((Claims.laneOf s g u).reg (permReg ra)) k) with
  | none => rfl
  | some j =>
    intro t at_
    have inside : j / n < 32 := at_ ▸ t.isLt
    have same : t = ⟨j / n, inside⟩ := Fin.ext at_
    simp only [inside, dif_pos, same]

/-! ## Accumulator fragments (R147) -/

theorem fragmentOperand : Claims.FragmentOperand := by
  intro e s g m w n d r b tile row sup route acc k c
  have read (u : Fin 32) : readOperandA e s g (some r) u =
      if c.invalid.contains k then .error (0x15, n64 k) else .ok (fragment c k row.toNat u) := by
    unfold readOperandA fragmentRead
    rw [acc]
    rfl
  refine ⟨fun o h u on => ?_, fun invalid busy clean noB => ?_⟩
  · obtain ⟨whole, rfl⟩ := gather_eq_ok.mp h
    obtain ⟨readA, -⟩ := (failures_whole route).mp (whole u on)
    have valid : k ∉ c.invalid := by
      intro invalid
      rw [read, if_pos (by simpa using invalid)] at readA
      exact nomatch readA
    refine ⟨valid, ?_⟩
    rw [(operandsOf_of_plain route).1, read, if_neg (by simpa using valid)]
    rfl
  · subst noB
    have all (u : Fin 32) (on : m.getLsbD u.val = true) :
        firstTrap (failures e s g m w n d (some r) none u) = some (0x15, n64 k) := by
      obtain ⟨bad, q, dst⟩ := clean u on
      have old : oldFailure e (Claims.laneOf s g u) (.ok q) = none := oldFailure_eq_none.mpr (by simp [bad])
      have met : errOf (readOperandA e s g (some r) u) = some (0x15, n64 k) := by
        rw [read, if_pos (by simpa using invalid)]
        rfl
      refine firstTrap_of_only ((mem_failures_of_plain route).mpr (.inl met)) (OrderedFailure.readOperandA _ met) fun y mem => ?_
      rw [mem_failures_of_plain route, met, dst, old] at mem
      rcases mem with h | h | h | h | ⟨p, -, h⟩
      · exact (Option.some.inj h).symm
      · exact nomatch h
      · exact nomatch h
      · exact nomatch h
      · rw [errOf_sound.mpr (by simp [bad])] at h
        exact nomatch h
    obtain ⟨u, on⟩ : ∃ u : Fin 32, m.getLsbD u.val = true := by
      by_contra idle
      refine busy (BitVec.eq_of_getLsbD_eq fun i lt => ?_)
      simpa using fun on => idle ⟨⟨i, lt⟩, on⟩
    obtain ⟨v, first, values⟩ := firstFault_of_all (order := operandOrder) on (by decide) all
    exact ⟨v, by rw [gather_eq, first], values⟩

end

/-- Settles O6: what a thread's reads meet and give is said once (`gather_eq`, `gather_eq_ok`); without a route it is
its own (`failures_whole`), through a route an element at a time (`element_routed`). -/
theorem operandsAreRead : Obligations.OperandsAreRead := by
  unfold Obligations.OperandsAreRead
  exact ⟨plainOperandsAreRead, routedOperand, fragmentOperand⟩

end Sys2Proof.Machine

namespace Sys2Proof.Machine

section
variable {s s1 s2 t : State} {g : Nat} {m : W32} {i : Instr} {u : Fin 32} {l : Lane} {k : Fin 4} {p : Pend} {ps : List Pend}
  {d : LDst} {q : Dst} {e : ReadEnv}

/-! ## The state a lane instruction acts on (R35, R36, R100, R137) -/

theorem State.kernel_settle (s : State) (g n : Nat) : (s.settle (.lane g n)).kernel g = s.kernel g := by
  simp [State.kernel, State.settle]

theorem turn_mem (turn : Claims.LaneTurn i s g m s1) : s1.mem = s.mem := by
  obtain ⟨⟨x, -, rfl⟩, -, -⟩ := turn
  simp [Claims.turn]

/-- A legal lane instruction does what its body does. -/
theorem laneInstr_of_turn (turn : Claims.LaneTurn i s g m s1) (body : Nat → W32 → State → State) :
    laneInstr i s body = .next (body g m s1) := by
  obtain ⟨⟨x, who, rfl⟩, rfl, legal⟩ := turn
  rw [laneInstr_runs body who (by rw [State.kernel_settle]; exact legal), State.settle_issue]
  rfl

/-! ## Lanes of one gang changed -/

/-- From `s` to `t` the lanes of gang `g` change and nothing else does. -/
structure LanesOf (g : Nat) (s t : State) : Prop where
  rest : t = { s with gangs := t.gangs }
  gangs : ∀ h, h ≠ g → t.gang h = s.gang h
  gang : t.gang g = { s.gang g with lanes := (t.gang g).lanes }

theorem LanesOf.refl : LanesOf g s s := ⟨rfl, fun _ _ => rfl, rfl⟩

theorem LanesOf.trans (a : LanesOf g s t) (b : LanesOf g t s2) : LanesOf g s s2 where
  rest := by rw [b.rest, a.rest]
  gangs h n := (b.gangs h n).trans (a.gangs h n)
  gang := by rw [b.gang, a.gang]

theorem LanesOf.onLane {f : Lane → Lane} : LanesOf g s (s.onLane g u f) where
  rest := rfl
  gangs h n := s.gang_setGang_other _ n
  gang := by
    rw [State.onLane, State.gang_setGang]
    exact Gang.setLane_rest ..

theorem LanesOf.launch? (a : LanesOf g s t) (n : Nat) : t.launch? n = s.launch? n := by rw [a.rest]; rfl

theorem LanesOf.quote? (a : LanesOf g s t) (n : Nat) : t.quote? n = s.quote? n := by rw [a.rest]; rfl

theorem LanesOf.tick (a : LanesOf g s t) : t.tick = s.tick := by rw [a.rest]

theorem LanesOf.mem (a : LanesOf g s t) : t.mem = s.mem := by rw [a.rest]

theorem LanesOf.launch (a : LanesOf g s t) : (t.gang g).launch = (s.gang g).launch := by rw [a.gang]

theorem LanesOf.threadWid (a : LanesOf g s t) (n : Nat) : (t.gang g).threadWid n = (s.gang g).threadWid n := by
  rw [a.gang]; rfl

theorem LanesOf.kernel (a : LanesOf g s t) : t.kernel g = s.kernel g := by
  rw [State.kernel, State.kernel, a.launch, a.launch?]

theorem LanesOf.laneEnv (a : LanesOf g s t) : laneEnv t g i = laneEnv s g i := by
  rw [Machine.laneEnv, Machine.laneEnv, a.kernel]

theorem LanesOf.boundQid (a : LanesOf g s t) : t.boundQid g = s.boundQid g := by
  rw [State.boundQid, State.boundQid, State.qidOf, State.qidOf, a.launch, a.launch?, a.quote?]

theorem laneOf_onLane {f : Lane → Lane} : Claims.laneOf (s.onLane g u f) g u = f (Claims.laneOf s g u) := by
  rw [Claims.laneOf, State.onLane, State.gang_setGang, Gang.lane_set]
  rfl

theorem laneOf_onLane_other {f : Lane → Lane} {v : Fin 32} (n : v ≠ u) :
    Claims.laneOf (s.onLane g u f) g v = Claims.laneOf s g v := by
  rw [Claims.laneOf, State.onLane, State.gang_setGang, Gang.lane_set_other _ _ n]
  rfl

/-- A change `f` of thread `u` reads nothing that the changes of other threads of its gang write. -/
def OwnOnly (f : State → Nat → Fin 32 → Lane → Lane) (s : State) (g : Nat) : Prop :=
  ∀ t u, LanesOf g s t → Claims.laneOf t g u = Claims.laneOf s g u → f t g u (Claims.laneOf s g u) = f s g u (Claims.laneOf s g u)

/-- Distinct threads changed one by one: each of them is changed as it stood at first. -/
theorem foldl_onLane {f : State → Nat → Fin 32 → Lane → Lane} (own : OwnOnly f s g) {ts : List (Fin 32)} (distinct : ts.Nodup)
    (done : LanesOf g s t) (still : ∀ u ∈ ts, Claims.laneOf t g u = Claims.laneOf s g u) :
    let r := ts.foldl (fun s u => s.onLane g u (f s g u)) t
    LanesOf g s r ∧ (∀ u ∈ ts, Claims.laneOf r g u = f s g u (Claims.laneOf s g u)) ∧
      ∀ u, u ∉ ts → Claims.laneOf r g u = Claims.laneOf t g u := by
  induction ts generalizing t with
  | nil => exact ⟨done, by simp, fun _ _ => rfl⟩
  | cons v ts ih =>
    obtain ⟨fresh, distinct⟩ := List.nodup_cons.mp distinct
    have apart {u : Fin 32} (there : u ∈ ts) : u ≠ v := fun e => fresh (e ▸ there)
    obtain ⟨rest, changed, others⟩ := ih distinct (done.trans (.onLane (u := v) (f := f t g v)))
      fun u there => (laneOf_onLane_other (apart there)).trans (still u (.tail _ there))
    have first := still v (.head _)
    refine ⟨rest, fun u there => ?_, fun u out => ?_⟩
    · rcases List.mem_cons.mp there with rfl | there
      · rw [List.foldl_cons, others u fresh, laneOf_onLane, first, own t u done first]
      · exact changed u there
    · obtain ⟨other, out⟩ : u ≠ v ∧ u ∉ ts := by simpa using out
      rw [List.foldl_cons, others u out, laneOf_onLane_other other]

/-- A lane instruction that faults in no thread changes each thread of its group on its own, and nothing else. -/
theorem laneEach_onLane {order : List Byte} {chk : ReadEnv → State → Nat → Fin 32 → Lane → Option Trap}
    {f : State → Nat → Fin 32 → Lane → Lane} (turn : Claims.LaneTurn i s g m s1)
    (clean : ∀ u : Fin 32, m.getLsbD u.val = true → chk (Claims.controlEnv i s1 g) s1 g u (Claims.laneOf s1 g u) = none)
    (own : OwnOnly f s1 g) :
    ∃ t, laneEach i s order chk (fun s g u => s.onLane g u (f s g u)) = .next t ∧ Claims.LanesOnly s s1 t g m ∧
      ∀ u : Fin 32, m.getLsbD u.val = true → Claims.laneOf t g u = f s1 g u (Claims.laneOf s1 g u) := by
  have none_fails : firstFault order m (fun u => chk (laneEnv s1 g i) s1 g u ((s1.gang g).lane u.val)) = none :=
    firstFault_eq_none.mpr fun u on f met => nomatch (clean u on).symm.trans met
  obtain ⟨lanes, changed, others⟩ := foldl_onLane own (threads_nodup m) LanesOf.refl fun _ _ => rfl
  refine ⟨_, ?_, ⟨fun n => by rw [lanes.mem, turn_mem turn], lanes.rest, lanes.gangs, lanes.gang, fun u off => ?_⟩,
    fun u on => changed u ((mem_threads m u).mpr on)⟩
  · rw [laneEach, laneEachWith, laneInstr_of_turn turn]
    simp only [none_fails]
  · exact others u fun there => Bool.false_ne_true (off.symm.trans ((mem_threads m u).mp there))

/-! ## Results that land (R137) -/

/-- A result lands whatever the PC, the loops and the results still to come are, and leaves them as they are. -/
theorem put_control {pc : W32} {ls : List Loop} {pend : List Pend} :
    Lane.put { l with pc := pc, loops := ls, pend := pend } p = { l.put p with pc := pc, loops := ls, pend := pend } := by
  unfold Lane.put
  split
  · split <;> rfl
  all_goals rfl

theorem foldl_put_control {pc : W32} {ls : List Loop} {pend : List Pend} :
    ps.foldl Lane.put { l with pc := pc, loops := ls, pend := pend } =
      { ps.foldl Lane.put l with pc := pc, loops := ls, pend := pend } := by
  induction ps generalizing l with
  | nil => rfl
  | cons p ps ih => rw [List.foldl_cons, put_control, ih]; rfl

theorem put_of_x {x : Fin 4} (h : p.dst = .x x) :
    l.put p = { l with x := l.x.set x.val (XReg.ofBits (mux p.mask p.val (n64 l.x[x].bits))) } := by
  simp only [Lane.put, h]

theorem put_of_none (h : p.dst = .none) : l.put p = l := by simp only [Lane.put, h]

theorem readDst_reg_or_none (h : readDst e l d = .ok q) : q = .none ∨ ∃ n, q = .reg n := by
  cases d with
  | v | vz => cases h; simp
  | vx k =>
    simp only [readDst, Except.map] at h
    split at h <;> cases h
    exact .inr ⟨_, rfl⟩

variable {n due : Nat} {v : W64}

/-- What a whole result leaves of the registers when it goes to a lane register or nowhere. -/
theorem put_result (h : q = .none ∨ ∃ n, q = .reg n) :
    let l' := l.put (result q (BitVec.allOnes 64) v due)
    l'.x = l.x ∧ l'.ffl = l.ffl ∧ ∀ r (lt : r < 96), (q = .reg r → l'.v[r] = v) ∧ (q ≠ .reg r → l'.v[r] = l.v[r]) := by
  rcases h with rfl | ⟨n, rfl⟩
  · rw [put_of_none rfl]
    exact ⟨rfl, rfl, fun r lt => ⟨fun e => (nomatch e), fun _ => rfl⟩⟩
  · simp only [Lane.put, result, mux_ones]
    split
    next lt =>
      refine ⟨rfl, rfl, fun r _ => ⟨?_, fun other => Vector.getElem_set_ne lt _ fun e => other (e ▸ rfl)⟩⟩
      rintro ⟨⟩
      exact Vector.getElem_set_self _
    next ge =>
      refine ⟨rfl, rfl, fun r lt => ⟨?_, fun _ => rfl⟩⟩
      rintro ⟨⟩
      exact absurd lt ge

/-- The registers a finished instruction ends with: those of the thread before it, then its result. -/
theorem foldl_put_finish (p : Pend) : ∃ pc ls pend, (l.finish n [p]).pend.foldl Lane.put (l.finish n [p]) =
    { (l.pend.foldl Lane.put l).put p with pc := pc, loops := ls, pend := pend } := by
  have shape : ∃ pc ls pend, l.finish n [p] = { l with pc := pc, loops := ls, pend := pend } := ⟨_, _, _, rfl⟩
  have pend : (l.finish n [p]).pend = l.pend ++ [p].filter fun p => p.dst ≠ .none := rfl
  obtain ⟨pc, ls, ps, shape⟩ := shape
  refine ⟨pc, ls, ps, ?_⟩
  rw [pend, shape, foldl_put_control, List.foldl_append]
  by_cases none : p.dst = .none
  · simp [none, put_of_none none]
  · simp [none]

/-- An instruction of a thread that writes one register, or none, with a value known at issue. -/
theorem oneRegister_finish (h : q = .none ∨ ∃ r, q = .reg r) :
    Claims.OneRegister l (l.finish n [result q (BitVec.allOnes 64) v due]) n q 0 := by
  obtain ⟨pc, ls, pend, ends⟩ := foldl_put_finish (l := l) (n := n) (result q (BitVec.allOnes 64) v due)
  obtain ⟨x, ffl, regs⟩ := put_result (l := l.pend.foldl Lane.put l) (v := v) (due := due) h
  refine ⟨rfl, fun r lt other => ?_, fun k => ?_, ?_⟩
  · simp only [Lane.final, ends, dif_pos lt, (regs r lt).2 other]
  · simp only [Lane.finalX, ends, x]
  · simp only [Claims.ffls, ends, ffl, BitVec.ofNat_eq_ofNat, BitVec.or_zero]

theorem final_finish_reg {r : Nat} (lt : r < 96) : (l.finish n [result (.reg r) (BitVec.allOnes 64) v due]).final r = v := by
  obtain ⟨pc, ls, pend, ends⟩ := foldl_put_finish (l := l) (n := n) (result (.reg r) (BitVec.allOnes 64) v due)
  obtain ⟨-, -, regs⟩ := put_result (l := l.pend.foldl Lane.put l) (v := v) (due := due) (.inr ⟨r, rfl⟩)
  simp only [Lane.final, ends, dif_pos lt, (regs r lt).1 rfl]

/-! ## Lane instructions that write a value of their own: `getwid` and `csrr` (R20, R136, R271) -/

theorem laneWrite_oneRegister {val : State → Nat → Fin 32 → Lane → W64} {dst : Fin 32 → Dst}
    (turn : Claims.LaneTurn i s g m s1)
    (reads : ∀ u : Fin 32, m.getLsbD u.val = true → readDst (Claims.controlEnv i s1 g) (Claims.laneOf s1 g u) d = .ok (dst u))
    (own : ∀ t u, LanesOf g s1 t → Claims.laneOf t g u = Claims.laneOf s1 g u →
      val t g u (Claims.laneOf s1 g u) = val s1 g u (Claims.laneOf s1 g u)) :
    ∃ t, laneWrite i s d none val = .next t ∧ Claims.LanesOnly s s1 t g m ∧
      ∀ u : Fin 32, m.getLsbD u.val = true →
        Claims.OneRegister (Claims.laneOf s1 g u) (Claims.laneOf t g u) 1 (dst u) 0 ∧
        ∀ r, dst u = .reg r → r < 96 → (Claims.laneOf t g u).final r = val s1 g u (Claims.laneOf s1 g u) := by
  obtain ⟨t, next, only, lanes⟩ := laneEach_onLane (order := controlOrder)
    (chk := fun e _ _ _ l => errOf (readDst e l d))
    (f := fun s g u l => l.finish 1 [result (okOr .none (readDst (laneEnv s g i) l d)) (BitVec.allOnes 64) (val s g u l)
      (s.tick + laneIntLatency)]) turn (fun u on => errOf_eq_none.mpr ⟨_, reads u on⟩)
    fun t u same lane => by simp only [same.laneEnv, same.tick, own t u same lane]
  refine ⟨t, next, only, fun u on => ?_⟩
  have dst_ok : okOr .none (readDst (laneEnv s1 g i) (Claims.laneOf s1 g u) d) = dst u := congrArg (okOr .none) (reads u on)
  rw [lanes u on, dst_ok]
  refine ⟨oneRegister_finish (readDst_reg_or_none (reads u on)), fun r is lt => ?_⟩
  rw [is]
  exact final_finish_reg lt

theorem LanesOf.laneCsr (same : LanesOf g s t) (lane : Claims.laneOf t g u = Claims.laneOf s g u) (c : Nat) :
    t.laneCsr g u.val c = s.laneCsr g u.val c := by
  have lane : (t.gang g).lane u.val = (s.gang g).lane u.val := lane
  simp only [State.laneCsr, lane, same.tick, same.boundQid, same.kernel, same.threadWid]

theorem laneReadsOfCsrs : Claims.LaneReadsOfCsrs := by
  rintro i d val s s1 g m q (⟨k, rfl, value⟩ | ⟨c, rfl, held, value⟩) turn reads
  · obtain ⟨t, next, written⟩ := laneWrite_oneRegister
      (val := fun s g u _ => (s.kernel g).widField ((s.gang g).threadWid u.val) k.val) turn reads
      fun t u same _ => by simp only [same.kernel, same.threadWid]
    refine ⟨t, next, ?_⟩
    simpa only [value, Gang.threadWid] using written
  · obtain ⟨t, next, written⟩ := laneWrite_oneRegister (val := fun s g u _ => s.laneCsr g u.val c.toNat) turn reads
      fun t u same lane => same.laneCsr lane _
    have arm : exec (.csrr d c) s = execCsrr d c s := rfl
    refine ⟨t, ?_, by simpa only [value] using written⟩
    rw [arm, execCsrr, if_pos held, next]

end

section
variable {l new old : Lane} {k : Fin 4} {x : XReg} {p : Pend} {ps : List Pend} {v : W64} {c : Nat}

/-! ## `csrw` (R136, R143, R271) -/

/-- The registers of `new` are those of `old`, but for index register `k`, which is `x`. -/
structure ApartFromIndex (k : Fin 4) (x : XReg) (old new : Lane) : Prop where
  regs : new.v = old.v
  same : new.x[k] = x
  others : ∀ j : Fin 4, j ≠ k → new.x[j] = old.x[j]

theorem ApartFromIndex.put (a : ApartFromIndex k x old new) (h : p.dst ≠ .x k) :
    ApartFromIndex k x (old.put p) (new.put p) := by
  cases dst : p.dst with
  | reg n =>
    simp only [Lane.put, dst]
    split
    · exact ⟨by simp only [a.regs], a.same, a.others⟩
    · exact a
  | x i =>
    have apart : i ≠ k := fun e => h (e ▸ dst)
    rw [put_of_x dst, put_of_x dst, a.others i apart]
    refine ⟨a.regs, ?_, fun j n => ?_⟩
    · simpa [Fin.val_ne_of_ne apart] using a.same
    · by_cases e : j = i
      · simp [e]
      · simpa [Fin.val_ne_of_ne (Ne.symm e)] using a.others j n
  | ffl =>
    simp only [Lane.put, dst]
    exact ⟨a.regs, a.same, a.others⟩
  | none =>
    rw [put_of_none dst, put_of_none dst]
    exact a

theorem ApartFromIndex.skip (a : ApartFromIndex k x old new) (h : p.dst = .x k) : ApartFromIndex k x (old.put p) new := by
  rw [put_of_x h]
  exact ⟨a.regs, a.same, fun j n => (a.others j n).trans (by simp [Fin.val_ne_of_ne n.symm])⟩

/-- Where no result on its way to index register `k` is left, the register stays what it is. -/
theorem ApartFromIndex.land (a : ApartFromIndex k x old new) :
    ApartFromIndex k x (ps.foldl Lane.put old) ((ps.filter fun p => p.dst ≠ .x k).foldl Lane.put new) := by
  induction ps generalizing old new with
  | nil => exact a
  | cons p ps ih =>
    by_cases h : p.dst = .x k
    · simpa [h] using ih (a.skip h)
    · simpa [h] using ih (a.put h)

theorem csrWrite_frm : l.csrWrite 1 v = { l with frm := v.extractLsb' 0 2 } := by
  simp [Lane.csrWrite, BitVec.setWidth_eq_extractLsb']

theorem csrWrite_ffl : l.csrWrite 2 v = { l with ffl := v.extractLsb' 0 5 } := by
  simp [Lane.csrWrite, BitVec.setWidth_eq_extractLsb']

theorem csrWrite_emask : l.csrWrite 3 v = { l with emask := v.extractLsb' 0 8 } := by
  simp [Lane.csrWrite, BitVec.setWidth_eq_extractLsb']

theorem csrWrite_index (at_ : c = 0x48 + k.val) :
    l.csrWrite c v = { l with x := l.x.set k.val (XReg.ofBits v), pend := l.pend.filter fun p => p.dst ≠ .x k } := by
  subst at_
  have inside : 0x48 ≤ 0x48 + k.val ∧ 0x48 + k.val < 0x4C := by omega
  unfold Lane.csrWrite
  rw [if_neg (by omega), if_neg (by omega), if_neg (by omega), if_neg (by omega), dif_pos inside]
  simp only [Nat.add_sub_cancel_left]

/-- What a thread ends with after a write of an index register. -/
theorem csrWrite_index_lands (at_ : c = 0x48 + k.val) :
    let new := (l.csrWrite c v).advance 1
    ApartFromIndex k (XReg.ofBits v) (l.pend.foldl Lane.put l) (new.pend.foldl Lane.put new) := by
  rw [csrWrite_index at_]
  exact ApartFromIndex.land ⟨rfl, by simp [Lane.advance], fun j n => by simp [Lane.advance, Fin.val_ne_of_ne n.symm]⟩

/-- A write of a CSR leaves the PC and the loops, and so the next PC. -/
theorem csrWrite_advance_pc (n : Nat) : ((l.csrWrite c v).advance n).pc = (l.advance n).pc := by
  unfold Lane.csrWrite
  split_ifs <;> rfl

theorem laneWritesOfCsrs : Claims.LaneWritesOfCsrs := by
  intro a c s s1 g m v turn writable reads
  obtain ⟨t, next, only, lanes⟩ := laneEach_onLane (order := controlOrder)
    (chk := fun e _ _ u l => if csrWritable c.toNat .lane then errOf (readSrc e u l a) else some (0x02, e.word))
    (f := fun s g u l => (l.csrWrite c.toNat (okOr 0 (readSrc (laneEnv s g (.csrw a c)) u l a))).advance 1) turn
    (fun u on => by rw [if_pos writable]; exact errOf_eq_none.mpr ⟨_, reads u on⟩)
    fun t u same _ => by simp only [same.laneEnv]
  refine ⟨t, next, only, fun u on => ?_⟩
  have value : okOr 0 (readSrc (laneEnv s1 g (.csrw a c)) u (Claims.laneOf s1 g u) a) = v u := congrArg (okOr 0) (reads u on)
  rw [lanes u on, value]
  refine ⟨?_, ?_, ?_, ?_, fun k at_ => ?_⟩
  · rintro rfl
    exact congrArg _ csrWrite_frm
  · rintro rfl
    exact congrArg _ csrWrite_ffl
  · rintro rfl
    exact congrArg _ csrWrite_emask
  · rintro rfl
    rfl
  · have lands := csrWrite_index_lands (l := Claims.laneOf s1 g u) (v := v u) at_
    refine ⟨lands.same, lands.others, fun r lt => ?_, csrWrite_advance_pc 1⟩
    simp only [Lane.final, lands.regs]

end

/-- Settles O10: a lane instruction that faults in no thread changes each thread of its group alone
(`laneEach_onLane`); `getwid` and `csrr` write one register (`laneWrite_oneRegister`), and after `csrw` of an index
register no result on its way to it is left (`ApartFromIndex.land`). -/
theorem laneCsrs : Obligations.LaneCsrs := by
  unfold Obligations.LaneCsrs
  exact ⟨laneReadsOfCsrs, laneWritesOfCsrs⟩

end Sys2Proof.Machine

namespace Sys2Proof

/-! ## Words made of fields (R12, R37, R48) -/

theorem extractLsb'_word {w : W32} {lo n : Nat} : w.extractLsb' lo n = fld w lo n := rfl

/-- Some bits of a field. -/
theorem extractLsb'_fld {w : W32} {lo n lo' n' : Nat} (h : lo' + n' ≤ n) :
    (fld w lo n).extractLsb' lo' n' = fld w (lo + lo') n' := by
  ext j lt
  simp only [fld, BitVec.getElem_extractLsb', BitVec.getLsbD_extractLsb', Nat.add_assoc, show lo' + j < n by omega, decide_true,
    Bool.true_and]

/-- A value is written from two parts exactly when they are its high and its low bits. -/
theorem append_eq_iff {m n : Nat} {x : BitVec m} {y : BitVec n} {v : BitVec (m + n)} :
    x ++ y = v ↔ v.extractLsb' n m = x ∧ v.extractLsb' 0 n = y := by
  constructor
  · rintro rfl
    exact ⟨BitVec.extractLsb'_append_eq_left, BitVec.extractLsb'_append_eq_right⟩
  · rintro ⟨rfl, rfl⟩
    exact BitVec.extractLsb'_append_extractLsb'

theorem extractLsb'_eq_append_iff {k lo m n : Nat} {x : BitVec m} {y : BitVec n} {v : BitVec k} :
    v.extractLsb' lo (m + n) = x ++ y ↔ v.extractLsb' (lo + n) m = x ∧ v.extractLsb' lo n = y := by
  have part {lo' n' : Nat} (h : lo' + n' ≤ m + n) : (v.extractLsb' lo (m + n)).extractLsb' lo' n' = v.extractLsb' (lo + lo') n' := by
    ext j lt
    simp only [BitVec.getElem_extractLsb', BitVec.getLsbD_extractLsb', Nat.add_assoc, show lo' + j < m + n by omega, decide_true,
      Bool.true_and]
  rw [eq_comm, append_eq_iff, part (by omega), part (by omega), Nat.add_zero]

section
variable {n₁ n₂ n₃ n₄ n₅ n₆ n₇ : Nat} {x₁ : BitVec n₁} {x₂ : BitVec n₂} {x₃ : BitVec n₃} {x₄ : BitVec n₄} {x₅ : BitVec n₅}
  {x₆ : BitVec n₆} {x₇ : BitVec n₇}

theorem append₃_eq {v : BitVec (n₁ + n₂ + n₃)} : x₁ ++ x₂ ++ x₃ = v ↔
    v.extractLsb' (n₃ + n₂) n₁ = x₁ ∧ v.extractLsb' n₃ n₂ = x₂ ∧ v.extractLsb' 0 n₃ = x₃ := by
  rw [append_eq_iff, extractLsb'_eq_append_iff, and_assoc]

theorem append₄_eq {v : BitVec (n₁ + n₂ + n₃ + n₄)} : x₁ ++ x₂ ++ x₃ ++ x₄ = v ↔
    v.extractLsb' (n₄ + n₃ + n₂) n₁ = x₁ ∧ v.extractLsb' (n₄ + n₃) n₂ = x₂ ∧ v.extractLsb' n₄ n₃ = x₃ ∧
    v.extractLsb' 0 n₄ = x₄ := by
  rw [append₃_eq, extractLsb'_eq_append_iff, and_assoc]

theorem append₅_eq {v : BitVec (n₁ + n₂ + n₃ + n₄ + n₅)} : x₁ ++ x₂ ++ x₃ ++ x₄ ++ x₅ = v ↔
    v.extractLsb' (n₅ + n₄ + n₃ + n₂) n₁ = x₁ ∧ v.extractLsb' (n₅ + n₄ + n₃) n₂ = x₂ ∧
    v.extractLsb' (n₅ + n₄) n₃ = x₃ ∧ v.extractLsb' n₅ n₄ = x₄ ∧ v.extractLsb' 0 n₅ = x₅ := by
  rw [append₄_eq, extractLsb'_eq_append_iff, and_assoc]

theorem append₆_eq {v : BitVec (n₁ + n₂ + n₃ + n₄ + n₅ + n₆)} : x₁ ++ x₂ ++ x₃ ++ x₄ ++ x₅ ++ x₆ = v ↔
    v.extractLsb' (n₆ + n₅ + n₄ + n₃ + n₂) n₁ = x₁ ∧ v.extractLsb' (n₆ + n₅ + n₄ + n₃) n₂ = x₂ ∧
    v.extractLsb' (n₆ + n₅ + n₄) n₃ = x₃ ∧ v.extractLsb' (n₆ + n₅) n₄ = x₄ ∧ v.extractLsb' n₆ n₅ = x₅ ∧
    v.extractLsb' 0 n₆ = x₆ := by
  rw [append₅_eq, extractLsb'_eq_append_iff, and_assoc]

theorem append₇_eq {v : BitVec (n₁ + n₂ + n₃ + n₄ + n₅ + n₆ + n₇)} : x₁ ++ x₂ ++ x₃ ++ x₄ ++ x₅ ++ x₆ ++ x₇ = v ↔
    v.extractLsb' (n₇ + n₆ + n₅ + n₄ + n₃ + n₂) n₁ = x₁ ∧ v.extractLsb' (n₇ + n₆ + n₅ + n₄ + n₃) n₂ = x₂ ∧
    v.extractLsb' (n₇ + n₆ + n₅ + n₄) n₃ = x₃ ∧ v.extractLsb' (n₇ + n₆ + n₅) n₄ = x₄ ∧
    v.extractLsb' (n₇ + n₆) n₅ = x₅ ∧ v.extractLsb' n₇ n₆ = x₆ ∧ v.extractLsb' 0 n₇ = x₇ := by
  rw [append₆_eq, extractLsb'_eq_append_iff, and_assoc]

end

theorem eq_append_iff {m n : Nat} {x : BitVec m} {y : BitVec n} {v : BitVec (m + n)} :
    v = x ++ y ↔ v.extractLsb' n m = x ∧ v.extractLsb' 0 n = y := eq_comm.trans append_eq_iff

/-- A flag is its bit. -/
theorem fld_bit (w : W32) (lo : Nat) : fld w lo 1 = flag (bit w lo) := by
  ext j lt
  simp [fld, flag, bit, Nat.lt_one_iff.mp lt]

@[simp] theorem fld_eq_flag {w : W32} {lo : Nat} {b : Bool} : fld w lo 1 = flag b ↔ bit w lo = b := by
  rw [fld_bit]
  cases bit w lo <;> cases b <;> decide

theorem fld_eq_ofNat {w : W32} {lo n k : Nat} (h : (fld w lo n).toNat = k) : fld w lo n = BitVec.ofNat n k := by
  rw [← h, BitVec.ofNat_toNat, BitVec.setWidth_eq]

/-- The operation field of a lane word is its opcode, and of a group word 0x40 + opcode (R37, R48). -/
theorem operation_toNat (w : W32) : (fld w 25 7).toNat = (if bit w 31 then 64 else 0) + (fld w 25 6).toNat := by
  have parts : flag (bit w 31) ++ fld w 25 6 = fld w 25 7 := by
    rw [append_eq_iff, extractLsb'_fld (by decide), extractLsb'_fld (by decide)]
    exact ⟨fld_bit w 31, rfl⟩
  rw [← parts, BitVec.toNat_append, ← Nat.shiftLeft_add_eq_or_of_lt (fld w 25 6).isLt]
  cases bit w 31 <;> rfl

theorem fld_operation_eq {w : W32} {set : Bool} {n : Nat} (s : bit w 31 = set) (op : (fld w 25 6).toNat = n) :
    fld w 25 7 = BitVec.ofNat 7 ((if set then 64 else 0) + n) :=
  fld_eq_ofNat (by rw [operation_toNat, s, op])

theorem opcode_of_operation {w : W32} {n : Nat} (op : fld w 25 7 = BitVec.ofNat 7 n) (lt : n < 128 := by decide) :
    bit w 31 = decide (64 ≤ n) ∧ (fld w 25 6).toNat = n % 64 := by
  have parts := operation_toNat w
  have low := (fld w 25 6).isLt
  rw [op, BitVec.toNat_ofNat, Nat.mod_eq_of_lt lt] at parts
  cases set : bit w 31 <;> simp [set] at parts ⊢ <;> omega

/-! ## Codes of the fields (R7, R8, R38–R45, R49, R54, R55) -/

/-- A number in range is the code of a value exactly when its binary form is. -/
theorem ofNat_eq_iff {n k : Nat} {c : BitVec n} (lt : k < 2 ^ n) : c = BitVec.ofNat n k ↔ c.toNat = k := by
  rw [← BitVec.toNat_inj, BitVec.toNat_ofNat, Nat.mod_eq_of_lt lt]

@[simp] theorem IntTy.ofCode_eq_some {c : BitVec 3} {t : IntTy} : ofCode c = some t ↔ c = t.code := by
  cases t <;> revert c <;> decide

@[simp] theorem FpTy.ofCode_eq_some {c : BitVec 3} {t : FpTy} : ofCode c = some t ↔ c = t.code := by
  cases t <;> revert c <;> decide

@[simp] theorem Space.ofCode_eq_some {c : BitVec 3} {x : Space} : ofCode c = some x ↔ c = x.code := by
  cases x <;> revert c <;> decide

@[simp] theorem ASize.ofCode_eq_some {c : BitVec 3} {z : ASize} : ofCode c = some z ↔ c = z.code := by
  cases z <;> revert c <;> decide

@[simp] theorem Aop.ofCode_eq_some {c : BitVec 4} {x : Aop} : ofCode c = some x ↔ c = x.code := by
  cases x <;> revert c <;> decide

@[simp] theorem ElTy.ofCode_eq {c : BitVec 3} {t : ElTy} : ofCode c = t ↔ c = t.code := by
  cases t <;> revert c <;> decide

@[simp] theorem WSpace.ofCode_eq {c : BitVec 2} {x : WSpace} : ofCode c = x ↔ c = x.code := by
  cases x <;> revert c <;> decide

@[simp] theorem Scope.ofCode_eq {c : BitVec 3} {x : Scope} : ofCode c = x ↔ c = x.code := by
  cases x <;> revert c <;> decide

@[simp] theorem LSize.ofCode_eq {c : BitVec 3} {z : LSize} : ofCode c = z ↔ c = z.code := by
  cases z <;> revert c <;> decide

@[simp] theorem Order.ofCode_eq {c : BitVec 2} {x : Order} : ofCode c = x ↔ c = x.code := by
  cases x <;> revert c <;> decide

@[simp] theorem FenceKind.ofCode_eq {c : BitVec 2} {k : FenceKind} : ofCode c = k ↔ c = k.code := by
  cases k <;> revert c <;> decide

@[simp] theorem CvtMode.ofCode_eq {c : BitVec 2} {r : CvtMode} : ofCode c = r ↔ c = r.code := by
  cases r <;> revert c <;> decide

@[simp] theorem fin4_eq {c : BitVec 2} {k : Fin 4} : fin4 c = k ↔ c = BitVec.ofNat 2 k.val := by
  revert c k; decide

@[simp] theorem fin128_eq {c : BitVec 7} {k : Fin 128} : fin128 c = k ↔ c = BitVec.ofNat 7 k.val := by
  rw [ofNat_eq_iff k.isLt, Fin.ext_iff]
  rfl

/-- A code that names a number below a bound. -/
theorem below_eq_some {n m : Nat} {c : BitVec n} {k : Fin m} (le : m ≤ 2 ^ n) :
    (if h : c.toNat < m then some ⟨c.toNat, h⟩ else none) = some k ↔ c = BitVec.ofNat n k.val := by
  have lt : k.val < 2 ^ n := by omega
  rw [ofNat_eq_iff lt]
  split
  · rw [Option.some_inj, Fin.ext_iff]
  · exact ⟨nofun, fun e => absurd (e ▸ k.isLt) ‹_›⟩

@[simp] theorem gpOfCode_eq_some {c : BitVec 8} {p : Fin 192} : gpOfCode c = some p ↔ c = gpCode p := below_eq_some (by decide)

@[simp] theorem maskOfCode_eq_some {c : BitVec 4} {k : Fin 12} : maskOfCode c = some k ↔ c = BitVec.ofNat 4 k.val :=
  below_eq_some (by decide)

@[simp] theorem barOfCode_eq_some {c : BitVec 7} {k : Fin 96} : barOfCode c = some k ↔ c = BitVec.ofNat 7 k.val :=
  below_eq_some (by decide)

@[simp] theorem tileOfCode_eq_some {c : BitVec 5} {k : Fin 18} : tileOfCode c = some k ↔ c = BitVec.ofNat 5 k.val :=
  below_eq_some (by decide)

@[simp] theorem levelOfCode_eq_some {c : BitVec 3} {k : Fin 6} : levelOfCode c = some k ↔ c = BitVec.ofNat 3 k.val :=
  below_eq_some (by decide)

@[simp] theorem LSrc.ofCode_eq_some {c : BitVec 7} {x : LSrc} : ofCode c = some x ↔ c = x.code := by
  have spec : c = x.code ↔ c.toNat = match x with | v n => n.val | vx k => 0x60 + k.val | vz => 0x64 | tid => 0x65 := by
    cases x with
    | v | vx => exact ofNat_eq_iff (by omega)
    | vz | tid => exact ofNat_eq_iff (by decide)
  rw [spec]
  unfold ofCode
  split_ifs <;> cases x <;> simp [Fin.ext_iff] <;> omega

@[simp] theorem LDst.ofCode_eq_some {c : BitVec 7} {x : LDst} : ofCode c = some x ↔ c = x.code := by
  have spec : c = x.code ↔ c.toNat = match x with | v n => n.val | vx k => 0x60 + k.val | vz => 0x64 := by
    cases x with
    | v | vx => exact ofNat_eq_iff (by omega)
    | vz => exact ofNat_eq_iff (by decide)
  rw [spec]
  unfold ofCode
  split_ifs <;> cases x <;> simp [Fin.ext_iff] <;> omega

@[simp] theorem LOpB.ofCode_eq_some {c : BitVec 7} {u : Bool} {x : LOpB} : ofCode c u = some x ↔ c = x.code ∧ u = x.u := by
  cases u <;> cases x
  case true.group g => simpa [ofCode, code, LOpB.u, Fin.ext_iff] using (ofNat_eq_iff (n := 7) g.isLt).symm
  all_goals simp [ofCode, code, LOpB.u]

@[simp] theorem GSrc.ofCode_eq_some {c : BitVec 8} {x : GSrc} : ofCode c = some x ↔ c = x.code := by
  have spec : c = x.code ↔ c.toNat = match x with | g n => n.val | gz => 192 | gwid => 193 | glive => 194 | gtick => 195 := by
    cases x with
    | g => exact ofNat_eq_iff (by omega)
    | gz | gwid | glive | gtick => exact ofNat_eq_iff (by decide)
  rw [spec]
  unfold ofCode
  split
  · cases x <;> simp [Fin.ext_iff] <;> omega
  · split
    case h_5 n₀ n₁ n₂ n₃ =>
      simp only [imp_false] at n₀ n₁ n₂ n₃
      cases x <;> simp <;> omega
    all_goals cases x <;> simp <;> omega

@[simp] theorem GDst.ofCode_eq_some {c : BitVec 8} {x : GDst} : ofCode c = some x ↔ c = x.code := by
  have spec : c = x.code ↔ c.toNat = match x with | g n => n.val | gz => 192 := by
    cases x with
    | g => exact ofNat_eq_iff (by omega)
    | gz => exact ofNat_eq_iff (by decide)
  rw [spec]
  unfold ofCode
  split_ifs <;> cases x <;> simp [Fin.ext_iff] <;> omega

/-- A route spec's kind and parameter (R45). -/
def RouteSpec.parts : RouteSpec → BitVec 3 × BitVec 9
  | none => (0, 0)
  | rot p => (1, p)
  | bcast p => (2, p)
  | bfly p => (3, p)
  | perm p => (4, BitVec.ofNat 9 p.val)
  | shup p => (5, p)
  | shdn p => (6, p)

theorem RouteSpec.code_eq (x : RouteSpec) : x.code = x.parts.1 ++ x.parts.2 := by
  cases x <;> rfl

@[simp] theorem RouteSpec.ofCode_eq_some {c : BitVec 12} {x : RouteSpec} : ofCode c = some x ↔ c = x.code := by
  rw [code_eq, eq_comm (a := c), append_eq_iff]
  unfold ofCode
  generalize c.extractLsb' 9 3 = kind, c.extractLsb' 0 9 = p
  obtain ⟨⟨n, lt⟩⟩ := kind
  cases x with
  | perm k =>
    have index : p = BitVec.ofNat 9 k.val ↔ p.toNat = k.val := ofNat_eq_iff (by omega)
    interval_cases n <;> simp [parts, index, Fin.ext_iff]
    omega
  | _ => interval_cases n <;> simp [parts]

/-! ## Reading a word (R35, R36) -/

@[simp] theorem Dec.bind_ok {α β : Type} {x : Dec α} {f : α → Dec β} {b : β} :
    (x >>= f) = .ok b ↔ ∃ a, x = .ok a ∧ f a = .ok b := by
  cases x <;> simp [bind, Except.bind]

@[simp] theorem Dec.pure_ok {α : Type} {a b : α} : (pure a : Dec α) = .ok b ↔ a = b := by
  simp [pure, Except.pure]

@[simp] theorem need_ok {α : Type} {o : Option α} {a : α} : need o = .ok a ↔ o = some a := by
  cases o <;> simp [need]

@[simp] theorem mbz_ok {w : W32} {lo n : Nat} {u : Unit} : mbz w lo n = .ok u ↔ fld w lo n = 0 := by
  unfold mbz
  split <;> simp_all

@[simp] theorem Dec.map_ok {α β : Type} {x : Dec α} {f : α → β} {b : β} : f <$> x = .ok b ↔ ∃ a, x = .ok a ∧ f a = b := by
  cases x <;> simp [Functor.map, Except.map]

/-! ## The shapes of words (R37–R48, R53–R58): what a word of each reads as -/

section
variable {w x : W32} {i : Instr}

@[simp] theorem deLaI_ok {k : IntTy → LDst → LSrc → LOpB → Instr} : deLaI k w = .ok i ↔
    ∃ t, fld w 22 3 = t.code ∧ ∃ d, fld w 15 7 = d.code ∧ ∃ a, fld w 8 7 = a.code ∧
      ∃ b, (fld w 1 7 = b.code ∧ bit w 0 = b.u) ∧ k t d a b = i := by
  simp [deLaI]

@[simp] theorem deLaF_ok {k : FpTy → LDst → LSrc → LOpB → Instr} : deLaF k w = .ok i ↔
    ∃ t, fld w 22 3 = t.code ∧ ∃ d, fld w 15 7 = d.code ∧ ∃ a, fld w 8 7 = a.code ∧
      ∃ b, (fld w 1 7 = b.code ∧ bit w 0 = b.u) ∧ k t d a b = i := by
  simp [deLaF]

@[simp] theorem deUnI_ok {k : IntTy → LDst → LSrc → Instr} : deUnI k w = .ok i ↔
    ∃ t, fld w 22 3 = t.code ∧ ∃ d, fld w 15 7 = d.code ∧ ∃ a, fld w 8 7 = a.code ∧ fld w 0 1 = 0 ∧ k t d a = i := by
  simp [deUnI]

@[simp] theorem deUnF_ok {k : FpTy → LDst → LSrc → Instr} : deUnF k w = .ok i ↔
    ∃ t, fld w 22 3 = t.code ∧ ∃ d, fld w 15 7 = d.code ∧ ∃ a, fld w 8 7 = a.code ∧ fld w 0 1 = 0 ∧ k t d a = i := by
  simp [deUnF]

@[simp] theorem deBfp_ok {k : FpTy → LDst → LSrc → LSrc → Instr} : deBfp k w = .ok i ↔
    ∃ t, fld w 22 3 = t.code ∧ ∃ d, fld w 15 7 = d.code ∧ ∃ a, fld w 8 7 = a.code ∧ ∃ b, fld w 1 7 = b.code ∧ fld w 0 1 = 0 ∧
      k t d a b = i := by
  simp [deBfp]

@[simp] theorem deLi_ok {k : IntTy → LDst → LSrc → BitVec 8 → Instr} : deLi k w = .ok i ↔
    ∃ t, fld w 22 3 = t.code ∧ ∃ d, fld w 15 7 = d.code ∧ ∃ a, fld w 8 7 = a.code ∧ k t d a (fld w 0 8) = i := by
  simp [deLi]

@[simp] theorem deGa_ok {k : GDst → GSrc → GSrc → Bool → Instr} : deGa k w = .ok i ↔
    ∃ d, fld w 17 8 = d.code ∧ ∃ a, fld w 9 8 = a.code ∧ ∃ b, fld w 1 8 = b.code ∧ k d a b (bit w 0) = i := by
  simp [deGa]

@[simp] theorem deGi_ok {k : GDst → GSrc → BitVec 9 → Instr} : deGi k w = .ok i ↔
    ∃ d, fld w 17 8 = d.code ∧ ∃ a, fld w 9 8 = a.code ∧ k d a (fld w 0 9) = i := by
  simp [deGi]

@[simp] theorem deGsh_ok {k : GDst → GSrc → BitVec 6 → Instr} : deGsh k w = .ok i ↔
    ∃ d, fld w 17 8 = d.code ∧ ∃ a, fld w 9 8 = a.code ∧ fld w 6 3 = 0 ∧ k d a (fld w 0 6) = i := by
  simp [deGsh]

@[simp] theorem deGp_ok {k : Fin 192 → GDst → Instr} : deGp k w = .ok i ↔
    ∃ p, fld w 17 8 = gpCode p ∧ ∃ d, fld w 9 8 = d.code ∧ fld w 0 9 = 0 ∧ k p d = i := by
  simp [deGp]

@[simp] theorem deBarS_ok {k : Fin 96 → GSrc → Instr} : deBarS k w = .ok i ↔
    ∃ b, fld w 13 7 = BitVec.ofNat 7 b.val ∧ ∃ a, fld w 5 8 = a.code ∧ fld w 0 5 = 0 ∧ k b a = i := by
  simp [deBarS]

@[simp] theorem deBarD_ok {k : Fin 96 → GDst → Instr} : deBarD k w = .ok i ↔
    ∃ b, fld w 13 7 = BitVec.ofNat 7 b.val ∧ ∃ d, fld w 5 8 = d.code ∧ fld w 0 5 = 0 ∧ k b d = i := by
  simp [deBarD]

@[simp] theorem deDA_ok {k : GDst → GSrc → Instr} : deDA k w = .ok i ↔
    ∃ d, fld w 12 8 = d.code ∧ ∃ a, fld w 4 8 = a.code ∧ fld w 0 4 = 0 ∧ k d a = i := by
  simp [deDA]

@[simp] theorem deDP_ok {k : GDst → Fin 192 → Instr} : deDP k w = .ok i ↔
    ∃ d, fld w 12 8 = d.code ∧ ∃ p, fld w 4 8 = gpCode p ∧ fld w 0 4 = 0 ∧ k d p = i := by
  simp [deDP]

@[simp] theorem deAB_ok {k : GSrc → GSrc → Instr} : deAB k w = .ok i ↔
    ∃ a, fld w 12 8 = a.code ∧ ∃ b, fld w 4 8 = b.code ∧ fld w 0 4 = 0 ∧ k a b = i := by
  simp [deAB]

@[simp] theorem deSysA_ok {k : GSrc → Instr} : deSysA k w = .ok i ↔ ∃ a, fld w 12 8 = a.code ∧ fld w 0 12 = 0 ∧ k a = i := by
  simp [deSysA]

@[simp] theorem deSysD_ok {k : GDst → Instr} : deSysD k w = .ok i ↔ ∃ d, fld w 12 8 = d.code ∧ fld w 0 12 = 0 ∧ k d = i := by
  simp [deSysD]

theorem deCvt_ok : deCvt w = .ok i ↔ ∃ d, fld w 15 7 = d.code ∧ ∃ a, fld w 8 7 = a.code ∧ fld w 1 1 = 0 ∧
    .cvt (ElTy.ofCode (fld w 22 3)) d a (ElTy.ofCode (fld w 5 3)) (bit w 4) (CvtMode.ofCode (fld w 2 2)) (bit w 0) = i := by
  simp [deCvt]

/-- The second word of an `atom` (R42). -/
theorem deAtomFields_ok {f : AtomFields} : deAtomFields x = .ok f ↔ x = f.code := by
  unfold deAtomFields
  constructor
  · split
    · exact nofun
    next op hop =>
      simp only [Dec.bind_ok, Dec.pure_ok, mbz_ok]
      rintro ⟨_, hz, rfl⟩
      symm
      exact append₇_eq.mpr ⟨Aop.ofCode_eq_some.mp hop, Order.ofCode_eq.mp rfl, Scope.ofCode_eq.mp rfl, fld_bit x 22, rfl, rfl, hz⟩
  · intro h
    obtain ⟨hop, ho, hs, hp, hb, hc, hz⟩ := append₇_eq.mp h.symm
    simp only [Nat.reduceAdd, extractLsb'_word, fld_eq_flag] at hop ho hs hp hb hc hz
    simp [Aop.ofCode_eq_some.mpr hop, Order.ofCode_eq.mpr ho, Scope.ofCode_eq.mpr hs, hp, hb, hc, hz]

/-! ## A word that is read is the encoding of what it reads as (R36–R58) -/

theorem single {v : W32} (h : v = w) : [v] = [w] := congrArg ([·]) h

theorem double {v y : W32} (h : v = w) (k : y = x) : [v, y] = [w, x] := congrArg₂ ([·, ·]) h k

/-- A field of two parts. -/
theorem fld_eq_append {lo m n : Nat} {a : BitVec m} {b : BitVec n} (h : fld w (lo + n) m = a) (k : fld w lo n = b) :
    fld w lo (m + n) = a ++ b := extractLsb'_eq_append_iff.mpr ⟨h, k⟩

/-- A part of a zero field is zero. -/
theorem fld_zero {lo n lo' n' : Nat} (h : fld w lo n = 0) (ge : lo ≤ lo' := by decide) (le : lo' + n' ≤ lo + n := by decide) :
    fld w lo' n' = 0 := by
  have part := extractLsb'_fld (w := w) (lo := lo) (n := n) (lo' := lo' - lo) (n' := n') (by omega)
  rw [h, Nat.add_sub_cancel' ge] at part
  simpa using part.symm

theorem deIun_words (op : fld w 25 7 = 0x1C#7) : deIun w = .ok i → encode i = [w] := by
  unfold deIun
  split
  case h_9 => exact nofun
  all_goals
    rw [deUnI_ok]
    rintro ⟨t, ht, d, hd, a, ha, hu, rfl⟩
    exact single (append₆_eq.mpr ⟨op, ht, hd, ha, fld_eq_ofNat ‹_›, hu⟩)

theorem deFun_words (op : fld w 25 7 = 0x2F#7) : deFun w = .ok i → encode i = [w] := by
  unfold deFun
  split
  case h_16 => exact nofun
  all_goals
    rw [deUnF_ok]
    rintro ⟨t, ht, d, hd, a, ha, hu, rfl⟩
    exact single (append₆_eq.mpr ⟨op, ht, hd, ha, fld_eq_ofNat ‹_›, hu⟩)

theorem deCvt_words (op : fld w 25 7 = 0x30#7) : deCvt w = .ok i → encode i = [w] := by
  rw [deCvt_ok]
  rintro ⟨d, hd, a, ha, hz, rfl⟩
  refine single (append₅_eq.mpr ⟨op, ElTy.ofCode_eq.mp rfl, hd, ha, ?_⟩)
  exact fld_eq_append (m := 7) (fld_eq_append (m := 6) (fld_eq_append (m := 4) (fld_eq_append (ElTy.ofCode_eq.mp rfl) (fld_bit w 4))
    (CvtMode.ofCode_eq.mp rfl)) hz) (fld_bit w 0)

/-- The control words of the lane set (R43): opcode 0x3F. -/
theorem laneControl_words (set : bit w 31 = false) (op : (fld w 25 6).toNat = 63) :
    decodeLane w x = .ok i → encode i = if fld w 20 5 = 6 || fld w 20 5 = 11 then [w, x] else [w] := by
  simp only [decodeLane, op]
  replace op := fld_operation_eq set op
  split
  case h_20 => exact nofun
  all_goals
    rename_i sub
    replace sub := fld_eq_ofNat sub
    simp only [sub, Dec.bind_ok, Dec.pure_ok, need_ok, mbz_ok, LDst.ofCode_eq_some, LSrc.ofCode_eq_some, maskOfCode_eq_some,
      levelOfCode_eq_some]
  case h_1 =>
    rintro ⟨a, ha, _, hz, rfl⟩
    exact single (append₄_eq.mpr ⟨op, sub, ha, hz⟩)
  case h_2 | h_3 | h_19 =>
    rintro ⟨_, hz, rfl⟩
    exact single (append₄_eq.mpr ⟨op, sub, fld_zero hz, fld_zero hz⟩)
  case h_4 | h_5 | h_6 =>
    rintro ⟨m, hm, _, hz, rfl⟩
    exact single (append₄_eq.mpr ⟨op, sub, hm, hz⟩)
  case h_7 =>
    rintro ⟨c, hc, _, hz, rfl⟩
    exact double (append₄_eq.mpr ⟨op, sub, hc, fld_eq_append rfl hz⟩) rfl
  case h_8 =>
    rintro ⟨_, hz, rfl⟩
    exact single (append₅_eq.mpr ⟨op, sub, fin4_eq.mp rfl, hz, rfl⟩)
  case h_9 | h_10 =>
    rintro ⟨a, ha, rfl⟩
    exact single (append₅_eq.mpr ⟨op, sub, fin4_eq.mp rfl, ha, rfl⟩)
  case h_11 =>
    rintro ⟨⟩
    exact single (append₄_eq.mpr ⟨op, sub, fin4_eq.mp rfl, rfl⟩)
  case h_12 =>
    rintro ⟨a, ha, b, hb, rfl⟩
    exact double (append₇_eq.mpr ⟨op, sub, ha, hb, Scope.ofCode_eq.mp rfl, WSpace.ofCode_eq.mp rfl, fld_bit w 0⟩) rfl
  case h_13 =>
    rintro ⟨_, hz, rfl⟩
    exact single (append₅_eq.mpr ⟨op, sub, rfl, rfl, hz⟩)
  case h_14 =>
    rintro ⟨_, hz, rfl⟩
    exact single (append₅_eq.mpr ⟨op, sub, FenceKind.ofCode_eq.mp rfl, Scope.ofCode_eq.mp rfl, hz⟩)
  case h_15 =>
    rintro ⟨_, hz, rfl⟩
    exact single (append₄_eq.mpr ⟨op, sub, hz, rfl⟩)
  case h_16 =>
    rintro ⟨d, hd, _, hz, l, hl, rfl⟩
    exact single (append₅_eq.mpr ⟨op, sub, hd, hz, hl⟩)
  case h_17 | h_18 =>
    rintro ⟨d, hd, _, hz, rfl⟩
    exact single (append₄_eq.mpr ⟨op, sub, hd, fld_eq_append hz rfl⟩)

theorem decodeLane_words (set : bit w 31 = false) : decodeLane w x = .ok i → encode i = if twoWords w then [w, x] else [w] := by
  by_cases control : (fld w 25 6).toNat = 63
  · simpa [twoWords, set, control] using laneControl_words set control
  unfold decodeLane twoWords
  split
  case h_63 op => exact absurd op control
  case h_64 => exact nofun
  all_goals
    rename_i op
    simp only [set, op, Bool.false_eq_true, if_false, if_true, deLaI_ok, deLaF_ok, deLi_ok, deBfp_ok, deAtomFields_ok, Dec.bind_ok,
      Dec.pure_ok, need_ok, mbz_ok, IntTy.ofCode_eq_some, Space.ofCode_eq_some, ASize.ofCode_eq_some,
      LDst.ofCode_eq_some, LSrc.ofCode_eq_some, RouteSpec.ofCode_eq_some]
    replace op := fld_operation_eq set op
  case h_28 => exact deIun_words op
  case h_47 => exact deFun_words op
  case h_48 => exact deCvt_words op
  case h_1 | h_2 | h_3 | h_4 | h_5 | h_6 | h_7 | h_8 | h_9 | h_10 | h_11 | h_12 | h_13 | h_14 | h_15 | h_16 | h_17 | h_18 | h_19
      | h_20 | h_21 | h_22 | h_23 | h_24 | h_25 | h_26 | h_27 | h_37 | h_38 | h_39 | h_40 | h_41 | h_42 | h_43 | h_44 | h_45 | h_46 =>
    rintro ⟨t, ht, d, hd, a, ha, b, ⟨hb, hu⟩, rfl⟩
    refine single (append₆_eq.mpr ⟨op, ht, hd, ha, hb, ?_⟩)
    exact fld_eq_flag.mpr hu
  case h_29 | h_30 | h_31 | h_32 | h_33 | h_34 | h_35 =>
    rintro ⟨t, ht, d, hd, a, ha, rfl⟩
    exact single (append₅_eq.mpr ⟨op, ht, hd, ha, rfl⟩)
  case h_36 =>
    rintro ⟨t, ht, d, hd, rfl⟩
    exact single (append₄_eq.mpr ⟨op, ht, hd, rfl⟩)
  case h_49 | h_50 =>
    rintro ⟨t, ht, d, hd, a, ha, b, hb, hu, rfl⟩
    exact single (append₆_eq.mpr ⟨op, ht, hd, ha, hb, hu⟩)
  case h_51 =>
    rintro ⟨p, hp, q, hq, rfl⟩
    exact single (append₄_eq.mpr ⟨op, hp, hq, fld_bit w 0⟩)
  case h_52 =>
    rintro ⟨_, hz, rfl⟩
    exact single (append₆_eq.mpr ⟨op, rfl, rfl, fld_bit w 14, fld_bit w 13, hz⟩)
  case h_53 | h_54 =>
    rintro ⟨d, hd, a, ha, sp, hsp, rfl⟩
    exact single (append₆_eq.mpr ⟨op, LSize.ofCode_eq.mp rfl, hd, ha, hsp, rfl⟩)
  case h_55 | h_56 =>
    rintro ⟨d, hd, a, ha, sp, hsp, _, hz, rfl⟩
    exact single (append₆_eq.mpr ⟨op, LSize.ofCode_eq.mp rfl, hd, ha, hsp, fld_eq_append (Scope.ofCode_eq.mp rfl) hz⟩)
  case h_57 =>
    rintro ⟨f, hf, z, hz, d, hd, a, ha, sp, hsp, _, hu, rfl⟩
    exact double (append₆_eq.mpr ⟨op, hz, hd, ha, hsp, hu⟩) hf.symm
  case h_58 =>
    rintro ⟨_, hz, rfl⟩
    exact single (append₆_eq.mpr ⟨op, hz, fin4_eq.mp rfl, rfl, rfl, rfl⟩)
  case h_59 =>
    rintro ⟨_, hz, _, hu, rfl⟩
    exact single (append₅_eq.mpr ⟨op, hz, fin4_eq.mp rfl, hu, rfl⟩)
  case h_60 =>
    split
    case h_4 => exact nofun
    all_goals
      rename_i sub
      simp only [Dec.bind_ok, Dec.pure_ok, need_ok, mbz_ok, LDst.ofCode_eq_some, LSrc.ofCode_eq_some]
      replace sub := fld_eq_ofNat sub
    case h_1 | h_3 =>
      rintro ⟨d, hd, _, hz, rfl⟩
      exact single (append₄_eq.mpr ⟨op, sub, hd, hz⟩)
    case h_2 =>
      rintro ⟨_, hz, a, ha, _, hu, rfl⟩
      exact single (append₅_eq.mpr ⟨op, sub, hz, ha, hu⟩)
  case h_61 =>
    split <;> rintro ⟨⟩ <;> rename_i link
    · exact single (append₃_eq.mpr ⟨op, fld_eq_flag (b := true).mpr link, rfl⟩)
    · exact single (append₃_eq.mpr ⟨op, fld_eq_flag (b := false).mpr (by simpa using link), rfl⟩)
  case h_62 =>
    rintro ⟨a, ha, rfl⟩
    split <;> rename_i nonzero
    · exact single (append₄_eq.mpr ⟨op, fld_eq_flag (b := true).mpr nonzero, ha, rfl⟩)
    · exact single (append₄_eq.mpr ⟨op, fld_eq_flag (b := false).mpr (by simpa using nonzero), ha, rfl⟩)

/-- The control words of the group set (R52): opcode 0x2C. -/
theorem deGctl_words (op : fld w 25 7 = 0x6C#7) :
    deGctl w x = .ok i → encode i = if fld w 20 5 = 3 || fld w 20 5 = 9 then [w, x] else [w] := by
  unfold deGctl
  split
  case h_18 => exact nofun
  all_goals
    rename_i sub
    replace sub := fld_eq_ofNat sub
    simp only [sub, Dec.bind_ok, Dec.pure_ok, need_ok, mbz_ok, GDst.ofCode_eq_some, GSrc.ofCode_eq_some]
  case h_1 =>
    rintro ⟨a, ha, _, hz, rfl⟩
    exact single (append₅_eq.mpr ⟨op, sub, ha, fld_zero hz, fld_zero hz⟩)
  case h_2 | h_3 | h_16 | h_17 =>
    rintro ⟨_, hz, rfl⟩
    exact single (append₅_eq.mpr ⟨op, sub, fld_zero hz, fld_zero hz, fld_zero hz⟩)
  case h_4 =>
    rintro ⟨c, hc, _, hz, rfl⟩
    exact double (append₅_eq.mpr ⟨op, sub, hc, rfl, hz⟩) rfl
  case h_5 =>
    rintro ⟨_, hz, rfl⟩
    exact single (append₅_eq.mpr ⟨op, sub, fin4_eq.mp rfl, hz, rfl⟩)
  case h_6 | h_7 =>
    rintro ⟨a, ha, rfl⟩
    exact single (append₅_eq.mpr ⟨op, sub, fin4_eq.mp rfl, ha, rfl⟩)
  case h_8 =>
    rintro ⟨⟩
    exact single (append₄_eq.mpr ⟨op, sub, fin4_eq.mp rfl, rfl⟩)
  case h_9 =>
    rintro ⟨_, hz, rfl⟩
    exact single (append₇_eq.mpr ⟨op, sub, rfl, rfl, rfl, rfl, hz⟩)
  case h_10 =>
    rintro ⟨⟩
    exact double (append₇_eq.mpr ⟨op, sub, fin128_eq.mp rfl, fin128_eq.mp rfl, Scope.ofCode_eq.mp rfl, WSpace.ofCode_eq.mp rfl,
      fld_bit w 0⟩) rfl
  case h_11 =>
    rintro ⟨_, hz, rfl⟩
    exact single (append₅_eq.mpr ⟨op, sub, FenceKind.ofCode_eq.mp rfl, Scope.ofCode_eq.mp rfl, hz⟩)
  case h_12 =>
    rintro ⟨_, hz, rfl⟩
    exact single (append₄_eq.mpr ⟨op, sub, hz, rfl⟩)
  case h_13 | h_14 =>
    rintro ⟨d, hd, rfl⟩
    exact single (append₄_eq.mpr ⟨op, sub, hd, rfl⟩)
  case h_15 =>
    rintro ⟨_, hz, rfl⟩
    split <;> rename_i lanes
    · refine single (append₅_eq.mpr ⟨op, sub, fld_zero hz, fld_zero hz, ?_⟩)
      exact fld_eq_append (a := 0#3) (b := 1#1) (fld_zero hz) (fld_eq_flag (b := true).mpr lanes)
    · refine single (append₅_eq.mpr ⟨op, sub, fld_zero hz, fld_zero hz, ?_⟩)
      exact fld_eq_append (a := 0#3) (b := 0#1) (fld_zero hz) (fld_eq_flag (b := false).mpr (by simpa using lanes))

theorem deQctl_words (op : fld w 25 7 = 0x6D#7) : deQctl w = .ok i → encode i = [w] := by
  unfold deQctl
  split
  case h_5 => exact nofun
  all_goals
    rename_i sub
    replace sub := fld_eq_ofNat sub
    simp only [Dec.bind_ok, Dec.pure_ok, need_ok, mbz_ok, GDst.ofCode_eq_some, GSrc.ofCode_eq_some]
  case h_1 | h_4 =>
    rintro ⟨a, ha, _, hz, rfl⟩
    exact single (append₅_eq.mpr ⟨op, sub, fld_bit w 19, ha, hz⟩)
  case h_2 | h_3 =>
    rintro ⟨_, hq, a, ha, _, hz, rfl⟩
    exact single (append₅_eq.mpr ⟨op, sub, hq, ha, hz⟩)

theorem deMxctl_words (op : fld w 25 7 = 0x71#7) : deMxctl w = .ok i → encode i = [w] := by
  unfold deMxctl
  split
  case h_7 => exact nofun
  all_goals
    rename_i sub
    replace sub := fld_eq_ofNat sub
    simp only [Dec.bind_ok, Dec.pure_ok, need_ok, mbz_ok, GSrc.ofCode_eq_some, gpOfCode_eq_some, tileOfCode_eq_some]
  case h_1 | h_2 =>
    rintro ⟨_, hz, rfl⟩
    exact single (append₅_eq.mpr ⟨op, sub, fld_zero hz, fld_zero hz, fld_zero hz⟩)
  case h_3 =>
    rintro ⟨t, ht, _, hz, rfl⟩
    exact single (append₄_eq.mpr ⟨op, sub, ht, hz⟩)
  case h_4 | h_5 | h_6 =>
    rintro ⟨a, ha, _, hz, rfl⟩
    exact single (append₅_eq.mpr ⟨op, sub, ha, fld_zero hz, fld_zero hz⟩)

theorem deBar_words (op : fld w 25 7 = 0x73#7) : deBar w = .ok i → encode i = [w] := by
  unfold deBar
  split
  case h_8 => exact nofun
  all_goals
    rename_i sub
    replace sub := fld_eq_ofNat sub
    simp only [deBarS_ok, deBarD_ok, Dec.bind_ok, Dec.pure_ok, need_ok, mbz_ok, barOfCode_eq_some]
  case h_2 =>
    rintro ⟨b, hb, _, hz, rfl⟩
    exact single (append₅_eq.mpr ⟨op, sub, hb, fld_zero hz, fld_zero hz⟩)
  all_goals
    rintro ⟨b, hb, a, ha, hz, rfl⟩
    exact single (append₅_eq.mpr ⟨op, sub, hb, ha, hz⟩)

theorem deWatch_words (op : fld w 25 7 = 0x74#7) : deWatch w = .ok i → encode i = [w] := by
  unfold deWatch
  split
  case h_4 => exact nofun
  all_goals
    rename_i sub
    simp only [deDP_ok, deDA_ok]
    rintro ⟨d, hd, a, ha, hz, rfl⟩
    exact single (append₅_eq.mpr ⟨op, fld_eq_ofNat sub, hd, ha, hz⟩)

theorem deShare_words (op : fld w 25 7 = 0x76#7) : deShare w = .ok i → encode i = [w] := by
  unfold deShare
  split
  case h_4 => exact nofun
  all_goals
    rename_i sub
    simp only [deDA_ok, Dec.bind_ok, Dec.pure_ok, need_ok, mbz_ok, GDst.ofCode_eq_some]
  case h_2 =>
    rintro ⟨d, hd, _, hz, rfl⟩
    exact single (append₅_eq.mpr ⟨op, fld_eq_ofNat sub, hd, fld_zero hz, fld_zero hz⟩)
  all_goals
    rintro ⟨d, hd, a, ha, hz, rfl⟩
    exact single (append₅_eq.mpr ⟨op, fld_eq_ofNat sub, hd, ha, hz⟩)

theorem deQuote_words (op : fld w 25 7 = 0x78#7) : deQuote w = .ok i → encode i = [w] := by
  unfold deQuote
  split
  case h_5 => exact nofun
  all_goals
    rename_i sub
    simp only [deDP_ok, deDA_ok]
    rintro ⟨d, hd, a, ha, hz, rfl⟩
    exact single (append₅_eq.mpr ⟨op, fld_eq_ofNat sub, hd, ha, hz⟩)

theorem dePhase_words (op : fld w 25 7 = 0x77#7) :
    dePhase w x = .ok i → encode i = if fld w 20 5 = 2 then [w, x] else [w] := by
  unfold dePhase
  split
  case h_4 => exact nofun
  all_goals
    rename_i sub
    replace sub := fld_eq_ofNat sub
    simp only [sub, Dec.bind_ok, Dec.pure_ok, need_ok, mbz_ok, gpOfCode_eq_some]
  case h_1 | h_2 =>
    rintro ⟨_, hz, rfl⟩
    exact single (append₅_eq.mpr ⟨op, sub, fld_zero hz, fld_zero hz, fld_zero hz⟩)
  case h_3 =>
    rintro ⟨p, hp, _, hz, rfl⟩
    exact double (append₅_eq.mpr ⟨op, sub, hp, fld_zero hz, fld_zero hz⟩) rfl

theorem deSig_words (op : fld w 25 7 = 0x7A#7) : deSig w = .ok i → encode i = [w] := by
  unfold deSig
  split
  case h_3 => exact nofun
  all_goals
    rename_i sub
    rw [deAB_ok]
    rintro ⟨a, ha, b, hb, hz, rfl⟩
    exact single (append₅_eq.mpr ⟨op, fld_eq_ofNat sub, ha, hb, hz⟩)

theorem deSys_words (op : fld w 25 7 = 0x7B#7) : deSys w = .ok i → encode i = [w] := by
  unfold deSys
  split
  case h_11 => exact nofun
  all_goals
    rename_i sub
    replace sub := fld_eq_ofNat sub
    simp only [deSysA_ok, deSysD_ok, deAB_ok, Dec.bind_ok, Dec.pure_ok, need_ok, mbz_ok, GSrc.ofCode_eq_some]
  case h_1 =>
    rintro ⟨a, ha, b, hb, _, hz, rfl⟩
    exact single (append₅_eq.mpr ⟨op, sub, ha, hb, fld_eq_append hz rfl⟩)
  case h_5 =>
    rintro ⟨a, ha, b, hb, hz, rfl⟩
    exact single (append₅_eq.mpr ⟨op, sub, ha, hb, hz⟩)
  case h_9 =>
    rintro ⟨_, hz, rfl⟩
    exact single (append₅_eq.mpr ⟨op, sub, fld_zero hz, fld_zero hz, fld_zero hz⟩)
  all_goals
    rintro ⟨a, ha, hz, rfl⟩
    exact single (append₅_eq.mpr ⟨op, sub, ha, fld_zero hz, fld_zero hz⟩)

theorem decodeGroup_words (set : bit w 31 = true) : decodeGroup w x = .ok i → encode i = if twoWords w then [w, x] else [w] := by
  unfold decodeGroup twoWords
  split
  case h_60 => exact nofun
  all_goals
    rename_i op
    simp only [set, op, Bool.false_eq_true, if_false, if_true, deGa_ok, deGi_ok, deGsh_ok, deGp_ok, deAtomFields_ok, Dec.bind_ok,
      Dec.pure_ok, need_ok, mbz_ok, Space.ofCode_eq_some, ASize.ofCode_eq_some, GDst.ofCode_eq_some, GSrc.ofCode_eq_some,
      gpOfCode_eq_some]
    replace op := fld_operation_eq set op
  case h_1 | h_2 | h_3 | h_4 | h_5 | h_6 | h_7 | h_8 | h_9 | h_10 | h_11 | h_12 | h_13 | h_14 | h_15 | h_16 | h_17 | h_18 | h_19
      | h_20 | h_21 | h_22 | h_23 =>
    rintro ⟨d, hd, a, ha, b, hb, rfl⟩
    exact single (append₅_eq.mpr ⟨op, hd, ha, hb, fld_bit w 0⟩)
  case h_24 =>
    rintro ⟨d, hd, a, ha, b, hb, _, hz, rfl⟩
    exact single (append₅_eq.mpr ⟨op, hd, ha, hb, hz⟩)
  case h_25 | h_26 | h_27 | h_28 =>
    rintro ⟨d, hd, a, ha, rfl⟩
    exact single (append₄_eq.mpr ⟨op, hd, ha, rfl⟩)
  case h_29 | h_30 | h_31 =>
    rintro ⟨d, hd, a, ha, hz, rfl⟩
    exact single (append₄_eq.mpr ⟨op, hd, ha, fld_eq_append hz rfl⟩)
  case h_32 | h_42 | h_43 =>
    rintro ⟨d, hd, rfl⟩
    exact single (append₃_eq.mpr ⟨op, hd, rfl⟩)
  case h_33 | h_34 =>
    rintro ⟨d, hd, _, hz, rfl⟩
    exact double (append₃_eq.mpr ⟨op, hd, hz⟩) rfl
  case h_35 | h_36 =>
    rintro ⟨d, hd, a, ha, sp, hsp, rfl⟩
    exact single (append₅_eq.mpr ⟨op, hd, ha, hsp, rfl⟩)
  case h_37 | h_38 =>
    rintro ⟨d, hd, a, ha, sp, hsp, _, hz, rfl⟩
    exact single (append₅_eq.mpr ⟨op, hd, ha, hsp, fld_eq_append (Scope.ofCode_eq.mp rfl) hz⟩)
  case h_39 =>
    rintro ⟨f, hf, d, hd, a, ha, sp, hsp, z, hz, _, hu, rfl⟩
    exact double (append₅_eq.mpr ⟨op, hd, ha, hsp, fld_eq_append hz hu⟩) hf.symm
  case h_40 | h_41 =>
    rintro ⟨⟩
    exact single (append_eq_iff.mpr ⟨op, rfl⟩)
  case h_44 => simpa using deGctl_words op
  case h_45 => exact deQctl_words op
  case h_46 =>
    rintro ⟨_, hu, _, hx, _, hy, p, hp, sp, hsp, rfl⟩
    exact double (append₄_eq.mpr ⟨op, fin4_eq.mp rfl, hp, hu⟩) (append₄_eq.mpr ⟨hy, hsp, hx, rfl⟩)
  case h_47 =>
    rintro ⟨_, hz, rfl⟩
    exact single (append₃_eq.mpr ⟨op, fin4_eq.mp rfl, hz⟩)
  case h_48 | h_50 | h_53 =>
    rintro ⟨p, hp, d, hd, hz, rfl⟩
    exact single (append₅_eq.mpr ⟨op, hp, hd, fld_zero hz, fld_zero hz⟩)
  case h_49 => exact deMxctl_words op
  case h_51 => exact deBar_words op
  case h_52 => exact deWatch_words op
  case h_54 => exact deShare_words op
  case h_55 => simpa using dePhase_words op
  case h_56 => exact deQuote_words op
  case h_57 =>
    rintro ⟨q, hq, v, hv, _, hz, rfl⟩
    exact single (append₅_eq.mpr ⟨op, hq, hv, fld_zero hz, fld_zero hz⟩)
  case h_58 => exact deSig_words op
  case h_59 => exact deSys_words op

end

/-- Settles O57: in every arm of the decoder the fields that are read, and those that must be zero, are all the bits
of the word (`decodeLane_words`, `decodeGroup_words`). -/
theorem wordsHaveOneMeaning : Obligations.WordsHaveOneMeaning := by
  unfold Obligations.WordsHaveOneMeaning
  intro w x i h
  unfold decode at h
  split at h
  next set => exact decodeGroup_words set h
  next set => exact decodeLane_words (by simpa using set) h

/-! ## The words of an instruction read as it (R35–R58) -/

/-- `i` is what the words `ws` read as (R35). -/
def Reads (i : Instr) : List W32 → Prop
  | [w] => ∀ x, decode w x = .ok i
  | [w, x] => decode w x = .ok i
  | [] => True
  | _ => False

section
variable {i : Instr} {v w x y : W32}

theorem Reads.one (h : ∀ w x, v = w → decode w x = .ok i) : Reads i [v] := fun x => h v x rfl

theorem Reads.two (h : ∀ w, v = w → decode w y = .ok i) : Reads i [v, y] := h v rfl

theorem Reads.both (h : ∀ w x, v = w → y = x → decode w x = .ok i) : Reads i [v, y] := h v y rfl rfl

theorem need_bind {α β : Type} {o : Option α} {a : α} {f : α → Dec β} {b : β} (h : o = some a) (k : f a = .ok b) :
    (need o >>= f) = .ok b := by
  rw [h]
  exact k

theorem mbz_bind {β : Type} {lo n : Nat} {f : Unit → Dec β} {b : β} (h : fld w lo n = 0) (k : f () = .ok b) :
    (mbz w lo n >>= f) = .ok b := by
  rw [mbz, if_pos h]
  exact k

theorem decode_lane {n : Nat} (op : fld w 25 7 = BitVec.ofNat 7 n) (lt : n < 64 := by decide) : decode w x = decodeLane w x := by
  rw [decode, (opcode_of_operation op (by omega)).1, if_neg (by simpa using lt)]

theorem decode_group {n : Nat} (op : fld w 25 7 = BitVec.ofNat 7 n) (lt : 64 ≤ n ∧ n < 128 := by decide) :
    decode w x = decodeGroup w x := by
  rw [decode, (opcode_of_operation op lt.2).1, if_pos (by simpa using lt.1)]

theorem opcode {n : Nat} (op : fld w 25 7 = BitVec.ofNat 7 n) (lt : n < 128 := by decide) : (fld w 25 6).toNat = n % 64 :=
  (opcode_of_operation op lt).2

/-- The value of a field whose bits are a number's. -/
theorem field {lo n k : Nat} (h : fld w lo n = BitVec.ofNat n k) : (fld w lo n).toNat = k % 2 ^ n := by
  rw [h, BitVec.toNat_ofNat]

/-- A field is zero when its two parts are. -/
theorem fld_zero_join {lo m n hi l : Nat} (h : fld w hi m = 0) (k : fld w lo n = 0) (high : hi = lo + n := by decide)
    (len : l = m + n := by decide) : fld w lo l = 0 := by
  subst high len
  exact (fld_eq_append h k).trans (by simp)

theorem fld_zero_join₃ {lo m n k mid hi l : Nat} (h : fld w hi m = 0) (c : fld w mid n = 0) (d : fld w lo k = 0)
    (middle : mid = lo + k := by decide) (high : hi = mid + n := by decide) (len : l = m + n + k := by decide) : fld w lo l = 0 := by
  subst len
  exact fld_zero_join (fld_zero_join h c high rfl) d middle rfl

theorem decode_iun (op : fld w 25 7 = 0x1C#7) : decode w x = deIun w := by
  rw [decode_lane op, decodeLane, opcode op]
  rfl

theorem decode_fun (op : fld w 25 7 = 0x2F#7) : decode w x = deFun w := by
  rw [decode_lane op, decodeLane, opcode op]
  rfl

theorem decode_gctl (op : fld w 25 7 = 0x6C#7) : decode w x = deGctl w x := by
  rw [decode_group op, decodeGroup, opcode op]
  rfl

theorem decode_qctl (op : fld w 25 7 = 0x6D#7) : decode w x = deQctl w := by
  rw [decode_group op, decodeGroup, opcode op]
  rfl

theorem decode_mxctl (op : fld w 25 7 = 0x71#7) : decode w x = deMxctl w := by
  rw [decode_group op, decodeGroup, opcode op]
  rfl

theorem decode_bar (op : fld w 25 7 = 0x73#7) : decode w x = deBar w := by
  rw [decode_group op, decodeGroup, opcode op]
  rfl

theorem decode_watch (op : fld w 25 7 = 0x74#7) : decode w x = deWatch w := by
  rw [decode_group op, decodeGroup, opcode op]
  rfl

theorem decode_share (op : fld w 25 7 = 0x76#7) : decode w x = deShare w := by
  rw [decode_group op, decodeGroup, opcode op]
  rfl

theorem decode_phase (op : fld w 25 7 = 0x77#7) : decode w x = dePhase w x := by
  rw [decode_group op, decodeGroup, opcode op]
  rfl

theorem decode_quote (op : fld w 25 7 = 0x78#7) : decode w x = deQuote w := by
  rw [decode_group op, decodeGroup, opcode op]
  rfl

theorem decode_sig (op : fld w 25 7 = 0x7A#7) : decode w x = deSig w := by
  rw [decode_group op, decodeGroup, opcode op]
  rfl

theorem decode_sys (op : fld w 25 7 = 0x7B#7) : decode w x = deSys w := by
  rw [decode_group op, decodeGroup, opcode op]
  rfl

theorem encode_reads (i : Instr) : Reads i (encode i) := by
  cases i
  case add | sub | mul | mulhs | mulhu | mad | mins | minu | maxs | maxu | and | or | xor | shl | shru | shrs | addss | addus
      | subss | subus | ceq | cne | clts | cltu | cles | cleu | bsel =>
    refine .one fun w x h => ?_
    obtain ⟨op, ht, hd, ha, hb, hu⟩ := append₆_eq.mp h
    rw [decode_lane op, decodeLane, opcode op]
    exact deLaI_ok.mpr ⟨_, ht, _, hd, _, ha, _, ⟨hb, fld_eq_flag.mp hu⟩, rfl⟩
  case fadd | fsub | fmul | ffma | fmin | fmax | fceq | fclt | fcle | fcun =>
    refine .one fun w x h => ?_
    obtain ⟨op, ht, hd, ha, hb, hu⟩ := append₆_eq.mp h
    rw [decode_lane op, decodeLane, opcode op]
    exact deLaF_ok.mpr ⟨_, ht, _, hd, _, ha, _, ⟨hb, fld_eq_flag.mp hu⟩, rfl⟩
  case not | neg | abs | popc | clz | ctz | brev | bswap =>
    refine .one fun w x h => ?_
    obtain ⟨op, ht, hd, ha, sub, hu⟩ := append₆_eq.mp h
    rw [decode_iun op, deIun, field sub]
    exact deUnI_ok.mpr ⟨_, ht, _, hd, _, ha, hu, rfl⟩
  case fneg | fabs | fsqrt | frcp | frsq | fexp2 | flog2 | fsinpi | fcospi | ftanh | ffloor | fceil | ftrunc | frint | fclass =>
    refine .one fun w x h => ?_
    obtain ⟨op, ht, hd, ha, sub, hu⟩ := append₆_eq.mp h
    rw [decode_fun op, deFun, field sub]
    exact deUnF_ok.mpr ⟨_, ht, _, hd, _, ha, hu, rfl⟩
  case addi | andi | ori | xori | shli | shrui | shrsi =>
    refine .one fun w x h => ?_
    obtain ⟨op, ht, hd, ha, rfl⟩ := append₅_eq.mp h
    rw [decode_lane op, decodeLane, opcode op]
    exact deLi_ok.mpr ⟨_, ht, _, hd, _, ha, rfl⟩
  case movi =>
    refine .one fun w x h => ?_
    obtain ⟨op, ht, hd, rfl⟩ := append₄_eq.mp h
    rw [decode_lane op, decodeLane, opcode op]
    exact need_bind (IntTy.ofCode_eq_some.mpr ht) (need_bind (LDst.ofCode_eq_some.mpr hd) rfl)
  case cvt =>
    refine .one fun w x h => ?_
    obtain ⟨op, ht, hd, ha, ho⟩ := append₅_eq.mp h
    obtain ⟨ho, hs⟩ := extractLsb'_eq_append_iff.mp ho
    obtain ⟨ho, hz⟩ := extractLsb'_eq_append_iff.mp ho
    obtain ⟨ho, hr⟩ := extractLsb'_eq_append_iff.mp ho
    obtain ⟨hu, hg⟩ := extractLsb'_eq_append_iff.mp ho
    obtain rfl := ElTy.ofCode_eq.mpr ht
    obtain rfl := ElTy.ofCode_eq.mpr hu
    obtain rfl := CvtMode.ofCode_eq.mpr hr
    obtain rfl := fld_eq_flag.mp hs
    obtain rfl := fld_eq_flag.mp hg
    rw [decode_lane op, decodeLane, opcode op]
    exact deCvt_ok.mpr ⟨_, hd, _, ha, hz, rfl⟩
  case bfpk | bfpu =>
    refine .one fun w x h => ?_
    obtain ⟨op, ht, hd, ha, hb, hu⟩ := append₆_eq.mp h
    rw [decode_lane op, decodeLane, opcode op]
    exact deBfp_ok.mpr ⟨_, ht, _, hd, _, ha, _, hb, hu, rfl⟩
  case route =>
    refine .one fun w x h => ?_
    obtain ⟨op, hp, hq, hu⟩ := append₄_eq.mp h
    obtain rfl := fld_eq_flag.mp hu
    rw [decode_lane op, decodeLane, opcode op]
    exact need_bind (RouteSpec.ofCode_eq_some.mpr hp) (need_bind (RouteSpec.ofCode_eq_some.mpr hq) rfl)
  case accsrc =>
    refine .one fun w x h => ?_
    obtain ⟨op, rfl, rfl, ho, hu, hz⟩ := append₆_eq.mp h
    obtain rfl := fld_eq_flag.mp ho
    obtain rfl := fld_eq_flag.mp hu
    rw [decode_lane op, decodeLane, opcode op]
    exact mbz_bind hz rfl
  case ld =>
    refine .one fun w x h => ?_
    obtain ⟨op, hz, hd, ha, hsp, rfl⟩ := append₆_eq.mp h
    obtain rfl := LSize.ofCode_eq.mpr hz
    rw [decode_lane op, decodeLane, opcode op]
    exact need_bind (LDst.ofCode_eq_some.mpr hd) (need_bind (LSrc.ofCode_eq_some.mpr ha) (need_bind (Space.ofCode_eq_some.mpr hsp) rfl))
  case st =>
    refine .one fun w x h => ?_
    obtain ⟨op, hz, hv, ha, hsp, rfl⟩ := append₆_eq.mp h
    obtain rfl := LSize.ofCode_eq.mpr hz
    rw [decode_lane op, decodeLane, opcode op]
    exact need_bind (LSrc.ofCode_eq_some.mpr hv) (need_bind (LSrc.ofCode_eq_some.mpr ha) (need_bind (Space.ofCode_eq_some.mpr hsp) rfl))
  case ldacq =>
    refine .one fun w x h => ?_
    obtain ⟨op, hz, hd, ha, hsp, ho⟩ := append₆_eq.mp h
    obtain ⟨hc, hu⟩ := extractLsb'_eq_append_iff.mp ho
    obtain rfl := LSize.ofCode_eq.mpr hz
    obtain rfl := Scope.ofCode_eq.mpr hc
    rw [decode_lane op, decodeLane, opcode op]
    exact need_bind (LDst.ofCode_eq_some.mpr hd) (need_bind (LSrc.ofCode_eq_some.mpr ha) (need_bind (Space.ofCode_eq_some.mpr hsp)
      (mbz_bind hu rfl)))
  case strel =>
    refine .one fun w x h => ?_
    obtain ⟨op, hz, hd, ha, hsp, ho⟩ := append₆_eq.mp h
    obtain ⟨hc, hu⟩ := extractLsb'_eq_append_iff.mp ho
    obtain rfl := LSize.ofCode_eq.mpr hz
    obtain rfl := Scope.ofCode_eq.mpr hc
    rw [decode_lane op, decodeLane, opcode op]
    exact need_bind (LSrc.ofCode_eq_some.mpr hd) (need_bind (LSrc.ofCode_eq_some.mpr ha) (need_bind (Space.ofCode_eq_some.mpr hsp)
      (mbz_bind hu rfl)))
  case atom =>
    refine .two fun w h => ?_
    obtain ⟨op, hz, hd, ha, hsp, hu⟩ := append₆_eq.mp h
    rw [decode_lane op, decodeLane, opcode op]
    exact Dec.bind_ok.mpr ⟨_, deAtomFields_ok.mpr rfl, need_bind (ASize.ofCode_eq_some.mpr hz) (need_bind
      (LDst.ofCode_eq_some.mpr hd) (need_bind (LSrc.ofCode_eq_some.mpr ha) (need_bind (Space.ofCode_eq_some.mpr hsp)
        (mbz_bind hu rfl))))⟩
  case xset =>
    refine .one fun w x h => ?_
    obtain ⟨op, hz, hk, rfl, rfl, rfl⟩ := append₆_eq.mp h
    obtain rfl := fin4_eq.mpr hk
    rw [decode_lane op, decodeLane, opcode op]
    exact mbz_bind hz rfl
  case xadd =>
    refine .one fun w x h => ?_
    obtain ⟨op, hz, hk, hu, rfl⟩ := append₅_eq.mp h
    obtain rfl := fin4_eq.mpr hk
    rw [decode_lane op, decodeLane, opcode op]
    exact mbz_bind hz (mbz_bind hu rfl)
  case qpop | qlen =>
    refine .one fun w x h => ?_
    obtain ⟨op, sub, hd, hz⟩ := append₄_eq.mp h
    rw [decode_lane op, decodeLane, opcode op, field sub]
    exact need_bind (LDst.ofCode_eq_some.mpr hd) (mbz_bind hz rfl)
  case qpush =>
    refine .one fun w x h => ?_
    obtain ⟨op, sub, hz, ha, hu⟩ := append₅_eq.mp h
    rw [decode_lane op, decodeLane, opcode op, field sub]
    exact mbz_bind hz (need_bind (LSrc.ofCode_eq_some.mpr ha) (mbz_bind hu rfl))
  case br =>
    refine .one fun w x h => ?_
    obtain ⟨op, link, rfl⟩ := append₃_eq.mp h
    rw [decode_lane op, decodeLane, opcode op]
    exact if_neg (by rw [fld_eq_flag (b := false).mp link]; decide)
  case call =>
    refine .one fun w x h => ?_
    obtain ⟨op, link, rfl⟩ := append₃_eq.mp h
    rw [decode_lane op, decodeLane, opcode op]
    exact if_pos (fld_eq_flag (b := true).mp link)
  case brz =>
    refine .one fun w x h => ?_
    obtain ⟨op, set, ha, rfl⟩ := append₄_eq.mp h
    rw [decode_lane op, decodeLane, opcode op]
    refine need_bind (LSrc.ofCode_eq_some.mpr ha) (congrArg Except.ok ?_)
    exact if_neg (by rw [fld_eq_flag (b := false).mp set]; decide)
  case brnz =>
    refine .one fun w x h => ?_
    obtain ⟨op, set, ha, rfl⟩ := append₄_eq.mp h
    rw [decode_lane op, decodeLane, opcode op]
    refine need_bind (LSrc.ofCode_eq_some.mpr ha) (congrArg Except.ok ?_)
    exact if_pos (fld_eq_flag (b := true).mp set)
  case calli =>
    refine .one fun w x h => ?_
    obtain ⟨op, sub, ha, hz⟩ := append₄_eq.mp h
    rw [decode_lane op, decodeLane, opcode op, field sub]
    exact need_bind (LSrc.ofCode_eq_some.mpr ha) (mbz_bind hz rfl)
  case ret | exit | nop =>
    refine .one fun w x h => ?_
    obtain ⟨op, sub, hz, hu⟩ := append₄_eq.mp h
    rw [decode_lane op, decodeLane, opcode op, field sub]
    exact mbz_bind (fld_zero_join hz hu) rfl
  case join | leave | wait =>
    refine .one fun w x h => ?_
    obtain ⟨op, sub, hm, hz⟩ := append₄_eq.mp h
    rw [decode_lane op, decodeLane, opcode op, field sub]
    exact need_bind (maskOfCode_eq_some.mpr hm) (mbz_bind hz rfl)
  case loop =>
    refine .two fun w h => ?_
    obtain ⟨op, sub, hc, hl⟩ := append₄_eq.mp h
    obtain ⟨rfl, hz⟩ := extractLsb'_eq_append_iff.mp hl
    rw [decode_lane op, decodeLane, opcode op, field sub]
    exact need_bind (LSrc.ofCode_eq_some.mpr hc) (mbz_bind hz rfl)
  case bbr =>
    refine .one fun w x h => ?_
    obtain ⟨op, sub, hk, hz, rfl⟩ := append₅_eq.mp h
    obtain rfl := fin4_eq.mpr hk
    rw [decode_lane op, decodeLane, opcode op, field sub]
    exact mbz_bind hz rfl
  case bbrz | bbrnz =>
    refine .one fun w x h => ?_
    obtain ⟨op, sub, hk, ha, rfl⟩ := append₅_eq.mp h
    obtain rfl := fin4_eq.mpr hk
    rw [decode_lane op, decodeLane, opcode op, field sub]
    exact need_bind (LSrc.ofCode_eq_some.mpr ha) rfl
  case guard =>
    refine .one fun w x h => ?_
    obtain ⟨op, sub, hk, rfl⟩ := append₄_eq.mp h
    obtain rfl := fin4_eq.mpr hk
    rw [decode_lane op, decodeLane, opcode op, field sub]
    rfl
  case waita =>
    refine .two fun w h => ?_
    obtain ⟨op, sub, ha, hb, hc, hsp, he⟩ := append₇_eq.mp h
    obtain rfl := Scope.ofCode_eq.mpr hc
    obtain rfl := WSpace.ofCode_eq.mpr hsp
    obtain rfl := fld_eq_flag.mp he
    rw [decode_lane op, decodeLane, opcode op, field sub]
    exact need_bind (LSrc.ofCode_eq_some.mpr ha) (need_bind (LDst.ofCode_eq_some.mpr hb) rfl)
  case waitc =>
    refine .one fun w x h => ?_
    obtain ⟨op, sub, rfl, rfl, hz⟩ := append₅_eq.mp h
    rw [decode_lane op, decodeLane, opcode op, field sub]
    exact mbz_bind hz rfl
  case fence =>
    refine .one fun w x h => ?_
    obtain ⟨op, sub, hk, hc, hz⟩ := append₅_eq.mp h
    obtain rfl := FenceKind.ofCode_eq.mpr hk
    obtain rfl := Scope.ofCode_eq.mpr hc
    rw [decode_lane op, decodeLane, opcode op, field sub]
    exact mbz_bind hz rfl
  case trap =>
    refine .one fun w x h => ?_
    obtain ⟨op, sub, hz, rfl⟩ := append₄_eq.mp h
    rw [decode_lane op, decodeLane, opcode op, field sub]
    exact mbz_bind hz rfl
  case getwid =>
    refine .one fun w x h => ?_
    obtain ⟨op, sub, hd, hz, hl⟩ := append₅_eq.mp h
    rw [decode_lane op, decodeLane, opcode op, field sub]
    exact need_bind (LDst.ofCode_eq_some.mpr hd) (mbz_bind hz (need_bind (levelOfCode_eq_some.mpr hl) rfl))
  case csrr =>
    refine .one fun w x h => ?_
    obtain ⟨op, sub, hd, hc⟩ := append₄_eq.mp h
    obtain ⟨hz, rfl⟩ := extractLsb'_eq_append_iff.mp hc
    rw [decode_lane op, decodeLane, opcode op, field sub]
    exact need_bind (LDst.ofCode_eq_some.mpr hd) (mbz_bind hz rfl)
  case csrw =>
    refine .one fun w x h => ?_
    obtain ⟨op, sub, hd, hc⟩ := append₄_eq.mp h
    obtain ⟨hz, rfl⟩ := extractLsb'_eq_append_iff.mp hc
    rw [decode_lane op, decodeLane, opcode op, field sub]
    exact need_bind (LSrc.ofCode_eq_some.mpr hd) (mbz_bind hz rfl)
  case groupAdd | groupSub | groupMul | groupMulhs | groupMulhu | divs | divu | rems | remu | groupMins | groupMinu | groupMaxs
      | groupMaxu | groupAnd | groupOr | groupXor | groupShl | groupShru | groupShrs | groupCeq | groupCne | groupClts | groupCltu =>
    refine .one fun w x h => ?_
    obtain ⟨op, hd, ha, hb, hw⟩ := append₅_eq.mp h
    obtain rfl := fld_eq_flag.mp hw
    rw [decode_group op, decodeGroup, opcode op]
    exact deGa_ok.mpr ⟨_, hd, _, ha, _, hb, rfl⟩
  case sel =>
    refine .one fun w x h => ?_
    obtain ⟨op, hd, ha, hb, hz⟩ := append₅_eq.mp h
    rw [decode_group op, decodeGroup, opcode op]
    exact need_bind (GDst.ofCode_eq_some.mpr hd) (need_bind (GSrc.ofCode_eq_some.mpr ha) (need_bind (GSrc.ofCode_eq_some.mpr hb)
      (mbz_bind hz rfl)))
  case groupAddi | groupAndi | groupOri | groupXori =>
    refine .one fun w x h => ?_
    obtain ⟨op, hd, ha, rfl⟩ := append₄_eq.mp h
    rw [decode_group op, decodeGroup, opcode op]
    exact deGi_ok.mpr ⟨_, hd, _, ha, rfl⟩
  case groupShli | groupShrui | groupShrsi =>
    refine .one fun w x h => ?_
    obtain ⟨op, hd, ha, hi⟩ := append₄_eq.mp h
    obtain ⟨hz, rfl⟩ := extractLsb'_eq_append_iff.mp hi
    rw [decode_group op, decodeGroup, opcode op]
    exact deGsh_ok.mpr ⟨_, hd, _, ha, hz, rfl⟩
  case movw =>
    refine .one fun w x h => ?_
    obtain ⟨op, hd, rfl⟩ := append₃_eq.mp h
    rw [decode_group op, decodeGroup, opcode op]
    exact need_bind (GDst.ofCode_eq_some.mpr hd) rfl
  case bz | bnz =>
    refine .one fun w x h => ?_
    obtain ⟨op, ha, rfl⟩ := append₃_eq.mp h
    rw [decode_group op, decodeGroup, opcode op]
    exact need_bind (GSrc.ofCode_eq_some.mpr ha) rfl
  case lim | limh =>
    refine .two fun w h => ?_
    obtain ⟨op, hd, hz⟩ := append₃_eq.mp h
    rw [decode_group op, decodeGroup, opcode op]
    exact need_bind (GDst.ofCode_eq_some.mpr hd) (mbz_bind hz rfl)
  case groupLd =>
    refine .one fun w x h => ?_
    obtain ⟨op, hd, ha, hsp, rfl⟩ := append₅_eq.mp h
    rw [decode_group op, decodeGroup, opcode op]
    exact need_bind (GDst.ofCode_eq_some.mpr hd) (need_bind (GSrc.ofCode_eq_some.mpr ha) (need_bind (Space.ofCode_eq_some.mpr hsp) rfl))
  case groupSt =>
    refine .one fun w x h => ?_
    obtain ⟨op, hv, ha, hsp, rfl⟩ := append₅_eq.mp h
    rw [decode_group op, decodeGroup, opcode op]
    exact need_bind (GSrc.ofCode_eq_some.mpr hv) (need_bind (GSrc.ofCode_eq_some.mpr ha) (need_bind (Space.ofCode_eq_some.mpr hsp) rfl))
  case groupLdacq =>
    refine .one fun w x h => ?_
    obtain ⟨op, hd, ha, hsp, ho⟩ := append₅_eq.mp h
    obtain ⟨hc, hu⟩ := extractLsb'_eq_append_iff.mp ho
    obtain rfl := Scope.ofCode_eq.mpr hc
    rw [decode_group op, decodeGroup, opcode op]
    exact need_bind (GDst.ofCode_eq_some.mpr hd) (need_bind (GSrc.ofCode_eq_some.mpr ha) (need_bind (Space.ofCode_eq_some.mpr hsp)
      (mbz_bind hu rfl)))
  case groupStrel =>
    refine .one fun w x h => ?_
    obtain ⟨op, hd, ha, hsp, ho⟩ := append₅_eq.mp h
    obtain ⟨hc, hu⟩ := extractLsb'_eq_append_iff.mp ho
    obtain rfl := Scope.ofCode_eq.mpr hc
    rw [decode_group op, decodeGroup, opcode op]
    exact need_bind (GSrc.ofCode_eq_some.mpr hd) (need_bind (GSrc.ofCode_eq_some.mpr ha) (need_bind (Space.ofCode_eq_some.mpr hsp)
      (mbz_bind hu rfl)))
  case groupAtom =>
    refine .two fun w h => ?_
    obtain ⟨op, hd, ha, hsp, ho⟩ := append₅_eq.mp h
    obtain ⟨hz, hu⟩ := extractLsb'_eq_append_iff.mp ho
    rw [decode_group op, decodeGroup, opcode op]
    exact Dec.bind_ok.mpr ⟨_, deAtomFields_ok.mpr rfl, need_bind (GDst.ofCode_eq_some.mpr hd) (need_bind
      (GSrc.ofCode_eq_some.mpr ha) (need_bind (Space.ofCode_eq_some.mpr hsp) (need_bind (ASize.ofCode_eq_some.mpr hz)
        (mbz_bind hu rfl))))⟩
  case b | groupCall =>
    refine .one fun w x h => ?_
    obtain ⟨op, rfl⟩ := append_eq_iff.mp h
    rw [decode_group op, decodeGroup, opcode op]
    rfl
  case groupCalli =>
    refine .one fun w x h => ?_
    obtain ⟨op, sub, ha, hz, hu⟩ := append₅_eq.mp h
    rw [decode_gctl op, deGctl, field sub]
    exact need_bind (GSrc.ofCode_eq_some.mpr ha) (mbz_bind (fld_zero_join hz hu) rfl)
  case groupRet | groupExit | groupNop | idle =>
    refine .one fun w x h => ?_
    obtain ⟨op, sub, hz, hu, ho⟩ := append₅_eq.mp h
    rw [decode_gctl op, deGctl, field sub]
    exact mbz_bind (fld_zero_join₃ hz hu ho) rfl
  case groupLoop =>
    refine .two fun w h => ?_
    obtain ⟨op, sub, hc, rfl, hz⟩ := append₅_eq.mp h
    rw [decode_gctl op, deGctl, field sub]
    exact need_bind (GSrc.ofCode_eq_some.mpr hc) (mbz_bind hz rfl)
  case groupBbr =>
    refine .one fun w x h => ?_
    obtain ⟨op, sub, hk, hz, rfl⟩ := append₅_eq.mp h
    obtain rfl := fin4_eq.mpr hk
    rw [decode_gctl op, deGctl, field sub]
    exact mbz_bind hz rfl
  case groupBbrz | groupBbrnz =>
    refine .one fun w x h => ?_
    obtain ⟨op, sub, hk, ha, rfl⟩ := append₅_eq.mp h
    obtain rfl := fin4_eq.mpr hk
    rw [decode_gctl op, deGctl, field sub]
    exact need_bind (GSrc.ofCode_eq_some.mpr ha) rfl
  case groupGuard =>
    refine .one fun w x h => ?_
    obtain ⟨op, sub, hk, rfl⟩ := append₄_eq.mp h
    obtain rfl := fin4_eq.mpr hk
    rw [decode_gctl op, deGctl, field sub]
    rfl
  case groupWaitc =>
    refine .one fun w x h => ?_
    obtain ⟨op, sub, rfl, rfl, rfl, rfl, hz⟩ := append₇_eq.mp h
    rw [decode_gctl op, deGctl, field sub]
    exact mbz_bind hz rfl
  case groupWaita =>
    refine .two fun w h => ?_
    obtain ⟨op, sub, ha, hb, hc, hsp, he⟩ := append₇_eq.mp h
    obtain rfl := fin128_eq.mpr ha
    obtain rfl := fin128_eq.mpr hb
    obtain rfl := Scope.ofCode_eq.mpr hc
    obtain rfl := WSpace.ofCode_eq.mpr hsp
    obtain rfl := fld_eq_flag.mp he
    rw [decode_gctl op, deGctl, field sub]
    rfl
  case groupFence =>
    refine .one fun w x h => ?_
    obtain ⟨op, sub, hk, hc, hz⟩ := append₅_eq.mp h
    obtain rfl := FenceKind.ofCode_eq.mpr hk
    obtain rfl := Scope.ofCode_eq.mpr hc
    rw [decode_gctl op, deGctl, field sub]
    exact mbz_bind hz rfl
  case groupTrap =>
    refine .one fun w x h => ?_
    obtain ⟨op, sub, hz, rfl⟩ := append₄_eq.mp h
    rw [decode_gctl op, deGctl, field sub]
    exact mbz_bind hz rfl
  case groupCsrr =>
    refine .one fun w x h => ?_
    obtain ⟨op, sub, hd, rfl⟩ := append₄_eq.mp h
    rw [decode_gctl op, deGctl, field sub]
    exact need_bind (GDst.ofCode_eq_some.mpr hd) rfl
  case groupCsrw =>
    refine .one fun w x h => ?_
    obtain ⟨op, sub, hd, rfl⟩ := append₄_eq.mp h
    rw [decode_gctl op, deGctl, field sub]
    exact need_bind (GSrc.ofCode_eq_some.mpr hd) rfl
  case eret =>
    refine .one fun w x h => ?_
    obtain ⟨op, sub, hz, hu, ho⟩ := append₅_eq.mp h
    obtain ⟨ho, lanes⟩ := extractLsb'_eq_append_iff (x := 0#3) (y := flag false).mp ho
    rw [decode_gctl op, deGctl, field sub]
    refine mbz_bind (fld_zero_join₃ hz hu ho) (congrArg Except.ok ?_)
    exact if_neg (by rw [fld_eq_flag (b := false).mp lanes]; decide)
  case eretLanes =>
    refine .one fun w x h => ?_
    obtain ⟨op, sub, hz, hu, ho⟩ := append₅_eq.mp h
    obtain ⟨ho, lanes⟩ := extractLsb'_eq_append_iff (x := 0#3) (y := flag true).mp ho
    rw [decode_gctl op, deGctl, field sub]
    refine mbz_bind (fld_zero_join₃ hz hu ho) (congrArg Except.ok ?_)
    exact if_pos (fld_eq_flag (b := true).mp lanes)
  case qcfg =>
    refine .one fun w x h => ?_
    obtain ⟨op, sub, hq, ha, hz⟩ := append₅_eq.mp h
    obtain rfl := fld_eq_flag.mp hq
    rw [decode_qctl op, deQctl, field sub]
    exact need_bind (GSrc.ofCode_eq_some.mpr ha) (mbz_bind hz rfl)
  case groupQlen =>
    refine .one fun w x h => ?_
    obtain ⟨op, sub, hq, ha, hz⟩ := append₅_eq.mp h
    obtain rfl := fld_eq_flag.mp hq
    rw [decode_qctl op, deQctl, field sub]
    exact need_bind (GDst.ofCode_eq_some.mpr ha) (mbz_bind hz rfl)
  case groupQpush =>
    refine .one fun w x h => ?_
    obtain ⟨op, sub, hq, ha, hz⟩ := append₅_eq.mp h
    rw [decode_qctl op, deQctl, field sub]
    exact mbz_bind hq (need_bind (GSrc.ofCode_eq_some.mpr ha) (mbz_bind hz rfl))
  case groupQpop =>
    refine .one fun w x h => ?_
    obtain ⟨op, sub, hq, ha, hz⟩ := append₅_eq.mp h
    rw [decode_qctl op, deQctl, field sub]
    exact mbz_bind hq (need_bind (GDst.ofCode_eq_some.mpr ha) (mbz_bind hz rfl))
  case strm =>
    refine .both fun w x h h' => ?_
    obtain ⟨op, hk, hp, hu⟩ := append₄_eq.mp h
    obtain ⟨hy, hsp, hx, rfl⟩ := append₄_eq.mp h'
    obtain rfl := fin4_eq.mpr hk
    rw [decode_group op, decodeGroup, opcode op]
    exact mbz_bind hu (mbz_bind hx (mbz_bind hy (need_bind (gpOfCode_eq_some.mpr hp) (need_bind (Space.ofCode_eq_some.mpr hsp) rfl))))
  case strmgo =>
    refine .one fun w x h => ?_
    obtain ⟨op, hk, hz⟩ := append₃_eq.mp h
    obtain rfl := fin4_eq.mpr hk
    rw [decode_group op, decodeGroup, opcode op]
    exact mbz_bind hz rfl
  case mxq | cpy | spawn =>
    refine .one fun w x h => ?_
    obtain ⟨op, hp, hd, hz, hu⟩ := append₅_eq.mp h
    rw [decode_group op, decodeGroup, opcode op]
    exact deGp_ok.mpr ⟨_, hp, _, hd, fld_zero_join hz hu, rfl⟩
  case submit =>
    refine .one fun w x h => ?_
    obtain ⟨op, hq, hv, hz, hu⟩ := append₅_eq.mp h
    rw [decode_group op, decodeGroup, opcode op]
    exact need_bind (GSrc.ofCode_eq_some.mpr hq) (need_bind (GSrc.ofCode_eq_some.mpr hv) (mbz_bind (fld_zero_join hz hu) rfl))
  case mxctlTake | mxctlPass =>
    refine .one fun w x h => ?_
    obtain ⟨op, sub, hz, hu, ho⟩ := append₅_eq.mp h
    rw [decode_mxctl op, deMxctl, field sub]
    exact mbz_bind (fld_zero_join₃ hz hu ho) rfl
  case mxctlTilewait =>
    refine .one fun w x h => ?_
    obtain ⟨op, sub, ht, hz⟩ := append₄_eq.mp h
    rw [decode_mxctl op, deMxctl, field sub]
    exact need_bind (tileOfCode_eq_some.mpr ht) (mbz_bind hz rfl)
  case mxctlCtab =>
    refine .one fun w x h => ?_
    obtain ⟨op, sub, hp, hz, hu⟩ := append₅_eq.mp h
    rw [decode_mxctl op, deMxctl, field sub]
    exact need_bind (gpOfCode_eq_some.mpr hp) (mbz_bind (fld_zero_join hz hu) rfl)
  case mxsave | mxrest =>
    refine .one fun w x h => ?_
    obtain ⟨op, sub, ha, hz, hu⟩ := append₅_eq.mp h
    rw [decode_mxctl op, deMxctl, field sub]
    exact need_bind (GSrc.ofCode_eq_some.mpr ha) (mbz_bind (fld_zero_join hz hu) rfl)
  case barInit | barPost =>
    refine .one fun w x h => ?_
    obtain ⟨op, sub, hb, ha, hz⟩ := append₅_eq.mp h
    rw [decode_bar op, deBar, field sub]
    exact deBarS_ok.mpr ⟨_, hb, _, ha, hz, rfl⟩
  case barWait | barSync | barTake | barStat =>
    refine .one fun w x h => ?_
    obtain ⟨op, sub, hb, hd, hz⟩ := append₅_eq.mp h
    rw [decode_bar op, deBar, field sub]
    exact deBarD_ok.mpr ⟨_, hb, _, hd, hz, rfl⟩
  case barArrive =>
    refine .one fun w x h => ?_
    obtain ⟨op, sub, hb, hz, hu⟩ := append₅_eq.mp h
    rw [decode_bar op, deBar, field sub]
    exact need_bind (barOfCode_eq_some.mpr hb) (mbz_bind (fld_zero_join hz hu) rfl)
  case watchArm =>
    refine .one fun w x h => ?_
    obtain ⟨op, sub, hd, hp, hz⟩ := append₅_eq.mp h
    rw [decode_watch op, deWatch, field sub]
    exact deDP_ok.mpr ⟨_, hd, _, hp, hz, rfl⟩
  case watchDisarm | watchQuery =>
    refine .one fun w x h => ?_
    obtain ⟨op, sub, hd, ha, hz⟩ := append₅_eq.mp h
    rw [decode_watch op, deWatch, field sub]
    exact deDA_ok.mpr ⟨_, hd, _, ha, hz, rfl⟩
  case shareJoin | shareQuery =>
    refine .one fun w x h => ?_
    obtain ⟨op, sub, hd, ha, hz⟩ := append₅_eq.mp h
    rw [decode_share op, deShare, field sub]
    exact deDA_ok.mpr ⟨_, hd, _, ha, hz, rfl⟩
  case shareLeave =>
    refine .one fun w x h => ?_
    obtain ⟨op, sub, hd, hz, hu⟩ := append₅_eq.mp h
    rw [decode_share op, deShare, field sub]
    exact need_bind (GDst.ofCode_eq_some.mpr hd) (mbz_bind (fld_zero_join hz hu) rfl)
  case phaseComp | phaseComm =>
    refine .one fun w x h => ?_
    obtain ⟨op, sub, hz, hu, ho⟩ := append₅_eq.mp h
    rw [decode_phase op, dePhase, field sub]
    exact mbz_bind (fld_zero_join₃ hz hu ho) rfl
  case phaseXfer =>
    refine .two fun w h => ?_
    obtain ⟨op, sub, hp, hz, hu⟩ := append₅_eq.mp h
    rw [decode_phase op, dePhase, field sub]
    exact need_bind (gpOfCode_eq_some.mpr hp) (mbz_bind (fld_zero_join hz hu) rfl)
  case quoteReq =>
    refine .one fun w x h => ?_
    obtain ⟨op, sub, hd, hp, hz⟩ := append₅_eq.mp h
    rw [decode_quote op, deQuote, field sub]
    exact deDP_ok.mpr ⟨_, hd, _, hp, hz, rfl⟩
  case quoteAcc | quoteDec | quoteActual =>
    refine .one fun w x h => ?_
    obtain ⟨op, sub, hd, ha, hz⟩ := append₅_eq.mp h
    rw [decode_quote op, deQuote, field sub]
    exact deDA_ok.mpr ⟨_, hd, _, ha, hz, rfl⟩
  case sigSet | sigAdd =>
    refine .one fun w x h => ?_
    obtain ⟨op, sub, ha, hb, hz⟩ := append₅_eq.mp h
    rw [decode_sig op, deSig, field sub]
    exact deAB_ok.mpr ⟨_, ha, _, hb, hz, rfl⟩
  case sysTlbinv =>
    refine .one fun w x h => ?_
    obtain ⟨op, sub, ha, hb, hf⟩ := append₅_eq.mp h
    obtain ⟨hz, rfl⟩ := extractLsb'_eq_append_iff.mp hf
    rw [decode_sys op, deSys, field sub]
    exact need_bind (GSrc.ofCode_eq_some.mpr ha) (need_bind (GSrc.ofCode_eq_some.mpr hb) (mbz_bind hz rfl))
  case sysMsi =>
    refine .one fun w x h => ?_
    obtain ⟨op, sub, ha, hb, hz⟩ := append₅_eq.mp h
    rw [decode_sys op, deSys, field sub]
    exact deAB_ok.mpr ⟨_, ha, _, hb, hz, rfl⟩
  case sysAsid | sysEresume | sysQlk | sysQulk | sysSlot =>
    refine .one fun w x h => ?_
    obtain ⟨op, sub, ha, hz, hu⟩ := append₅_eq.mp h
    rw [decode_sys op, deSys, field sub]
    exact deSysA_ok.mpr ⟨_, ha, fld_zero_join hz hu, rfl⟩
  case sysFqpop | sysEvqpop =>
    refine .one fun w x h => ?_
    obtain ⟨op, sub, hd, hz, hu⟩ := append₅_eq.mp h
    rw [decode_sys op, deSys, field sub]
    exact deSysD_ok.mpr ⟨_, hd, fld_zero_join hz hu, rfl⟩
  case sysHbeat =>
    refine .one fun w x h => ?_
    obtain ⟨op, sub, hz, hu, ho⟩ := append₅_eq.mp h
    rw [decode_sys op, deSys, field sub]
    exact mbz_bind (fld_zero_join₃ hz hu ho) rfl
  all_goals exact trivial

theorem takeWord_leBytes (w : W32) (rest : List Byte) : takeWord (Machine.leBytes 4 w.toNat ++ rest) = some (w, rest) := by
  have byte (lo : Nat) : BitVec.ofNat 8 (w.toNat / 2 ^ lo) = w.extractLsb' lo 8 := by
    rw [BitVec.extractLsb', Nat.shiftRight_eq_div_pow]
  refine congrArg (fun v : W32 => some (v, rest)) (append₄_eq.mpr ⟨?_, ?_, ?_, ?_⟩)
  · rw [← byte, Nat.div_div_eq_div_mul, Nat.div_div_eq_div_mul]
    rfl
  · rw [← byte, Nat.div_div_eq_div_mul]
    rfl
  · rw [← byte]
    rfl
  · rw [← byte, pow_zero, Nat.div_one]

theorem decodeBytes_encode (i : Instr) (words : encode i ≠ []) (rest : List Byte) :
    decodeBytes ((encode i).flatMap (fun w => Machine.leBytes 4 w.toNat) ++ rest) = .ok (i, rest) := by
  have reads := encode_reads i
  match form : encode i, reads with
  | [], _ => exact absurd form words
  | [w], h =>
    replace h : ∀ x, decode w x = .ok i := h
    have one : twoWords w = false := by
      have := wordsHaveOneMeaning w 0 i (h 0)
      cases two : twoWords w <;> simp_all
    simp [decodeBytes, takeWord_leBytes, one, h, Except.map]
  | [w, x], h =>
    replace h : decode w x = .ok i := h
    have two : twoWords w = true := by
      have := wordsHaveOneMeaning w x i h
      cases two : twoWords w <;> simp_all
    simp [decodeBytes, takeWord_leBytes, two, h, Except.map]

end

/-- Settles O56: each instruction's words read as it, whatever follows a word that stands alone (`encode_reads`), and the
first word says whether there is a second (O57). -/
theorem encodeDecodeRoundTrip : Obligations.EncodeDecodeRoundTrip := by
  unfold Obligations.EncodeDecodeRoundTrip
  exact fun i rest _ words => decodeBytes_encode i words rest

/-! ## The frame of every word (R35, R36, R47) -/

namespace Machine

section
variable {s : State} {i : Instr}

/-- A lane instruction: an outcome that the frame of the lane words gives. -/
def LaneFrame (i : Instr) (s : State) (o : Out) : Prop := ∃ body, o = laneInstr i s body

/-- A group instruction: an outcome that the frame of the group words gives. -/
def GroupFrame (i : Instr) (s : State) (o : Out) : Prop := ∃ body, o = groupInstr i s body

theorem LaneFrame.laneInstr {body : Nat → W32 → State → State} : LaneFrame i s (laneInstr i s body) := ⟨body, rfl⟩

theorem LaneFrame.laneAlu {w : Nat} {d : LDst} {a : Option LSrc} {b : Option LOpB} {n : Nat} {fp : Bool}
    {f : Lane → W64 → W64 → W64 → AluResult} : LaneFrame i s (laneAlu i s w d a b n fp f) := .laneInstr

theorem LaneFrame.intBinary {t : IntTy} {d : LDst} {a : LSrc} {b : LOpB} {op : ElementOp} :
    LaneFrame i s (intBinary i t d a b op s) := .laneAlu

theorem LaneFrame.intUnary {t : IntTy} {d : LDst} {a : LSrc} {op : ElementOp} :
    LaneFrame i s (intUnary i t d a op s) := .laneAlu

theorem LaneFrame.intImm {t : IntTy} {d : LDst} {a : LSrc} {imm : BitVec 8} {op : ElementOp} :
    LaneFrame i s (intImm i t d a imm op s) := .laneAlu

theorem LaneFrame.fpBinary {t : FpTy} {d : LDst} {a : LSrc} {b : LOpB} {op : FpOp} :
    LaneFrame i s (fpBinary i t d a b op s) := .laneAlu

theorem LaneFrame.fpUnary {t : FpTy} {d : LDst} {a : LSrc} {latency : Nat} {op : FpOp} :
    LaneFrame i s (fpUnary i t d a latency op s) := .laneAlu

theorem LaneFrame.laneBlock {t : FpTy} {d : LDst} {a b : LSrc}
    {f : Format → W32 → (Fin 32 → W64) → Fin 32 → Lane → W64 × BitVec 5} :
    LaneFrame i s (laneBlock i s t d a b f) := .laneInstr

theorem LaneFrame.laneMemory {sp : Space} {z : Nat} {acc : Acc} {locks : Bool} {allowed : Loc → Bool} {words : Nat}
    {addr : ReadEnv → State → Nat → Fin 32 → Lane → Except Trap W64}
    {go : State → Nat → List (Fin 32 × Passed) → State} :
    LaneFrame i s (laneMemory i s sp z acc locks allowed words addr go) := .laneInstr

theorem LaneFrame.laneLoad {z : LSize} {d : LDst} {a : LSrc} {sp : Space} {off : Int} {acq : Bool} {scope : Scope} :
    LaneFrame i s (laneLoad i s z d a sp off acq scope) := .laneMemory

theorem LaneFrame.laneStore {z : LSize} {v : LSrc} {a : LSrc} {sp : Space} {off : Int} {rel : Bool} {scope : Scope} :
    LaneFrame i s (laneStore i s z v a sp off rel scope) := .laneMemory

theorem LaneFrame.laneEachWith {order : List Byte} {chk : ReadEnv → State → Nat → Fin 32 → Lane → Option Trap}
    {pre failed : State → Nat → W32 → State}
    {go : State → Nat → Fin 32 → State} :
    LaneFrame i s (laneEachWith i s order chk pre failed go) := .laneInstr

theorem LaneFrame.laneEach {order : List Byte} {chk : ReadEnv → State → Nat → Fin 32 → Lane → Option Trap}
    {go : State → Nat → Fin 32 → State} :
    LaneFrame i s (laneEach i s order chk go) := .laneEachWith

theorem LaneFrame.laneBranch {off : Int} {cond : ReadEnv → Fin 32 → Lane → Except Trap Bool} :
    LaneFrame i s (laneBranch i s off cond) := .laneEach

theorem LaneFrame.laneGuarded {k : Fin 4} {off : Int} {cond : ReadEnv → Fin 32 → Lane → Except Trap Bool} :
    LaneFrame i s (laneGuarded i s k off cond) := .laneEach

theorem LaneFrame.laneWrite {d : LDst} {bad : Option Trap} {v : State → Nat → Fin 32 → Lane → W64} :
    LaneFrame i s (laneWrite i s d bad v) := .laneEach

theorem LaneFrame.laneQueue {up : Bool} {chk : State → Nat → ReadEnv → Fin 32 → Lane → Option Trap}
    {go : State → Nat → Fin 32 → State} :
    LaneFrame i s (laneQueue i s up chk go) := .laneInstr

theorem LaneFrame.laneMask {k : Fin 12} {f : W32 → W32 → W32} {park : Bool} :
    LaneFrame i s (laneMask i s k f park) := .laneInstr

theorem LaneFrame.laneStep {words : Nat} {f : Nat → W32 → State → State} :
    LaneFrame i s (laneStep i s words f) := .laneInstr

theorem GroupFrame.groupInstr {body : Agent → State → State} : GroupFrame i s (groupInstr i s body) := ⟨body, rfl⟩

theorem GroupFrame.groupWrite {words : Nat} {d : GDst} {latency : Nat} {f : State → Agent → W64} :
    GroupFrame i s (groupWrite i s words d latency f) := .groupInstr

theorem GroupFrame.groupAlu {d : GDst} {a b : GSrc} {w : Bool} {latency : Nat} {op : ElementOp} :
    GroupFrame i s (groupAlu i s d a b w latency op) := .groupWrite

theorem GroupFrame.groupImm {d : GDst} {a : GSrc} {v : W64} {op : ElementOp} :
    GroupFrame i s (groupImm i s d a v op) := .groupWrite

theorem GroupFrame.groupMemory {sp : Space} {z : Nat} {acc : Acc} {locks : Bool} {allowed : Loc → Bool} {words : Nat}
    {addr : State → Agent → W64}
    {go : State → Agent → Passed → State} :
    GroupFrame i s (groupMemory i s sp z acc locks allowed words addr go) := .groupInstr

theorem GroupFrame.groupLoad {d : GDst} {a : GSrc} {sp : Space} {off : Int} {acq : Bool} {c : Scope} :
    GroupFrame i s (groupLoad i s d a sp off acq c) := .groupMemory

theorem GroupFrame.groupStore {v : GSrc} {a : GSrc} {sp : Space} {off : Int} {rel : Bool} {c : Scope} :
    GroupFrame i s (groupStore i s v a sp off rel c) := .groupMemory

theorem GroupFrame.signalInstr {a b : GSrc} {add : Bool} :
    GroupFrame i s (signalInstr i s a b add) := .groupMemory

theorem GroupFrame.groupEach {chk : State → Agent → Option Trap} {go : State → Agent → State} :
    GroupFrame i s (groupEach i s chk go) := .groupInstr

theorem GroupFrame.groupBranch {off : Int} {taken : State → Agent → Bool} :
    GroupFrame i s (groupBranch i s off taken) := .groupEach

theorem GroupFrame.groupGuarded {k : Fin 4} {off : Int} {cond : State → Agent → Bool} :
    GroupFrame i s (groupGuarded i s k off cond) := .groupEach

theorem GroupFrame.handlerReturn {lanes : Bool} :
    GroupFrame i s (handlerReturn i s lanes) := .groupInstr

theorem GroupFrame.condInstr {body : Nat → State → State} :
    GroupFrame i s (condInstr i s body) := .groupInstr

theorem GroupFrame.condQueue {up : Bool} {go : Nat → State → State} :
    GroupFrame i s (condQueue i s up go) := .condInstr

theorem GroupFrame.barInstr {b : Fin 96} {init : Bool} {go : Nat → State → State} :
    GroupFrame i s (barInstr i s b init go) := .condInstr

theorem GroupFrame.barMode {b : Fin 96} {sem : Bool} {go : Nat → State → State} :
    GroupFrame i s (barMode i s b sem go) := .barInstr

theorem GroupFrame.phaseEnd {communication : Bool} :
    GroupFrame i s (phaseEnd i s communication) := .condInstr

theorem GroupFrame.watchAsk {d : GDst} {r : GSrc} {disarm : Bool} :
    GroupFrame i s (watchAsk i s d r disarm) := .groupInstr

theorem GroupFrame.quoteId {d : GDst} {r : GSrc} {go : State → Agent → Nat → Int × State} :
    GroupFrame i s (quoteId i s d r go) := .groupInstr

theorem LaneFrame.execAtom {z : ASize} {d : LDst} {a : LSrc} {sp : Space} {f : AtomFields} :
    LaneFrame (.atom z d a sp f) s (execAtom z d a sp f s) := by
  unfold Machine.execAtom
  exact .laneMemory

theorem GroupFrame.execSysTlbinv {a b : GSrc} {f : BitVec 2} : GroupFrame (.sysTlbinv a b f) s (execSysTlbinv a b f s) := by
  unfold Machine.execSysTlbinv
  exact .groupInstr

/-- The words of the set that bit 31 of the first one names (R35). -/
def Leads (set : Bool) : List W32 → Prop
  | [] => False
  | w :: _ => bit w 31 = set

theorem Leads.intro {set : Bool} {v : W32} {ws : List W32} (h : ∀ w, v = w → bit w 31 = set) : Leads set (v :: ws) := h v rfl

theorem Leads.headD {set : Bool} : ∀ {ws : List W32}, Leads set ws → bit (ws.headD 0) 31 = set
  | _ :: _, h => h

/-- The frame in which an instruction's words run, which the set of the first word says (R35): a lane instruction, a word
that stands before another (R47), or a group instruction. -/
inductive WordFrame (i : Instr) (s : State) (o : Out) : Prop
  | lane (set : Leads false (encode i)) (frame : LaneFrame i s o)
  | ahead (set : Leads false (encode i))
      (word : (∃ x y own, i = .route x y own) ∨ ∃ tile row onB sup, i = .accsrc tile row onB sup)
      (frame : ∃ take, o = prefixWord i s take)
  | group (set : Leads true (encode i)) (frame : GroupFrame i s o)

theorem laneSet {w : W32} {n : Nat} (op : fld w 25 7 = BitVec.ofNat 7 n) (lt : n < 64 := by decide) : bit w 31 = false :=
  (opcode_of_operation op (by omega)).1.trans (decide_eq_false (by omega))

theorem groupSet {w : W32} {n : Nat} (op : fld w 25 7 = BitVec.ofNat 7 n) (lt : 64 ≤ n ∧ n < 128 := by decide) : bit w 31 = true :=
  (opcode_of_operation op lt.2).1.trans (decide_eq_true lt.1)

theorem exec_frame (i : Instr) (s : State) (words : encode i ≠ []) : WordFrame i s (exec i s) := by
  cases i
  all_goals unfold exec
  case add | sub | mul | mulhs | mulhu | mad | mins | minu | maxs | maxu | and | or | xor | shl | shru | shrs | addss | addus
      | subss | subus | ceq | cne | clts | cltu | cles | cleu | bsel =>
    exact .lane (.intro fun _ h => laneSet (append₆_eq.mp h).1) .intBinary
  case not | neg | abs | popc | clz | ctz | brev | bswap =>
    exact .lane (.intro fun _ h => laneSet (append₆_eq.mp h).1) .intUnary
  case addi | andi | ori | xori | shli | shrui | shrsi =>
    exact .lane (.intro fun _ h => laneSet (append₅_eq.mp h).1) .intImm
  case movi =>
    exact .lane (.intro fun _ h => laneSet (append₄_eq.mp h).1) .laneAlu
  case cvt =>
    exact .lane (.intro fun _ h => laneSet (append₅_eq.mp h).1) .laneAlu
  case fadd | fsub | fmul | ffma | fmin | fmax | fceq | fclt | fcle | fcun =>
    exact .lane (.intro fun _ h => laneSet (append₆_eq.mp h).1) .fpBinary
  case fneg | fabs | fsqrt | frcp | frsq | fexp2 | flog2 | fsinpi | fcospi | ftanh | ffloor | fceil | ftrunc | frint | fclass =>
    exact .lane (.intro fun _ h => laneSet (append₆_eq.mp h).1) .fpUnary
  case bfpk | bfpu =>
    exact .lane (.intro fun _ h => laneSet (append₆_eq.mp h).1) .laneBlock
  case route =>
    exact .ahead (.intro fun _ h => laneSet (append₄_eq.mp h).1) (.inl ⟨_, _, _, rfl⟩) ⟨_, rfl⟩
  case accsrc =>
    exact .ahead (.intro fun _ h => laneSet (append₆_eq.mp h).1) (.inr ⟨_, _, _, _, rfl⟩) ⟨_, rfl⟩
  case ld | ldacq =>
    exact .lane (.intro fun _ h => laneSet (append₆_eq.mp h).1) .laneLoad
  case st | strel =>
    exact .lane (.intro fun _ h => laneSet (append₆_eq.mp h).1) .laneStore
  case atom =>
    exact .lane (.intro fun _ h => laneSet (append₆_eq.mp h).1) .execAtom
  case sysTlbinv =>
    exact .group (.intro fun _ h => groupSet (append₅_eq.mp h).1) .execSysTlbinv
  case groupRet | groupExit | groupFence | groupNop | idle | watchArm | quoteReq | quoteActual | submit | sysAsid
      | sysEresume | sysFqpop | sysMsi | sysEvqpop | sysQlk | sysQulk | sysHbeat | sysSlot =>
    exact .group (.intro fun _ h => groupSet (append₅_eq.mp h).1) .groupInstr
  case xset =>
    exact .lane (.intro fun _ h => laneSet (append₆_eq.mp h).1) .laneEach
  case xadd =>
    exact .lane (.intro fun _ h => laneSet (append₅_eq.mp h).1) .laneEach
  case exit | loop | guard | csrw | nop =>
    exact .lane (.intro fun _ h => laneSet (append₄_eq.mp h).1) .laneEach
  case qpop | qlen =>
    exact .lane (.intro fun _ h => laneSet (append₄_eq.mp h).1) .laneQueue
  case qpush =>
    exact .lane (.intro fun _ h => laneSet (append₅_eq.mp h).1) .laneQueue
  case br =>
    exact .lane (.intro fun _ h => laneSet (append₃_eq.mp h).1) .laneBranch
  case brz | brnz =>
    exact .lane (.intro fun _ h => laneSet (append₄_eq.mp h).1) .laneBranch
  case call =>
    exact .lane (.intro fun _ h => laneSet (append₃_eq.mp h).1) .laneEachWith
  case calli | ret =>
    exact .lane (.intro fun _ h => laneSet (append₄_eq.mp h).1) .laneEachWith
  case join | leave | wait =>
    exact .lane (.intro fun _ h => laneSet (append₄_eq.mp h).1) .laneMask
  case bbr | bbrz | bbrnz =>
    exact .lane (.intro fun _ h => laneSet (append₅_eq.mp h).1) .laneGuarded
  case waita =>
    exact .lane (.intro fun _ h => laneSet (append₇_eq.mp h).1) .laneMemory
  case waitc | fence =>
    exact .lane (.intro fun _ h => laneSet (append₅_eq.mp h).1) .laneStep
  case trap =>
    exact .lane (.intro fun _ h => laneSet (append₄_eq.mp h).1) .laneInstr
  case getwid =>
    exact .lane (.intro fun _ h => laneSet (append₅_eq.mp h).1) .laneWrite
  case csrr =>
    exact .lane (.intro fun _ h => laneSet (append₄_eq.mp h).1) .laneWrite
  case groupAdd | groupSub | groupMul | groupMulhs | groupMulhu | divs | divu | rems | remu | groupMins | groupMinu | groupMaxs
      | groupMaxu | groupAnd | groupOr | groupXor | groupShl | groupShru | groupShrs | groupCeq | groupCne | groupClts | groupCltu =>
    exact .group (.intro fun _ h => groupSet (append₅_eq.mp h).1) .groupAlu
  case sel =>
    exact .group (.intro fun _ h => groupSet (append₅_eq.mp h).1) .groupWrite
  case movw | lim | limh =>
    exact .group (.intro fun _ h => groupSet (append₃_eq.mp h).1) .groupWrite
  case groupAddi | groupAndi | groupOri | groupXori | groupShli | groupShrui | groupShrsi =>
    exact .group (.intro fun _ h => groupSet (append₄_eq.mp h).1) .groupImm
  case groupLd | groupLdacq =>
    exact .group (.intro fun _ h => groupSet (append₅_eq.mp h).1) .groupLoad
  case groupSt | groupStrel =>
    exact .group (.intro fun _ h => groupSet (append₅_eq.mp h).1) .groupStore
  case groupAtom =>
    exact .group (.intro fun _ h => groupSet (append₅_eq.mp h).1) .groupMemory
  case groupWaita =>
    exact .group (.intro fun _ h => groupSet (append₇_eq.mp h).1) .groupMemory
  case b =>
    exact .group (.intro fun _ h => groupSet (append_eq_iff.mp h).1) .groupBranch
  case bz | bnz =>
    exact .group (.intro fun _ h => groupSet (append₃_eq.mp h).1) .groupBranch
  case groupCall =>
    exact .group (.intro fun _ h => groupSet (append_eq_iff.mp h).1) .groupEach
  case groupCalli | groupLoop =>
    exact .group (.intro fun _ h => groupSet (append₅_eq.mp h).1) .groupEach
  case groupGuard | groupTrap | groupCsrr | groupCsrw =>
    exact .group (.intro fun _ h => groupSet (append₄_eq.mp h).1) .groupInstr
  case groupWaitc =>
    exact .group (.intro fun _ h => groupSet (append₇_eq.mp h).1) .groupInstr
  case groupBbr | groupBbrz | groupBbrnz =>
    exact .group (.intro fun _ h => groupSet (append₅_eq.mp h).1) .groupGuarded
  case eret | eretLanes =>
    exact .group (.intro fun _ h => groupSet (append₅_eq.mp h).1) .handlerReturn
  case qcfg | mxq | mxctlTake | mxctlPass | mxctlCtab | mxsave | mxrest | cpy | spawn | shareJoin | shareLeave | shareQuery
      | phaseXfer =>
    exact .group (.intro fun _ h => groupSet (append₅_eq.mp h).1) .condInstr
  case strm | mxctlTilewait =>
    exact .group (.intro fun _ h => groupSet (append₄_eq.mp h).1) .condInstr
  case strmgo =>
    exact .group (.intro fun _ h => groupSet (append₃_eq.mp h).1) .condInstr
  case groupQpush | groupQpop | groupQlen =>
    exact .group (.intro fun _ h => groupSet (append₅_eq.mp h).1) .condQueue
  case barInit | barStat =>
    exact .group (.intro fun _ h => groupSet (append₅_eq.mp h).1) .barInstr
  case barArrive | barWait | barSync | barPost | barTake =>
    exact .group (.intro fun _ h => groupSet (append₅_eq.mp h).1) .barMode
  case watchDisarm | watchQuery =>
    exact .group (.intro fun _ h => groupSet (append₅_eq.mp h).1) .watchAsk
  case phaseComp | phaseComm =>
    exact .group (.intro fun _ h => groupSet (append₅_eq.mp h).1) .phaseEnd
  case quoteAcc | quoteDec =>
    exact .group (.intro fun _ h => groupSet (append₅_eq.mp h).1) .quoteId
  case sigSet | sigAdd =>
    exact .group (.intro fun _ h => groupSet (append₅_eq.mp h).1) .signalInstr
  all_goals exact (words rfl).elim

end

end Machine

/-! ## Every move answers (R36, R276) -/

namespace Machine

section
variable {s t : State} {i : Instr} {a : Agent} {o o' : Out}

/-- The outcome is a next state, neither a fault of the machine nor a refusal. -/
def Answers (o : Out) : Prop := ∃ t, o = .next t

theorem Answers.next : Answers (.next s) := ⟨s, rfl⟩

theorem Answers.either {p : Prop} [Decidable p] (h : Answers o) (k : Answers o') : Answers (if p then o else o') := by
  split
  · exact h
  · exact k

/-! ### The frames: an agent is in issue -/

theorem Answers.laneInstr {body : Nat → W32 → State → State} (h : s.issue.who = some a) : Answers (laneInstr i s body) := by
  unfold Machine.laneInstr
  rw [h]
  cases a with
  | lane =>
    dsimp only
    split <;> exact .next
  | _ => exact .next

theorem Answers.groupInstr {body : Agent → State → State} (h : s.issue.who = some a) : Answers (groupInstr i s body) := by
  unfold Machine.groupInstr
  rw [h]
  cases a with
  | lane => exact .next
  | _ =>
    dsimp only
    split
    · exact .next
    · split <;> exact .next

theorem Answers.prefixWord {take : Issue → Issue} (h : s.issue.who = some a) : Answers (prefixWord i s take) := by
  unfold Machine.prefixWord
  rw [h]
  cases a with
  | lane =>
    dsimp only
    split <;> exact .next
  | _ => exact .next

theorem exec_word_answers (words : encode i ≠ []) (h : s.issue.who = some a) : Answers (exec i s) := by
  cases exec_frame i s words with
  | lane _ frame =>
    obtain ⟨body, e⟩ := frame
    exact e ▸ .laneInstr h
  | ahead _ _ frame =>
    obtain ⟨take, e⟩ := frame
    exact e ▸ .prefixWord h
  | group _ frame =>
    obtain ⟨body, e⟩ := frame
    exact e ▸ .groupInstr h

/-! ### Events -/

theorem Answers.packetArm {q : Nat} {kinds : Nat → Bool} {go : Packet → State → State} : Answers (packetArm q kinds s go) := by
  unfold Machine.packetArm
  split
  · exact .next
  · exact .next
  · exact .either .next (.either .next .next)

/-- An event answers from any state. -/
theorem exec_event_answers (event : encode i = []) : Answers (exec i s) := by
  cases i
  all_goals unfold exec
  case fslotWrite | fwdtWrite | secDigest | secVerify | secExtend | secResetSponge | secAbsorb | secSqueeze | secCommandDone
      | blockStart | registerWriteback | serviceGangStep | batonGrant | powerOn | mainSideReset | getVersion | getCapabilities
      | negotiateAlgorithms | getDigests | getCertificate | challenge | getMeasurements | telemetryRead | blackBoxRead
      | managementRequest | sfqbWrite | lazyBindingAllowanceExpiry =>
    exact .next
  case invalid | quote | accept | decline | launch | signal | barrier | watch =>
    exact .packetArm
  case maskWrite | wakeRegisterStore | idleWake | trapEntry | streamEntryClaim | streamStop | thermalTrip | thermalRecovery
      | setEnvelope | debugHalt =>
    exact .either .next .next
  case copy =>
    unfold execCopy
    dsimp only
    split
    · exact .packetArm
    · exact .next
    · exact .either .packetArm .next
  -- Each of these rules is a tree of `if` and `match` whose every leaf is a next state.
  case wakeEvent | signalChanged | periodicTick | quoteWalkStart | quoteWalkEnd | pinDone | validityDeadline | launchStart
      | readyTaskDispatch | retirement | preemptionSave | preemptionResume | loadReturn | storePerformed | atomicReply
      | instructionFetchFill | steppeInterrupt | msiDelivery | faultRecordPost | waitaReread | waitaTimeout | barWaitTimeout
      | shareLeaveRevoke | copyStart | copyCompletion | copyStop | xferStart | phaseStepStart | matrixOpStart | matrixNativeStep
      | matrixOpComplete | matrixErrorStop | matrixWindowFault | sparsityQueueTimeout | triggerJoin | formingGangReady | slotSwitch
      | rollBack | watchdogExpiry | errorCounterUpdate | hostBar4Access | hostAtomicop | peerAccess | slotImageWrite
      | thermalEmergency | meshOrLinkRetry | bootStageReached =>
    delta execWakeEvent execSignalChanged execPeriodicTick execQuoteWalkStart execQuoteWalkEnd execPinDone execValidityDeadline
      execLaunchStart execReadyTaskDispatch execRetirement execPreemptionSave execPreemptionResume execLoadReturn execStorePerformed
      execAtomicReply execInstructionFetchFill execSteppeInterrupt execMsiDelivery execFaultRecordPost execWaitaReread
      execWaitaTimeout execBarWaitTimeout execShareLeaveRevoke execCopyStart execCopyCompletion execCopyStop execXferStart
      execPhaseStepStart execMatrixOpStart execMatrixNativeStep execMatrixOpComplete execMatrixErrorStop execMatrixWindowFault
      execSparsityQueueTimeout execTriggerJoin execFormingGangReady execSlotSwitch execRollBack execWatchdogExpiry
      execErrorCounterUpdate execHostBar4Access execHostAtomicop execPeerAccess execSlotImageWrite execThermalEmergency
      execMeshOrLinkRetry execBootStageReached
    dsimp only
    repeat' split
    all_goals exact .next
  all_goals exact absurd event nofun

theorem exec_answers (h : s.issue.who = some a) : Answers (exec i s) := by
  by_cases words : encode i = []
  · exact exec_event_answers words
  · exact exec_word_answers words h

/-! ### Issue: whatever a run reads, an agent stays in issue -/

theorem runUnit_answers : ∀ (n : Nat) (s : State), s.issue.who = some a → Answers (runUnit a n s)
  | 0, _, _ => .next
  | n + 1, s, who => by
    unfold runUnit
    split
    · exact .next
    · exact .next
    next t i f =>
      have kept : t.issue = s.issue := (Keeps.fst .fetch f).issue
      obtain ⟨u, e⟩ := exec_answers (i := i) (kept ▸ who)
      rw [e]
      exact .either (runUnit_answers n _ rfl) .next

theorem Answers.issueAs {m : W32} : Answers (s.issueAs a m) := by
  unfold State.issueAs
  obtain ⟨t, e⟩ := runUnit_answers (a := a) 3 { s with issue := { Issue.idle with who := some a, mask := m } } rfl
  rw [e]
  exact .next

theorem Answers.issueGroup {g pc : Nat} {m : W32} : Answers (s.issueGroup g pc m) := .either .next .issueAs

theorem Answers.issueLanes {core part k : Nat} : Answers (s.issueLanes core part k) := by
  unfold State.issueLanes
  dsimp only
  split
  · exact .next
  · exact .issueGroup

theorem Answers.issueCond {core part k : Nat} : Answers (s.issueCond core part k) := .issueAs

theorem Answers.pick {core part : Nat} : Answers (s.pick core part) := by
  have cond (t : State) (p : Option Nat) {o : Out} (h : Answers o) :
      Answers (match p with | some k => t.issueCond core part k | none => o) := by
    split
    · exact .issueCond
    · exact h
  unfold State.pick
  refine .either .next (.either (cond _ _ .next) (cond _ _ ?_))
  split
  · exact .issueLanes
  · exact cond _ _ .next

theorem Answers.execSteppeInterrupt {core thr : Nat} : Answers (execSteppeInterrupt core thr s) :=
  exec_event_answers (i := .steppeInterrupt core thr) rfl

theorem Answers.runOwn : Answers (s.runOwn a) := by
  have own : Answers (if (s.settle a).ctxReady a then (s.settle a).issueAs a 0 else .next (s.settle a)) := .either .issueAs .next
  unfold State.runOwn
  split
  · exact .either .execSteppeInterrupt own
  · exact own
  · exact .next

/-! ### The moves -/

theorem Answers.happen : Answers (s.happen i) := by
  unfold State.happen
  split
  next event => exact exec_event_answers (by simp_all [isEvent])
  · exact .next

theorem Answers.clock : Answers s.clock := by
  have picks (o : Out) (n : Nat) : Answers o → Answers (match o with | .next s => s.pick (n / 16) (n % 16) | o => o) := by
    rintro ⟨t, rfl⟩
    exact .pick
  unfold State.clock
  extract_lets picked
  obtain ⟨t, e⟩ : Answers picked := List.foldlRecOn _ _ .next fun o h n _ => picks o n h
  rw [e]
  exact .next

theorem Answers.act {x : Move} : Answers (s.act x) := by
  cases x with
  | pick => exact .pick
  | run => exact .runOwn
  | event => exact .happen
  | granule => exact .next
  | upset => exact .next
  | clock => exact .clock

theorem step_answers (s : State) : Answers (step s) := by
  unfold step
  split <;> exact .act

end

end Machine

/-- Settles O58: every frame of a word answers where an agent is in issue, and one is in every run of a unit; every
event and every other move answers from any state (`step_answers`). -/
theorem everyStepGoesOn : Obligations.EveryStepGoesOn := by
  unfold Obligations.EveryStepGoesOn
  exact Machine.step_answers

/-! ## Words that are illegal where they issue (R36, R137, R276) -/

namespace Machine

section
variable {s : State} {i : Instr} {a : Agent} {g t : Nat}

/-- An error that a read meets is counted and logged; no memory, gang, quotation or context changes (R201). -/
theorem State.uncorrectableAt_frame (s : State) (a b : Agent) (qid : Nat) (v : W64) :
    (s.uncorrectableAt a qid v).mem = s.mem ∧ (s.uncorrectableAt a qid v).gangs = s.gangs ∧
      (s.uncorrectableAt a qid v).quotes = s.quotes ∧ (s.uncorrectableAt a qid v).ctx b = s.ctx b := by
  cases a <;> cases b <;> simp [State.uncorrectableAt, State.uncorrectable, State.ctx, State.gang]

/-- An uncorrectable error in a register that is read is a fault of the agent with the register's selector (R137, log 22). -/
theorem State.badRegister_faults (s : State) (a : Agent) (r : Nat) :
    ∃ u : State, s.badRegister a r = u.groupFaultOf a 0x10 (n64 (0x100 + r)) false ∧
      u.mem = s.mem ∧ u.gangs = s.gangs ∧ u.quotes = s.quotes ∧ u.ctx a = s.ctx a :=
  ⟨_, rfl, State.uncorrectableAt_frame ..⟩

theorem Leads.ne {set : Bool} {ws : List W32} (h : Leads set ws) (w : bit (ws.headD 0) 31 = !set) : False :=
  absurd (h.headD.symm.trans w) (by cases set <;> decide)

theorem prefixWord_elsewhere (take : Issue → Issue) (who : s.issue.who = some a) (other : ∀ g t, a ≠ .lane g t) :
    prefixWord i s take = .next (s.groupFault a 0x01 (firstWord i)) := by
  cases a with
  | lane g t => exact absurd rfl (other g t)
  | _ => simp only [prefixWord, who]

/-- A word of the lane set does not run on a conductor, a Steppe or a Saddle thread. -/
theorem exec_lane_word_elsewhere (words : encode i ≠ []) (who : s.issue.who = some a) (other : ∀ g t, a ≠ .lane g t)
    (set : bit ((encode i).headD 0) 31 = false) : exec i s = .next (s.groupFault a 0x01 (firstWord i)) := by
  cases exec_frame i s words with
  | lane _ frame =>
    obtain ⟨body, e⟩ := frame
    exact e.trans (laneInstr_elsewhere body who other)
  | ahead _ _ frame =>
    obtain ⟨take, e⟩ := frame
    exact e.trans (prefixWord_elsewhere take who other)
  | group lead => exact (lead.ne set).elim

theorem exec_group_word (words : encode i ≠ []) (set : bit ((encode i).headD 0) 31 = true) : GroupFrame i s (exec i s) := by
  cases exec_frame i s words with
  | group _ frame => exact frame
  | lane lead | ahead lead => exact (lead.ne set).elim

theorem exec_lane_word (words : encode i ≠ []) (set : bit ((encode i).headD 0) 31 = false) (route : ∀ x y own, i ≠ .route x y own)
    (accsrc : ∀ tile row onB sup, i ≠ .accsrc tile row onB sup) : LaneFrame i s (exec i s) := by
  cases exec_frame i s words with
  | lane _ frame => exact frame
  | ahead _ word =>
    obtain ⟨x, y, own, e⟩ | ⟨tile, row, onB, sup, e⟩ := word
    · exact absurd e (route x y own)
    · exact absurd e (accsrc tile row onB sup)
  | group lead => exact (lead.ne set).elim

theorem other_of_kind (h : agentKind a ≠ .lane) : ∀ g t, a ≠ .lane g t := fun _ _ e => h (e ▸ rfl)

/-! ## Words that stand before another (R45–R47) -/

theorem turn_issue (i : Instr) (s : State) (a : Agent) : (Claims.turn i s a).issue = s.issue :=
  ((Keeps.settle s a).trans (.spendIssue _ a i)).issue

/-- A legal unit: its word is held. -/
theorem prefixWord_holds (take : Issue → Issue) (who : s.issue.who = some (.lane g t))
    (legal : s.issue.words = 0 → unitFault (s.kernel g) (((s.settle (.lane g t)).gang g).lane t).pc.toNat
      ((((s.settle (.lane g t)).gang g).lane t).loops.map (·.stop)) = none) :
    prefixWord i s take =
      .next { Claims.turn i s (.lane g t) with issue := take { s.issue with words := s.issue.words + 1 } } := by
  have none : (if s.issue.words = 0 then unitFault (s.kernel g) (((s.settle (.lane g t)).gang g).lane t).pc.toNat
      ((((s.settle (.lane g t)).gang g).lane t).loops.map (·.stop)) else none) = none := by
    split
    next first => exact legal first
    · rfl
  have kept : ((s.settle (.lane g t)).spendIssue (.lane g t) i).issue = s.issue := turn_issue i s (.lane g t)
  simp only [prefixWord, who, State.settle_issue, State.kernel_settle, none, kept]
  rfl

/-- An illegal unit: its threads park at the first word (R47). -/
theorem prefixWord_faults {c : Byte} (take : Issue → Issue) (who : s.issue.who = some (.lane g t)) (first : s.issue.words = 0)
    (bad : unitFault (s.kernel g) (((s.settle (.lane g t)).gang g).lane t).pc.toNat
      ((((s.settle (.lane g t)).gang g).lane t).loops.map (·.stop)) = some c) :
    prefixWord i s take = .next ((s.settle (.lane g t)).laneFault g s.issue.mask c (firstWord i)) := by
  simp only [prefixWord, who, State.settle_issue, State.kernel_settle, first, if_true, bad]

end

/-- Settles O39: by the frame of the word (`exec_frame`), whose first check is the encoding's and whose second is of the
registers that are read. -/
theorem illegalWordsFault : Obligations.IllegalWordsFault := by
  unfold Obligations.IllegalWordsFault
  intro i s words word
  refine ⟨fun a who kind => ?_, fun g t who => ⟨fun set => ?_, fun set route accsrc c => ?_⟩⟩
  · have other := other_of_kind kind
    refine ⟨fun set c fault => ?_, fun set fine r bad => ?_, exec_lane_word_elsewhere words who other⟩
    · obtain ⟨body, e⟩ := exec_group_word words set
      exact e.trans (groupInstr_faults body who other fault)
    · obtain ⟨body, e⟩ := exec_group_word words set
      obtain ⟨u, fault, mem, gangs, quotes, ctx⟩ := State.badRegister_faults (s.settle a) a r
      exact ⟨u, (e.trans (groupInstr_struck body who other fine bad)).trans (congrArg _ fault), mem.trans (State.settle_mem s a),
        gangs, quotes.trans (State.settle_quotes s a), ctx⟩
  · obtain ⟨body, e⟩ := exec_group_word words set
    exact e.trans (groupInstr_lane body who)
  · obtain ⟨body, e⟩ := exec_lane_word words set route accsrc
    exact fun fault => e.trans (laneInstr_faults body who fault)

/-- Settles O3: both words run in the frame of the words that stand before another. -/
theorem prefixIsHeld : Obligations.PrefixIsHeld := by
  unfold Obligations.PrefixIsHeld
  exact fun s g t who legal =>
    ⟨fun x y own => prefixWord_holds (fun c => { c with route := some (x, y, own) }) who legal,
      fun tile row onB sup => prefixWord_holds (fun c => { c with acc := some (tile, row, onB, sup) }) who legal⟩

/-- Settles O55: each word is decoded. -/
theorem decodeSampleWords : Obligations.DecodeSampleWords := by
  unfold Obligations.DecodeSampleWords
  exact ⟨rfl, rfl, rfl, rfl, rfl, rfl, rfl, rfl, rfl, rfl, rfl, rfl, rfl, rfl, rfl⟩

end Machine

/-! ## A step and the instruction at the program counter (R35, R47, R122) -/

namespace Machine

/-- A gang of two live threads at the first word of the section: the loop of thread 0 ends after that word, and thread 1
is in no loop. -/
def loopedGang : Gang :=
  let loop : Loop := { count := 1, start := 0, stop := 1, depth := 0 }
  { placedLanes with
      lanes := (Gang.empty.lanes.set 0 { Lane.empty with st := .live, loops := [loop] }).set 1 { Lane.empty with st := .live } }

/-- That gang before `route` and `add`, and the pick of its partition next. -/
def loopedRun : State := { State.reset.withFetchWord 64 0x02C1E40466000402 with gangs := [(0, loopedGang)] }

/-- Thread 1 of the gang is parked for a fault. -/
def secondParked : Out → Bool
  | .next t => ((t.gang 0).lane 1).st = .parkedFault
  | _ => false

theorem loopedRun_leaves_second : secondParked (step loopedRun) = false := by decide +kernel

/-- Threads that take a fault are parked. -/
theorem laneFault_parks {s : State} {g : Nat} {m : W32} {c : Byte} {v : W64} {t : Fin 32} (h : m.getLsbD t.val = true) :
    (((s.laneFault g m c v).gang g).lane t.val).st = .parkedFault := by
  have some : ¬ m = 0 := by
    rintro rfl
    simp at h
  rw [State.laneFault, State.laneFaultOf, if_neg some, State.gang_setGang, Gang.park, if_neg some]
  refine (congrArg Lane.st (Gang.mapLanes_lane ..)).trans ?_
  rw [if_pos h]

theorem State.settle_lane_gang (s : State) (g t : Nat) : (s.settle (.lane g t)).gang g = (s.gang g).settle s.tick :=
  State.gang_setGang ..

/-- Refutes O54: of two threads at a `route`, the one whose loop ends after that word takes 0x01 alone and the other issues
its unit (R47; `State.issueGroup`), while `exec` of the `route` on the whole group parks both. -/
theorem not_stepRunsDecodedInstruction : ¬ Obligations.StepRunsDecodedInstruction := by
  unfold Obligations.StepRunsDecodedInstruction
  rintro ⟨-, picks⟩
  obtain ⟨u, issues, issue, rest, gang, -⟩ := (picks loopedRun 0 0 0 [] loopedGang rfl (by decide) (by decide) (by decide)
    (by decide +kernel) rfl (by decide +kernel)).2 0 3 (by decide +kernel) (by decide +kernel) (by decide +kernel)
  have who : u.issue.who = some (.lane 0 0) := congrArg Issue.who issue
  have mask : u.issue.mask = 3 := congrArg Issue.mask issue
  have first : u.issue.words = 0 := congrArg Issue.words issue
  have tick : u.tick = loopedRun.tick := (congrArg State.tick rest).trans rfl
  have launches : u.launches = loopedRun.launches := (congrArg State.launches rest).trans rfl
  change u.gang 0 = _ at gang
  have kernel : u.kernel 0 = placedKernel [0x66000402, 0x02C1E404] := by
    rw [State.kernel, State.launch?, launches, gang]
    decide +kernel
  have stands : Claims.Stands u u (.lane 0 0) (.route .none (.rot 1) false) := by
    refine ⟨0x66000402, .inl ⟨by decide, ?_, by decide⟩⟩
    rw [State.fetchWord, State.pcOf, kernel, gang]
    refine congrArg (Prod.mk u) ?_
    decide +kernel
  have parks := issues _ u _ stands (prefixWord_faults (fun c => { c with route := some (.none, .rot 1, false) }) who first (c := 0x01)
    (by rw [kernel, State.settle_lane_gang, gang, tick]; decide +kernel))
  replace parks := parks.1 ((congrArg Issue.words ((Keeps.settle u _).trans (.laneFault _ _ _ _ _)).issue).trans first)
  have both : secondParked (step loopedRun) = true := by
    rw [parks]
    exact decide_eq_true (laneFault_parks (t := 1) (by rw [mask]; decide))
  exact absurd both (by rw [loopedRun_leaves_second]; decide)

end Machine

end Sys2Proof

namespace Sys2Proof.Machine

section
variable {s s1 t u : State} {i : Instr} {a b : Agent} {c : Ctx} {p : Pend} {d : Dst} {v : W64} {n latency : Nat}

/-! ## The state a group instruction acts on (R35, R36, R100, R137) -/

theorem Ctx.put_level (c : Ctx) (p : Pend) : (c.put p).level = c.level := by
  unfold Ctx.put
  split
  · split <;> rfl
  all_goals rfl

theorem Ctx.settle_level (c : Ctx) (now : Nat) : (c.settle now).level = c.level := by
  have lands : ∀ (ps : List Pend) (c : Ctx), (ps.foldl Ctx.put c).level = c.level := by
    intro ps
    induction ps with
    | nil => exact fun _ => rfl
    | cons p ps ih => exact fun c => (ih (c.put p)).trans (c.put_level p)
  exact lands _ c

theorem State.settle_ctx (s : State) (h : ∀ g t, a ≠ .lane g t) : (s.settle a).ctx a = (s.ctx a).settle s.tick := by
  cases a with
  | lane g t => exact absurd rfl (h g t)
  | cond g => exact congrArg Gang.cond (s.gang_setGang g _)
  | steppe c t => exact s.ctx_setCtx (.steppe c t) _ h
  | saddle c => exact s.ctx_setCtx (.saddle c) _ h

theorem State.settle_levelOf (s : State) (h : ∀ g t, a ≠ .lane g t) : (s.settle a).levelOf a = s.levelOf a := by
  have level := congrArg Ctx.level (s.settle_ctx h)
  cases a with
  | lane g t => exact absurd rfl (h g t)
  | _ => exact level.trans (Ctx.settle_level _ _)

theorem State.settle_groupRegs (s : State) (h : ∀ g t, a ≠ .lane g t) : (s.settle a).groupRegs a = s.groupRegs a := by
  cases a with
  | lane g t => exact absurd rfl (h g t)
  | cond g => simp [State.groupRegs, State.kernel, State.launch?, State.settle, State.gang, State.setGang]
  | _ => rfl

/-- Counting an issue changes launches alone (R100). -/
theorem State.spendIssue_rest (s : State) (a : Agent) (i : Instr) :
    s.spendIssue a i = { s with launches := (s.spendIssue a i).launches } := by
  unfold State.spendIssue State.spend
  repeat' split
  all_goals rfl

theorem State.spendIssue_ctx (s : State) (a b : Agent) (i : Instr) : (s.spendIssue a i).ctx b = s.ctx b := by
  rw [State.spendIssue_rest]
  cases b <;> rfl

/-- A group instruction whose checks pass does what its body does. -/
theorem groupInstr_of_turn (turn : Claims.GroupTurn i s a s1) (body : Agent → State → State) :
    groupInstr i s body = .next (body a s1) := by
  obtain ⟨who, kind, legal, rfl, sound⟩ := turn
  have other := other_of_kind kind
  have whole : (s.settle a).badG a i = none := by
    simpa [State.badG, Claims.turn, State.spendIssue_ctx] using sound
  refine groupInstr_runs body who other ?_ whole
  rw [s.settle_levelOf other, s.settle_groupRegs other]
  exact legal

theorem groupTurn_tick (turn : Claims.GroupTurn i s a s1) : s1.tick = s.tick := by
  rw [turn.now]
  simp [Claims.turn]

theorem groupTurn_other (turn : Claims.GroupTurn i s a s1) : ∀ g t, a ≠ .lane g t := other_of_kind turn.kind

/-! ## A context advanced, and the register it writes (R119, R137) -/

theorem State.advance_ctx (s : State) (h : ∀ g t, a ≠ .lane g t) (n : Nat) :
    (s.advance a n).ctx a =
      { s.ctx a with
          pc := (loopNext ((s.ctx a).pc + n64 (n * s.wordStep a)) (s.ctx a).loops).1
          loops := (loopNext ((s.ctx a).pc + n64 (n * s.wordStep a)) (s.ctx a).loops).2
          lastIssue := s.tick } :=
  s.ctx_setCtx a _ h

/-- What an advance makes of a context depends on that context and the clock. -/
theorem State.advance_ctx_congr (h : ∀ g t, a ≠ .lane g t) (ctx : t.ctx a = s.ctx a) (tick : t.tick = s.tick) (n : Nat) :
    (t.advance a n).ctx a = (s.advance a n).ctx a := by
  have step : t.wordStep a = s.wordStep a := by cases a <;> simp only [State.wordStep, ctx]
  rw [t.advance_ctx h, s.advance_ctx h, ctx, tick, step]

/-- The results that an instruction with a destination adds. -/
theorem State.groupResult_ctx (s : State) (h : ∀ g t, a ≠ .lane g t) :
    (s.groupResult a n d v latency).ctx a =
      { (s.advance a n).ctx a with
          pend := (s.ctx a).pend ++ if d = .none then [] else [result d (BitVec.allOnes 64) v (s.tick + latency)] } := by
  refine ((s.advance a n).ctx_setCtx a _ h).trans ?_
  rw [s.advance_ctx h, State.advance_tick]

/-- The group registers after a result has withResult. -/
def withResult (g : Vector W64 192) (p : Pend) : Vector W64 192 :=
  match p.dst with
  | .reg n => if h : n < 192 then g.set n (mux p.mask p.val g[n]) else g
  | _ => g

theorem Ctx.put_g (c : Ctx) (p : Pend) : (c.put p).g = withResult c.g p := by
  unfold Ctx.put withResult
  cases p.dst with
  | reg n =>
    simp only
    split <;> rfl
  | _ => rfl

theorem Ctx.foldl_put_g (ps : List Pend) (c : Ctx) : (ps.foldl Ctx.put c).g = ps.foldl withResult c.g := by
  induction ps generalizing c with
  | nil => rfl
  | cons p ps ih => rw [List.foldl_cons, List.foldl_cons, ih, c.put_g]

theorem Ctx.final_eq (c : Ctx) {r : Nat} (lt : r < 192) : c.final r = (c.pend.foldl withResult c.g)[r] := by
  simp only [Ctx.final, dif_pos lt, Ctx.foldl_put_g]

theorem withResult_same {g : Vector W64 192} {due r : Nat} (lt : r < 192) :
    (withResult g (result (.reg r) (BitVec.allOnes 64) v due))[r] = v := by
  simp only [withResult, result, dif_pos lt, Vector.getElem_set_self, mux_ones]

theorem withResult_other {g : Vector W64 192} {due r : Nat} (lt : r < 192) (ne : d ≠ .reg r) :
    (withResult g (result d (BitVec.allOnes 64) v due))[r] = g[r] := by
  unfold withResult result
  cases d with
  | reg n =>
    have apart : n ≠ r := fun e => ne (e ▸ rfl)
    simp only
    split
    · rw [Vector.getElem_set_ne _ _ apart]
    · rfl
  | _ => rfl

/-- An instruction that writes one register and was not waiting completes. -/
theorem State.groupResult_completes (s : State) (h : ∀ g t, a ≠ .lane g t) (idle : (s.ctx a).wait = none) :
    Claims.Completes s (s.groupResult a n d v latency) a n d v := by
  have ctx := s.groupResult_ctx (n := n) (d := d) (v := v) (latency := latency) h
  have adv := s.advance_ctx h n
  refine ⟨?_, ?_, fun r dst lt => ?_, fun r lt ne => ?_⟩
  · rw [ctx]
  · rw [ctx, adv]
    exact idle
  · subst dst
    rw [Ctx.final_eq _ lt, ctx]
    simp only [reduceCtorEq, if_false, List.foldl_append, List.foldl_cons, List.foldl_nil]
    exact withResult_same lt
  · rw [Ctx.final_eq _ lt, Ctx.final_eq _ lt, ctx, adv]
    simp only [List.foldl_append]
    split
    · rfl
    · exact withResult_other lt ne

/-- Only the context, its clock and what it waits for matter to how an instruction completes. -/
theorem completes_congr {n : Nat} (h : ∀ g t, a ≠ .lane g t) (ctx : u.ctx a = s.ctx a) (tick : u.tick = s.tick)
    (k : Claims.Completes u t a n d v) : Claims.Completes s t a n d v := by
  obtain ⟨rest, idle, value, others⟩ := k
  refine ⟨?_, idle, value, ctx ▸ others⟩
  rw [← State.advance_ctx_congr h ctx tick n]
  exact rest

/-- So does one that writes none. -/
theorem State.advance_completes (s : State) (h : ∀ g t, a ≠ .lane g t) (idle : (s.ctx a).wait = none) :
    Claims.Completes s (s.advance a n) a n .none 0 := by
  have adv := s.advance_ctx h n
  refine ⟨rfl, ?_, fun _ e => (nomatch e), fun r lt _ => ?_⟩
  · rw [adv]
    exact idle
  · rw [Ctx.final_eq _ lt, Ctx.final_eq _ lt, adv]

end
end Sys2Proof.Machine

namespace Sys2Proof.Machine

section
variable {s t u : State} {a : Agent} {n : Nat}

/-! ## Operations that leave every thread where it stands -/

/-- Every thread stands as before, at the same clock. -/
structure ThreadsStand (s t : State) : Prop where
  gangs : t.gangs = s.gangs
  steppes : t.steppes = s.steppes
  saddles : t.saddles = s.saddles
  tick : t.tick = s.tick

theorem ThreadsStand.refl (s : State) : ThreadsStand s s := ⟨rfl, rfl, rfl, rfl⟩

theorem ThreadsStand.trans (h : ThreadsStand s t) (k : ThreadsStand t u) : ThreadsStand s u :=
  ⟨k.gangs.trans h.gangs, k.steppes.trans h.steppes, k.saddles.trans h.saddles, k.tick.trans h.tick⟩

theorem ThreadsStand.ctx (h : ThreadsStand s t) (a : Agent) : t.ctx a = s.ctx a := by
  cases a with
  | lane g n => rfl
  | cond g => exact congrArg (fun l => (aget Gang.empty g l).cond) h.gangs
  | steppe c n => exact congrArg (aget (Ctx.boot .s) (4 * c + n)) h.steppes
  | saddle c => exact congrArg (aget (Ctx.boot .f) c) h.saddles

theorem ThreadsStand.readG (h : ThreadsStand s t) (a : Agent) (r : GSrc) : readG t a r = readG s a r := by
  have gang : t.gang = s.gang := funext fun g => congrArg (aget Gang.empty g) h.gangs
  cases r with
  | g n => exact congrArg (fun c : Ctx => c.reg n.val) (h.ctx a)
  | gtick => exact congrArg n64 h.tick
  | _ => simp only [Machine.readG, gang]

theorem ThreadsStand.advance (h : ThreadsStand s t) (other : ∀ g n, a ≠ .lane g n) (n : Nat) :
    (t.advance a n).ctx a = (s.advance a n).ctx a := State.advance_ctx_congr other (h.ctx a) h.tick n

/-- A context advanced after such an operation: every other thread stands. -/
theorem ThreadsStand.others (h : ThreadsStand s t) (other : ∀ g n, a ≠ .lane g n) (n : Nat) :
    Claims.OthersStand s (t.advance a n) a := by
  have ctx := State.ctx_setCtx t a ((t.advance a n).ctx a) other
  have adv : t.advance a n = t.setCtx a ((t.advance a n).ctx a) :=
    congrArg (t.setCtx a) (State.ctx_setCtx t a _ other).symm
  cases a with
  | lane g n => exact absurd rfl (other g n)
  | cond g =>
    refine ⟨?_, h.steppes, h.saddles⟩
    rw [adv, ctx]
    simp only [State.setCtx, State.setGang, State.gang, h.gangs]
  | steppe c n =>
    refine ⟨h.gangs, ?_, h.saddles⟩
    rw [adv, ctx]
    simp only [State.setCtx, h.steppes]
  | saddle c =>
    refine ⟨h.gangs, h.steppes, ?_⟩
    rw [adv, ctx]
    simp only [State.setCtx, h.saddles]

/-! ## Writes by the device, and what they charge (R28, R101, R205) -/

/-- Memory alone has been written: its bytes, its check bits, and the quotations that are to be voided. -/
def Writes (s t : State) : Prop := ∃ mem flawed voids, t = { s with mem := mem, flawed := flawed, voids := voids }

theorem Writes.refl (s : State) : Writes s s := ⟨_, _, _, rfl⟩

theorem Writes.trans : Writes s t → Writes t u → Writes s u := by
  rintro ⟨_, _, _, rfl⟩ ⟨_, _, _, rfl⟩
  exact ⟨_, _, _, rfl⟩

theorem Writes.pokeBytes (s : State) (k : Nat) (bs : List Byte) : Writes s (s.pokeBytes k bs) := ⟨_, _, _, rfl⟩

theorem Writes.pokeDev (s : State) (pa : Nat) (bs : List Byte) : Writes s (s.pokeDev pa bs) := by
  unfold State.pokeDev
  split
  · exact .pokeBytes s _ _
  · exact .refl s

theorem Writes.writeDev (s : State) (pa : Nat) (bs : List Byte) : Writes s (s.writeDev pa bs) :=
  (Writes.pokeDev s pa bs).trans ⟨_, _, _, rfl⟩

theorem Writes.writeVa (s : State) (asid va n v : Nat) : Writes s (s.writeVa asid va n v) := by
  unfold State.writeVa
  split
  · split
    · split
      · exact .writeDev s _ _
      · exact (Writes.writeDev s _ _).trans (.writeDev _ _ _)
    · exact .refl s
  · exact .refl s

/-- Memory, quotations, fault records and the black box alone have changed. -/
def Noted (s t : State) : Prop :=
  ∃ mem flawed voids quotes records box,
    t = { s with mem := mem, flawed := flawed, voids := voids, quotes := quotes, dev := { s.dev with records := records, box := box } }

theorem Noted.refl (s : State) : Noted s s := ⟨_, _, _, _, _, _, rfl⟩

theorem Noted.trans : Noted s t → Noted t u → Noted s u := by
  rintro ⟨_, _, _, _, _, _, rfl⟩ ⟨_, _, _, _, _, _, rfl⟩
  exact ⟨_, _, _, _, _, _, rfl⟩

theorem Writes.noted : Writes s t → Noted s t := by
  rintro ⟨_, _, _, rfl⟩
  exact ⟨_, _, _, _, _, _, rfl⟩

theorem Noted.log (s : State) (kind io core asid qid : Nat) (detail : W64) : Noted s (s.log kind io core asid qid detail) := by
  unfold State.log
  split
  · exact .refl s
  · exact ⟨_, _, _, _, _, _, rfl⟩

theorem Noted.putQuote (s : State) (q : Quote) : Noted s (s.putQuote q) := by
  have set : Noted s (s.setQuote q) := ⟨_, _, _, _, _, _, rfl⟩
  exact set.trans (Writes.writeVa _ _ _ _ _).noted

theorem Noted.breach (s : State) (qid asid kind : Nat) (val : W64) : Noted s (s.breach qid asid kind val) :=
  (Noted.log s _ _ _ _ _ _).trans ⟨_, _, _, _, _, _, rfl⟩

theorem Noted.charge (s : State) (qid party kind : Nat) (val : W64) : Noted s (s.charge qid party kind val) := by
  unfold State.charge
  split
  · exact .refl s
  · rename_i q _
    have put : Noted s (if q.party = 0 then
        s.putQuote { q with party := party, voided := q.voided || party = 1 || party = 2 } else s) := by
      split
      · exact .putQuote s _
      · exact .refl s
    simp only
    split
    · exact put.trans (.breach _ _ _ _ _)
    · exact put

theorem Noted.foldl {α : Type} {f : State → α → State} (h : ∀ s x, Noted s (f s x)) (l : List α) (s : State) :
    Noted s (l.foldl f s) := by
  induction l generalizing s with
  | nil => exact .refl s
  | cons x l ih => exact (h s x).trans (ih (f s x))

theorem Noted.noteObject (s : State) (sLevel : Bool) (pa n : Nat) : Noted s (s.noteObject sLevel pa n) :=
  .foldl (fun s _ => .charge s _ _ _ _) _ s

theorem Noted.threads : Noted s t → ThreadsStand s t := by
  rintro ⟨_, _, _, _, _, _, rfl⟩
  exact ⟨rfl, rfl, rfl, rfl⟩

/-! ## The checks of an access (R203–R209) -/

theorem ThreadsStand.outsideResident (s : State) (w : Option Site) (va : Nat) : ThreadsStand s (s.outsideResident w va) := by
  unfold State.outsideResident
  split
  · exact .refl s
  · split
    · exact .refl s
    · split
      · exact (Noted.charge s _ _ _ _).threads
      · exact .refl s

/-- The TLB of a unit filled, with or without a free choice of the entry that makes room. -/
theorem ThreadsStand.fillTlb (h : ThreadsStand s t) (held : Prop) [Decidable held] (unit : Nat) (c : CoreSt) :
    ThreadsStand s ((if held then t else t.fresh.2).setCore unit c) := by
  split
  all_goals exact ⟨h.gangs, h.steppes, h.saddles, h.tick⟩

theorem ThreadsStand.translate (s : State) (unit asid : Nat) (root : Option W64) (va : Nat) (acc : Acc) (user : Bool) :
    ThreadsStand s (s.translate unit asid root va acc user).1 := by
  have marked : ∀ (p : Prop) [Decidable p] at_ d, ThreadsStand s (if p then s else s.markLeaf at_ d) := by
    intro p _ at_ d
    split
    · exact .refl s
    · exact (Writes.writeDev s _ _).noted.threads
  unfold State.translate
  simp only
  split
  · exact .refl s
  · generalize List.find? _ (s.core unit).tlb = hit
    split
    · exact .refl s
    · split
      · exact .refl s
      · generalize leafLoc _ _ va = loc
        split
        all_goals
          split
          · exact .refl s
          · exact (marked _ _ _).fillTlb _ _ _

theorem ThreadsStand.reach (s : State) (unit asid : Nat) (root : Option W64) (level : Level) (w : Option Site) (sp : Space)
    (va z : Nat) (acc : Acc) : ThreadsStand s (s.reach unit asid root level w sp va z acc).1 := by
  unfold State.reach
  split
  · have resident := ThreadsStand.outsideResident s w va
    simp only
    split
    · exact resident
    · have walked := resident.trans (.translate _ unit asid root va acc (level = .u))
      split
      all_goals
        rename_i e
        rw [e] at walked
        exact walked
  · repeat' split
    all_goals exact .refl s

theorem ThreadsStand.checkAccess (s : State) (a : Agent) (sp : Space) (addr : W64) (z : Nat) (acc : Acc) (locks : Bool)
    (allowed : Loc → Bool) : ThreadsStand s (s.checkAccess a sp addr z acc locks allowed).1 := by
  unfold State.checkAccess
  simp only
  split
  · exact .refl s
  · have reached := ThreadsStand.reach s (agentUnit a) (s.asidOf a) (s.rootOf a) (s.levelOf a) (s.siteOf a) sp addr.toNat z acc
    split
    all_goals
      rename_i e
      rw [e] at reached
    · exact reached
    · repeat' split
      all_goals exact reached

end
end Sys2Proof.Machine

namespace Sys2Proof.Machine

section
variable {s s1 s2 t : State} {i : Instr} {a : Agent} {q idx : Nat}

/-! ## Events (R71) -/

theorem f64_n64 {n lo k : Nat} (lt : n < 2 ^ 64) : f64 (n64 n) lo k = n / 2 ^ lo % 2 ^ k := by
  rw [f64, n64, BitVec.toNat_ofNat, Nat.mod_eq_of_lt lt]

theorem f64_lt (w : W64) (lo k : Nat) : f64 w lo k < 2 ^ k := Nat.mod_lt _ (Nat.two_pow_pos k)

theorem evQueue_eq_some {e : W64} : evQueue e = some q ↔ b64 e 12 = true ∧ f64 e 0 12 = q := by
  simp [evQueue]

/-- The word of a wake pending for a queue (R68). -/
theorem wake_iff {e : W64} :
    (evKind e = 1 && evQueue e = some q) = true ↔ f64 e 13 3 = 1 ∧ b64 e 12 = true ∧ f64 e 0 12 = q := by
  rw [Bool.and_eq_true, decide_eq_true_iff, decide_eq_true_iff, evQueue_eq_some, evKind]

theorem eventWord_eq_eventOf (kind arg : Nat) (queue : Option Nat) : eventWord kind arg queue = Claims.eventOf kind arg queue := rfl

/-! ## A wake posted (R68–R70) -/

theorem State.unhalt_rest (s : State) (q : Nat) : s.unhalt q = { s with dev := { s.dev with halted := (s.unhalt q).dev.halted } } := by
  unfold State.unhalt
  split <;> rfl

theorem State.postWake_rest (s : State) (q idx : Nat) : s.postWake q idx =
    { s with dev := { s.dev with halted := (s.unhalt q).dev.halted, events := (s.postWake q idx).dev.events } } := by
  have halted := s.unhalt_rest q
  unfold State.postWake State.enterWake
  simp only
  split
  all_goals
    rw [halted]
    rfl

theorem State.unhalt_events (s : State) (q : Nat) : (s.unhalt q).dev.events = s.dev.events := by
  rw [State.unhalt_rest]

/-- No wake of the queue is pending: one more event. -/
theorem State.postWake_new (h : ∀ e ∈ s.dev.events, ¬ (f64 e 13 3 = 1 ∧ b64 e 12 = true ∧ f64 e 0 12 = q)) :
    (s.postWake q idx).dev.events = s.dev.events ++ [eventWord 1 idx (some q)] := by
  have none : s.dev.events.any (fun e => evKind e = 1 && evQueue e = some q) = false := by
    rw [List.any_eq_false]
    exact fun e mem wake => h e mem (wake_iff.mp wake)
  simp only [State.postWake, State.enterWake, State.unhalt_events, none, Bool.false_eq_true, if_false, State.setEvents]

/-- One is pending: it takes the larger index. -/
theorem State.postWake_merged (h : ∃ e ∈ s.dev.events, f64 e 13 3 = 1 ∧ b64 e 12 = true ∧ f64 e 0 12 = q) (lt : idx < 2 ^ 48) :
    (s.postWake q idx).dev.events = s.dev.events.map fun e =>
      if f64 e 13 3 = 1 ∧ b64 e 12 = true ∧ f64 e 0 12 = q then eventWord 1 (max (f64 e 16 48) idx) (some q) else e := by
  have some : s.dev.events.any (fun e => evKind e = 1 && evQueue e = some q) = true := by
    obtain ⟨e, mem, wake⟩ := h
    exact List.any_eq_true.mpr ⟨e, mem, wake_iff.mpr wake⟩
  simp only [State.postWake, State.enterWake, State.unhalt_events, some, if_true, State.setEvents, wake_iff,
    Nat.mod_eq_of_lt lt, evArg]

theorem ThreadsStand.postWake (s : State) (q idx : Nat) : ThreadsStand s (s.postWake q idx) := by
  rw [State.postWake_rest]
  exact ⟨rfl, rfl, rfl, rfl⟩

theorem State.postWake_mem (s : State) (q idx : Nat) : (s.postWake q idx).mem = s.mem := by
  rw [State.postWake_rest]

/-- The bits of a wake (R71). -/
theorem eventWord_wake (hq : q < 4096) (hidx : idx < 2 ^ 48) :
    eventWord 1 idx (some q) = n64 (idx * 65536 + 8192 + 4096 + q) := by
  simp only [eventWord, Nat.mod_eq_of_lt hq, Nat.mod_eq_of_lt hidx]
  exact congrArg n64 (by omega)

/-! ## `submit` and `sig` (R68, R76) -/

/-- A reserved field of a queue's entry (R13, R64). -/
theorem State.dirBad_eq_false : s.dirBad q = false ↔
    readLE s.mem (s.dirKey q + 7) 1 = 0 ∧ readLE s.mem (s.dirKey q + 14) 2 < 32 ∧ readLE s.mem (s.dirKey q + 48) 16 = 0 := by
  unfold State.dirBad
  rw [Bool.or_eq_false_iff, Bool.or_eq_false_iff, decide_eq_false_iff_not, decide_eq_false_iff_not, decide_eq_false_iff_not,
    Decidable.not_not, Decidable.not_not, Nat.not_le, and_assoc]
  rfl

/-- A queue that is registered, and the agent's (R68). -/
theorem State.owned_iff : (!s.qFlag q 0 || decide (s.qOwner q ≠ s.asidOf a)) = false ↔
    (readLE s.mem (s.dirKey q + 14) 2).testBit 0 = true ∧ readLE s.mem (s.dirKey q + 12) 2 = s.asidOf a := by
  rw [Bool.or_eq_false_iff, decide_eq_false_iff_not, Decidable.not_not, Bool.not_eq_false']
  rfl

/-- A group access that passes its checks does what its instruction does with it. -/
theorem groupMemory_of_checked {sp : Space} {z : Nat} {acc : Acc} {locks : Bool} {allowed : Loc → Bool} {addr : State → Agent → W64}
    {p : Passed} (turn : Claims.GroupTurn i s a s1) (go : State → Agent → Passed → State)
    (h : Claims.GroupChecked s1 a sp (addr s1 a) z acc locks allowed s2 p) :
    groupMemory i s sp z acc locks allowed 0 addr go = .next (go s2 a p) := by
  obtain ⟨space, checks⟩ := h
  refine (groupInstr_of_turn turn _).trans (congrArg _ ?_)
  simp only [space, checks, Bool.not_true, Bool.false_eq_true, if_false, if_true]

theorem signalBad_eq_true {l : Loc} : s.signalBad l = true ↔ ∃ pa, l = .dev pa ∧ 2 ^ 18 ≤ readLE s.mem (pa + 8) 8 := by
  cases l <;> simp [State.signalBad]

theorem State.spendWork_rest (s : State) (a : Agent) (pJ : Nat) :
    s.spendWork a pJ = { s with launches := (s.spendWork a pJ).launches } := by
  unfold State.spendWork State.spend
  repeat' split
  all_goals rfl

/-- An access issued stands in flight behind the others (R212). -/
theorem State.issueAccess_issued (s : State) (a : Agent) (p : Passed) (size : Nat) (op : Access) (acq rel : Bool) (scope : Scope)
    (strong : Bool) (before : List Nat) : Claims.Issued s (s.issueAccess a p size op acq rel scope strong before)
      [{ who := a, loc := p.loc, size := size, op := op, acq := acq, rel := rel, scope := scope }] :=
  ⟨⟨[_], rfl, rfl, rfl, by simp⟩, rfl⟩

end

section
variable {s s1 s2 : State} {a : Agent} {p : Passed}

/-- The checks of an access leave every thread where it stands. -/
theorem groupChecked_threads {sp : Space} {va : W64} {z : Nat} {acc : Acc} {locks : Bool} {allowed : Loc → Bool}
    (h : Claims.GroupChecked s1 a sp va z acc locks allowed s2 p) : ThreadsStand s1 s2 := by
  have stand := ThreadsStand.checkAccess s1 a sp va z acc locks allowed
  rw [h.checks] at stand
  exact stand

theorem ThreadsStand.issueAccess (h : ThreadsStand s1 s2) (a : Agent) (p : Passed) (size : Nat) (op : Access) (acq rel : Bool)
    (scope : Scope) (strong : Bool) (before : List Nat) :
    ThreadsStand s1 (s2.issueAccess a p size op acq rel scope strong before) := ⟨h.gangs, h.steppes, h.saddles, h.tick⟩

theorem issued_congr {t : State} {ps : List Claims.Sent} (flight : s2.flight = s1.flight) (number : s2.nextId = s1.nextId)
    (h : Claims.Issued s2 t ps) : Claims.Issued s1 t ps := by
  obtain ⟨inFlight, next⟩ := h
  rw [flight, number] at inFlight
  exact ⟨inFlight, number ▸ next⟩

/-- An advance issues nothing. -/
theorem issued_advance {ps : List Claims.Sent} (h : Claims.Issued s1 s2 ps) (n : Nat) : Claims.Issued s1 (s2.advance a n) ps := by
  obtain ⟨flight, number⟩ := h
  refine ⟨?_, ?_⟩
  · rw [State.advance_flight]
    exact flight
  · rw [State.advance_nextId]
    exact number

/-- What `submit` does, case by case (R68). -/
theorem submit_posts {q w : GSrc} (turn : Claims.GroupTurn (.submit q w) s a s1) : exec (.submit q w) s = .next
    (let v := readG s1 a q
     let n := f64 v 0 12
     if f64 v 12 52 ≠ 0 then s1.groupFault a 0x02 v
     else if (!s1.qFlag n 0 || decide (s1.qOwner n ≠ s1.asidOf a)) = true then s1.groupFault a 0x13 (n64 n)
     else if s1.dirBad n = true then s1.groupFault a 0x02 v
     else (s1.postWake n (f64 (readG s1 a w) 0 48)).advance a 1) :=
  (groupInstr_of_turn turn _ : execSubmit q w s = _)

/-- What `sig` does once its address passes the checks (R76). -/
theorem signal_issues {x y : GSrc} (add : Bool) (turn : Claims.GroupTurn (if add then .sigAdd x y else .sigSet x y) s a s1)
    (checked : Claims.GroupChecked s1 a .d (readG s1 a x) 16 .store false (fun _ => true) s2 p) :
    exec (if add then .sigAdd x y else .sigSet x y) s = .next
      (if s2.signalBad p.loc then s2.groupFault a 0x02 p.va
       else
         let u := s2.spendWork a (40 + 2560 * deviceLines [p.loc])
         (u.issueAccess a p 8 (.sig add (readG u a y)) false true .sys true []).advance a 1) := by
  cases add with
  | false => exact groupMemory_of_checked (addr := fun s g => readG s g x) turn _ checked
  | true => exact groupMemory_of_checked (addr := fun s g => readG s g x) turn _ checked

end

/-- Settles O36: `submit` goes through its checks in order; `sig` issues its access on the state that the checks leave. -/
theorem submitAndSignals : Obligations.SubmitAndSignals := by
  unfold Obligations.SubmitAndSignals
  constructor
  · intro q w s s1 a turn v n idx entry mine zeros
    have other := groupTurn_other turn
    have act := submit_posts turn
    have hn : n < 4096 := f64_lt v 0 12
    have hidx : idx < 2 ^ 48 := f64_lt _ 0 48
    refine ⟨fun high => act.trans (congrArg _ (if_pos high)), fun low foreign => ?_, fun low own bad => ?_, fun low own fine => ?_⟩
    · have refused := Bool.not_eq_false _ ▸ mt State.owned_iff.mp foreign
      exact act.trans (congrArg _ ((if_neg (not_not_intro low)).trans (if_pos refused)))
    · have held := Bool.not_eq_true _ ▸ State.owned_iff.mpr own
      have reserved := Bool.not_eq_false _ ▸ mt State.dirBad_eq_false.mp bad
      exact act.trans (congrArg _ ((if_neg (not_not_intro low)).trans ((if_neg held).trans (if_pos reserved))))
    · have held := Bool.not_eq_true _ ▸ State.owned_iff.mpr own
      have clear := Bool.not_eq_true _ ▸ State.dirBad_eq_false.mpr fine
      have stand := ThreadsStand.postWake s1 n idx
      refine ⟨_, act.trans (congrArg _ ((if_neg (not_not_intro low)).trans ((if_neg held).trans (if_neg clear)))), ?_,
        stand.advance other 1, stand.others other 1, fun fresh => ?_, fun pending => ?_⟩
      · rw [State.advance_mem, State.postWake_mem]
      · rw [State.advance_dev]
        refine (State.postWake_new fresh).trans ?_
        rw [eventWord_wake hn hidx]
      · rw [State.advance_dev]
        refine (State.postWake_merged pending hidx).trans (List.map_congr_left fun e _ => ?_)
        rw [eventWord_wake hn (Nat.max_lt.mpr ⟨f64_lt e 16 48, hidx⟩)]
  · intro add i x y s s1 s2 a p word turn checked
    subst word
    have act := signal_issues add turn checked
    have other := groupTurn_other turn
    refine ⟨fun pa place high => act.trans (congrArg _ (if_pos (signalBad_eq_true.mpr ⟨pa, place, high⟩))), fun fine => ?_⟩
    have whole : s2.signalBad p.loc ≠ true := fun bad =>
      have ⟨pa, place, high⟩ := signalBad_eq_true.mp bad
      absurd high (Nat.not_le.mpr (fine pa place))
    have spent := s2.spendWork_rest a (40 + 2560 * deviceLines [p.loc])
    have work : ThreadsStand s2 (s2.spendWork a (40 + 2560 * deviceLines [p.loc])) := by
      rw [spent]
      exact ⟨rfl, rfl, rfl, rfl⟩
    have value := ((groupChecked_threads checked).trans work).readG a y
    rw [← value]
    refine ⟨_, act.trans (congrArg _ (if_neg whole)), ?_, (work.issueAccess ..).others other 1, (work.issueAccess ..).advance other 1, ?_⟩
    · rw [State.advance_mem, spent]
      rfl
    · exact issued_congr (congrArg State.flight spent :) (congrArg State.nextId spent :)
        (issued_advance (State.issueAccess_issued _ a p 8 _ false true .sys true []) 1)

end Sys2Proof.Machine

namespace Sys2Proof.Machine

section
variable {s s1 t : State} {k n now : Nat} {v : W64}

/-! ## Deliverable events (R72) -/

/-- An event names no queue, or the lock of its queue is free. -/
def FreeEvent (s : State) (e : W64) : Prop := b64 e 12 = true → afind (f64 e 0 12 % 256) s.dev.locks = none

theorem State.deliverable_iff {e : W64} : s.deliverable e = true ↔ s.dev.suspended = false ∧ FreeEvent s e := by
  unfold State.deliverable evQueue FreeEvent
  rw [Bool.and_eq_true, Bool.not_eq_true']
  refine and_congr_right fun _ => ?_
  by_cases named : b64 e 12 = true
  · rw [if_pos named]
    exact Option.isNone_iff_eq_none.trans ⟨fun h _ => h, fun h => h named⟩
  · rw [if_neg named]
    exact ⟨fun _ h => absurd h named, fun _ => rfl⟩

theorem deliverable_none (h : s.dev.suspended = true ∨ ∀ e ∈ s.dev.events, ¬ FreeEvent s e) :
    s.dev.events.find? s.deliverable = none := by
  refine List.find?_eq_none.mpr fun e mem delivers => ?_
  obtain ⟨open_, free⟩ := State.deliverable_iff.mp delivers
  cases h with
  | inl suspended => exact absurd (suspended.symm.trans open_) (by decide)
  | inr busy => exact busy e mem free

theorem deliverable_first {before after : List W64} {e : W64} (open_ : s.dev.suspended = false)
    (events : s.dev.events = before ++ e :: after) (busy : ∀ x ∈ before, ¬ FreeEvent s x) (free : FreeEvent s e) :
    s.dev.events.find? s.deliverable = some e := by
  refine List.find?_eq_some_iff_append.mpr ⟨State.deliverable_iff.mpr ⟨open_, free⟩, before, after, events, fun x mem => ?_⟩
  rw [Bool.not_eq_true']
  exact Bool.eq_false_iff.mpr fun delivers => busy x mem (State.deliverable_iff.mp delivers).2

/-- An event taken while none is held back: the others stay in order. -/
theorem State.takeEvent_events {before after : List W64} {e : W64} (events : s.dev.events = before ++ e :: after)
    (first : e ∉ before) (none : s.dev.heldEvents = []) : (s.takeEvent e).dev.events = before ++ after := by
  have left : s.dev.events.erase e = before ++ after := by
    rw [events, List.erase_append_right _ first, List.erase_cons_head]
  unfold State.takeEvent
  simp only [left, none, List.take_nil, List.map_nil, List.append_nil]
  split <;> rfl

theorem State.takeEvent_rest (s : State) (e : W64) : s.takeEvent e =
    { s with dev := { s.dev with events := (s.takeEvent e).dev.events, heldEvents := (s.takeEvent e).dev.heldEvents } } := by
  unfold State.takeEvent
  simp only
  split <;> rfl

theorem ThreadsStand.takeEvent (s : State) (e : W64) : ThreadsStand s (s.takeEvent e) := by
  rw [State.takeEvent_rest]
  exact ⟨rfl, rfl, rfl, rfl⟩

theorem ThreadsStand.grantLock (h : ThreadsStand s t) (n k : Nat) : ThreadsStand s (t.grantLock n k) :=
  ⟨h.gangs, h.steppes, h.saddles, h.tick⟩

/-- What `sys.evqpop` gives is in its register, whatever it took with it. -/
theorem ThreadsStand.groupResult_completes {a : Agent} {d : Dst} {latency : Nat} (h : ThreadsStand s t) (other : ∀ g n, a ≠ .lane g n)
    (idle : (s.ctx a).wait = none) : Claims.Completes s (t.groupResult a n d v latency) a n d v :=
  completes_congr other (h.ctx a) h.tick (t.groupResult_completes other ((congrArg Ctx.wait (h.ctx a)).trans idle))

theorem ThreadsStand.advance_completes {a : Agent} (h : ThreadsStand s t) (other : ∀ g n, a ≠ .lane g n)
    (idle : (s.ctx a).wait = none) : Claims.Completes s (t.advance a n) a n .none 0 :=
  completes_congr other (h.ctx a) h.tick (t.advance_completes other ((congrArg Ctx.wait (h.ctx a)).trans idle))

theorem State.groupResult_mem (s : State) (a : Agent) (n : Nat) (d : Dst) (v : W64) (latency : Nat) :
    (s.groupResult a n d v latency).mem = s.mem := by simp [State.groupResult]

theorem State.groupResult_dev (s : State) (a : Agent) (n : Nat) (d : Dst) (v : W64) (latency : Nat) :
    (s.groupResult a n d v latency).dev = s.dev := by simp [State.groupResult]

/-! ## Waits of a context (R72, R78) -/

/-- A context that no trap has interrupted starts to wait. -/
theorem State.startWait_eq {a : Agent} (resumed : (s.ctx a).resumed = none) (kind : WaitKind) (timeout : Nat) :
    s.startWait a kind timeout =
      s.setCtx a { s.ctx a with wait := some { kind := kind, since := s.tick, deadline := s.tick + timeout }, lastIssue := s.tick } := by
  simp only [State.startWait, resumed]

theorem State.startWait_ctx {a : Agent} (other : ∀ g n, a ≠ .lane g n) (resumed : (s.ctx a).resumed = none) (kind : WaitKind) :
    (s.startWait a kind 0).ctx a =
      { s.ctx a with wait := some { kind := kind, since := s.tick, deadline := s.tick }, lastIssue := s.tick } := by
  rw [State.startWait_eq resumed]
  exact s.ctx_setCtx a _ other

theorem State.startWait_waits {a : Agent} (other : ∀ g n, a ≠ .lane g n) (resumed : (s.ctx a).resumed = none) (kind : WaitKind) :
    Claims.Waits s (s.startWait a kind 0) a kind s.tick := by
  have ctx := State.startWait_ctx other resumed kind
  constructor
  · rw [ctx]
  · rw [ctx]

theorem State.startWait_rest {a : Agent} (resumed : (s.ctx a).resumed = none) (kind : WaitKind) :
    (s.startWait a kind 0).mem = s.mem ∧ (s.startWait a kind 0).dev = s.dev := by
  rw [State.startWait_eq resumed]
  exact ⟨State.setCtx_mem .., State.setCtx_dev ..⟩

/-- What a wait has no part in: where the next word stands. -/
theorem State.wordStep_congr {a : Agent} {w : Option Wait} {last : Nat}
    (ctx : t.ctx a = { s.ctx a with wait := w, lastIssue := last }) : t.wordStep a = s.wordStep a := by
  cases a with
  | cond g =>
    simp only [State.wordStep, ctx]
    rfl
  | _ => rfl

/-- A wait that ends in the clock in which it began, its instruction's only effect. -/
theorem State.endWait_completes {a : Agent} (other : ∀ g n, a ≠ .lane g n) {w : Option Wait}
    (ctx : t.ctx a = { s.ctx a with wait := w, lastIssue := s.tick }) :
    Claims.Completes s (t.endWait a .none 0) a 1 .none 0 := by
  have ended := t.ctx_setCtx a { t.ctx a with wait := none } other
  have step := State.wordStep_congr (w := none) (last := s.tick) (s := s) (ended.trans (ctx ▸ rfl))
  have final : (t.endWait a .none 0).ctx a = { (s.advance a 1).ctx a with pend := (s.ctx a).pend, wait := none } := by
    refine (State.ctx_setCtx _ a _ other).trans ?_
    rw [State.groupResult_ctx _ other, State.advance_ctx _ other, State.advance_ctx _ other, step, ended, ctx]
    simp
  have adv := s.advance_ctx other 1
  refine ⟨?_, ?_, fun _ e => (nomatch e), fun r lt _ => ?_⟩
  · rw [final]
  · rw [final]
  · rw [Ctx.final_eq _ lt, Ctx.final_eq _ lt, final, adv]

theorem State.endWait_mem (s : State) (a : Agent) (d : Dst) (v : W64) : (s.endWait a d v).mem = s.mem := by
  simp [State.endWait, State.groupResult]

theorem State.endWait_dev (s : State) (a : Agent) (d : Dst) (v : W64) : (s.endWait a d v).dev = s.dev := by
  simp [State.endWait, State.groupResult]

/-! ## Ordering locks (R72) -/

/-- Nobody asks for the lock: it goes to nobody. -/
theorem State.serveLock_unasked (h : ∀ e ∈ s.dev.lockOrder, e.1 ≠ n) : s.serveLock n = s := by
  have nobody : s.dev.lockOrder.find? (·.1 = n) = none :=
    List.find?_eq_none.mpr fun e mem => by simpa using h e mem
  unfold State.serveLock
  rw [nobody]
  split
  · contradiction
  · rfl

theorem State.serveLock_held (h : s.lockHolder n ≠ none) : s.serveLock n = s := by
  unfold State.serveLock
  split
  · contradiction
  · rfl

/-- A free lock that one core alone asks for goes to it. -/
theorem State.serveLock_granted {order : List (Nat × Nat)} (free : s.lockHolder n = none)
    (asked : s.dev.lockOrder = order ++ [(n, k)]) (alone : ∀ e ∈ order, e.1 ≠ n) :
    s.serveLock n =
      ({ s.grantLock n k with dev := { (s.grantLock n k).dev with lockOrder := order } }).endWait (.saddle k) .none 0 := by
  have first : s.dev.lockOrder.find? (·.1 = n) = some (n, k) := by
    rw [asked]
    exact List.find?_eq_some_iff_append.mpr ⟨by simp, order, [], rfl, fun e mem => by simpa using alone e mem⟩
  have left : (s.grantLock n k).dev.lockOrder.filter (fun x => !(decide (x.1 = n) && decide (x.2 = k))) = order := by
    have kept : order.filter (fun x => !(decide (x.1 = n) && decide (x.2 = k))) = order :=
      List.filter_eq_self.mpr fun e mem => by simp [alone e mem]
    rw [show (s.grantLock n k).dev.lockOrder = order ++ [(n, k)] from asked, List.filter_append, kept]
    simp
  unfold State.serveLock
  rw [free, first]
  simp only [left]

/-! ## The heartbeat (R78, R320) -/

/-- A Saddle context after core 0's first heartbeat since a reset. -/
def awoken (now : Nat) (c : Ctx) : Ctx := if c.st = .held then { c with st := .live, lastIssue := now, from_ := now + 1 } else c

theorem awoken_of_not_held {c : Ctx} (h : c.st ≠ .held) : awoken now c = c := if_neg h

theorem aget_map {α : Type} (f : α → α) {d : α} (fixed : f d = d) (k : Nat) (l : List (Nat × α)) :
    aget d k (l.map fun e => (e.1, f e.2)) = f (aget d k l) := by
  induction l with
  | nil => exact fixed.symm
  | cons e l ih =>
    simp only [List.map_cons, aget]
    split
    · rfl
    · exact ih

theorem aget_mem {α : Type} {d : α} {l : List (Nat × α)} : aget d k l = d ∨ ∃ e ∈ l, e.2 = aget d k l := by
  induction l with
  | nil => exact .inl rfl
  | cons e l ih =>
    simp only [aget]
    split
    · exact .inr ⟨e, List.mem_cons_self .., rfl⟩
    · exact ih.imp id fun ⟨x, mem, eq⟩ => ⟨x, List.mem_cons_of_mem _ mem, eq⟩

/-- The first heartbeat of core 0 since a reset. -/
def FirstBeat (s : State) (k : Nat) : Prop := k = 0 ∧ ∃ e ∈ s.saddles, e.2.st = .held

theorem anyHeld_iff : (s.saddles.any fun e => e.2.st = .held) = true ↔ ∃ e ∈ s.saddles, e.2.st = .held := by
  simp only [List.any_eq_true, decide_eq_true_eq]

theorem State.heartbeat_first (h : FirstBeat s k) : s.heartbeat k =
    { s with
        dev := { (s.heartbeat k).dev with resuming := true }
        saddles := s.saddles.map fun e => (e.1, awoken s.tick e.2) } := by
  have first : k = 0 ∧ (s.saddles.any fun e => e.2.st = .held) = true := ⟨h.1, anyHeld_iff.mpr h.2⟩
  simp only [State.heartbeat, if_pos first]
  rfl

theorem State.heartbeat_later (h : ¬ FirstBeat s k) : s.heartbeat k = { s with dev := (s.heartbeat k).dev } := by
  have later : ¬ (k = 0 ∧ (s.saddles.any fun e => e.2.st = .held) = true) := fun first =>
    h ⟨first.1, anyHeld_iff.mp first.2⟩
  simp only [State.heartbeat, if_neg later]

/-- Every Saddle context after a heartbeat. -/
theorem State.heartbeat_ctx (s : State) (k j : Nat) : (s.heartbeat k).ctx (.saddle j) =
    if k = 0 ∧ (s.ctx (.saddle j)).st = .held then awoken s.tick (s.ctx (.saddle j)) else s.ctx (.saddle j) := by
  by_cases first : FirstBeat s k
  · rw [State.heartbeat_first first]
    refine (aget_map (awoken s.tick) (awoken_of_not_held (by decide)) j s.saddles).trans ?_
    split
    · rfl
    · next unheld => exact awoken_of_not_held fun held => unheld ⟨first.1, held⟩
  · rw [State.heartbeat_later first, if_neg]
    · rfl
    · rintro ⟨zero, held⟩
      cases aget_mem (d := Ctx.boot .f) (k := j) (l := s.saddles) with
      | inl absent => exact absurd ((congrArg Ctx.st absent).symm.trans held) (by decide)
      | inr present =>
        obtain ⟨e, mem, eq⟩ := present
        exact first ⟨zero, e, mem, (congrArg Ctx.st eq).trans held⟩

end

/-- The state after `sys.slot`, `sys.qlk` and their like: a saddle core is no lane thread. -/
theorem saddle_other (k : Nat) : ∀ g n, Agent.saddle k ≠ .lane g n := fun _ _ => Agent.noConfusion

section
variable {s s1 : State} {k : Nat}

/-! ## `sys.evqpop` -/

theorem evqpop_empty {d : GDst} (turn : Claims.GroupTurn (.sysEvqpop d) s (.saddle k) s1)
    (none : s1.dev.events.find? s1.deliverable = none) :
    exec (.sysEvqpop d) s = .next (s1.groupResult (.saddle k) 1 (dstG d) 0 12) := by
  refine (groupInstr_of_turn turn _ : execSysEvqpop d s = _).trans (congrArg _ ?_)
  simp only [none]

/-- The state from which an event that has been taken is given: the lock of its queue is the core's. -/
def State.popped (s : State) (k : Nat) (e : W64) : State :=
  match evQueue e with
  | some q => (s.takeEvent e).grantLock (lockOfQueue q) k
  | none => s.takeEvent e

theorem evqpop_some {d : GDst} {e : W64} (turn : Claims.GroupTurn (.sysEvqpop d) s (.saddle k) s1)
    (first : s1.dev.events.find? s1.deliverable = some e) :
    exec (.sysEvqpop d) s = .next ((s1.popped k e).groupResult (.saddle k) 1 (dstG d) e 12) := by
  refine (groupInstr_of_turn turn _ : execSysEvqpop d s = _).trans (congrArg _ ?_)
  simp only [first]
  rfl

theorem State.popped_rest (s : State) (k : Nat) (e : W64) :
    ThreadsStand s (s.popped k e) ∧ (s.popped k e).mem = s.mem ∧ (s.popped k e).dev.events = (s.takeEvent e).dev.events := by
  have taken := s.takeEvent_rest e
  unfold State.popped
  split
  all_goals
    rw [taken]
    exact ⟨⟨rfl, rfl, rfl, rfl⟩, rfl, rfl⟩

theorem State.popped_locks_queue {e : W64} (named : b64 e 12 = true) :
    afind (f64 e 0 12 % 256) (s.popped k e).dev.locks = some k := by
  simp only [State.popped, evQueue, named, if_true]
  exact afind_aput_same ..

theorem State.popped_locks_none {e : W64} (named : b64 e 12 = false) : (s.popped k e).dev.locks = s.dev.locks := by
  simp only [State.popped, evQueue, named, Bool.false_eq_true, if_false]
  rw [State.takeEvent_rest]

/-- What `sys.evqpop` does. -/
theorem evqpop_pops {d : GDst} (turn : Claims.GroupTurn (.sysEvqpop d) s (.saddle k) s1) (idle : (s1.ctx (.saddle k)).wait = none) :
    ((s1.dev.suspended = true ∨ ∀ e ∈ s1.dev.events, ¬ FreeEvent s1 e) →
      ∃ t, exec (.sysEvqpop d) s = .next t ∧ t.mem = s1.mem ∧ t.dev = s1.dev ∧ Claims.Completes s1 t (.saddle k) 1 (dstG d) 0) ∧
    ∀ before e after, s1.dev.suspended = false → s1.dev.events = before ++ e :: after → (∀ x ∈ before, ¬ FreeEvent s1 x) →
      FreeEvent s1 e → s1.dev.heldEvents = [] →
      ∃ t, exec (.sysEvqpop d) s = .next t ∧ t.mem = s1.mem ∧ Claims.Completes s1 t (.saddle k) 1 (dstG d) e ∧
        t.dev.events = before ++ after ∧ (b64 e 12 = true → afind (f64 e 0 12 % 256) t.dev.locks = some k) ∧
        (b64 e 12 = false → t.dev.locks = s1.dev.locks) := by
  have other := saddle_other k
  constructor
  · intro nothing
    exact ⟨_, evqpop_empty turn (deliverable_none nothing), State.groupResult_mem .., State.groupResult_dev ..,
      s1.groupResult_completes other idle⟩
  · intro before e after open_ events busy free none
    obtain ⟨stand, mem, left⟩ := s1.popped_rest k e
    refine ⟨_, evqpop_some turn (deliverable_first open_ events busy free), ?_, stand.groupResult_completes other idle, ?_, ?_, ?_⟩
    · rw [State.groupResult_mem, mem]
    · rw [State.groupResult_dev, left]
      exact State.takeEvent_events events (fun mem => busy e mem free) none
    · rw [State.groupResult_dev]
      exact State.popped_locks_queue
    · rw [State.groupResult_dev]
      exact State.popped_locks_none

/-! ## `sys.qlk` and `sys.qulk` -/

/-- The lock's order with a core at its end. -/
def State.asked (s : State) (n k : Nat) : State := { s with dev := { s.dev with lockOrder := s.dev.lockOrder ++ [(n, k)] } }

/-- The state of a core that asks for a lock. -/
def State.asking (s : State) (n k : Nat) : State := (s.asked n k).startWait (.saddle k) (.lock n) 0

theorem qlk_asks {r : GSrc} (turn : Claims.GroupTurn (.sysQlk r) s (.saddle k) s1) :
    exec (.sysQlk r) s = .next
      (let v := readG s1 (.saddle k) r
       if (decide (255 < v.toNat) || decide (s1.lockHolder v.toNat = some k)) = true then s1.groupFault (.saddle k) 0x02 v
       else (s1.asking v.toNat k).serveLock v.toNat) :=
  (groupInstr_of_turn turn _ : execSysQlk r s = _)

theorem qulk_frees {r : GSrc} (turn : Claims.GroupTurn (.sysQulk r) s (.saddle k) s1) :
    exec (.sysQulk r) s = .next
      (let v := readG s1 (.saddle k) r
       if (decide (255 < v.toNat) || decide (s1.lockHolder v.toNat ≠ some k)) = true then s1.groupFault (.saddle k) 0x02 v
       else (((s1.freeLock v.toNat).serveLock v.toNat).remap).advance (.saddle k) 1) :=
  (groupInstr_of_turn turn _ : execSysQulk r s = _)

theorem State.asking_ctx {n : Nat} (resumed : (s.ctx (.saddle k)).resumed = none) : (s.asking n k).ctx (.saddle k) =
    { s.ctx (.saddle k) with wait := some { kind := .lock n, since := s.tick, deadline := s.tick }, lastIssue := s.tick } :=
  State.startWait_ctx (s := s.asked n k) (saddle_other k) resumed _

theorem State.asking_rest {n : Nat} (resumed : (s.ctx (.saddle k)).resumed = none) :
    (s.asking n k).mem = s.mem ∧ (s.asking n k).dev = { s.dev with lockOrder := s.dev.lockOrder ++ [(n, k)] } :=
  State.startWait_rest (s := s.asked n k) (a := .saddle k) resumed _

/-- A lock that is free, and that nobody asked for, is the core's at once. -/
theorem State.asking_granted {n : Nat} (resumed : (s.ctx (.saddle k)).resumed = none) (free : s.lockHolder n = none)
    (unasked : ∀ e ∈ s.dev.lockOrder, e.1 ≠ n) :
    let t := (s.asking n k).serveLock n
    t.mem = s.mem ∧ Claims.Completes s t (.saddle k) 1 .none 0 ∧ afind n t.dev.locks = some k ∧ t.dev.lockOrder = s.dev.lockOrder := by
  intro t
  obtain ⟨mem, dev⟩ := State.asking_rest (n := n) resumed
  have holder : (s.asking n k).lockHolder n = none := (congrArg (fun d : Dev => afind n d.locks) dev).trans free
  have grant : t = _ := State.serveLock_granted holder (congrArg Dev.lockOrder dev) unasked
  refine ⟨?_, ?_, ?_, ?_⟩
  · rw [grant, State.endWait_mem]
    exact mem
  · rw [grant]
    exact State.endWait_completes (saddle_other k) (State.asking_ctx resumed)
  · rw [grant, State.endWait_dev]
    exact afind_aput_same ..
  · rw [grant, State.endWait_dev]

theorem State.asking_waits {n : Nat} (resumed : (s.ctx (.saddle k)).resumed = none) (held : s.lockHolder n ≠ none) :
    let t := (s.asking n k).serveLock n
    t.mem = s.mem ∧ Claims.Waits s t (.saddle k) (.lock n) s.tick ∧ t.dev.locks = s.dev.locks ∧
      t.dev.lockOrder = s.dev.lockOrder ++ [(n, k)] := by
  intro t
  obtain ⟨mem, dev⟩ := State.asking_rest (n := n) resumed
  have holder : (s.asking n k).lockHolder n ≠ none := fun free =>
    held ((congrArg (fun d : Dev => afind n d.locks) dev).symm.trans free)
  have same : t = s.asking n k := State.serveLock_held holder
  have ctx := State.asking_ctx (n := n) resumed
  refine ⟨?_, ⟨?_, ?_⟩, ?_, ?_⟩
  · rw [same, mem]
  · rw [same, ctx]
  · rw [same, ctx]
  · rw [same, dev]
  · rw [same, dev]

/-- A lock that nobody asks for is freed, and no queue is mapped anew. -/
theorem State.freed {n : Nat} (unasked : ∀ e ∈ s.dev.lockOrder, e.1 ≠ n) (room : s.dev.mapped.length < 1024) :
    ((s.freeLock n).serveLock n).remap = s.freeLock n := by
  rw [State.serveLock_unasked (s := s.freeLock n) unasked]
  exact if_pos room

/-! ## `sys.hbeat` and `sys.slot` -/

theorem hbeat_beats (turn : Claims.GroupTurn .sysHbeat s (.saddle k) s1) :
    exec .sysHbeat s = .next ((s1.heartbeat k).advance (.saddle k) 1) :=
  (groupInstr_of_turn turn _ : execSysHbeat s = _)

theorem State.heartbeat_mem (s : State) (k : Nat) : (s.heartbeat k).mem = s.mem := by
  by_cases first : FirstBeat s k
  · rw [State.heartbeat_first first]
  · rw [State.heartbeat_later first]

theorem State.heartbeat_tick (s : State) (k : Nat) : (s.heartbeat k).tick = s.tick := by
  by_cases first : FirstBeat s k
  · rw [State.heartbeat_first first]
  · rw [State.heartbeat_later first]

theorem State.heartbeat_dev (s : State) (k : Nat) [Decidable (k = 0 ∧ ∃ e ∈ s.saddles, e.2.st = .held)] : (s.heartbeat k).dev =
    { s.dev with
        fhb := n64 s.tick, watchdog := s.tick, tickBase := s.tick
        fslot := if s.dev.confirms s.tick then s.dev.fslot &&& 0xF7 else s.dev.fslot
        windowEnd := if s.dev.confirms s.tick then none else s.dev.windowEnd
        resuming := if k = 0 ∧ ∃ e ∈ s.saddles, e.2.st = .held then true else s.dev.resuming } := by
  have clears : ~~~(0x08 : BitVec 8) = 0xF7 := by decide
  by_cases first : FirstBeat s k
  · have held : k = 0 ∧ (s.saddles.any fun e => e.2.st = .held) = true := ⟨first.1, anyHeld_iff.mpr first.2⟩
    rw [if_pos (show k = 0 ∧ _ from first)]
    simp only [State.heartbeat, if_pos held, clears]
  · have none : ¬ (k = 0 ∧ (s.saddles.any fun e => e.2.st = .held) = true) := fun h => first ⟨h.1, anyHeld_iff.mp h.2⟩
    rw [if_neg (show ¬ (k = 0 ∧ _) from first)]
    simp only [State.heartbeat, if_neg none, clears]

/-- What `sys.hbeat` leaves of every Saddle core but its own. -/
theorem State.heartbeat_others (s : State) {j : Nat} (ne : j ≠ k) : ((s.heartbeat k).advance (.saddle k) 1).ctx (.saddle j) =
    let c := s.ctx (.saddle j)
    if k = 0 ∧ c.st = .held then { c with st := .live, lastIssue := s.tick, from_ := s.tick + 1 } else c := by
  refine (aget_aput_other _ _ _ ne).trans ((s.heartbeat_ctx k j).trans ?_)
  split
  · next h => exact (if_pos h.2).trans (if_pos h).symm
  · next h => exact (if_neg h).symm

/-- Its own context goes on, unless it was held. -/
theorem State.heartbeat_own (s : State) (live : (s.ctx (.saddle k)).st ≠ .held) :
    ((s.heartbeat k).advance (.saddle k) 1).ctx (.saddle k) = (s.advance (.saddle k) 1).ctx (.saddle k) := by
  refine State.advance_ctx_congr (saddle_other k) ((s.heartbeat_ctx k k).trans (if_neg fun h => live h.2)) (s.heartbeat_tick k) 1

theorem maySwitch_iff {d : Dev} {v : W64} : d.maySwitch v = true ↔
    v.toNat ≤ 1 ∧ decide (v.toNat = 1) ≠ d.fslot.getLsbD 0 ∧ d.fslot.getLsbD (1 + v.toNat) = false ∧ d.fslot.getLsbD 7 = true := by
  unfold Dev.maySwitch
  rw [Bool.and_eq_true, Bool.and_eq_true, Bool.and_eq_true, decide_eq_true_iff, decide_eq_true_iff, Bool.not_eq_true', and_assoc,
    and_assoc]
  refine and_congr_right fun small => ?_
  have low : v.getLsbD 0 = decide (v.toNat = 1) := by
    rw [BitVec.getLsbD, Nat.testBit_zero]
    congr 1
    exact propext (by omega)
  rw [low]

/-- The state of a core that asks for a switch. -/
def State.suspend (s : State) : State := { s with dev := { s.dev with suspended := true } }

theorem slot_waits {r : GSrc} (turn : Claims.GroupTurn (.sysSlot r) s (.saddle k) s1) :
    exec (.sysSlot r) s = .next
      (let v := readG s1 (.saddle k) r
       if (!s1.dev.maySwitch v) = true then s1.groupFault (.saddle k) 0x02 (firstWord (.sysSlot r))
       else s1.suspend.startWait (.saddle k) (.slot v.toNat) 0) :=
  (groupInstr_of_turn turn _ : execSysSlot r s = _)

end

/-- Settles O38, word by word. -/
theorem saddleWords : Obligations.SaddleWords := by
  unfold Obligations.SaddleWords
  intro i s s1 k turn ⟨idle, resumed, _⟩ a held free
  have other := saddle_other k
  have tick := groupTurn_tick turn
  refine ⟨?_, ?_, ?_, ?_, ?_⟩
  · rintro d rfl
    exact evqpop_pops turn idle
  · rintro r rfl v n
    have act := qlk_asks turn
    refine ⟨fun bad => act.trans (congrArg _ (if_pos ?_)), fun small lockFree unasked => ?_, fun small locked mine => ?_⟩
    · rw [Bool.or_eq_true, decide_eq_true_iff, decide_eq_true_iff]
      exact bad
    all_goals
      refine ⟨_, act.trans (congrArg _ (if_neg ?_)), ?_⟩
    · rw [Bool.or_eq_true, decide_eq_true_iff, decide_eq_true_iff]
      exact fun bad => bad.elim (Nat.not_lt.mpr small) fun mine => nomatch lockFree.symm.trans mine
    · exact State.asking_granted resumed lockFree unasked
    · rw [Bool.or_eq_true, decide_eq_true_iff, decide_eq_true_iff]
      exact fun bad => bad.elim (Nat.not_lt.mpr small) mine
    · rw [← tick]
      exact State.asking_waits resumed locked
  · rintro r rfl v n
    have act := qulk_frees turn
    refine ⟨fun bad => act.trans (congrArg _ (if_pos ?_)), fun small mine unasked room => ?_⟩
    · rw [Bool.or_eq_true, decide_eq_true_iff, decide_eq_true_iff]
      exact bad
    · have fine : ¬ (decide (255 < n) || decide (s1.lockHolder n ≠ some k)) = true := by
        rw [Bool.or_eq_true, decide_eq_true_iff, decide_eq_true_iff]
        exact fun bad => bad.elim (Nat.not_lt.mpr small) fun ne => ne mine
      have stand : ThreadsStand s1 (s1.freeLock n) := ⟨rfl, rfl, rfl, rfl⟩
      refine ⟨_, act.trans (congrArg _ (if_neg fine)), ?_⟩
      rw [State.freed unasked room]
      exact ⟨State.advance_mem .., stand.advance_completes other idle, State.advance_dev ..⟩
  · rintro rfl live d confirms
    refine ⟨_, hbeat_beats turn, ?_, s1.heartbeat_own live, ?_, fun j ne => ?_⟩
    · rw [State.advance_mem, State.heartbeat_mem]
    · rw [State.advance_dev, State.heartbeat_dev, tick]
      rfl
    · rw [← tick]
      exact s1.heartbeat_others ne
  · rintro r rfl v n may
    have act := slot_waits turn
    have permits : s1.dev.maySwitch v = true ↔ may := maySwitch_iff
    refine ⟨fun bad => act.trans (congrArg _ (if_pos ?_)), fun good => ⟨_, act.trans (congrArg _ (if_neg ?_)), ?_⟩⟩
    · exact Bool.not_eq_true' _ ▸ Bool.eq_false_iff.mpr (mt permits.mp bad)
    · rw [permits.mpr good]
      decide
    · obtain ⟨mem, dev⟩ := State.startWait_rest (s := s1.suspend) (a := .saddle k) resumed (.slot n)
      have waits := State.startWait_waits (s := s1.suspend) other resumed (.slot n)
      exact ⟨mem, ⟨waits.rest, tick ▸ waits.wait⟩, dev⟩

end Sys2Proof.Machine

namespace Sys2Proof.Machine

section
variable {s t u : State} {f : BitVec 8}

/-! ## FSLOT's bits (R79) -/

/-- FSLOT's bits, its mode read bit by bit. -/
theorem slotBits_of_bits {a b c d e z : Bool} {mode : BitVec 2} (h0 : f.getLsbD 0 = a) (h1 : f.getLsbD 1 = b) (h2 : f.getLsbD 2 = c)
    (h3 : f.getLsbD 3 = d) (h4 : f.getLsbD 4 = e) (h5 : f.getLsbD 5 = mode.getLsbD 0) (h6 : f.getLsbD 6 = mode.getLsbD 1)
    (h7 : f.getLsbD 7 = z) : Claims.SlotBits f a b c d e z mode := by
  refine ⟨h0, h1, h2, h3, h4, BitVec.eq_of_getLsbD_eq fun i lt => ?_, h7⟩
  rw [BitVec.getLsbD_extractLsb']
  obtain rfl | rfl : i = 0 ∨ i = 1 := by omega
  · simpa using h5
  · simpa using h6

theorem fslotAfter_bits (f : BitVec 8) (v : W64) : Claims.SlotBits (fslotAfter f v) (f.getLsbD 0) (f.getLsbD 1 && v.getLsbD 1)
    (f.getLsbD 2 && v.getLsbD 2) (f.getLsbD 3) (f.getLsbD 4 && !v.getLsbD 4) (f.getLsbD 7) (v.extractLsb' 5 2) := by
  apply slotBits_of_bits <;> simp [fslotAfter]

theorem switched_bits (f : BitVec 8) (n : Nat) :
    Claims.SlotBits ((f &&& ~~~0x81) ||| 0x08 ||| (if n = 1 then 1 else 0)) (decide (n = 1)) (f.getLsbD 1) (f.getLsbD 2) true
      (f.getLsbD 4) false (f.extractLsb' 5 2) := by
  by_cases one : n = 1
  all_goals
    simp only [one, if_true, if_false]
    apply slotBits_of_bits <;> simp

theorem rolledBack_bits (f : BitVec 8) (old : Bool) :
    Claims.SlotBits
      (((f ||| (if f.getLsbD 0 then 0x04 else 0x02) ||| 0x10) &&& ~~~0x89) ||| (if old then 1 else 0)) old
      (f.getLsbD 1 || !f.getLsbD 0) (f.getLsbD 2 || f.getLsbD 0) false true false (f.extractLsb' 5 2) := by
  cases old
  all_goals
    cases slot : f.getLsbD 0
    all_goals
      simp only [if_true, Bool.false_eq_true, if_false]
      apply slotBits_of_bits <;> simp

theorem verified_bit (f : BitVec 8) (ok : Bool) : (if ok then f ||| 0x80 else f &&& ~~~0x80).getLsbD 7 = ok := by
  cases ok <;> simp

theorem watched_iff (f : BitVec 8) : f &&& 0x68 ≠ 0 ↔ f.extractLsb' 5 2 ≠ 0 ∨ f.getLsbD 3 = true := by
  revert f
  decide

/-! ## The black box (R298) -/

theorem State.log_box (s : State) (kind io core asid qid : Nat) (detail : W64) : s.log kind io core asid qid detail =
    { s with dev := { s.dev with box := (s.log kind io core asid qid detail).dev.box } } := by
  by_cases frozen : s.dev.frozen = true
  · simp only [State.log, if_pos frozen]
  · simp only [State.log, if_neg frozen]

/-- What an entry leaves of the box, written from a state with the same clock and ring. -/
theorem logged_of {kind io core asid qid : Nat} {detail : W64} (h : u.dev.box = (t.log kind io core asid qid detail).dev.box)
    (tick : t.tick = s.tick) (box : t.dev.box = s.dev.box) (frozen : t.dev.frozen = s.dev.frozen) :
    Claims.Logged s u kind io core asid qid detail := by
  refine ⟨fun stops => ?_, fun runs room => ?_⟩
  · rw [h, State.log, if_pos (frozen.trans stops), box]
  · have all : s.dev.box.length + 1 - 4096 = 0 := by omega
    have writes : ¬ t.dev.frozen = true := by simp [frozen, runs]
    rw [h, State.log, if_neg writes]
    simp only [box, tick, all, List.drop_zero]

/-! ## The pool reset (R78, R320) -/

theorem aget_keyed {α : Type} {d : α} (f : Nat → α) {k : Nat} {l : List Nat} (mem : k ∈ l) :
    aget d k (l.map fun c => (c, f c)) = f k := by
  induction l with
  | nil => exact absurd mem List.not_mem_nil
  | cons c l ih =>
    simp only [List.map_cons, aget]
    split
    · next eq => rw [eq]
    · next ne => exact ih ((List.mem_cons.mp mem).resolve_left (Ne.symm ne))

theorem mem_saddleCores {k : Nat} : k ∈ saddleCores ↔ k < 12 := List.mem_range (n := 12)

/-- The pool after its reset, kept by what comes after it. -/
theorem poolReset_of {slotB : Bool} (slot : s.dev.fslot.getLsbD 0 = slotB) (tick : s.tick = t.tick)
    (saddles : u.saddles = s.resetPool.saddles) (suspended : u.dev.suspended = true) : Claims.PoolReset t u slotB := by
  refine ⟨fun k lt => ?_, suspended⟩
  have mem := mem_saddleCores.mpr lt
  rw [← slot, ← tick]
  exact (congrArg (aget (Ctx.boot .f) k) saddles).trans (aget_keyed _ mem)

end

section
variable {s t : State} {x : Gang}

/-! ## Mask writes (R128) -/

theorem aget_of_afind {α : Type} {d v : α} {k : Nat} {l : List (Nat × α)} (h : afind k l = some v) : aget d k l = v := by
  induction l with
  | nil => exact nomatch h
  | cons e l ih =>
    simp only [afind, aget] at h ⊢
    split at h
    · next eq => rw [if_pos eq, Option.some.inj h]
    · next ne => rw [if_neg ne, ih h]

theorem glive_of_parked {k : Fin 12} {u : Fin 32} (h : (x.lane u.val).st = .parkedMask k) : x.glive.getLsbD u.val = true := by
  rw [Gang.glive, maskOf_bit, h]

/-- The threads a mask write lets go are live again. -/
def freed (x : Gang) (k : Fin 12) (v : W64) (u : Fin 32) (l : Lane) : Lane :=
  if l.st = .parkedMask k && !(v.truncate 32 &&& x.glive).getLsbD u.val then { l with st := .live } else l

theorem writeMask_lanes (x : Gang) (k : Fin 12) (v : W64) :
    (x.writeMask k v).lanes = (x.mapLanes 0xFFFFFFFF (freed x k v)).lanes := rfl

theorem writeMask_lane_eq (x : Gang) (k : Fin 12) (v : W64) (u : Fin 32) :
    (x.writeMask k v).lane u.val = (x.mapLanes 0xFFFFFFFF (freed x k v)).lane u.val := by
  rw [Gang.lane, Gang.lane, writeMask_lanes]

theorem everyThread (u : Fin 32) : (0xFFFFFFFF : W32).getLsbD u.val = true := by
  have all : (0xFFFFFFFF : W32) = BitVec.allOnes 32 := rfl
  rw [all, BitVec.getLsbD_allOnes, decide_eq_true u.isLt]

theorem Gang.writeMask_lane (x : Gang) (k : Fin 12) (v : W64) (u : Fin 32) : (x.writeMask k v).lane u.val =
    if (x.lane u.val).st = .parkedMask k ∧ v.getLsbD u.val = false then { x.lane u.val with st := .live } else x.lane u.val := by
  have written := (writeMask_lane_eq x k v u).trans ((Gang.mapLanes_lane x 0xFFFFFFFF _ u).trans (if_pos (everyThread u)))
  rw [written]
  clear written
  unfold freed
  by_cases parked : (x.lane u.val).st = .parkedMask k
  · have bit : (v.truncate 32 &&& x.glive).getLsbD u.val = v.getLsbD u.val := by
      rw [BitVec.getLsbD_and, glive_of_parked parked, Bool.and_true]
      simp [u.isLt]
    simp only [parked, bit, decide_true, Bool.true_and, Bool.not_eq_true', true_and]
  · simp [parked]

theorem Gang.writeMask_same (x : Gang) (k : Fin 12) (v : W64) : (x.writeMask k v).m[k.val] = v.truncate 32 &&& x.glive := by
  simp [Gang.writeMask]

theorem Gang.writeMask_other (x : Gang) {j k : Fin 12} (v : W64) (ne : j ≠ k) : (x.writeMask k v).m[j.val] = x.m[j.val] := by
  have apart : k.val ≠ j.val := fun e => ne (Fin.ext e.symm)
  simp [Gang.writeMask, Vector.getElem_set_ne _ _ apart]

/-! ## The security engine (R302) -/

/-- A command written while the engine is idle. -/
def Sec.begun (e : Sec) (cmd due core : Nat) : Sec := { e with stat := e.stat ||| 1, cmd := cmd, until_ := due, core := core }

theorem State.secStart_busy {core cmd : Nat} (busy : s.dev.sec.stat.getLsbD 0 = true) : s.secStart core cmd = s := if_pos busy

theorem State.secStart_idle {core cmd : Nat} (idle : s.dev.sec.stat.getLsbD 0 = false) : s.secStart core cmd =
    { s with dev := { s.dev with sec := s.dev.sec.begun cmd (s.tick + secClocks s.dev cmd) core } } :=
  if_neg (Bool.eq_false_iff.mp idle)

/-- The instruction that stands for a command, and its clocks. -/
theorem secCommand_starts {i : Instr} {core cmd clocks : Nat}
    (h : (i, cmd, clocks) ∈ [(Instr.secDigest core, 1, ((s.dev.image (!s.dev.fslot.getLsbD 0)).body.length + 135) / 136 * 24),
      (.secVerify core, 2, 110000), (.secExtend core, 3, 48), (.secResetSponge core, 4, 0), (.secAbsorb core, 5, 0),
      (.secSqueeze core, 6, 0)]) : exec i s = .next (s.secStart core cmd) ∧ secClocks s.dev cmd = clocks := by
  simp only [List.mem_cons, List.not_mem_nil, or_false, Prod.mk.injEq] at h
  obtain ⟨rfl, rfl, rfl⟩ | ⟨rfl, rfl, rfl⟩ | ⟨rfl, rfl, rfl⟩ | ⟨rfl, rfl, rfl⟩ | ⟨rfl, rfl, rfl⟩ | ⟨rfl, rfl, rfl⟩ := h
  all_goals exact ⟨rfl, rfl⟩

theorem State.secDone_early (early : s.tick < s.dev.sec.until_) : s.secDone = s := by
  have waits : (!s.dev.sec.busy || decide (s.tick < s.dev.sec.until_)) = true := by simp [early]
  exact if_pos waits

theorem State.log_sec (s : State) (kind io core asid qid : Nat) (detail : W64) :
    (s.log kind io core asid qid detail).dev.sec = s.dev.sec := by rw [State.log_box]

theorem State.log_fslot (s : State) (kind io core asid qid : Nat) (detail : W64) :
    (s.log kind io core asid qid detail).dev.fslot = s.dev.fslot := by rw [State.log_box]

theorem State.spongeFor_mem (s : State) : s.spongeFor.1.mem = s.mem := by
  unfold State.spongeFor
  simp only
  split <;> rfl

theorem measure_written (m : Vector (List Byte) 16) (i : BitVec 4) (x : List Byte) : (m.setIfInBounds i.toNat x).getD i.toNat [] = x := by
  have lt : i.toNat < 16 := i.isLt
  simp [Vector.getD, lt]

/-- A sponge that has not squeezed goes on. -/
theorem State.spongeFor_absorbing (h : s.dev.sec.sponge.out = false) : s.spongeFor.2 = s.dev.sec.sponge :=
  congrArg Prod.snd (if_neg (Bool.eq_false_iff.mp h))

/-- The engine after a command: no longer busy. -/
def Sec.ended (e : Sec) : Sec := { e with stat := e.stat &&& ~~~1 }

def State.setSec (s : State) (e : Sec) : State := { s with dev := { s.dev with sec := e } }

theorem Sec.ended_idle (e : Sec) : e.ended.stat.getLsbD 0 = false := by simp [Sec.ended]

/-- What SECCMD 2 leaves. -/
def State.verifies (s : State) (ok : Bool) : State :=
  let u := s.setSec { s.dev.sec with stat := if ok then 2 else 4 }
  State.log { u with dev := { u.dev with fslot := if ok then s.dev.fslot ||| 0x80 else s.dev.fslot &&& ~~~0x80 } }
    0x0C s.dev.sec.core 0xFFFF 0 0 (n64 ((if s.dev.otherSlot then 1 else 0) + if ok then 2 else 0))

/-- A digest, which reads 0 until one is written. -/
def digestOr (bs : List Byte) : List Byte := if bs = [] then List.replicate 64 0 else bs

theorem digestOr_of_length {bs : List Byte} (h : bs.length = 64) : digestOr bs = bs :=
  if_neg (List.ne_nil_of_length_eq_add_one h)

/-- What SECCMD 3 leaves. -/
def State.extends (s : State) : State :=
  let i := s.dev.sec.fmeas.toNat
  let extended := shake256 (digestOr (s.dev.sec.measure.getD i []) ++ digestOr s.dev.sec.dig)
  (s.setSec { s.dev.sec.ended with measure := s.dev.sec.measure.setIfInBounds i extended }).log
    0x0D s.dev.sec.core 0xFFFF 0 0 (n64 i)

theorem State.secDone_due (busy : s.dev.sec.stat.getLsbD 0 = true) (due : s.dev.sec.until_ ≤ s.tick) : s.secDone =
    match s.dev.sec.cmd with
    | 1 => s.setSec { s.dev.sec.ended with dig := shake256 (s.dev.image s.dev.otherSlot).body }
    | 2 => s.verifies (Config.falcon s.dev.sec.dig (s.dev.image s.dev.otherSlot).trailer)
    | 3 => s.extends
    | 4 => s.setSec { s.dev.sec.ended with sponge := Sponge.zero }
    | 5 => s.spongeFor.1.setSec { s.dev.sec.ended with sponge := s.spongeFor.2.absorb s.dev.sec.data }
    | 6 => s.setSec { s.dev.sec.ended with sponge := s.dev.sec.sponge.squeeze.2, data := s.dev.sec.sponge.squeeze.1 }
    | _ => s.setSec s.dev.sec.ended := by
  have goes : ¬ (!s.dev.sec.busy || decide (s.tick < s.dev.sec.until_)) = true := by
    simp [Sec.busy, busy, due]
  exact if_neg goes

/-- A command's completion: what R302 lists for it. -/
theorem secDone_results (busy : s.dev.sec.stat.getLsbD 0 = true) (due : s.dev.sec.until_ ≤ s.tick) :
    let e := s.dev.sec
    let other := s.dev.image (!s.dev.fslot.getLsbD 0)
    let t := s.secDone
    t.mem = s.mem ∧ t.dev.sec.stat.getLsbD 0 = false ∧
      (e.cmd = 1 → t.dev.sec.dig = shake256 other.body) ∧
      (e.cmd = 2 → let ok := Config.falcon e.dig other.trailer
        t.dev.sec.stat = (if ok then 2 else 4) ∧ t.dev.fslot.getLsbD 7 = ok ∧
        Claims.Logged s t 0x0C e.core 0xFFFF 0 0 (n64 ((if s.dev.fslot.getLsbD 0 then 0 else 1) + if ok then 2 else 0))) ∧
      (e.cmd = 3 → (e.measure.getD e.fmeas.toNat []).length = 64 → e.dig.length = 64 →
        t.dev.sec.measure.getD e.fmeas.toNat [] = shake256 (e.measure.getD e.fmeas.toNat [] ++ e.dig) ∧
        Claims.Logged s t 0x0D e.core 0xFFFF 0 0 (n64 e.fmeas.toNat)) ∧
      (e.cmd = 4 → t.dev.sec.sponge = Sponge.zero) ∧
      (e.cmd = 5 → e.sponge.out = false → t.dev.sec.sponge = e.sponge.absorb e.data) ∧
      (e.cmd = 6 → t.dev.sec.data = e.sponge.squeeze.1 ∧ t.dev.sec.sponge = e.sponge.squeeze.2) := by
  intro e other t
  have done : t = _ := State.secDone_due busy due
  refine ⟨?_, ?_, fun cmd => ?_, fun cmd => ?_, fun cmd whole digest => ?_, fun cmd => ?_, fun cmd absorbs => ?_, fun cmd => ?_⟩
  · rw [done]
    split
    case h_2 => exact State.log_mem ..
    case h_3 => exact State.log_mem ..
    case h_5 => exact s.spongeFor_mem
    all_goals rfl
  · rw [done]
    split
    case h_2 =>
      rw [State.verifies, State.log_sec]
      simp only [State.setSec]
      split <;> rfl
    case h_3 =>
      rw [State.extends, State.log_sec]
      exact e.ended_idle
    all_goals exact e.ended_idle
  all_goals rw [show s.dev.sec.cmd = _ from cmd] at done
  · rw [done]
    rfl
  · intro ok
    replace done : t = s.verifies ok := done
    rw [done, State.verifies]
    refine ⟨?_, ?_, ?_⟩
    · rw [State.log_sec]
      rfl
    · rw [State.log_fslot]
      exact verified_bit s.dev.fslot ok
    · have slot : (if s.dev.otherSlot = true then 1 else 0) = if s.dev.fslot.getLsbD 0 = true then 0 else 1 := by
        unfold Dev.otherSlot
        cases s.dev.fslot.getLsbD 0 <;> rfl
      rw [slot]
      exact logged_of rfl rfl rfl rfl
  · replace done : t = s.extends := done
    rw [done, State.extends, digestOr_of_length whole, digestOr_of_length digest]
    refine ⟨?_, logged_of rfl rfl rfl rfl⟩
    rw [State.log_sec]
    exact measure_written _ _ _
  · rw [done]
    rfl
  · rw [done]
    exact congrArg (Sponge.absorb · s.dev.sec.data) (State.spongeFor_absorbing absorbs)
  · rw [done]
    exact ⟨rfl, rfl⟩

/-! ## The slot switch, the roll-back and the watchdog (R78, R320) -/

theorem findSome?_of_only {α β : Type} {f : α → Option β} {c : α} {b : β} {l : List α} (mem : c ∈ l) (found : f c = some b)
    (only : ∀ k ∈ l, k ≠ c → f k = none) : l.findSome? f = some b := by
  induction l with
  | nil => exact absurd mem List.not_mem_nil
  | cons x l ih =>
    by_cases eq : x = c
    · rw [List.findSome?_cons, eq, found]
    · rw [List.findSome?_cons, only x (List.mem_cons_self ..) eq]
      exact ih ((List.mem_cons.mp mem).resolve_left (Ne.symm eq)) fun k mem => only k (List.mem_cons_of_mem _ mem)

/-- One core asks for a switch and the others idle. -/
theorem State.slotReady_eq {c n : Nat} (lt : c < 12) (asks : (s.ctx (.saddle c)).wait.map Wait.kind = some (.slot n))
    (idle : ∀ k, k < 12 → k ≠ c → (s.ctx (.saddle k)).wait.map Wait.kind = some .idle) : s.slotReady = some (c, n) := by
  have all : saddleCores.all (fun k => decide (k = c) || decide ((s.ctx (.saddle k)).wait.map Wait.kind = some WaitKind.idle)) = true := by
    refine List.all_eq_true.mpr fun k mem => ?_
    rw [Bool.or_eq_true, decide_eq_true_iff, decide_eq_true_iff]
    exact or_iff_not_imp_left.mpr (idle k (mem_saddleCores.mp mem))
  refine findSome?_of_only (mem_saddleCores.mpr lt) ?_ fun k mem ne => ?_
  · simp only [asks]
    exact if_pos all
  · simp only [idle k (mem_saddleCores.mp mem) ne]

/-- A switch before its entry is written and the pool reset. -/
def State.switching (s : State) (n : Nat) : State :=
  let f := (s.dev.fslot &&& ~~~0x81) ||| 0x08 ||| (if n = 1 then 1 else 0)
  let u := s.locksToZero
  { u with dev := { u.dev with fslot := f, oldSlot := u.dev.fslot.getLsbD 0, windowEnd := some (u.tick + 11000000) } }

/-- What a slot switch leaves. -/
theorem State.switchSlot_resets (s : State) (c n : Nat) :
    let f := s.dev.fslot
    let t := s.switchSlot c n
    t.mem = s.mem ∧ Claims.PoolReset s t (decide (n = 1)) ∧
      Claims.SlotBits t.dev.fslot (decide (n = 1)) (f.getLsbD 1) (f.getLsbD 2) true (f.getLsbD 4) false (f.extractLsb' 5 2) ∧
      t.dev.windowEnd = some (s.tick + 11000000) ∧ t.dev.oldSlot = f.getLsbD 0 ∧ t.dev.events = s.dev.events ∧
      t.dev.mapped = s.dev.mapped ∧ t.dev.locks = s.dev.locks.map (fun l => (l.1, 0)) ∧
      Claims.Logged s t 0x02 c 0xFFFF 0 0 (n64 n) := by
  intro f t
  have switched : t = ((s.switching n).log 0x02 c 0xFFFF 0 0 (n64 n)).resetPool := rfl
  have bits : Claims.SlotBits (s.switching n).dev.fslot _ _ _ _ _ _ _ := switched_bits f n
  rw [switched, State.log_box]
  exact ⟨rfl, poolReset_of bits.running rfl rfl rfl, bits, rfl, rfl, rfl, rfl, rfl, logged_of (t := s.switching n) rfl rfl rfl rfl⟩

/-- The charges of a firmware fault: a breach of kind 7 for every running quotation. -/
def State.breached (s : State) (kind : Nat) : State :=
  (s.quotes.filter fun q => q.state = 4).foldl (fun s q => s.charge q.id 3 7 (n64 kind)) s

theorem Noted.breached (s : State) (kind : Nat) : Noted s (s.breached kind) := .foldl (fun s _ => .charge s _ _ _ _) _ s

theorem State.breached_none {kind : Nat} (none : ∀ q ∈ s.quotes, q.state ≠ 4) : s.breached kind = s := by
  have empty : s.quotes.filter (fun q => decide (q.state = 4)) = [] :=
    List.filter_eq_nil_iff.mpr fun q mem => by simpa using none q mem
  rw [State.breached, empty, List.foldl_nil]

theorem State.breached_one {kind : Nat} {q : Quote} (one : s.quotes.filter (fun q => decide (q.state = 4)) = [q]) :
    s.breached kind = s.charge q.id 3 7 (n64 kind) := by
  rw [State.breached, one, List.foldl_cons, List.foldl_nil]

theorem Noted.slot (h : Noted s t) : t.dev.fslot = s.dev.fslot ∧ t.tick = s.tick := by
  obtain ⟨_, _, _, _, _, _, rfl⟩ := h
  exact ⟨rfl, rfl⟩

theorem State.putQuote_dev (s : State) (q : Quote) : (s.putQuote q).dev = s.dev := by
  obtain ⟨_, _, _, written⟩ := Writes.writeVa (s.setQuote q) q.asid (q.record + 4) 2 q.status
  rw [State.putQuote, written]
  rfl

/-- A breach by the device leaves a record of kind 6 (R295). -/
theorem State.charge_records {qid kind : Nat} {val : W64} {q : Quote} (found : s.quote? qid = some q) :
    (s.charge qid 3 kind val).dev.records =
      s.dev.records ++ [{ Record.blank 6 0x17 with asid := q.asid, stval := val, info := n64 kind, qid := qid }] := by
  have breaches : ∀ u : State, (u.breach qid q.asid kind val).dev.records =
      u.dev.records ++ [{ Record.blank 6 0x17 with asid := q.asid, stval := val, info := n64 kind, qid := qid }] := fun u => by
    rw [State.breach, State.log_box]
    rfl
  simp only [State.charge, found, if_true, breaches]
  split
  · rw [State.putQuote_dev]
  · rfl

theorem State.firmwareFault_eq (s : State) (kind io : Nat) (detail : W64) : s.firmwareFault kind io detail =
    let u := (s.log kind io 0xFFFF 0 0 detail).breached kind
    if u.dev.fslot.getLsbD 3 then u.rollBack else u.resetPool := rfl

/-- A roll-back before its entry is written and the pool reset. -/
def State.rolling (s : State) : State :=
  let f := s.dev.fslot ||| (if s.dev.fslot.getLsbD 0 then 0x04 else 0x02) ||| 0x10
  State.locksToZero
    { s with dev := { s.dev with fslot := (f &&& ~~~0x89) ||| (if s.dev.oldSlot then 1 else 0), windowEnd := none } }

/-- What a roll-back leaves. -/
theorem State.rollBack_resets (s : State) :
    let f := s.dev.fslot
    let slotB := f.getLsbD 0
    let t := s.rollBack
    t.mem = s.mem ∧ Claims.PoolReset s t s.dev.oldSlot ∧
      Claims.SlotBits t.dev.fslot s.dev.oldSlot (f.getLsbD 1 || !slotB) (f.getLsbD 2 || slotB) false true false (f.extractLsb' 5 2) ∧
      t.dev.locks = s.dev.locks.map (fun l => (l.1, 0)) ∧
      Claims.Logged s t 0x03 0xFF 0xFFFF 0 0 (if slotB then 1 else 0) := by
  intro f slotB t
  have rolled : t = s.rolling.resetPool.log 0x03 0xFF 0xFFFF 0 0 (if slotB then 1 else 0) := rfl
  have bits : Claims.SlotBits s.rolling.dev.fslot _ _ _ _ _ _ _ := rolledBack_bits f s.dev.oldSlot
  rw [rolled, State.log_box]
  exact ⟨rfl, poolReset_of bits.running rfl rfl rfl, bits, rfl, logged_of (t := s.rolling.resetPool) rfl rfl rfl rfl⟩

/-- What a watchdog's expiry leaves while no switch awaits its heartbeat. -/
theorem State.firmwareFault_resets (s : State) (settled : s.dev.fslot.getLsbD 3 = false) (detail : W64) :
    let t := s.firmwareFault 4 0xFF detail
    t.dev.fslot = s.dev.fslot ∧ Claims.PoolReset s t (s.dev.fslot.getLsbD 0) ∧
      ((∀ q ∈ s.quotes, q.state ≠ 4) → t.mem = s.mem ∧ t.dev.records = s.dev.records ∧ Claims.Logged s t 0x04 0xFF 0xFFFF 0 0 detail) ∧
      ∀ q, s.quotes.filter (fun x => decide (x.state = 4)) = [q] → s.quotes.find? (fun x => x.id = q.id) = some q →
        ∃ r, t.dev.records = s.dev.records ++ [r] ∧ r.kind = 6 ∧ r.cause = 0x17 ∧ r.qid = q.id ∧ r.info = 7 := by
  intro t
  have fault : t = _ := s.firmwareFault_eq 4 0xFF detail
  have logged := s.log_box 4 0xFF 0xFFFF 0 0 detail
  obtain ⟨slot, tick⟩ := ((Noted.log s 4 0xFF 0xFFFF 0 0 detail).trans (Noted.breached _ 4)).slot
  have unset : ¬ ((s.log 4 0xFF 0xFFFF 0 0 detail).breached 4).dev.fslot.getLsbD 3 = true := by
    rw [slot, settled]
    exact Bool.false_ne_true
  simp only [if_neg unset] at fault
  rw [fault]
  refine ⟨slot, poolReset_of (congrArg (·.getLsbD 0) slot) tick rfl rfl, fun none => ?_, fun q one found => ?_⟩
  · have quiet : (s.log 4 0xFF 0xFFFF 0 0 detail).breached 4 = s.log 4 0xFF 0xFFFF 0 0 detail :=
      State.breached_none (by rwa [State.log_quotes])
    rw [quiet]
    refine ⟨State.log_mem .., ?_, logged_of (t := s) rfl rfl rfl rfl⟩
    rw [logged]
    rfl
  · have charged : (s.log 4 0xFF 0xFFFF 0 0 detail).breached 4 = (s.log 4 0xFF 0xFFFF 0 0 detail).charge q.id 3 7 (n64 4) :=
      State.breached_one (by rwa [State.log_quotes])
    rw [charged]
    have known : (s.log 4 0xFF 0xFFFF 0 0 detail).quote? q.id = some q := (congrArg _ (State.log_quotes ..)).trans found
    have records := State.charge_records (kind := 7) (val := n64 4) known
    have before : (s.log 4 0xFF 0xFFFF 0 0 detail).dev.records = s.dev.records := by rw [logged]
    exact ⟨_, before ▸ records, rfl, rfl, rfl, rfl⟩

end

/-- The bits that SFQB holds (R283). -/
theorem sfqb_bit (v : W64) (j : Nat) : (v &&& ones 6 46).getLsbD j = (v.getLsbD j && decide (6 ≤ j) && decide (j ≤ 51)) := by
  have field : (ones 6 46).getLsbD j = (decide (6 ≤ j) && decide (j ≤ 51)) := by
    have value : ones 6 46 = BitVec.setWidth 64 (BitVec.allOnes 46) <<< 6 := by decide
    rw [value]
    rw [BitVec.getLsbD_shiftLeft, BitVec.getLsbD_setWidth, BitVec.getLsbD_allOnes, Bool.eq_iff_iff]
    simp only [Bool.and_eq_true, Bool.not_eq_true', decide_eq_true_eq, decide_eq_false_iff_not]
    omega
  rw [BitVec.getLsbD_and, field, Bool.and_assoc]

/-- Settles O46, part by part. -/
theorem firmwareRuns : Obligations.FirmwareRuns := by
  unfold Obligations.FirmwareRuns
  refine ⟨?_, ?_, ?_, ?_, ?_, ?_, ?_⟩
  · intro s g k v x found
    have gang : s.gang g = x := aget_of_afind found
    have act : exec (.maskWrite g k v) s = .next (s.writeMask g k v) := if_pos (by rw [found]; rfl)
    have after : (s.writeMask g k v).gang g = x.writeMask k v := by rw [State.writeMask, State.gang_setGang, gang]
    refine ⟨_, act, rfl, fun h ne => State.gang_setGang_other _ _ ne, ?_, fun j ne => ?_, fun u => ?_⟩
    · rw [after]
      exact x.writeMask_same k v
    · rw [after]
      exact x.writeMask_other v ne
    · unfold Claims.laneOf
      rw [after, gang]
      exact x.writeMask_lane k v u
  · intro s v
    exact ⟨⟨_, rfl, rfl, fslotAfter_bits s.dev.fslot v⟩, ⟨_, rfl, rfl⟩, _, rfl, rfl, sfqb_bit v⟩
  · intro s core i cmd clocks other mem e
    obtain ⟨act, time⟩ := secCommand_starts mem
    refine ⟨fun busy => ?_, fun idle => ?_⟩
    · rw [act, State.secStart_busy busy]
    · rw [act, State.secStart_idle idle, time]
      rfl
  · intro s e other busy
    refine ⟨fun early => congrArg _ (State.secDone_early early), fun due => ⟨_, rfl, secDone_results busy due⟩⟩
  · intro s c n small _ asks idle f
    have act : exec .slotSwitch s = .next (s.switchSlot c n) := by
      have ready := State.slotReady_eq small asks idle
      show execSlotSwitch s = _
      rw [execSlotSwitch, ready]
    exact ⟨_, act, s.switchSlot_resets c n⟩
  · intro s f slotB
    refine ⟨fun w window early => ?_, fun w window due pending => ?_⟩
    all_goals
      have act : exec .rollBack s = if decide (w ≤ s.tick) && s.dev.fslot.getLsbD 3 then .next s.rollBack else .next s := by
        show execRollBack s = _
        rw [execRollBack, window]
    · refine act.trans (if_neg fun h => ?_)
      obtain ⟨due, pending⟩ := Bool.and_eq_true_iff.mp h
      exact early.elim (Nat.not_lt.mpr (of_decide_eq_true due)) fun unset => Bool.false_ne_true (unset.symm.trans pending)
    · refine ⟨_, act.trans (if_pos ?_), s.rollBack_resets⟩
      rw [Bool.and_eq_true, decide_eq_true_iff]
      exact ⟨due, pending⟩
  · intro s f
    refine ⟨fun quiet => if_pos ?_, fun armed normal settled due => ⟨_, if_neg ?_, State.firmwareFault_resets s settled _⟩⟩
    all_goals
      rw [Bool.or_eq_true, Bool.or_eq_true, decide_eq_true_iff, decide_eq_true_iff, decide_eq_true_iff, watched_iff]
    · obtain off | service | pending | running := quiet
      · exact .inl (.inl off)
      · exact .inl (.inr (.inl service))
      · exact .inl (.inr (.inr pending))
      · exact .inr running
    · rintro ((off | service | pending) | running)
      · exact armed off
      · exact service normal
      · exact Bool.false_ne_true (settled.symm.trans pending)
      · exact Nat.not_lt.mpr due running

end Sys2Proof.Machine

namespace Sys2Proof.Machine

section
variable {s t : State} {m m' : List Host.Cell}

/-! ## Memory read back (R12) -/

theorem readBytes_congr {k n : Nat} (h : ∀ i, i < n → readByte m' (k + i) = readByte m (k + i)) : readBytes m' k n = readBytes m k n := by
  induction n generalizing k with
  | zero => rfl
  | succ n ih =>
    have first : readByte m' k = readByte m k := h 0 (Nat.succ_pos n)
    simp only [readBytes]
    rw [first, ih fun i lt => by simpa [Nat.add_assoc, Nat.add_comm 1 i] using h (i + 1) (Nat.succ_lt_succ lt)]

theorem readLE_congr {k n : Nat} (h : ∀ i, i < n → readByte m' (k + i) = readByte m (k + i)) : readLE m' k n = readLE m k n :=
  congrArg leNat (readBytes_congr h)

theorem readBytes_eq_map (m : List Host.Cell) (k n : Nat) : readBytes m k n = (List.range n).map fun i => readByte m (k + i) := by
  induction n generalizing k with
  | zero => rfl
  | succ n ih =>
    rw [readBytes, ih, List.range_succ_eq_map, List.map_cons, List.map_map]
    simp only [Nat.add_zero, Function.comp_def, Nat.add_assoc, Nat.add_comm 1, Nat.succ_eq_add_one]

/-- A field of a list of bytes that has been written. -/
theorem readLE_writeBytes_field (h : Memory.wf m = true) (k : Nat) (a b : List Byte) (n v : Nat) :
    readLE (writeBytes m k (a ++ leBytes n v ++ b)) (k + a.length) n = v % 2 ^ (8 * n) := by
  have field : readBytes (writeBytes m k (a ++ leBytes n v ++ b)) (k + a.length) n = leBytes n v := by
    refine List.ext_getElem (by rw [readBytes_length, leBytes_length]) fun i lt _ => ?_
    have small : i < n := by rwa [readBytes_length] at lt
    simp only [readBytes_eq_map, List.getElem_map, List.getElem_range, Nat.add_assoc]
    rw [readByte_writeBytes_same _ k (a.length + i) h (by simp [leBytes_length]; omega)]
    rw [List.getElem_append_left (by simp [leBytes_length]; omega), List.getElem_append_right (by omega)]
    simp
  rw [readLE, field, leNat_leBytes]

theorem readByte_filter (keep : Nat → Bool) (m : List Host.Cell) (k : Nat) :
    readByte (m.filter fun e => keep e.1) k = if keep k then readByte m k else 0 := by
  induction m with
  | nil => cases keep k <;> rfl
  | cons e m ih =>
    unfold readByte at ih ⊢
    by_cases here : e.1 = k
    · subst here
      cases kept : keep e.1 with
      | true => simp [kept, aget]
      | false =>
        rw [kept] at ih
        simpa [kept] using ih
    · cases kept : keep e.1 with
      | true => simpa [kept, aget, here] using ih
      | false => simpa [kept, aget, here] using ih

/-! ## A stage of the boot (R303) -/

theorem State.stage_rest (s : State) (n : Nat) :
    s.stage n = { s with dev := { s.dev with booted := n, box := (s.stage n).dev.box } } := State.log_box _ _ _ _ _ _ _

theorem State.stage_frozen {n : Nat} (h : s.dev.frozen = true) : s.stage n = { s with dev := { s.dev with booted := n } } := if_pos h

theorem State.stage_logged (s : State) (n : Nat) : Claims.Logged s (s.stage n) 1 0xFF 0xFFFF 0 0 (n64 n) :=
  logged_of (t := { s with dev := { s.dev with booted := n } }) rfl rfl rfl rfl

theorem startMode (f : BitVec 8) : (f &&& 0x9F ||| 0x20).extractLsb' 5 2 = 1 := by
  revert f
  decide

/-- The machine at power-on, before the first stage. -/
def State.powered (s : State) : State :=
  { s.afterReset with dev := { s.afterReset.dev with box := [], frozen := false, owed := [] } }

theorem powerOn_begins (s : State) :
    ∃ t, exec .powerOn s = .next t ∧ t = { State.reset with dev := t.dev, agenda := s.agenda, moves := s.moves, free := s.free } ∧
      t.dev.booted = 1 ∧ t.dev.frozen = false ∧ t.dev.fslot.extractLsb' 5 2 = 1 ∧
      t.dev.box = [{ tick := 0, kind := 1, io := 0xFF, core := 0xFFFF, asid := 0, qid := 0, detail := 1 }] := by
  have empty : s.powered.dev.box.length < 4096 := Nat.zero_lt_succ 4095
  have box := (s.powered.stage_logged 1).2 rfl empty
  refine ⟨s.powered.stage 1, rfl, ?_⟩
  rw [State.stage_rest]
  generalize (s.powered.stage 1).dev.box = b at box ⊢
  exact ⟨rfl, rfl, rfl, startMode s.dev.fslot, box⟩

theorem State.resetMain_eq (s : State) (cause : Nat) :
    let u := s.log 0x0B 0xFF 0xFFFF 0 0 (n64 cause)
    s.resetMain cause = { u.afterReset with dev := { u.afterReset.dev with frozen := true, booted := 1 } } := State.stage_frozen rfl

theorem mainSideReset_begins (s : State) (cause : Fin 3) :
    ∃ t, exec (.mainSideReset cause) s = .next t ∧
      t = { State.reset with dev := t.dev, agenda := s.agenda, moves := s.moves, free := s.free } ∧
      t.dev =
        { Dev.reset with
            cores := s.dev.cores, channels := s.dev.channels, channelMask := s.dev.channelMask, memBytes := s.dev.memBytes
            envelope := s.dev.envelope, imageA := s.dev.imageA, imageB := s.dev.imageB, fslot := t.dev.fslot
            oldSlot := s.dev.oldSlot, windowEnd := t.dev.windowEnd, box := t.dev.box, frozen := true
            hot := s.dev.hot, sideband := s.dev.sideband, owed := s.dev.owed, answers := s.dev.answers
            notices := s.dev.notices, booted := 1 } ∧
      t.dev.fslot.extractLsb' 5 2 = 1 ∧ Claims.Logged s t 0x0B 0xFF 0xFFFF 0 0 (n64 cause.val) := by
  refine ⟨s.resetMain cause.val, rfl, ?_⟩
  rw [State.resetMain_eq, State.log_box]
  exact ⟨rfl, rfl, startMode s.dev.fslot, logged_of (t := s) rfl rfl rfl rfl⟩

end
end Sys2Proof.Machine

namespace Sys2Proof.Machine

section
variable {s : State} {pairs : BitVec 12} {clusters : BitVec 48}

/-- What the end of boot stage `n` does. -/
def State.bootAt (s : State) (pairs : BitVec 12) (clusters : BitVec 48) : Nat → Out
  | 0 => .next (s.stage 1)
  | 1 => .next (s.stage 2)
  | 2 => .next s.bootVerify
  | 3 => .next (s.bootTrain pairs)
  | 4 => .next (s.bootMesh clusters)
  | 5 => .next s.bootTables
  | 6 => .next s.bootLoad.bootStart
  | _ => .next s

theorem boot_step {n : Nat} (at_ : s.dev.booted = n) : exec (.bootStageReached pairs clusters) s = s.bootAt pairs clusters n :=
  at_ ▸ (rfl : exec (.bootStageReached pairs clusters) s = s.bootAt pairs clusters s.dev.booted)

theorem State.stage_mem (s : State) (n : Nat) : (s.stage n).mem = s.mem := by rw [State.stage_rest]

theorem State.stage_booted (s : State) (n : Nat) : (s.stage n).dev.booted = n := by rw [State.stage_rest]

theorem boot_done (h : 7 ≤ s.dev.booted) : exec (.bootStageReached pairs clusters) s = .next s := by
  obtain ⟨k, hk⟩ := Nat.exists_eq_add_of_le' h
  exact boot_step hk

theorem boot_begins (h : s.dev.booted ∈ [0, 1]) :
    exec (.bootStageReached pairs clusters) s = .next (s.stage (s.dev.booted + 1)) := by
  simp only [List.mem_cons, List.not_mem_nil, or_false] at h
  obtain h | h := h
  all_goals
    rw [h]
    exact boot_step h

/-! ## The running slot verified (R303) -/

/-- The entry of the verification. -/
def State.verified (s : State) (ok : Bool) : State :=
  s.log 0x0C 0 0xFFFF 0 0 (n64 ((if s.dev.fslot.getLsbD 0 then 1 else 0) + if ok then 2 else 0))

theorem State.bootVerify_dark (h : s.dev.dark = true) : s.bootVerify = s := if_pos h

/-- Whether the running slot's signature verifies. -/
def State.imageOk (s : State) : Bool :=
  let x := s.dev.image (s.dev.fslot.getLsbD 0)
  Config.falcon (shake256 x.body) x.trailer

/-- The running slot marked failed, and the other tried at the first failure. -/
def State.tryOther (s u : State) : State :=
  let f := s.dev.fslot ||| (if s.dev.fslot.getLsbD 0 then 0x04 else 0x02)
  { u with dev := { u.dev with fslot := if s.dev.bootFails = 0 then f ^^^ 1 else f, bootFails := s.dev.bootFails + 1 } }

theorem State.bootVerify_lit (h : s.dev.dark = false) : s.bootVerify =
    if s.imageOk then (s.verified s.imageOk).stage 3 else s.tryOther (s.verified s.imageOk) :=
  if_neg (Bool.eq_false_iff.mp h)

theorem State.bootVerify_passed (h : s.dev.dark = false) (ok : s.imageOk = true) : s.bootVerify = (s.verified true).stage 3 := by
  rw [State.bootVerify_lit h, ok, if_pos rfl]

theorem State.bootVerify_failed (h : s.dev.dark = false) (ok : s.imageOk = false) : s.bootVerify = s.tryOther (s.verified false) := by
  rw [State.bootVerify_lit h, ok, if_neg Bool.false_ne_true]

theorem failed_bits : ∀ (f : BitVec 8) (first : Bool),
    let g := f ||| (if f.getLsbD 0 then 0x04 else 0x02)
    let h := if first then g ^^^ 1 else g
    h.getLsbD 1 = (f.getLsbD 1 || !f.getLsbD 0) ∧ h.getLsbD 2 = (f.getLsbD 2 || f.getLsbD 0) ∧
      (h.getLsbD 0 ≠ f.getLsbD 0 ↔ first = true) := by
  decide

/-- An entry appended to a ring that runs and has room. -/
theorem State.log_appends {kind io core asid qid : Nat} {detail : W64} (runs : s.dev.frozen = false) (room : s.dev.box.length < 4096) :
    (s.log kind io core asid qid detail).dev.box = s.dev.box ++
      [{ tick := s.tick, kind := kind, io := io, core := core, asid := asid, qid := qid, detail := detail }] :=
  (logged_of (t := s) rfl rfl rfl rfl).2 runs room

/-! ## Channels and cores mapped out (R297) -/

/-- A bit of a mask gathered over a list. -/
theorem foldl_or_bit {w : Nat} {p : Nat → Bool} {f : Nat → BitVec w} (l : List Nat) (m : BitVec w) (j : Nat) :
    (l.foldl (fun m k => if p k then m ||| f k else m) m).getLsbD j = (m.getLsbD j || l.any fun k => p k && (f k).getLsbD j) := by
  induction l generalizing m with
  | nil => simp
  | cons k l ih =>
    rw [List.foldl_cons, ih, List.any_cons, ← Bool.or_assoc]
    congr 1
    cases p k <;> simp

/-- The bits of a pair of channels (R297). -/
theorem pair_bit {j k : Nat} (lt : k < 24) : (BitVec.ofNat 24 (3 * 4 ^ j)).getLsbD k = decide (k / 2 = j) := by
  have four : 4 ^ j = 2 ^ (2 * j) := by rw [Nat.pow_mul]
  have three : Nat.testBit 3 (k - 2 * j) = decide (k - 2 * j < 2) := Nat.testBit_two_pow_sub_one 2 _
  rw [BitVec.getLsbD_ofNat, decide_eq_true lt, Bool.true_and, four, Nat.testBit_mul_two_pow, three, ← Bool.decide_and]
  exact decide_eq_decide.mpr (by omega)

/-- One number of a list alone meets a test. -/
theorem any_range_eq {n k : Nat} (p : Nat → Bool) (lt : k < n) : ((List.range n).any fun j => p j && decide (k = j)) = p k := by
  rw [Bool.eq_iff_iff, List.any_eq_true]
  constructor
  · rintro ⟨j, _, both⟩
    obtain ⟨holds, same⟩ := Bool.and_eq_true_iff.mp both
    exact of_decide_eq_true same ▸ holds
  · exact fun holds => ⟨k, List.mem_range.mpr lt, by simp [holds]⟩

theorem lostMask_bit {k : Nat} (lt : k < 24) : (lostMask pairs).getLsbD k = pairs.getLsbD (k / 2) := by
  rw [lostMask, foldl_or_bit]
  simp only [pair_bit lt, any_range_eq _ (show k / 2 < 12 by omega)]
  simp

theorem lostCores_bit {c : Nat} (lt : c < 192) : (lostCores clusters).getLsbD c = clusters.getLsbD (clusterOf c) := by
  have one : ∀ j, (BitVec.ofNat 192 (2 ^ j)).getLsbD c = decide (c = j) := fun j => by
    rw [BitVec.getLsbD_ofNat, decide_eq_true lt, Bool.true_and, Nat.testBit_two_pow]
    exact decide_eq_decide.mpr eq_comm
  rw [lostCores, foldl_or_bit]
  simp only [one, any_range_eq (fun j => clusters.getLsbD (clusterOf j)) lt]
  simp

/-! ## The tables of stage 5 (R296, R303) -/

/-- The bytes that stage 5 clears before it writes the information block. -/
def cleared (qdir k : Nat) : Bool :=
  decide (2 ^ 60 ≤ k) && decide (grantBase ≤ (k - 2 ^ 60) % 2 ^ 24) ||
    (decide (qdir ≤ k) && decide (k < qdir + 4096 * 64)) || decide (k < 4096)

theorem State.bootTables_mem (s : State) : s.bootTables.mem =
    writeBytes (s.mem.filter fun e => !cleared s.dev.qdir e.1) 0 s.dev.info := by
  simp only [State.bootTables, State.stage_mem, State.pokeBytes, cleared]

theorem info_length (d : Dev) : d.info.length = 64 := by simp [Dev.info, leBytes_length]

/-- A byte beyond the information block after stage 5. -/
theorem State.bootTables_byte (s : State) {k : Nat} (beyond : 64 ≤ k) :
    readByte s.bootTables.mem k = if cleared s.dev.qdir k then 0 else readByte s.mem k := by
  rw [State.bootTables_mem, readByte_writeBytes_other _ _ _ (by rw [info_length]; omega)]
  refine (readByte_filter (fun k => !cleared s.dev.qdir k) s.mem k).trans ?_
  cases cleared s.dev.qdir k <;> rfl

/-- The widths and values of the information block (R296). -/
def Dev.fields (d : Dev) : List (Nat × Nat) :=
  [(4, 0x49445753), (2, 1), (2, ((List.range 192).filter fun c => d.cores.getLsbD c).length), (24, d.cores.toNat),
    (4, d.channelMask.toNat), (2, d.channels), (2, d.envelope), (8, d.qdir), (8, d.memBytes), (8, 0)]

theorem Dev.info_eq (d : Dev) : d.info = d.fields.flatMap fun e => leBytes e.1 e.2 := by
  simp only [Dev.info, Dev.fields, List.flatMap_cons, List.flatMap_nil, List.append_assoc, List.append_nil]

theorem fields_length (l : List (Nat × Nat)) : (l.flatMap fun e => leBytes e.1 e.2).length = (l.map Prod.fst).sum := by
  induction l with
  | nil => rfl
  | cons e l ih => rw [List.flatMap_cons, List.length_append, ih, leBytes_length, List.map_cons, List.sum_cons]

/-- A field of the information block as stage 5 leaves it. -/
theorem info_field (wf : Memory.wf s.mem = true) (pre post : List (Nat × Nat)) {n v : Nat}
    (at_ : s.dev.fields = pre ++ (n, v) :: post) : readLE s.bootTables.mem (pre.map Prod.fst).sum n = v % 2 ^ (8 * n) := by
  have block : s.dev.info = pre.flatMap (fun e => leBytes e.1 e.2) ++ leBytes n v ++ post.flatMap fun e => leBytes e.1 e.2 := by
    rw [Dev.info_eq, at_, List.flatMap_append, List.flatMap_cons, List.append_assoc]
  rw [State.bootTables_mem, block, ← fields_length pre]
  exact Nat.zero_add (pre.flatMap fun e => leBytes e.1 e.2).length ▸ readLE_writeBytes_field (wf_filter _ wf) 0 _ _ n v

theorem cleared_directory {qdir k : Nat} (from_ : qdir ≤ k) (below : k < qdir + 262144) : cleared qdir k = true := by
  have size : 4096 * 64 = 262144 := rfl
  simp only [cleared, size, Bool.or_eq_true, Bool.and_eq_true, decide_eq_true_eq]
  exact .inl (.inr ⟨from_, below⟩)

theorem sliceKey_offset (c : Nat) {o : Nat} (lt : o < 2 ^ 24) : (sliceKey c o - 2 ^ 60) % 2 ^ 24 = o := by
  unfold sliceKey
  omega

theorem cleared_reserved {qdir c o : Nat} (from_ : 0xFF0000 ≤ o) (lt : o < 2 ^ 24) : cleared qdir (sliceKey c o) = true := by
  have above : 2 ^ 60 ≤ sliceKey c o := by
    unfold sliceKey
    omega
  simp only [cleared, sliceKey_offset c lt, Bool.or_eq_true, Bool.and_eq_true, decide_eq_true_eq]
  exact .inl (.inl ⟨above, from_⟩)

theorem cleared_slice {qdir c o : Nat} (below : o < 0xFF0000) (device : qdir + 262144 ≤ 2 ^ 60) : cleared qdir (sliceKey c o) = false := by
  have above : 2 ^ 60 ≤ sliceKey c o := by
    unfold sliceKey
    omega
  have free : ¬ grantBase ≤ o := Nat.not_le.mpr below
  have size : 4096 * 64 = 262144 := rfl
  simp only [cleared, sliceKey_offset c (show o < 2 ^ 24 by omega), free, size, decide_false, Bool.and_false, Bool.false_or,
    Bool.or_eq_false_iff, Bool.and_eq_false_iff, decide_eq_false_iff_not]
  omega

/-- What stage 5 leaves in memory. -/
theorem bootTables_leaves (wf : Memory.wf s.mem = true) (apart : 4096 ≤ s.dev.qdir) :
    let d := s.dev
    let t := s.bootTables
    readLE t.mem 0 4 = 0x49445753 ∧ readLE t.mem 4 2 = 1 ∧
      readLE t.mem 6 2 = ((List.range 192).filter fun c => d.cores.getLsbD c).length ∧
      readLE t.mem 8 24 = d.cores.toNat ∧ readLE t.mem 32 4 = d.channelMask.toNat ∧
      readLE t.mem 36 2 = d.channels % 2 ^ 16 ∧ readLE t.mem 38 2 = d.envelope % 2 ^ 16 ∧
      readLE t.mem 40 8 = d.qdir % 2 ^ 64 ∧ readLE t.mem 48 8 = d.memBytes % 2 ^ 64 ∧
      (∀ a, d.qdir ≤ a → a < d.qdir + 262144 → readByte t.mem a = 0) ∧
      (∀ c o, 0xFF0000 ≤ o → o < 2 ^ 24 → readByte t.mem (sliceKey c o) = 0) ∧
      ∀ c o, o < 0xFF0000 → d.qdir + 262144 ≤ 2 ^ 60 → readByte t.mem (sliceKey c o) = readByte s.mem (sliceKey c o) := by
  intro d t
  have count : ((List.range 192).filter fun c => d.cores.getLsbD c).length < 2 ^ 16 :=
    Nat.lt_of_le_of_lt (List.length_filter_le _ _) (by rw [List.length_range]; decide)
  have field := fun i n v => info_field (n := n) (v := v) wf (d.fields.take i) (d.fields.drop (i + 1))
  have slice : ∀ c o, 64 ≤ sliceKey c o := fun c o => by
    unfold sliceKey
    omega
  refine ⟨field 0 _ _ rfl, field 1 _ _ rfl, (field 2 _ _ rfl).trans (Nat.mod_eq_of_lt count), (field 3 _ _ rfl).trans (Nat.mod_eq_of_lt d.cores.isLt),
    (field 4 _ _ rfl).trans (Nat.mod_eq_of_lt (Nat.lt_of_lt_of_le d.channelMask.isLt (by decide))), field 5 _ _ rfl, field 6 _ _ rfl, field 7 _ _ rfl,
    field 8 _ _ rfl, fun a from_ below => ?_, fun c o from_ lt => ?_, fun c o below device => ?_⟩
  · have low : 4096 ≤ d.qdir := apart
    rw [s.bootTables_byte (by omega), if_pos (cleared_directory from_ below)]
  · rw [s.bootTables_byte (slice c o), if_pos (cleared_reserved from_ lt)]
  · rw [s.bootTables_byte (slice c o), cleared_slice below device, if_neg Bool.false_ne_true]

/-! ## Stage 7 (R303, R304) -/

theorem Writes.bootLoad (s : State) : Writes s s.bootLoad := by
  have all : ∀ (l : List (Nat × List Byte)) (s : State), Writes s (l.foldl (fun s e => s.pokeDev e.1 e.2) s) := by
    intro l
    induction l with
    | nil => exact .refl
    | cons e l ih => exact fun s => (Writes.pokeDev s e.1 e.2).trans (ih _)
  exact all _ s

/-- Stage 7 before the breaches that are owed. -/
def State.started (s : State) : State :=
  let u := s.stage 7
  let u : State := { u with dev := { u.dev with ftvb := Config.romVector } }
  let u := State.resetPool { u with steppes := (List.range 32).map fun n =>
    (n, { Ctx.empty .s .live with pc := Config.steppeEntry, lastIssue := u.tick }) }
  { u with dev := { u.dev with owed := [] } }

theorem State.bootStart_eq (s : State) :
    s.bootStart = s.dev.owed.foldl (fun s e => s.breach e.1 e.2.1 6 (n64 e.2.2)) s.started := by
  have owed : (s.stage 7).dev.owed = s.dev.owed := by rw [State.stage_rest]
  rw [← owed]
  rfl

theorem State.breach_records (s : State) (qid asid kind : Nat) (val : W64) : (s.breach qid asid kind val).dev.records =
    s.dev.records ++ [{ Record.blank 6 0x17 with asid := asid, stval := val, info := n64 kind, qid := qid }] := by
  rw [State.breach, State.log_box]
  rfl

theorem State.breach_rest (s : State) (qid asid kind : Nat) (val : W64) :
    ∃ records box, s.breach qid asid kind val = { s with dev := { s.dev with records := records, box := box } } := by
  rw [State.breach, State.log_box]
  exact ⟨_, _, rfl⟩

/-- The breaches that the management controller posts: fault records and entries alone. -/
theorem breaches_rest (l : List (Nat × Nat × Nat)) (s : State) :
    ∃ records box, l.foldl (fun s e => s.breach e.1 e.2.1 6 (n64 e.2.2)) s =
      { s with dev := { s.dev with records := records, box := box } } := by
  induction l generalizing s with
  | nil => exact ⟨_, _, rfl⟩
  | cons e l ih =>
    obtain ⟨_, _, first⟩ := s.breach_rest e.1 e.2.1 6 (n64 e.2.2)
    obtain ⟨records, box, rest⟩ := ih (s.breach e.1 e.2.1 6 (n64 e.2.2))
    refine ⟨records, box, rest.trans ?_⟩
    rw [first]

/-- Every breach that is owed leaves its record. -/
theorem breaches_posted (l : List (Nat × Nat × Nat)) (s : State) :
    let t := l.foldl (fun s e => s.breach e.1 e.2.1 6 (n64 e.2.2)) s
    (∀ r ∈ s.dev.records, r ∈ t.dev.records) ∧
      ∀ e ∈ l, { Record.blank 6 0x17 with asid := e.2.1, stval := n64 e.2.2, info := n64 6, qid := e.1 } ∈ t.dev.records := by
  induction l generalizing s with
  | nil => exact ⟨fun r mem => mem, fun e mem => absurd mem List.not_mem_nil⟩
  | cons e l ih =>
    obtain ⟨kept, posted⟩ := ih (s.breach e.1 e.2.1 6 (n64 e.2.2))
    have records := s.breach_records e.1 e.2.1 6 (n64 e.2.2)
    refine ⟨fun r mem => kept r ?_, fun x mem => ?_⟩
    · rw [records]
      exact List.mem_append_left _ mem
    · cases List.mem_cons.mp mem with
      | inl same =>
        subst same
        refine kept _ ?_
        rw [records]
        exact List.mem_append_right _ (List.mem_singleton.mpr rfl)
      | inr later => exact posted x later

/-- What stage 7 leaves, whatever stage 6 has loaded. -/
theorem State.bootStart_leaves (s : State) :
    let t := s.bootStart
    t.dev.booted = 7 ∧ t.mem = s.mem ∧ Claims.PoolReset s t (s.dev.fslot.getLsbD 0) ∧ t.dev.ftvb = Config.romVector ∧ t.dev.owed = [] ∧
      (∀ c h, c < 8 → h < 4 →
        t.ctx (.steppe c h) = { Ctx.empty .s .live with pc := Config.steppeEntry, lastIssue := s.tick }) ∧
      ∀ q a temp, (q, a, temp) ∈ s.dev.owed →
        ∃ r ∈ t.dev.records, r.kind = 6 ∧ r.cause = 0x17 ∧ r.qid = q ∧ r.asid = a ∧ r.info = 6 ∧ r.stval = n64 temp := by
  intro t
  have start : t = _ := s.bootStart_eq
  have posted := (breaches_posted s.dev.owed s.started).2
  rw [← start] at posted
  obtain ⟨records, box, rest⟩ := breaches_rest s.dev.owed s.started
  rw [← start] at rest
  have stage := s.stage_rest 7
  refine ⟨?_, ?_, ?_, ?_, ?_, fun c h hc hh => ?_, fun q a temp mem => ⟨_, posted _ mem, rfl, rfl, rfl, rfl, rfl, rfl⟩⟩
  · rw [rest]
    exact s.stage_booted 7
  · rw [rest]
    exact s.stage_mem 7
  · refine poolReset_of (s := s.stage 7) ?_ ?_ ?_ ?_
    · rw [stage]
    · rw [stage]
    · rw [rest]
      rfl
    · rw [rest]
      rfl
  · rw [rest]
    rfl
  · rw [rest]
    rfl
  · have mem : 4 * c + h ∈ List.range 32 := List.mem_range.mpr (by omega)
    rw [rest]
    refine (aget_keyed _ mem).trans ?_
    rw [stage]

/-! ## Error counters (R296) -/

theorem errorCounters_written {core : Nat} (lt : core < 192) (booted : 6 ≤ s.dev.booted) (wf : Memory.wf s.mem = true) :
    ∃ t, exec (.errorCounterUpdate core) s = .next t ∧ Claims.Outside s t (64 + 8 * core) 8 ∧
      (t.core core).errsShown = (s.core core).errs ∧
      readLE t.mem (64 + 8 * core) 4 = (s.core core).errs.1.toNat ∧
      readLE t.mem (68 + 8 * core) 4 = (s.core core).errs.2.toNat := by
  refine ⟨_, if_pos ⟨lt, booted⟩, fun a out => ?_, ?_, ?_, ?_⟩
  · refine (readByte_writeLE_other _ _ ?_).trans (readByte_writeLE_other _ _ ?_)
    · omega
    · omega
  · exact congrArg CoreSt.errsShown (State.core_setCore s core _)
  · refine (readLE_congr fun i small => readByte_writeLE_other _ _ ?_).trans ((readLE_writeLE _ _ _ wf).trans ?_)
    · omega
    · exact Nat.mod_eq_of_lt (s.core core).errs.1.isLt
  · exact (readLE_writeLE _ _ _ (wf_writeLE _ _ _ wf)).trans (Nat.mod_eq_of_lt (s.core core).errs.2.isLt)

/-! ## Temperature and envelope (R304) -/

theorem thermalTrip_trips {temp : BitVec 16} (hot : 105 ≤ temp.toNat) (cool : s.dev.hot = false) :
    ∃ t, exec (.thermalTrip temp) s = .next t ∧ t.mem = s.mem ∧ t.dev.hot = true ∧
      Claims.Logged s t 0x08 0xFF 0xFFFF 0 0 (temp.zeroExtend 64) := by
  have trips : ¬ (decide (temp.toNat < 105) || s.dev.hot) = true := by
    rw [cool, decide_eq_false (Nat.not_lt.mpr hot)]
    exact Bool.false_ne_true
  refine ⟨_, if_neg trips, ?_⟩
  rw [State.log_box]
  exact ⟨rfl, rfl, logged_of (t := { s with dev := { s.dev with hot := true } }) rfl rfl rfl rfl⟩

theorem setEnvelope_sets {watts : Nat} (legal : 900 ≤ watts ∧ watts ≤ 1500 ∧ watts % 25 = 0) :
    ∃ t, exec (.setEnvelope watts) s = .next t ∧ t.mem = s.mem ∧ t.dev.envelope = watts ∧
      Claims.Logged s t 0x0A 0xFF 0xFFFF 0 0 (n64 watts) := by
  refine ⟨_, if_pos legal, ?_⟩
  rw [State.log_box]
  exact ⟨rfl, rfl, logged_of (t := { s with dev := { s.dev with envelope := watts } }) rfl rfl rfl rfl⟩

theorem thermalEmergency_resets {temp : BitVec 16} (hot : 115 ≤ temp.toNat) :
    ∃ t, exec (.thermalEmergency temp) s = .next t ∧ t.dev.hot = true ∧ t.dev.booted = 1 ∧ t.dev.frozen = true ∧ t.mem = [] ∧
      t.dev.owed = s.dev.owed ++ (s.quotes.filter fun q => decide (q.state = 4)).map fun q => (q.id, q.asid, temp.toNat) := by
  refine ⟨_, if_neg (Nat.not_lt.mpr hot), ?_⟩
  rw [State.resetMain_eq, State.log_box]
  refine ⟨rfl, rfl, rfl, rfl, ?_⟩
  rw [State.log_box]
  rfl

/-! ## The stages one by one (R297, R303) -/

theorem dark_of_failed (stage : s.dev.booted = 2) (failed : 2 ≤ s.dev.bootFails) : s.dev.dark = true := by
  rw [Dev.dark, stage, decide_eq_true failed]
  rfl

theorem lit_of_untried (untried : s.dev.bootFails < 2) : s.dev.dark = false := by
  rw [Dev.dark, decide_eq_false (Nat.not_le.mpr untried), Bool.and_false]

theorem State.verified_rest (s : State) (ok : Bool) :
    s.verified ok = { s with dev := { s.dev with box := (s.verified ok).dev.box } } := State.log_box _ _ _ _ _ _ _

/-- The running slot verifies. -/
theorem bootVerify_passes (lit : s.dev.dark = false) (ok : s.imageOk = true) :
    let t := s.bootVerify
    t.dev.booted = 3 ∧ t.mem = s.mem ∧ t.dev.fslot = s.dev.fslot ∧
      (s.dev.frozen = false → s.dev.box.length < 4095 → t.dev.box = s.dev.box ++
        [{ tick := s.tick, kind := 0x0C, io := 0, core := 0xFFFF, asid := 0, qid := 0,
           detail := n64 ((if s.dev.fslot.getLsbD 0 then 1 else 0) + if true then 2 else 0) },
         { tick := s.tick, kind := 1, io := 0xFF, core := 0xFFFF, asid := 0, qid := 0, detail := n64 3 }]) := by
  intro t
  have passed : t = _ := s.bootVerify_passed lit ok
  have rest := s.verified_rest true
  rw [passed]
  refine ⟨State.stage_booted .., ?_, ?_, fun runs room => ?_⟩
  · rw [State.stage_mem, rest]
  · rw [State.stage_rest, rest]
  · have first : (s.verified true).dev.box = _ := State.log_appends runs (Nat.lt_succ_of_lt room)
    have second := ((s.verified true).stage_logged 3).2 (by rw [rest]; exact runs) (by rw [first]; simp; omega)
    rw [second, first, List.append_assoc]
    rw [rest]
    rfl

/-- It does not. -/
theorem bootVerify_fails (stage : s.dev.booted = 2) (lit : s.dev.dark = false) (ok : s.imageOk = false) :
    let f := s.dev.fslot
    let t := s.bootVerify
    t.dev.booted = 2 ∧ t.mem = s.mem ∧ t.dev.bootFails = s.dev.bootFails + 1 ∧
      t.dev.fslot.getLsbD 1 = (f.getLsbD 1 || !f.getLsbD 0) ∧ t.dev.fslot.getLsbD 2 = (f.getLsbD 2 || f.getLsbD 0) ∧
      (t.dev.fslot.getLsbD 0 ≠ f.getLsbD 0 ↔ s.dev.bootFails = 0) ∧
      (s.dev.frozen = false → s.dev.box.length < 4095 → t.dev.box = s.dev.box ++
        [{ tick := s.tick, kind := 0x0C, io := 0, core := 0xFFFF, asid := 0, qid := 0,
           detail := n64 ((if s.dev.fslot.getLsbD 0 then 1 else 0) + if false then 2 else 0) }]) := by
  intro f t
  have failed : t = _ := s.bootVerify_failed lit ok
  have rest := s.verified_rest false
  have bits := failed_bits f (decide (s.dev.bootFails = 0))
  simp only [decide_eq_true_eq] at bits
  obtain ⟨a, b, running⟩ := bits
  rw [failed]
  refine ⟨?_, ?_, rfl, a, b, running, fun runs room => State.log_appends runs (Nat.lt_succ_of_lt room)⟩
  · exact (congrArg (fun u : State => u.dev.booted) rest).trans stage
  · exact (congrArg State.mem rest :)

theorem bootTrain_trains (s : State) (pairs : BitVec 12) :
    let t := s.bootTrain pairs
    t.dev.booted = 4 ∧ t.mem = s.mem ∧
      t.dev.channels = ((List.range 24).filter fun k => t.dev.channelMask.getLsbD k).length ∧
      t.dev.memBytes = t.dev.channels * 2 ^ 33 ∧
      ∀ k, k < 24 → t.dev.channelMask.getLsbD k = (s.dev.channelMask.getLsbD k && !pairs.getLsbD (k / 2)) := by
  intro t
  have trained : t = _ := State.stage_rest _ 4
  rw [trained]
  refine ⟨rfl, rfl, rfl, rfl, fun k lt => ?_⟩
  refine (BitVec.getLsbD_and (x := s.dev.channelMask)).trans ?_
  rw [BitVec.getLsbD_not, lostMask_bit lt, decide_eq_true lt, Bool.true_and]

theorem bootMesh_records (s : State) (clusters : BitVec 48) :
    let t := s.bootMesh clusters
    t.dev.booted = 5 ∧ t.mem = s.mem ∧ Claims.Logged s t 1 0xFF 0xFFFF 0 0 5 ∧
      ∀ c, c < 192 → t.dev.cores.getLsbD c = (s.dev.cores.getLsbD c && !clusters.getLsbD (clusterOf c)) := by
  intro t
  have meshed : t = _ := State.stage_rest _ 5
  refine ⟨State.stage_booted .., State.stage_mem ..,
    logged_of (t := { s with dev := { s.dev with cores := s.dev.cores &&& ~~~lostCores clusters, booted := 5 } }) rfl rfl rfl rfl, fun c lt => ?_⟩
  rw [meshed]
  refine (BitVec.getLsbD_and (x := s.dev.cores)).trans ?_
  rw [BitVec.getLsbD_not, lostCores_bit lt, decide_eq_true lt, Bool.true_and]

end

/-- The device boots, resets and heats as R296, R297, R303 and R304 say. -/
theorem deviceStarts : Claims.DeviceStarts := by
  refine ⟨fun s => ⟨powerOn_begins s, mainSideReset_begins s⟩, ?_, fun s core => errorCounters_written, ?_⟩
  · intro s pairs clusters d slotB image ok entry verified next
    have reaches : ∀ {n k : Nat} {t : State} {P : State → Prop}, d.booted = n → s.bootAt pairs clusters n = .next t →
        t.dev.booted = k ∧ P t → next k P := fun at_ act after => ⟨_, (boot_step at_).trans act, after⟩
    refine ⟨boot_done, fun early => ?_, fun stage failed => ?_, fun stage untried => ⟨fun passes => ?_, fun fails => ?_⟩,
      fun stage => ?_, fun stage => ?_, fun stage wf apart => ?_, fun stage => ?_⟩
    · exact ⟨_, boot_begins early, State.stage_booted .., State.stage_mem .., State.stage_logged ..⟩
    · have dark := dark_of_failed stage failed
      exact ⟨(boot_step stage).trans (congrArg _ (State.bootVerify_dark dark)), dark⟩
    · have passed : s.imageOk = true := passes
      obtain ⟨booted, mem, slot, box⟩ := bootVerify_passes (lit_of_untried untried) passed
      refine reaches stage rfl ⟨booted, mem, slot, fun runs room => ?_⟩
      simp only [verified, entry, passes]
      exact box runs room
    · have failed : s.imageOk = false := fails
      obtain ⟨booted, mem, count, a, b, running, box⟩ := bootVerify_fails stage (lit_of_untried untried) failed
      refine reaches stage rfl ⟨booted, mem, count, a, b, running, fun runs room => ?_⟩
      simp only [verified, entry, fails]
      exact box runs room
    · exact reaches stage rfl (bootTrain_trains s pairs)
    · exact reaches stage rfl (bootMesh_records s clusters)
    · exact reaches stage rfl ⟨State.stage_booted .., bootTables_leaves wf apart⟩
    · obtain ⟨booted, mem, pool, vector, owed, threads, posted⟩ := s.bootLoad.bootStart_leaves
      obtain ⟨_, _, _, loaded⟩ := Writes.bootLoad s
      have dev : s.bootLoad.dev = s.dev := (congrArg State.dev loaded :)
      have tick : s.bootLoad.tick = s.tick := (congrArg State.tick loaded :)
      rw [tick] at threads
      rw [dev] at pool posted
      exact reaches stage rfl ⟨booted, mem, ⟨fun k lt => tick ▸ pool.cores k lt, pool.delivery⟩, vector, owed, threads, posted⟩
  · intro s temp watts d
    refine ⟨fun quiet => ?_, thermalTrip_trips, fun cold => if_pos cold, fun warm => if_neg (Nat.not_lt.mpr warm),
      fun below => if_pos below, thermalEmergency_resets, fun low high step => setEnvelope_sets ⟨low, high, step⟩, fun illegal => ?_⟩
    · refine if_pos ?_
      rw [Bool.or_eq_true, decide_eq_true_iff]
      exact quiet
    · exact if_neg fun ⟨low, high, step⟩ => illegal.elim (Nat.not_lt.mpr low) (·.elim (Nat.not_lt.mpr high) (· step))

end Sys2Proof.Machine

namespace Sys2Proof.Machine

section
variable {s t : State} {pa addr n gen : Nat} {bs : List Byte}

/-! ## Device memory written from outside (R28, R296, R299) -/

/-- No quotation is bound to a kernel: no write voids one. -/
def Unbound (s : State) : Prop := ∀ q ∈ s.quotes, q.kernel = none ∨ q.state ≠ 3 ∧ q.state ≠ 4

theorem spoiled_unbound (h : Unbound s) (sLevel : Bool) (pa n : Nat) : s.spoiled sLevel pa n = [] := by
  refine if_neg fun some => ?_
  obtain ⟨q, mem, bound⟩ := List.any_eq_true.mp some
  obtain ⟨known, open_⟩ := List.mem_filter.mp mem
  have late : 3 ≤ q.state := of_decide_eq_true bound
  rw [Bool.and_eq_true, Bool.and_eq_true, decide_eq_true_iff, decide_eq_true_iff] at open_
  obtain ⟨⟨_, early⟩, spoils⟩ := open_
  rcases h q known with none | ⟨three, four⟩
  · rw [State.spoils, none] at spoils
    exact Bool.false_ne_true spoils
  · omega

theorem infoHeld_none (h : 4096 ≤ pa ∨ s.dev.booted < 6) : s.dev.infoHeld pa = 0 := by
  unfold Dev.infoHeld
  split
  · omega
  · rfl

theorem State.pokeDev_reached (fits : pa + bs.length ≤ s.dev.memBytes) (free : 4096 ≤ pa ∨ s.dev.booted < 6) :
    s.pokeDev pa bs = s.pokeBytes pa bs := by
  rw [State.pokeDev, infoHeld_none free]
  exact if_pos fits

theorem State.storeBytes_writable (h : Claims.Writable s (.dev pa) bs.length) : s.storeBytes (.dev pa) bs gen = s.pokeBytes pa bs := by
  obtain ⟨fits, free, unbound⟩ := h
  have quiet : (s.pokeBytes pa bs).spoiled false pa bs.length = [] :=
    spoiled_unbound (s := s.pokeBytes pa bs) unbound false pa bs.length
  rw [State.storeBytes, State.storeFrom]
  simp only [if_pos fits]
  rw [State.pokeDev_reached fits free, State.noteObject, quiet, List.foldl_nil]

theorem State.outsideWrite_writable (h : Claims.Writable s (.dev addr) n) (v : W64) :
    s.outsideWrite addr n v = s.pokeLE addr n v.toNat := by
  have fits : addr + n ≤ s.dev.memBytes := h.1
  have all : (leBytes n v.toNat).take (s.dev.memBytes - addr) = leBytes n v.toNat :=
    List.take_of_length_le (by rw [leBytes_length]; omega)
  rw [State.outsideWrite, all]
  exact State.storeBytes_writable (by rwa [leBytes_length])

theorem State.outsideRead_fits (fits : addr + n ≤ s.dev.memBytes) : s.outsideRead addr n = readBytes s.mem addr n := by
  rw [State.outsideRead, readBytes_eq_map]
  refine List.map_congr_left fun k mem => if_pos ?_
  have := List.mem_range.mp mem
  omega

theorem outside_size (low : 1 ≤ n) (high : n ≤ 8) : ¬ (decide (n = 0) || decide (8 < n)) = true := by
  simp
  omega

/-- A write of a value changes its bytes and no other. -/
theorem pokeLE_outside (wf : Memory.wf s.mem = true) (v : W64) :
    Claims.Outside s (s.pokeLE addr n v.toNat) addr n ∧ readLE (s.pokeLE addr n v.toNat).mem addr n = v.toNat % 256 ^ n := by
  refine ⟨fun a out => readByte_writeLE_other _ _ out, (readLE_writeLE _ _ _ wf).trans ?_⟩
  rw [Nat.pow_mul]

/-! ## Accesses of the host and of peers (R299, R300) -/

theorem State.outsideAccess_reads (h : Claims.Writable s (.dev addr) n) (low : 1 ≤ n) (high : n ≤ 8) :
    s.outsideAccess addr n none = s.answered (readBytes s.mem addr n) := by
  rw [State.outsideAccess, if_neg (outside_size low high)]
  simp only [State.outsideRead_fits h.1]

theorem State.outsideAccess_writes (h : Claims.Writable s (.dev addr) n) (low : 1 ≤ n) (high : n ≤ 8) (v : W64) :
    s.outsideAccess addr n (some v) = s.pokeLE addr n v.toNat := by
  rw [State.outsideAccess, if_neg (outside_size low high)]
  exact State.outsideWrite_writable h v

/-- The host's access to BAR 4. -/
theorem bar4_access {wr : Option W64} (lit : s.dev.dark = false) (below : addr < 2 ^ 38) :
    exec (.hostBar4Access addr n wr) s = .next (s.outsideAccess addr n wr) :=
  (if_neg (Bool.eq_false_iff.mp lit)).trans (if_pos below)

/-- A peer's access to device memory. -/
theorem peer_access {wr : Option W64} {p : Nat} (lit : s.dev.dark = false) (below : addr < 0x0F0000000000) :
    exec (.peerAccess p addr n wr) s = .next (s.outsideAccess addr n wr) :=
  (if_neg (Bool.eq_false_iff.mp lit)).trans (if_neg fun wakes => absurd wakes.1 (Nat.not_le.mpr below))

/-- The host's access to BAR 0. -/
theorem bar0_access {wr : Option W64} (lit : s.dev.dark = false) (low : 1 ≤ n) (high : n ≤ 8) (from_ : 2 ^ 38 ≤ addr)
    (below : addr + n ≤ 2 ^ 38 + 65536) : exec (.hostBar4Access addr n wr) s =
      if wr.isSome then .next s else .next (s.answered (s.bar0Read (addr - 2 ^ 38) n)) := by
  refine (if_neg (Bool.eq_false_iff.mp lit)).trans ((if_neg (Nat.not_lt.mpr from_)).trans ?_)
  have size : (decide (n = 0) = false) ∧ decide (8 < n) = false ∧ decide (bar4Bytes + 65536 < addr + n) = false := by
    refine ⟨decide_eq_false (by omega), decide_eq_false (by omega), decide_eq_false (Nat.not_lt.mpr below)⟩
  obtain ⟨some, small, fits⟩ := size
  rw [some, small, fits, Bool.or_false, Bool.or_false, Bool.or_false]
  rfl

theorem peer_wakes {p q : Nat} {v : W64} (lit : s.dev.dark = false) (small : q < 4096) :
    exec (.peerAccess p (0x0F0000000000 + 8 * q) 8 (some v)) s = exec (.wakeRegisterStore q v) s := by
  have wakes : peerWakes ≤ 0x0F0000000000 + 8 * q ∧ 0x0F0000000000 + 8 * q < peerWakes + 0x8000 := by
    unfold peerWakes
    omega
  have aligned : 8 = 8 ∧ (0x0F0000000000 + 8 * q) % 8 = 0 := by omega
  have register : (0x0F0000000000 + 8 * q - peerWakes) / 8 = q := by
    unfold peerWakes
    omega
  have store : exec (.wakeRegisterStore q v) s = .next (s.wakeStore q v) := if_pos (by rw [lit, decide_eq_true small]; rfl)
  refine (if_neg (Bool.eq_false_iff.mp lit)).trans ((if_pos wakes).trans ((if_pos aligned).trans ?_))
  rw [store, register]

/-! ## The host's atomics (R244, R299) -/

/-- The two sizes of an atomic. -/
theorem aSizeBytes_eq (z : ASize) : aSizeBytes z = 4 ∨ aSizeBytes z = 8 := by
  cases z <;> simp [aSizeBytes]

theorem hostAtom_ok {op : Aop} (mem : op ∈ [Aop.add, .exch, .cas]) : hostAtomOk (.host addr) op = true := by
  simp only [List.mem_cons, List.not_mem_nil, or_false] at mem
  obtain rfl | rfl | rfl := mem
  all_goals rfl

/-- The value an atomic of the host writes, where it writes one: that of R244, and else the old value stands. -/
theorem hostAtom_value {op : Aop} (mem : op ∈ [Aop.add, .exch, .cas]) (w old b c : Nat) :
    (atomValue op w old b c).getD old = Claims.atomNew op w old b c := by
  simp only [List.mem_cons, List.not_mem_nil, or_false] at mem
  obtain rfl | rfl | rfl := mem
  · rfl
  · rfl
  · simp only [atomValue, Claims.atomNew]
    split <;> rfl

theorem atomNew_lt {op : Aop} (mem : op ∈ [Aop.add, .exch, .cas]) {w old b c : Nat} (hold : old < 2 ^ w) (hb : b < 2 ^ w)
    (hc : c < 2 ^ w) : Claims.atomNew op w old b c < 2 ^ w := by
  simp only [List.mem_cons, List.not_mem_nil, or_false] at mem
  obtain rfl | rfl | rfl := mem
  · exact Nat.mod_lt _ (Nat.two_pow_pos w)
  · exact hb
  · simp only [Claims.atomNew]
    split
    · exact hc
    · exact hold

theorem leNat_lt (bs : List Byte) : leNat bs < 2 ^ (8 * bs.length) := by
  induction bs with
  | nil => exact Nat.one_pos
  | cons b bs ih =>
    have byte := b.isLt
    rw [List.length_cons, Nat.mul_succ, Nat.pow_add, leNat]
    omega

theorem readLE_lt (m : List Host.Cell) (k n : Nat) : readLE m k n < 2 ^ (8 * n) := by
  have lt := leNat_lt (readBytes m k n)
  rwa [readBytes_length] at lt

/-- What an atomic of the host writes: a value, or nothing. -/
def State.atomWritten (s : State) (addr n : Nat) : Option Nat → State
  | some v => s.outsideWrite addr n (n64 v)
  | none => s

theorem hostAtomic_act {z : ASize} {op : Aop} {b c : W64} (mem : op ∈ [Aop.add, .exch, .cas]) (aligned : addr % aSizeBytes z = 0)
    (lit : s.dev.dark = false) (fits : addr + aSizeBytes z ≤ s.dev.memBytes) : exec (.hostAtomicop addr z op b c) s = .next
      (let n := aSizeBytes z
       (s.answered (readBytes s.mem addr n)).atomWritten addr n
        (atomValue op (8 * n) (readLE s.mem addr n) (b.toNat % 2 ^ (8 * n)) (c.toNat % 2 ^ (8 * n)))) := by
  have runs : ¬ (s.dev.dark || decide (addr % aSizeBytes z ≠ 0) || !hostAtomOk (.host addr) op) = true := by
    rw [lit, hostAtom_ok mem, aligned]
    decide
  refine (if_neg runs).trans ?_
  rw [State.outsideRead_fits fits]
  simp only [readLE]
  generalize atomValue op _ _ _ _ = written
  cases written <;> rfl

/-- Memory after an atomic of the host. -/
theorem State.atomWritten_mem {old : Nat} (wf : Memory.wf s.mem = true) (reached : Claims.Writable s (.dev addr) n) (small : n ≤ 8)
    (reads : readLE s.mem addr n = old) {v : Option Nat} (lt : v.getD old < 2 ^ (8 * n)) :
    Claims.Outside s (s.atomWritten addr n v) addr n ∧ readLE (s.atomWritten addr n v).mem addr n = v.getD old ∧
      (s.atomWritten addr n v).dev = s.dev := by
  cases v with
  | none => exact ⟨fun _ _ => rfl, reads, rfl⟩
  | some v =>
    have whole : (n64 v).toNat = v := Nat.mod_eq_of_lt (Nat.lt_of_lt_of_le lt (Nat.pow_le_pow_right (by decide) (by omega)))
    simp only [State.atomWritten, State.outsideWrite_writable reached]
    obtain ⟨outside, value⟩ := pokeLE_outside (addr := addr) (n := n) wf (n64 v)
    refine ⟨outside, value.trans ?_, rfl⟩
    rw [whole, Option.getD_some]
    refine Nat.mod_eq_of_lt ?_
    rwa [← Nat.pow_mul (m := 8) (a := 2)]

/-- An atomic of the host: the old value is answered, and the new one is in place. -/
theorem hostAtomic_performs {z : ASize} {op : Aop} {b c : W64} (mem : op ∈ [Aop.add, .exch, .cas]) (aligned : addr % aSizeBytes z = 0)
    (wf : Memory.wf s.mem = true) (lit : s.dev.dark = false) (reached : Claims.Writable s (.dev addr) (aSizeBytes z)) :
    ∃ t, exec (.hostAtomicop addr z op b c) s = .next t ∧ Claims.Outside s t addr (aSizeBytes z) ∧
      t.dev.answers = s.dev.answers ++ [readBytes s.mem addr (aSizeBytes z)] ∧
      let w := 8 * aSizeBytes z
      readLE t.mem addr (aSizeBytes z) =
        Claims.atomNew op w (readLE s.mem addr (aSizeBytes z)) (b.toNat % 2 ^ w) (c.toNat % 2 ^ w) := by
  have act := hostAtomic_act (b := b) (c := c) mem aligned lit reached.1
  have small : aSizeBytes z ≤ 8 := by
    have := aSizeBytes_eq z
    omega
  generalize aSizeBytes z = n at *
  have value := hostAtom_value mem (8 * n) (readLE s.mem addr n) (b.toNat % 2 ^ (8 * n)) (c.toNat % 2 ^ (8 * n))
  have lt := atomNew_lt mem (readLE_lt s.mem addr n) (Nat.mod_lt b.toNat (Nat.two_pow_pos (8 * n))) (Nat.mod_lt c.toNat (Nat.two_pow_pos (8 * n)))
  obtain ⟨outside, reads, dev⟩ := State.atomWritten_mem (s := s.answered (readBytes s.mem addr n)) wf reached small rfl (value ▸ lt)
  exact ⟨_, act, outside, congrArg Dev.answers dev, reads.trans value⟩

/-! ## Retries (R101, R254, R300) -/

theorem State.retryCopies_far {launch core clk : Nat} (far : 192 ≤ core) : s.retryCopies launch core clk = s := if_pos far

theorem State.retryCopies_near {launch core clk : Nat} (near : core < 192) : s.retryCopies launch core clk =
    s.setCore core { s.core core with copies := (s.core core).copies.map fun k =>
      if k.launch = launch then { k with retried := k.retried + clk } else k } := if_neg (Nat.not_le.mpr near)

/-- A retry counts in its launch and in what the core's copy engine holds of it, and nowhere else. -/
def State.retried (s : State) (n clk core : Nat) (l : Launch) : State :=
  (s.setLaunch n { l with retries := l.retries + clk }).retryCopies n core clk

theorem State.retried_rest (s : State) (n clk core : Nat) (l : Launch) :
    s.retried n clk core l =
      { s with launches := aput n { l with retries := l.retries + clk } s.launches, cores := (s.retried n clk core l).cores } := by
  unfold State.retried State.retryCopies
  simp only
  split <;> rfl

theorem retry_act {n clk core : Nat} {l : Launch} {q : Quote} (launch : afind n s.launches = some l)
    (quote : s.quotes.find? (fun x => x.id = l.qid) = some q) (some_ : clk ≠ 0) (few : clk ≤ 64) :
    exec (.meshOrLinkRetry n ⟨clk, core⟩) s = .next
      (let u := s.retried n clk core l
       if q.retry < l.retries + clk then u.charge l.qid 3 3 (n64 (l.retries + clk - q.retry)) else u) := by
  have known : (s.retried n clk core l).quote? l.qid = some q := (congrArg (fun u : State => u.quote? l.qid) (s.retried_rest n clk core l)).trans quote
  show execMeshOrLinkRetry n ⟨clk, core⟩ s = _
  unfold execMeshOrLinkRetry
  rw [State.launch?, launch]
  simp only [if_pos few, ← State.retried.eq_1, known, decide_eq_true some_, Bool.and_true, decide_eq_true_eq]
  split <;> rfl

theorem retry_long {n clk core : Nat} (long : 64 < clk) : exec (.meshOrLinkRetry n ⟨clk, core⟩) s = .next s := by
  show execMeshOrLinkRetry n ⟨clk, core⟩ s = _
  unfold execMeshOrLinkRetry
  split
  · rfl
  · simp only [if_neg (Nat.not_le.mpr long)]

theorem State.quote?_id {qid : Nat} {q : Quote} (found : s.quote? qid = some q) : q.id = qid :=
  of_decide_eq_true (List.find?_some (p := fun x : Quote => decide (x.id = qid)) found)

/-- A quotation replaced is found in its place. -/
theorem State.quote?_setQuote {qid : Nat} {q x : Quote} (found : s.quote? qid = some q) (same : x.id = q.id) :
    (s.setQuote x).quote? qid = some x := by
  have id := State.quote?_id found
  have keeps : (fun y : Quote => decide (y.id = qid)) ∘ (fun y => if y.id = x.id then x else y) = fun y => decide (y.id = qid) := by
    funext y
    simp only [Function.comp_apply]
    split
    · next eq => rw [eq]
    · rfl
  refine (List.find?_map ..).trans ?_
  rw [keeps]
  refine (congrArg _ found).trans ?_
  rw [Option.map_some, if_pos same.symm]

theorem State.putQuote_quotes (s : State) (q : Quote) : (s.putQuote q).quotes = (s.setQuote q).quotes := by
  obtain ⟨_, _, _, written⟩ := Writes.writeVa (s.setQuote q) q.asid (q.record + 4) 2 q.status
  rw [State.putQuote, written]

/-- A quotation replaced and its record's status written: it is found in its place. -/
theorem State.quote?_putQuote {qid : Nat} {q x : Quote} (found : s.quote? qid = some q) (same : x.id = q.id) :
    (s.putQuote x).quote? qid = some x :=
  (congrArg (List.find? _) (s.putQuote_quotes x)).trans (State.quote?_setQuote found same)

/-- A charge of the device, which the first time records its party. -/
theorem State.charge_quote {qid kind : Nat} {val : W64} {q : Quote} (found : s.quote? qid = some q) (first : q.party = 0) :
    (s.charge qid 3 kind val).quote? qid = some { q with party := 3 } := by
  have unvoided : { q with party := 3, voided := q.voided || decide (3 = 1) || decide (3 = 2) } = { q with party := 3 } := by simp
  obtain ⟨_, _, breach⟩ := (s.putQuote { q with party := 3 }).breach_rest qid q.asid kind val
  simp only [State.charge, found, if_pos first, if_true]
  rw [unvoided, breach]
  exact State.quote?_putQuote found rfl

/-! ## A retry's account (R254) -/

theorem retry_counts {n clk core : Nat} {l : Launch} {q : Quote} (launch : afind n s.launches = some l)
    (quote : s.quotes.find? (fun x => x.id = l.qid) = some q) (some_ : clk ≠ 0) (few : clk ≤ 64) :
    ∃ t, exec (.meshOrLinkRetry n ⟨clk, core⟩) s = .next t ∧
      afind n t.launches = some { l with retries := l.retries + clk } ∧
      (192 ≤ core → t.cores = s.cores) ∧
      (core < 192 → (t.core core).copies = (s.core core).copies.map fun k =>
        if k.launch = n then { k with retried := k.retried + clk } else k) ∧
      (l.retries + clk ≤ q.retry → t.dev = s.dev ∧ t.quotes = s.quotes) ∧
      (q.retry < l.retries + clk → ∃ r, t.dev.records = s.dev.records ++ [r] ∧ r.kind = 6 ∧ r.info = 3 ∧
        r.qid = q.id ∧ (q.party = 0 → t.quotes.find? (fun x => x.id = l.qid) = some { q with party := 3 })) := by
  have act := retry_act (core := core) launch quote some_ few
  have rest := s.retried_rest n clk core l
  have counted : afind n (s.retried n clk core l).launches = some { l with retries := l.retries + clk } := by
    rw [rest]
    exact afind_aput_same ..
  have far : 192 ≤ core → (s.retried n clk core l).cores = s.cores := fun far => by rw [State.retried, State.retryCopies_far far]; rfl
  have near : core < 192 → ((s.retried n clk core l).core core).copies = (s.core core).copies.map fun k =>
      if k.launch = n then { k with retried := k.retried + clk } else k := fun near => by
    rw [State.retried, State.retryCopies_near near, State.core_setCore]
    rfl
  have dev : (s.retried n clk core l).dev = s.dev := by rw [rest]
  have quotes : (s.retried n clk core l).quotes = s.quotes := by rw [rest]
  generalize s.retried n clk core l = u at *
  have found : u.quote? l.qid = some q := (congrArg (List.find? _) quotes).trans quote
  by_cases beyond : q.retry < l.retries + clk
  · obtain ⟨_, _, _, _, _, _, charged⟩ := Noted.charge u l.qid 3 3 (n64 (l.retries + clk - q.retry))
    refine ⟨_, act.trans (congrArg _ (if_pos beyond)), ?_, ?_, ?_, fun within => absurd beyond (Nat.not_lt.mpr within), fun _ => ?_⟩
    · rw [charged]
      exact counted
    · rw [charged]
      exact far
    · rw [charged]
      exact near
    · exact ⟨_, dev ▸ State.charge_records found, rfl, rfl, (State.quote?_id found).symm, State.charge_quote found⟩
  · exact ⟨_, act.trans (congrArg _ (if_neg beyond)), counted, far, near, fun _ => ⟨dev, quotes⟩, fun h => absurd h beyond⟩

/-! ## Image slots (R79) -/

theorem overwrite_getD (old bs : List Byte) (off j : Nat) : (overwrite old off bs).getD j 0 =
    if off ≤ j ∧ j < off + bs.length then bs.getD (j - off) 0 else old.getD j 0 := by
  have front : (old.take off ++ List.replicate (off - (old.take off).length) 0).length = off := by
    rw [List.length_append, List.length_replicate, List.length_take]
    omega
  simp only [overwrite, List.getD_eq_getElem?_getD, List.append_assoc _ bs]
  rw [List.getElem?_append, front]
  by_cases before : j < off
  · rw [if_pos before, if_neg fun inside => absurd inside.1 (Nat.not_le.mpr before), List.getElem?_append]
    by_cases held : j < (old.take off).length
    · rw [if_pos held, List.getElem?_take_of_lt before]
    · have short : old.length ≤ j := by
        rw [List.length_take] at held
        omega
      rw [if_neg held, List.getElem?_eq_none short, List.getElem?_replicate]
      split <;> rfl
  · rw [if_neg before, List.getElem?_append]
    by_cases inside : j < off + bs.length
    · rw [if_pos (by omega), if_pos ⟨Nat.not_lt.mp before, inside⟩]
    · rw [if_neg (by omega), if_neg fun h => inside h.2, List.getElem?_drop]
      congr 2
      omega

theorem slotImageWrite_writes (s : State) (slotB : Bool) (off : Nat) (bs : List Byte) :
    ∃ t, exec (.slotImageWrite slotB off bs) s = .next t ∧ t.mem = s.mem ∧ t.dev.fslot = s.dev.fslot &&& 0x7F ∧
      (t.dev.image (!slotB)).bytes = (s.dev.image (!slotB)).bytes ∧
      ∀ j, (t.dev.image slotB).bytes.getD j 0 =
        if off ≤ j ∧ j < off + bs.length then bs.getD (j - off) 0 else (s.dev.image slotB).bytes.getD j 0 := by
  have mask : ~~~(0x80 : BitVec 8) = 0x7F := by decide
  cases slotB
  all_goals
    refine ⟨_, rfl, rfl, ?_, rfl, overwrite_getD _ _ _⟩
    rw [← mask]
    rfl

/-! ## The side-band port (R298, R301) -/

/-- A side-band request's answer, of a kind and with words of which `P` holds. -/
def Replies (s : State) (i : Instr) (kind : Nat) (P : List W64 → Prop) : Prop :=
  ∃ t ws, exec i s = .next t ∧
    t = { s with dev := { s.dev with sideband := s.dev.sideband ++ [(kind, ws)], frozen := t.dev.frozen }, free := t.free } ∧
    (kind ≠ 8 → t.dev.frozen = s.dev.frozen) ∧ (kind = 8 → t.dev.frozen = false) ∧ P ws

/-- Every request but the black box's leaves the ring as it is. -/
theorem answers_of {i : Instr} {kind free : Nat} {P : List W64 → Prop} {ws : List W64} (plain : kind ≠ 8)
    (act : exec i s = .next { s with dev := { s.dev with sideband := s.dev.sideband ++ [(kind, ws)] }, free := free }) (h : P ws) :
    Replies s i kind P := ⟨_, ws, act, rfl, fun _ => rfl, fun eight => absurd eight plain, h⟩

theorem wordsOf_length (bs : List Byte) : (wordsOf bs).length = (bs.length + 7) / 8 := by
  rw [wordsOf, List.length_map, List.length_range]
  rfl

/-- A word of a list of bytes. -/
theorem wordsOf_getD (bs : List Byte) {k : Nat} (lt : k < (wordsOf bs).length) :
    (wordsOf bs)[k] = n64 (leNat ((bs.drop (8 * k)).take 8)) := by
  simp [wordsOf]

theorem readBytes_slice (m : List Host.Cell) {k i n total : Nat} (within : i + n ≤ total) :
    ((readBytes m k total).drop i).take n = readBytes m (k + i) n := by
  refine List.ext_getElem ?_ fun j lt _ => ?_
  · rw [List.length_take, List.length_drop, readBytes_length, readBytes_length]
    omega
  · simp only [List.getElem_take, List.getElem_drop, readBytes_eq_map, List.getElem_map, List.getElem_range, Nat.add_assoc]

/-- The telemetry: the information block in words (R301). -/
theorem telemetry_words (s : State) (rest : List W64) {k : Nat} (lt : k < 512) :
    (wordsOf (readBytes s.mem 0 4096) ++ rest).getD k 0 = n64 (readLE s.mem (8 * k) 8) := by
  have words : (wordsOf (readBytes s.mem 0 4096)).length = 512 := by rw [wordsOf_length, readBytes_length]
  have here : k < (wordsOf (readBytes s.mem 0 4096)).length := words ▸ lt
  rw [List.getD_eq_getElem?_getD, List.getElem?_append_left here, List.getElem?_eq_getElem here, Option.getD_some, wordsOf_getD _ here,
    readBytes_slice _ (by omega), Nat.zero_add]
  rfl

/-- The black box, four words an entry (R298). -/
theorem boxWords_length (l : List BoxEntry) : (l.flatMap BoxEntry.words).length = 4 * l.length := by
  induction l with
  | nil => rfl
  | cons e l ih =>
    rw [List.flatMap_cons, List.length_append, ih, List.length_cons]
    simp only [BoxEntry.words, List.length_cons, List.length_nil]
    omega

theorem boxWords_getD {l : List BoxEntry} {k j : Nat} {e : BoxEntry} (at_ : l[k]? = some e) (small : j < 4) :
    (l.flatMap BoxEntry.words).getD (4 * k + j) 0 = e.words.getD j 0 := by
  induction l generalizing k with
  | nil => exact nomatch at_
  | cons x l ih =>
    have four : x.words.length = 4 := rfl
    rw [List.flatMap_cons, List.getD_eq_getElem?_getD, List.getElem?_append, four]
    cases k with
    | zero =>
      have same : x = e := Option.some.inj at_
      rw [if_pos (by omega), same, Nat.mul_zero, Nat.zero_add, List.getD_eq_getElem?_getD]
    | succ k =>
      have next : 4 * (k + 1) + j - 4 = 4 * k + j := by omega
      rw [if_neg (by omega), next, ← List.getD_eq_getElem?_getD]
      exact ih at_

end

/-- The host, peers and the management controller reach the device as R298 to R301 say. -/
theorem outsideReaches : Claims.OutsideReaches := by
  refine ⟨?_, ?_, fun s p q v small lit => peer_wakes lit small, fun s addr z op b c mem aligned wf lit => hostAtomic_performs mem aligned wf lit,
    ?_, slotImageWrite_writes, ?_⟩
  · intro s addr n p v low high wf lit reads
    refine ⟨fun reached => ⟨fun below => ?_, fun below => ?_, ?_⟩, fun from_ below => ⟨?_, ?_⟩⟩
    · rw [bar4_access lit below, State.outsideAccess_reads reached low high]
      rfl
    · rw [peer_access lit below, State.outsideAccess_reads reached low high]
      rfl
    · rintro i way
      have act : exec i s = .next (s.pokeLE addr n v.toNat) := by
        rw [← State.outsideAccess_writes reached low high]
        obtain ⟨rfl, below⟩ | ⟨rfl, below⟩ := way
        · exact bar4_access lit below
        · exact peer_access lit below
      exact ⟨_, act, pokeLE_outside wf v⟩
    · exact bar0_access lit low high from_ below
    · exact bar0_access lit low high from_ below
  · exact fun s addr n p wr dark => ⟨if_pos dark, if_pos dark⟩
  · exact fun s n clk core l q launch quote some_ => ⟨retry_long, retry_counts launch quote some_⟩
  · intro s answers
    refine ⟨answers_of (by decide) rfl trivial, answers_of (by decide) rfl trivial, answers_of (by decide) rfl trivial,
      answers_of (by decide) rfl trivial, answers_of (by decide) rfl trivial, answers_of (by decide) rfl trivial,
      fun idx => answers_of (by decide) rfl ⟨rfl, ?_⟩, answers_of (by decide) rfl fun k => telemetry_words s _, ?_⟩
    · rw [List.length_cons, wordsOf_length, Nat.add_comm]
    · refine ⟨_, _, rfl, rfl, fun other => absurd rfl other, fun _ => rfl, boxWords_length _, fun k e at_ => ⟨?_, ?_⟩⟩
      · exact (boxWords_getD (j := 0) at_ (by decide)).trans rfl
      · exact (boxWords_getD (j := 3) at_ (by decide)).trans rfl

/-- Settles O51, from its two parts. -/
theorem deviceAndOutside : Obligations.DeviceAndOutside := ⟨deviceStarts, outsideReaches⟩

end Sys2Proof.Machine

namespace Sys2Proof.Machine

section
variable {s t u : State} {m m' : List Host.Cell} {q off n v k i : Nat}

/-! ## Values side by side in memory (R12) -/

theorem readLE_writeLE_apart {k' n' : Nat} (m : List Host.Cell) (v : Nat) (apart : k' + n' ≤ k ∨ k + n ≤ k') :
    readLE (writeLE m k n v) k' n' = readLE m k' n' :=
  readLE_congr fun i lt => readByte_writeLE_other v m (by omega)

/-! ## Memory written by a unit of the device (R28, R205) -/

/-- Memory holds `m` now; nothing else has changed but check bits and the quotations that are to be voided. -/
def WritesTo (s t : State) (m : List Host.Cell) : Prop := ∃ flawed voids, t = { s with mem := m, flawed := flawed, voids := voids }

theorem WritesTo.refl (s : State) : WritesTo s s s.mem := ⟨_, _, rfl⟩

theorem WritesTo.trans : WritesTo s t m → WritesTo t u m' → WritesTo s u m' := by
  rintro ⟨_, _, rfl⟩ ⟨_, _, rfl⟩
  exact ⟨_, _, rfl⟩

theorem WritesTo.mem (h : WritesTo s t m) : t.mem = m := by
  obtain ⟨_, _, rfl⟩ := h
  rfl

theorem WritesTo.dev (h : WritesTo s t m) : t.dev = s.dev := by
  obtain ⟨_, _, rfl⟩ := h
  rfl

theorem WritesTo.writes : WritesTo s t m → Writes s t := by
  rintro ⟨_, _, rfl⟩
  exact ⟨_, _, _, rfl⟩

theorem State.writeDev_reached {bs : List Byte} (h : Claims.Reached s k bs.length) :
    WritesTo s (s.writeDev k bs) (writeBytes s.mem k bs) := by
  rw [State.writeDev, State.pokeDev_reached h.1 h.2]
  exact ⟨_, _, rfl⟩

/-- A value that the device writes at an address that leads to a byte it reaches. -/
theorem State.writeVa_reached {asid va : Nat} (leads : Claims.LeadsTo s asid va k) (h : Claims.Reached s k n) (v : Nat) :
    WritesTo s (s.writeVa asid va n v) (writeLE s.mem k n v) := by
  obtain ⟨pte, level, at_, walk, accessed, dirty, place⟩ := leads
  rw [State.writeVa, walk]
  simp only [place, accessed, dirty, Bool.and_self, if_true]
  exact State.writeDev_reached (by rwa [leBytes_length])

theorem State.writeVa_unmapped {asid va : Nat} (h : s.place asid va = none) : s.writeVa asid va n v = s := by
  rw [State.writeVa, Option.map_eq_none_iff.mp h]

/-! ## A queue's entry (R64) -/

theorem reached_sub {len : Nat} (h : Claims.Reached s k len) (fits : off + n ≤ len) : Claims.Reached s (k + off) n := by
  obtain ⟨size, free⟩ := h
  exact ⟨by omega, by omega⟩

/-- A field of an entry that the device reaches is written in place. -/
theorem State.setDir_writes (h : Claims.Reached s (s.dirKey q) 64) (fits : off + n ≤ 64) (v : Nat) :
    WritesTo s (s.setDir q off n v) (writeLE s.mem (s.dirKey q + off) n v) :=
  State.writeDev_reached (by rw [leBytes_length]; exact reached_sub h fits)

theorem WritesTo.reached {len : Nat} (h : WritesTo s t m) (r : Claims.Reached s k len) : Claims.Reached t k len := by
  unfold Claims.Reached at r ⊢
  rwa [h.dev]

theorem WritesTo.dirKey (h : WritesTo s t m) (q : Nat) : t.dirKey q = s.dirKey q := congrArg (fun d : Dev => d.qdir + 64 * q) h.dev

theorem State.dirU_lt (s : State) (q off n : Nat) : s.dirU q off n < 2 ^ (8 * n) := readLE_lt _ _ _

/-- A flag set or cleared in a word of flags. -/
def withFlag (f bit : Nat) (on : Bool) : Nat := (if f.testBit bit then f - 2 ^ bit else f) + if on then 2 ^ bit else 0

theorem State.setFlag_writes (h : Claims.Reached s (s.dirKey q) 64) (bit : Nat) (on : Bool) :
    WritesTo s (s.setFlag q bit on) (writeLE s.mem (s.dirKey q + 14) 2 (withFlag (s.qFlags q) bit on)) := by
  have value : s.setFlag q bit on = s.setDir q 14 2 (withFlag (s.qFlags q) bit on) := by
    cases on <;> rfl
  rw [value]
  exact State.setDir_writes h (by decide) _

/-- Flags 1 to 3 of an entry, set and cleared (R64). -/
theorem withFlag_stopped {f : Nat} (lt : f < 65536) : withFlag f 3 true < 65536 ∧ (withFlag f 3 true).testBit 3 = true := by
  unfold withFlag
  simp only [Nat.testBit_eq_decide_div_mod_eq, decide_eq_true_eq, if_true]
  split <;> omega

theorem withFlag_mapped {f : Nat} (lt : f < 65536) : withFlag f 1 true < 65536 ∧ (withFlag f 1 true).testBit 1 = true ∧
    (withFlag f 1 true).testBit 3 = f.testBit 3 := by
  unfold withFlag
  simp only [Nat.testBit_eq_decide_div_mod_eq, decide_eq_true_eq, if_true, decide_eq_decide]
  split <;> omega

theorem withFlag_served {f : Nat} (lt : f < 65536) : withFlag f 2 false < 65536 ∧ (withFlag f 2 false).testBit 2 = false ∧
    (withFlag f 2 false).testBit 1 = f.testBit 1 ∧ (withFlag f 2 false).testBit 3 = f.testBit 3 := by
  unfold withFlag
  simp only [Nat.testBit_eq_decide_div_mod_eq, decide_eq_true_eq, decide_eq_false_iff_not, Bool.false_eq_true, if_false, decide_eq_decide]
  split <;> omega

end
end Sys2Proof.Machine

namespace Sys2Proof.Machine

section
variable {s t u : State} {m m' : List Host.Cell} {q off n v k i status : Nat} {p : Packet}

/-! ## A queue stopped (R64, R67) -/

theorem State.qFlags_lt (s : State) (q : Nat) : s.qFlags q < 65536 := s.dirU_lt q 14 2

/-- Memory after a queue has been stopped at an index. -/
def stoppedMem (s : State) (q i : Nat) : List Host.Cell :=
  writeLE (writeLE s.mem (s.dirKey q + 14) 2 (withFlag (s.qFlags q) 3 true)) (s.dirKey q + 40) 8 i

theorem State.stopQueue_writes (h : Claims.Reached s (s.dirKey q) 64) (i : Nat) : WritesTo s (s.stopQueue q i) (stoppedMem s q i) := by
  have flag := State.setFlag_writes h 3 true
  have index := State.setDir_writes (q := q) (off := 40) (n := 8) (by rw [flag.dirKey]; exact flag.reached h) (by decide) i
  rw [flag.mem, flag.dirKey] at index
  exact flag.trans index

/-- The stopped flag and the index are in the entry, and nothing else has changed. -/
theorem stoppedMem_fields (wf : Memory.wf s.mem = true) (q i : Nat) :
    let m := stoppedMem s q i
    (readLE m (s.dirKey q + 14) 2).testBit 3 = true ∧ readLE m (s.dirKey q + 40) 8 = i % 2 ^ 64 ∧
      (∀ k n, (k + n ≤ s.dirKey q + 14 ∨ s.dirKey q + 16 ≤ k) → (k + n ≤ s.dirKey q + 40 ∨ s.dirKey q + 48 ≤ k) →
        readLE m k n = readLE s.mem k n) ∧
      ∀ a, (a < s.dirKey q ∨ s.dirKey q + 64 ≤ a) → readByte m a = readByte s.mem a := by
  intro m
  obtain ⟨small, set⟩ := withFlag_stopped (s.qFlags_lt q)
  refine ⟨?_, readLE_writeLE _ _ _ (wf_writeLE _ _ _ wf), fun k n flag index => ?_, fun a out => ?_⟩
  · rw [show readLE m (s.dirKey q + 14) 2 = _ from readLE_writeLE_apart _ _ (by omega), readLE_writeLE _ _ _ wf,
      Nat.mod_eq_of_lt (show _ < 2 ^ (8 * 2) from small)]
    exact set
  · exact (readLE_writeLE_apart _ _ (by omega)).trans (readLE_writeLE_apart _ _ (by omega))
  · exact (readByte_writeLE_other _ _ (by omega)).trans (readByte_writeLE_other _ _ (by omega))

theorem wf_stoppedMem (wf : Memory.wf s.mem = true) (q i : Nat) : Memory.wf (stoppedMem s q i) = true :=
  wf_writeLE _ _ _ (wf_writeLE _ _ _ wf)

/-! ## A packet completed (R67, R71) -/

/-- A packet closed: its status written, its index behind the read index, the retire index moved. -/
def State.closed (s : State) (q i status : Nat) : State :=
  let u := s.writeVa (s.qOwner q) (s.slotVa q i + 2) 2 status
  (({ u with dev := { u.dev with packets := u.dev.packets.filter fun x => !(x.queue = q && x.index = i) } }).startPacket q i).retirePackets q

/-- A packet that asks for no signal completes. -/
theorem State.complete_eq (found : s.packet? q i = some p) (unsigned : p.signals = false) : s.complete q i status =
    ((if 0x8001 ≤ status then (s.closed q i status).haltQueue q i else s.closed q i status).postEvent 3 i (some q)).remap := by
  simp only [State.complete, found, unsigned, Bool.false_eq_true, if_false]
  rfl

theorem State.startPacket_writes (h : Claims.Reached s (s.dirKey q) 64) (i : Nat) : WritesTo s (s.startPacket q i)
    (if s.qRead q ≤ i then writeLE s.mem (s.dirKey q + 24) 8 (i + 1) else s.mem) := by
  unfold State.startPacket
  split
  · exact State.setDir_writes h (by decide) _
  · exact .refl s

/-- The lowest open packet of a queue, or its read index. -/
def lowestOpen (packets : List Packet) (q read : Nat) : Nat := ((packets.filter fun p => p.queue = q).map (·.index)).foldl min read

theorem lowestOpen_none {packets : List Packet} {read : Nat} (h : ∀ x ∈ packets, x.queue ≠ q) : lowestOpen packets q read = read := by
  have none : packets.filter (fun p => decide (p.queue = q)) = [] :=
    List.filter_eq_nil_iff.mpr fun x mem => by simpa using h x mem
  rw [lowestOpen, none]
  rfl

theorem State.retirePackets_writes (h : Claims.Reached s (s.dirKey q) 64) : WritesTo s (s.retirePackets q)
    (writeLE s.mem (s.dirKey q + 32) 8 (lowestOpen s.dev.packets q (s.qRead q))) := State.setDir_writes h (by decide) _

/-- The packets but one. -/
def State.closing (s : State) (q i : Nat) : State :=
  { s with dev := { s.dev with packets := s.dev.packets.filter fun x => !(x.queue = q && x.index = i) } }

/-- Memory with a packet's status written and the read index past it. -/
def passedMem (s : State) (q i status k : Nat) : List Host.Cell :=
  let m := writeLE s.mem k 2 status
  if s.qRead q ≤ i then writeLE m (s.dirKey q + 24) 8 (i + 1) else m

/-- Memory after a packet has been closed. -/
def closedMem (s : State) (q i status k : Nat) : List Host.Cell :=
  let m := passedMem s q i status k
  writeLE m (s.dirKey q + 32) 8 (lowestOpen (s.closing q i).dev.packets q (readLE m (s.dirKey q + 24) 8))

theorem State.closed_writes (leads : Claims.LeadsTo s (s.qOwner q) (s.slotVa q i + 2) k) (status_ : Claims.Reached s k 2)
    (entry : Claims.Reached s (s.dirKey q) 64) (apart : k + 2 ≤ s.dirKey q ∨ s.dirKey q + 64 ≤ k) :
    WritesTo (s.closing q i) (s.closed q i status) (closedMem s q i status k) := by
  obtain ⟨flawed, voids, write⟩ := State.writeVa_reached leads status_ status
  have wrote : WritesTo (s.closing q i) ((s.writeVa (s.qOwner q) (s.slotVa q i + 2) 2 status).closing q i) (writeLE s.mem k 2 status) :=
    ⟨flawed, voids, by rw [write]; rfl⟩
  have unfold_ : s.closed q i status =
    (((s.writeVa (s.qOwner q) (s.slotVa q i + 2) 2 status).closing q i).startPacket q i).retirePackets q := rfl
  rw [unfold_]
  generalize (s.writeVa (s.qOwner q) (s.slotVa q i + 2) 2 status).closing q i = x at wrote
  have key : x.dirKey q = s.dirKey q := wrote.dirKey q
  have reached : Claims.Reached x (x.dirKey q) 64 := by
    rw [key]
    exact wrote.reached (s := s.closing q i) entry
  have read : x.qRead q = s.qRead q := by
    show readLE x.mem (x.dirKey q + 24) 8 = _
    rw [key, wrote.mem]
    exact readLE_writeLE_apart _ _ (by omega)
  have start := State.startPacket_writes reached i
  have retire := State.retirePackets_writes (q := q) (by rw [start.dirKey]; exact start.reached reached)
  have packets : (x.startPacket q i).dev.packets = (s.closing q i).dev.packets := by rw [start.dev, wrote.dev]
  have after : (x.startPacket q i).qRead q = readLE (x.startPacket q i).mem (s.dirKey q + 24) 8 := by
    rw [← key, ← start.dirKey]
    rfl
  rw [packets, after, start.mem, start.dirKey, read, key, wrote.mem] at retire
  exact wrote.trans (start.trans retire)

theorem wf_passedMem (wf : Memory.wf s.mem = true) : Memory.wf (passedMem s q i status k) = true := by
  unfold passedMem
  simp only
  split
  · exact wf_writeLE _ _ _ (wf_writeLE _ _ _ wf)
  · exact wf_writeLE _ _ _ wf

theorem wf_closedMem (wf : Memory.wf s.mem = true) : Memory.wf (closedMem s q i status k) = true :=
  wf_writeLE _ _ _ (wf_passedMem wf)

theorem passedMem_fields (wf : Memory.wf s.mem = true) (small : status < 2 ^ 16) (apart : k + 2 ≤ s.dirKey q ∨ s.dirKey q + 64 ≤ k) :
    let m := passedMem s q i status k
    readLE m k 2 = status ∧ readLE m (s.dirKey q + 24) 8 = (if s.qRead q ≤ i then (i + 1) % 2 ^ 64 else s.qRead q) ∧
      readLE m (s.dirKey q + 14) 2 = s.qFlags q := by
  intro m
  have status_ : readLE (writeLE s.mem k 2 status) k 2 = status := (readLE_writeLE _ _ _ wf).trans (Nat.mod_eq_of_lt small)
  have kept : ∀ off n, off + n ≤ 64 → readLE (writeLE s.mem k 2 status) (s.dirKey q + off) n = readLE s.mem (s.dirKey q + off) n :=
    fun off n fits => readLE_writeLE_apart _ _ (by omega)
  by_cases first : s.qRead q ≤ i
  · have shape : m = writeLE (writeLE s.mem k 2 status) (s.dirKey q + 24) 8 (i + 1) := by simp only [m, passedMem, if_pos first]
    rw [shape, if_pos first]
    refine ⟨?_, ?_, ?_⟩
    · rw [readLE_writeLE_apart _ _ (by omega), status_]
    · exact readLE_writeLE _ _ _ (wf_writeLE _ _ _ wf)
    · rw [readLE_writeLE_apart _ _ (by omega)]
      exact kept 14 2 (by decide)
  · have shape : m = writeLE s.mem k 2 status := by simp only [m, passedMem, if_neg first]
    rw [shape, if_neg first]
    exact ⟨status_, kept 24 8 (by decide), kept 14 2 (by decide)⟩

/-- The status, the read index and the retire index in place (R65, R67). -/
theorem closedMem_fields (wf : Memory.wf s.mem = true) (small : status < 2 ^ 16)
    (apart : k + 2 ≤ s.dirKey q ∨ s.dirKey q + 64 ≤ k) :
    let m := closedMem s q i status k
    readLE m k 2 = status ∧ readLE m (s.dirKey q + 24) 8 = (if s.qRead q ≤ i then (i + 1) % 2 ^ 64 else s.qRead q) ∧
      ((∀ x ∈ (s.closing q i).dev.packets, x.queue ≠ q) → readLE m (s.dirKey q + 32) 8 = readLE m (s.dirKey q + 24) 8) ∧
      readLE m (s.dirKey q + 14) 2 = s.qFlags q := by
  intro m
  obtain ⟨status_, read, flags⟩ := passedMem_fields (i := i) wf small apart
  have kept : ∀ k' n', k' + n' ≤ s.dirKey q + 32 ∨ s.dirKey q + 40 ≤ k' →
      readLE m k' n' = readLE (passedMem s q i status k) k' n' := fun k' n' out => readLE_writeLE_apart _ _ (by omega)
  rw [kept k 2 (by omega), kept (s.dirKey q + 24) 8 (by omega), kept (s.dirKey q + 14) 2 (by omega)]
  refine ⟨status_, read, fun none => ?_, flags⟩
  have retired := readLE_writeLE (s.dirKey q + 32) 8
    (lowestOpen (s.closing q i).dev.packets q (readLE (passedMem s q i status k) (s.dirKey q + 24) 8)) (wf_passedMem (q := q) (i := i) (status := status) (k := k) wf)
  rw [lowestOpen_none none, Nat.mod_eq_of_lt (readLE_lt _ _ 8)] at retired
  simp only [m, closedMem]
  rw [lowestOpen_none none, retired]

/-! ## What the pool is told of (R71) -/

theorem State.postEvent_room {kind arg : Nat} {queue : Option Nat} (room : s.dev.events.length < 8192) :
    s.postEvent kind arg queue = s.setEvents (s.dev.events ++ [eventWord kind arg queue]) := if_pos room

/-- An event held back, or not. -/
theorem State.postEvent_rest (s : State) (kind arg : Nat) (queue : Option Nat) : s.postEvent kind arg queue =
    { s with dev := { s.dev with
        events := (s.postEvent kind arg queue).dev.events, heldEvents := (s.postEvent kind arg queue).dev.heldEvents } } := by
  unfold State.postEvent
  simp only
  split <;> rfl

theorem State.remap_room (room : s.dev.mapped.length < 1024) : s.remap = s := if_pos room

/-- What completing a packet tells the pool, while every mapped queue has a slot. -/
theorem posted_leaves (room : s.dev.mapped.length < 1024) (i q : Nat) :
    let t := (s.postEvent 3 i (some q)).remap
    t.mem = s.mem ∧ t.dev.packets = s.dev.packets ∧ t.dev.halted = s.dev.halted ∧
      (s.dev.events.length < 8192 → t.dev.events = s.dev.events ++ [Claims.eventOf 3 i (some q)]) := by
  intro t
  have rest := s.postEvent_rest 3 i (some q)
  have same : t = s.postEvent 3 i (some q) := State.remap_room (by rw [rest]; exact room)
  rw [same]
  refine ⟨by rw [rest], by rw [rest], by rw [rest], fun fits => ?_⟩
  rw [State.postEvent_room fits]
  rfl

theorem State.haltQueue_eq (s : State) (q i : Nat) : s.haltQueue q i =
    { s.stopQueue q i with dev := { (s.stopQueue q i).dev with halted := (q :: (s.stopQueue q i).dev.halted).eraseDups } } := rfl

/-- A queue halted: stopped, and waiting for a new submission. -/
theorem State.haltQueue_leaves (h : Claims.Reached s (s.dirKey q) 64) (i : Nat) :
    (s.haltQueue q i).mem = stoppedMem s q i ∧ q ∈ (s.haltQueue q i).dev.halted ∧
      (s.haltQueue q i).dev = { s.dev with halted := (s.haltQueue q i).dev.halted } := by
  have stop := State.stopQueue_writes h i
  rw [State.haltQueue_eq]
  refine ⟨stop.mem, List.mem_eraseDups.mpr (List.mem_cons_self ..), ?_⟩
  simp only [stop.dev]

/-- The completion of a packet that asks for no signal (R65, R67, R71). -/
theorem complete_leaves (found : s.packet? q i = some p) (unsigned : p.signals = false) (room : s.dev.mapped.length < 1024)
    (wf : Memory.wf s.mem = true) (small : status < 2 ^ 16) (leads : Claims.LeadsTo s (s.qOwner q) (s.slotVa q i + 2) k)
    (status_ : Claims.Reached s k 2) (entry : Claims.Reached s (s.dirKey q) 64) (apart : k + 2 ≤ s.dirKey q ∨ s.dirKey q + 64 ≤ k) :
    let dir := s.dirKey q
    let t := s.complete q i status
    let rest := s.dev.packets.filter fun x => !(x.queue = q && x.index = i)
    readLE t.mem k 2 = status ∧ readLE t.mem (dir + 24) 8 = (if s.qRead q ≤ i then (i + 1) % 2 ^ 64 else s.qRead q) ∧
      t.dev.packets = rest ∧
      ((∀ x ∈ rest, x.queue ≠ q) → readLE t.mem (dir + 32) 8 = readLE t.mem (dir + 24) 8) ∧
      ((readLE t.mem (dir + 14) 2).testBit 3 = ((s.qFlags q).testBit 3 || decide (0x8001 ≤ status))) ∧
      (0x8001 ≤ status → readLE t.mem (dir + 40) 8 = i % 2 ^ 64 ∧ q ∈ t.dev.halted) ∧
      (status < 0x8001 → t.dev.halted = s.dev.halted) ∧
      (s.dev.events.length < 8192 → t.dev.events = s.dev.events ++ [Claims.eventOf 3 i (some q)]) := by
  intro dir t rest
  have done : t = _ := State.complete_eq found unsigned
  have closed := State.closed_writes (i := i) (status := status) leads status_ entry apart
  have key : (s.closed q i status).dirKey q = dir := closed.dirKey q
  obtain ⟨word, read, retire, flags⟩ := closedMem_fields (i := i) wf small apart
  by_cases error : 0x8001 ≤ status
  · rw [if_pos error] at done
    have reached : Claims.Reached (s.closed q i status) ((s.closed q i status).dirKey q) 64 := by
      rw [key]
      exact closed.reached (s := s.closing q i) entry
    obtain ⟨mem, halted, dev⟩ := State.haltQueue_leaves reached i
    have wfc : Memory.wf (s.closed q i status).mem = true := closed.mem ▸ wf_closedMem wf
    obtain ⟨stopped, index, kept, _⟩ := stoppedMem_fields wfc q i
    rw [← mem, key] at stopped index kept
    rw [closed.mem] at kept
    generalize (s.closed q i status).haltQueue q i = x at *
    rw [closed.dev] at dev
    obtain ⟨mem', packets, halted', events⟩ := posted_leaves (s := x) (by rw [dev]; exact room) i q
    rw [← done] at mem' packets halted' events
    rw [mem', packets, halted', kept k 2 (by omega) (by omega), kept (dir + 24) 8 (by omega) (by omega), kept (dir + 32) 8 (by omega) (by omega)]
    refine ⟨word, read, by rw [dev]; rfl, retire, ?_, fun _ => ⟨index, halted⟩, fun low => absurd error (Nat.not_le.mpr low), fun fits => ?_⟩
    · rw [stopped, decide_eq_true error, Bool.or_true]
    · rw [events (by rw [dev]; exact fits), dev]
      rfl
  · rw [if_neg error] at done
    obtain ⟨mem', packets, halted', events⟩ := posted_leaves (s := s.closed q i status) (by rw [closed.dev]; exact room) i q
    rw [← done, closed.mem] at mem'
    rw [← done, closed.dev] at packets halted' events
    rw [mem']
    refine ⟨word, read, packets, retire, ?_, fun high => absurd high error, fun _ => halted', events⟩
    rw [flags, decide_eq_false error, Bool.or_false]

end
end Sys2Proof.Machine

namespace Sys2Proof.Machine

section
variable {s : State} {q n : Nat} {i : Instr} {p : Packet} {kinds : Nat → Bool} {go : Packet → State → State}

/-! ## A packet at the read index (R65, R67) -/

theorem packetArm_none (h : s.slot q = .none) : packetArm q kinds s go = .next s := by rw [packetArm, h]

theorem packetArm_unreadable (h : s.slot q = .unreadable) : packetArm q kinds s go = .next (s.stopQueue q (s.qRead q)) := by
  rw [packetArm, h]

theorem packetArm_sound (h : s.slot q = .packet p) (kind : kinds p.kind = true) (head : p.headOk = true) (body : p.bodyOk = true) :
    packetArm q kinds s go = .next (go p (s.openPacket p)) := by
  rw [packetArm, h]
  simp only [kind, head, body, Bool.and_self, Bool.not_true, Bool.false_eq_true, if_false, if_true]

theorem packetArm_malformed (h : s.slot q = .packet p) (kind : kinds p.kind = true) (bad : p.headOk = false ∨ p.bodyOk = false) :
    packetArm q kinds s go = .next ((s.openPacket p).complete q p.index 0x8001) := by
  have unsound : ¬ (p.headOk && p.bodyOk) = true := by
    rw [Bool.and_eq_true]
    exact fun ⟨head, body⟩ => bad.elim (fun h => Bool.false_ne_true (h.symm.trans head)) fun h => Bool.false_ne_true (h.symm.trans body)
  rw [packetArm, h]
  simp only [kind, Bool.not_true, Bool.false_eq_true, if_false, if_neg unsound]

/-- The eight packets that are run by an instruction of their kind. -/
def PacketKind (n : Nat) (i : Instr) (q : Nat) : Prop :=
  (n, i) ∈ [(1, Instr.quote q), (2, .accept q), (3, .decline q), (4, .launch q), (5, .copy q), (6, .signal q), (7, .barrier q), (8, .watch q)]

/-- With no COPY open, COPY starts one as any other packet. -/
theorem copy_starts (h : s.copyOpen q = none) : exec (.copy q) s = packetArm q (· = 5) s fun p s => s.startPacket q p.index := by
  show execCopy q s = _
  rw [execCopy, h]

theorem packet_arm (mem : PacketKind n i q) (copy : i = .copy q → s.copyOpen q = none) :
    ∃ go, exec i s = packetArm q (fun k => decide (k = n)) s go := by
  simp only [PacketKind, List.mem_cons, List.not_mem_nil, or_false, Prod.mk.injEq] at mem
  obtain ⟨rfl, rfl⟩ | ⟨rfl, rfl⟩ | ⟨rfl, rfl⟩ | ⟨rfl, rfl⟩ | ⟨rfl, rfl⟩ | ⟨rfl, rfl⟩ | ⟨rfl, rfl⟩ | ⟨rfl, rfl⟩ := mem
  · exact ⟨_, execQuote.eq_1 q s⟩
  · exact ⟨_, execAccept.eq_1 q s⟩
  · exact ⟨_, execDecline.eq_1 q s⟩
  · exact ⟨_, execLaunch.eq_1 q s⟩
  · exact ⟨_, copy_starts (copy rfl)⟩
  · exact ⟨_, execSignal.eq_1 q s⟩
  · exact ⟨_, execBarrier.eq_1 q s⟩
  · exact ⟨_, execWatch.eq_1 q s⟩

theorem invalid_arm : exec (.invalid q) s = packetArm q (fun k => decide (k = 0) || decide (9 ≤ k)) s fun p s => s.finish p 0x8001 := rfl

/-- Any of the nine instructions that may run a packet at the read index. -/
theorem any_arm (mem : i ∈ [Instr.invalid q, .quote q, .accept q, .decline q, .launch q, .copy q, .signal q, .barrier q, .watch q])
    (copy : i = .copy q → s.copyOpen q = none) : ∃ kinds go, exec i s = packetArm q kinds s go := by
  by_cases invalid : i = .invalid q
  · subst invalid
    exact ⟨_, _, invalid_arm⟩
  · have kind : ∃ n, PacketKind n i q := by
      simp only [List.mem_cons, List.not_mem_nil, or_false] at mem
      unfold PacketKind
      obtain rfl | rfl | rfl | rfl | rfl | rfl | rfl | rfl | rfl := mem
      · exact absurd rfl invalid
      · exact ⟨1, by simp⟩
      · exact ⟨2, by simp⟩
      · exact ⟨3, by simp⟩
      · exact ⟨4, by simp⟩
      · exact ⟨5, by simp⟩
      · exact ⟨6, by simp⟩
      · exact ⟨7, by simp⟩
      · exact ⟨8, by simp⟩
    obtain ⟨n, member⟩ := kind
    obtain ⟨go, act⟩ := packet_arm member copy
    exact ⟨_, go, act⟩

theorem bodyOk_invalid (h : p.kind = 0 ∨ 8 < p.kind) : p.bodyOk = false := by
  unfold Packet.bodyOk
  split
  case h_9 => rfl
  all_goals omega

/-- An unreadable slot stops its queue there. -/
theorem stopQueue_leaves (wf : Memory.wf s.mem = true) (entry : Claims.Reached s (s.dirKey q) 64) :
    let t := s.stopQueue q (s.qRead q)
    (readLE t.mem (s.dirKey q + 14) 2).testBit 3 = true ∧ readLE t.mem (s.dirKey q + 40) 8 = s.qRead q ∧
      Claims.Outside s t (s.dirKey q) 64 := by
  intro t
  obtain ⟨stopped, index, _, outside⟩ := stoppedMem_fields wf q (s.qRead q)
  have lt : s.qRead q < 2 ^ 64 := s.dirU_lt q 24 8
  rw [← (State.stopQueue_writes entry (s.qRead q)).mem, Nat.mod_eq_of_lt lt] at index
  rw [← (State.stopQueue_writes entry (s.qRead q)).mem] at stopped outside
  exact ⟨stopped, index, outside⟩

/-- Completion, and what becomes of a packet that may not run (R64–R67). -/
theorem packetsComplete : Claims.PacketsComplete := by
  constructor
  · intro s q i status k p found unsigned room wf small dir asid read leads reached entry apart
    exact complete_leaves found unsigned room wf small leads reached entry apart
  · intro s q i mem copy
    obtain ⟨kinds, go, act⟩ := any_arm mem copy
    refine ⟨fun none => act.trans (packetArm_none none), fun bad wf entry => ⟨_, act.trans (packetArm_unreadable bad), stopQueue_leaves wf entry⟩,
      fun p slot => ⟨fun bad => ⟨fun n kind same => ?_, fun invalid other => ?_⟩, bodyOk_invalid⟩⟩
    · obtain ⟨go, act⟩ := packet_arm kind copy
      exact ⟨_, act.trans (packetArm_malformed slot (decide_eq_true same) bad), rfl⟩
    · subst invalid
      refine ⟨_, invalid_arm.trans (packetArm_malformed slot ?_ bad), rfl⟩
      rw [Bool.or_eq_true, decide_eq_true_iff, decide_eq_true_iff]
      exact other

/-- What stands at the read index: a packet of the queue with that index, and of none that is open. -/
theorem slot_packet (h : s.slot q = .packet p) : p.queue = q ∧ p.index = s.qRead q ∧ s.packet? q p.index = none := by
  unfold State.slot at h
  simp only at h
  split at h
  · exact nomatch h
  · next may =>
    split at h
    · exact nomatch h
    · split at h
      · exact nomatch h
      · have eq := Slot.packet.inj h
        rw [Bool.or_eq_true, not_or] at may
        rw [← eq]
        exact ⟨rfl, rfl, Option.isSome_eq_false_iff.mp (Bool.eq_false_iff.mpr may.2) |> Option.isNone_iff_eq_none.mp⟩

end
end Sys2Proof.Machine

namespace Sys2Proof.Machine

section
variable {s t u : State} {q n id status asid : Nat} {i : Instr} {p : Packet} {x y : Quote} {P : State → Prop}

/-! ## Quotations moved (R88, R90) -/

/-- Nothing waits on a quotation: answering it changes nothing of it, and no packet completes. -/
theorem State.answer_quiet (found : s.quote? id = some x) (quiet : x.packets = []) : s.answer id = s.setQuote x := by
  have same : { x with packets := [] } = x := by rw [← quiet]
  simp only [State.answer, found, quiet, List.filterMap_nil, List.filter_nil, List.foldl_nil]
  rw [same]

/-- A quotation in the state that it moves to; a launch that waits for it outlasts states 2 and 3 alone. -/
def Quote.moved (x : Quote) (n : Nat) : Quote :=
  if n = 3 || n = 2 then { x with state := n } else { x with state := n, pendingLaunch := none }

theorem Quote.moved_fields (x : Quote) (n : Nat) : (x.moved n).id = x.id ∧ (x.moved n).packets = x.packets ∧ (x.moved n).state = n := by
  unfold Quote.moved
  split <;> exact ⟨rfl, rfl, rfl⟩

theorem State.moveQuote_eq (s : State) (x : Quote) (n : Nat) : s.moveQuote x n = (s.putQuote (x.moved n)).answer (x.moved n).id := rfl

/-- A quotation on which nothing waits stands in the state it moves to; the device stands as before. -/
theorem State.moveQuote_stands (found : s.quote? id = some x) (same : y.id = x.id) (quiet : y.packets = []) (n : Nat) :
    (s.moveQuote y n).quote? id = some (y.moved n) ∧ (s.moveQuote y n).dev = s.dev := by
  obtain ⟨named, packets, _⟩ := y.moved_fields n
  have put : (s.putQuote (y.moved n)).quote? id = some (y.moved n) := State.quote?_putQuote found (named.trans same)
  have key : (y.moved n).id = id := named.trans (same.trans (State.quote?_id found))
  rw [State.moveQuote_eq, key, State.answer_quiet put (packets.trans quiet)]
  exact ⟨State.quote?_setQuote put rfl, State.putQuote_dev _ _⟩

theorem State.moveQuote_standsIn (found : s.quote? id = some x) (same : y.id = x.id) (quiet : y.packets = []) (n : Nat) :
    Claims.StandsIn (s.moveQuote y n) id n :=
  ⟨_, (State.moveQuote_stands found same quiet n).1, (y.moved_fields n).2.2⟩

theorem State.accepted_eq {k : Kernel} (kernel : x.kernel = some k) (plain : x.cls ≤ 1) : s.accepted x =
    State.moveQuote (if x.cls = 0 then s.preemptFor x else s) { x with accepted := s.tick } 3 := by
  have firm : ¬ x.cls = 2 := by omega
  unfold State.accepted
  rw [kernel]
  simp only [if_neg firm]
  split
  · rw [← kernel]
    rfl
  · rw [← kernel]

/-- A quotation accepted, but for a standing one (R93, R96). -/
theorem State.accepted_stands {k : Kernel} (found : s.quote? id = some x) (quiet : x.packets = []) (kernel : x.kernel = some k)
    (plain : x.cls ≤ 1) : Claims.StandsIn (s.accepted x) id 3 := by
  have still : State.quote? (if x.cls = 0 then s.preemptFor x else s) id = some x := by
    split <;> exact found
  rw [State.accepted_eq kernel plain]
  exact State.moveQuote_standsIn still (y := { x with accepted := s.tick }) rfl quiet 3

/-! ## Acceptance and decline of a named quotation (R96, R97) -/

theorem lapsed_false (h : ¬ Claims.Late s x) : x.lapsed s.tick = false := by
  refine Bool.eq_false_iff.mpr fun late => h ?_
  rw [Quote.lapsed, Bool.and_eq_true, Bool.and_eq_true, decide_eq_true_iff, decide_eq_true_iff, decide_eq_true_iff, and_assoc] at late
  exact late

theorem unnamed (h : ∀ x, ¬ Claims.Named s asid id x) : s.quotes.find? (fun q => q.id = id && q.asid = asid) = none :=
  Option.eq_none_iff_forall_not_mem.mpr h

theorem State.accept_unnamed (h : ∀ x, ¬ Claims.Named s asid id x) : s.accept asid id = (-3, s) := by rw [State.accept, unnamed h]

theorem State.decline_unnamed (h : ∀ x, ¬ Claims.Named s asid id x) : s.decline asid id = (-3, s) := by rw [State.decline, unnamed h]

section
variable (named : Claims.Named s asid id x) (timely : ¬ Claims.Late s x)
include named timely

theorem State.accept_refused (unquoted : x.state ≠ 1) (current : x.state ≠ 7) : s.accept asid id = (-4, s) := by
  have refuses : (decide (x.state ≠ 1) || decide (vectorBase s.dev.ctvb = 0) || decide (s.dev.satb = 0)) = true := by
    rw [decide_eq_true unquoted]
    rfl
  rw [State.accept, show s.quotes.find? _ = some x from named]
  simp only [lapsed_false timely, Bool.false_eq_true, if_false, if_neg current, if_pos refuses]

theorem State.accept_quoted {k : Kernel} (quoted : x.state = 1) (vector : vectorBase s.dev.ctvb ≠ 0) (tables : s.dev.satb ≠ 0)
    (kernel : x.kernel = some k) :
    s.accept asid id = if k.pinSet.all fun p => s.isPinned asid p then (0, s.accepted x) else (1, s.moveQuote x 2) := by
  have current : x.state ≠ 7 := by omega
  have open_ : ¬ (decide (x.state ≠ 1) || decide (vectorBase s.dev.ctvb = 0) || decide (s.dev.satb = 0)) = true := by
    rw [quoted, decide_eq_false vector, decide_eq_false tables]
    decide
  rw [State.accept, show s.quotes.find? _ = some x from named]
  simp only [lapsed_false timely, Bool.false_eq_true, if_false, if_neg current, if_neg open_, kernel]

theorem State.accept_pinned {k : Kernel} (quoted : x.state = 1) (vector : vectorBase s.dev.ctvb ≠ 0) (tables : s.dev.satb ≠ 0)
    (kernel : x.kernel = some k) (pinned : ∀ y ∈ k.pinSet, s.isPinned asid y = true) : s.accept asid id = (0, s.accepted x) :=
  (State.accept_quoted named timely quoted vector tables kernel).trans (if_pos (List.all_eq_true.mpr pinned))

theorem State.accept_unpinned {k : Kernel} (quoted : x.state = 1) (vector : vectorBase s.dev.ctvb ≠ 0) (tables : s.dev.satb ≠ 0)
    (kernel : x.kernel = some k) (unpinned : ¬ ∀ y ∈ k.pinSet, s.isPinned asid y = true) :
    s.accept asid id = (1, s.moveQuote x 2) :=
  (State.accept_quoted named timely quoted vector tables kernel).trans (if_neg (mt List.all_eq_true.mp unpinned))

theorem State.decline_bound (low : 1 ≤ x.state) (high : x.state ≤ 3) : s.decline asid id = (0, s.moveQuote x 6) := by
  rw [State.decline, show s.quotes.find? _ = some x from named]
  simp only [lapsed_false timely, Bool.false_eq_true, if_false, if_pos (show 1 ≤ x.state ∧ x.state ≤ 3 from ⟨low, high⟩)]

theorem State.decline_ended (ended : x.state = 0 ∨ 5 ≤ x.state) : s.decline asid id = (-4, s) := by
  have unbound : ¬ (1 ≤ x.state ∧ x.state ≤ 3) := by omega
  have stands : ¬ x.state = 4 := by omega
  rw [State.decline, show s.quotes.find? _ = some x from named]
  simp only [lapsed_false timely, Bool.false_eq_true, if_false, if_neg unbound, decide_eq_false stands, Bool.false_and]

end

/-! ## A packet that has been read (R65–R67) -/

theorem finishes_of (act : exec i s = .next (u.finish p status)) (queue : p.queue = q) (h : P u) : Claims.Finishes i s q p status P :=
  ⟨u, queue ▸ act, h⟩

/-- A packet waits on a quotation. -/
theorem State.waitOn_waits (found : s.quote? id = some x) : (s.waitOn id p).dev = s.dev ∧
    (s.waitOn id p).quote? id = some { x with packets := x.packets ++ [(p.queue, p.index, p.kind)] } := by
  simp only [State.waitOn, found]
  exact ⟨rfl, State.quote?_setQuote found rfl⟩

/-- What starting a packet leaves: the read index moves, and nothing else. -/
theorem Writes.startPacket (s : State) (q i : Nat) : Writes s (s.startPacket q i) := by
  unfold State.startPacket
  split
  · exact .writeDev s _ _
  · exact .refl s

theorem mem_openPacket (s : State) (p : Packet) : p ∈ (s.openPacket p).dev.packets :=
  List.mem_append_right _ (List.mem_singleton.mpr rfl)

/-- A packet that may start, under the instruction of its kind. -/
theorem starts_arm {kinds : Nat → Bool} {go : Packet → State → State} (starts : Claims.Starts s q n p)
    (arm : exec i s = packetArm q kinds s go) (kind : kinds n = true) : exec i s = .next (go p (s.openPacket p)) := by
  obtain ⟨slot, same, head, body⟩ := starts
  exact arm.trans (packetArm_sound slot (same ▸ kind) head body)

end

section
variable {s t : State} {q id asid : Nat} {p : Packet} {x : Quote}

/-! ## ACCEPT and DECLINE (R96, R97) -/

/-- The id that a packet's record holds. -/
def recordId (s : State) (q : Nat) (p : Packet) : Nat := (s.readVa (s.qOwner q) (p.u 8 8) 4).getD 0

theorem namedId_open (queue : p.queue = q) : (s.openPacket p).namedId p = recordId s q p := by
  rw [State.namedId, queue]
  rfl

theorem accept_act (starts : Claims.Starts s q 2 p) {n : Int} {u : State}
    (result : (s.openPacket p).accept (s.qOwner q) (recordId s q p) = (n, u)) : exec (.accept q) s = .next
    (if n < 0 then u.finish p 0x8004
     else if n = 0 then u.finish p 0x0001
     else (u.startPacket q p.index).waitOn (recordId s q p) p) := by
  refine (starts_arm (i := .accept q) starts (execAccept.eq_1 q s) (decide_eq_true rfl)).trans ?_
  rw [namedId_open (slot_packet starts.1).1]
  have result' : (s.openPacket p).accept ((s.openPacket p).qOwner q) (recordId s q p) = (n, u) := result
  simp only [result']

theorem decline_act (starts : Claims.Starts s q 3 p) {n : Int} {u : State}
    (result : (s.openPacket p).decline (s.qOwner q) (recordId s q p) = (n, u)) :
    exec (.decline q) s = .next (u.finish p (if n < 0 then 0x8004 else 0x0001)) := by
  refine (starts_arm (i := .decline q) starts (execDecline.eq_1 q s) (decide_eq_true rfl)).trans ?_
  rw [namedId_open (slot_packet starts.1).1]
  have result' : (s.openPacket p).decline ((s.openPacket p).qOwner q) (recordId s q p) = (n, u) := result
  simp only [result']

section
variable (named : Claims.Named s (s.qOwner q) (recordId s q p) x) (timely : ¬ Claims.Late s x)
include named timely

/-- ACCEPT of a quotation that is not open to acceptance. -/
theorem accept_turnedAway (starts : Claims.Starts s q 2 p) (unquoted : x.state ≠ 1) (current : x.state ≠ 7) :
    Claims.Finishes (.accept q) s q p 0x8004 (Claims.Opened s p) := by
  have act := accept_act starts (State.accept_refused (s := s.openPacket p) named timely unquoted current)
  rw [if_pos (by decide)] at act
  exact finishes_of act (slot_packet starts.1).1 rfl

/-- ACCEPT with every page of the pin set pinned. -/
theorem accept_firm (found : s.quote? (recordId s q p) = some x) (quiet : x.packets = []) (starts : Claims.Starts s q 2 p)
    (quoted : x.state = 1) (vector : vectorBase s.dev.ctvb ≠ 0) (tables : s.dev.satb ≠ 0) {k : Kernel} (kernel : x.kernel = some k)
    (pinned : ∀ y ∈ k.pinSet, s.isPinned (s.qOwner q) y = true) (plain : x.cls ≤ 1) :
    Claims.Finishes (.accept q) s q p 0x0001 fun u => Claims.StandsIn u (recordId s q p) 3 := by
  have act := accept_act starts (State.accept_pinned (s := s.openPacket p) named timely quoted vector tables kernel pinned)
  rw [if_neg (by decide), if_pos rfl] at act
  exact finishes_of act (slot_packet starts.1).1 (State.accepted_stands (s := s.openPacket p) found quiet kernel plain)

/-- ACCEPT with pages still to be pinned: the packet waits for them. -/
theorem accept_pins (found : s.quote? (recordId s q p) = some x) (quiet : x.packets = []) (starts : Claims.Starts s q 2 p)
    (quoted : x.state = 1) (vector : vectorBase s.dev.ctvb ≠ 0) (tables : s.dev.satb ≠ 0) {k : Kernel} (kernel : x.kernel = some k)
    (unpinned : ¬ ∀ y ∈ k.pinSet, s.isPinned (s.qOwner q) y = true) :
    ∃ t, exec (.accept q) s = .next t ∧ p ∈ t.dev.packets ∧ Claims.StandsIn t (recordId s q p) 2 ∧
      ∃ y, t.quote? (recordId s q p) = some y ∧ y.packets = [(q, p.index, 2)] := by
  have act := accept_act starts (State.accept_unpinned (s := s.openPacket p) named timely quoted vector tables kernel unpinned)
  rw [if_neg (by decide), if_neg (by decide)] at act
  obtain ⟨stands, dev⟩ := State.moveQuote_stands (s := s.openPacket p) found rfl quiet 2
  obtain ⟨_, packets, state⟩ := x.moved_fields 2
  generalize (s.openPacket p).moveQuote x 2 = m at act stands dev
  obtain ⟨_, _, _, same⟩ := Writes.startPacket m q p.index
  have stands' : (m.startPacket q p.index).quote? (recordId s q p) = some (x.moved 2) := by
    rw [same]
    exact stands
  obtain ⟨devW, found'⟩ := State.waitOn_waits (p := p) stands'
  refine ⟨_, act, ?_, ⟨_, found', state⟩, _, found', ?_⟩
  · rw [devW, same]
    show p ∈ m.dev.packets
    rw [dev]
    exact mem_openPacket s p
  · show (x.moved 2).packets ++ _ = _
    rw [packets, quiet, (slot_packet starts.1).1, starts.2]
    rfl

/-- DECLINE of a quotation in states 1 to 3. -/
theorem decline_frees (found : s.quote? (recordId s q p) = some x) (quiet : x.packets = []) (starts : Claims.Starts s q 3 p)
    (low : 1 ≤ x.state) (high : x.state ≤ 3) :
    Claims.Finishes (.decline q) s q p 0x0001 fun u => Claims.StandsIn u (recordId s q p) 6 := by
  have act := decline_act starts (State.decline_bound (s := s.openPacket p) named timely low high)
  rw [if_neg (by decide)] at act
  exact finishes_of act (slot_packet starts.1).1 (State.moveQuote_standsIn (s := s.openPacket p) found rfl quiet 6)

theorem decline_turnedAway (starts : Claims.Starts s q 3 p) (ended : x.state = 0 ∨ 5 ≤ x.state) :
    Claims.Finishes (.decline q) s q p 0x8004 (Claims.Opened s p) := by
  have act := decline_act starts (State.decline_ended (s := s.openPacket p) named timely ended)
  rw [if_pos (by decide)] at act
  exact finishes_of act (slot_packet starts.1).1 rfl

end

end
end Sys2Proof.Machine

namespace Sys2Proof.Machine

section
variable {s t u : State} {q n id asid object record validity : Nat} {p : Packet} {x y : Quote} {shape : Shape} {auto user : Bool}

/-! ## QUOTE (R66, R95) -/

theorem State.request_refused (aligned : object % 64 = 0) (bad : record % 64 ≠ 0 ∨ s.writableUnder asid record user = false) :
    s.request asid object record shape validity auto user = (-2, s) := by
  have refuses : (decide (record % 64 ≠ 0) || !s.writableUnder asid record user) = true := by
    rw [Bool.or_eq_true, decide_eq_true_iff, Bool.not_eq_true']
    exact bad
  unfold State.request
  simp only
  rw [if_neg (not_not.mpr aligned), if_pos refuses]

/-- The quotation that a request makes (R88, R95). -/
def State.newQuote (s : State) (asid object record : Nat) (shape : Shape) (validity : Nat) (auto : Bool) : Quote :=
  { id := s.nextQid, record := record, asid := asid, state := 0, cls := if shape.elastic then 1 else 0, party := 0, diag := 0,
    object := object, shape := shape, validity := if validity = 0 then 55000 else validity, deadline := 0, tmax := 0, emax := 0,
    cores := [], perCore := 0, devShare := 0, meshShare := 0, retry := 0, actT := 0, actE := 0, auto := auto,
    voided := false, kernel := none, slots := [], rect := (1, 1), stream := none, packets := [],
    pendingLaunch := none, accepted := 0, envelope := s.dev.envelope, window := (0, 0) }

theorem Writes.firstRecord (s : State) (asid record id cls : Nat) : Writes s (s.firstRecord asid record id cls) :=
  ((Writes.writeVa s asid record 64 0).trans (.writeVa _ asid record 4 id)).trans (.writeVa _ asid (record + 6) 1 cls)

/-- A request taken: a new quotation, queued for its walk. -/
theorem State.request_taken (aligned : object % 64 = 0) (place : record % 64 = 0) (writable : s.writableUnder asid record user = true)
    (free : s.entryFree = true) : ∃ u, s.request asid object record shape validity auto user = ((s.nextQid : Int), u) ∧
      u.dev = s.dev ∧ u.quotes = s.quotes ++ [s.newQuote asid object record shape validity auto] ∧
      u.walkQueue = s.walkQueue ++ [s.nextQid] := by
  have accepts : ¬ (decide (record % 64 ≠ 0) || !s.writableUnder asid record user) = true := by
    rw [writable, decide_eq_false (not_not.mpr place)]
    decide
  have busy : ¬ (!s.entryFree) = true := by
    rw [free]
    decide
  unfold State.request
  simp only
  rw [if_neg (not_not.mpr aligned), if_neg accepts, if_neg busy]
  refine ⟨_, rfl, ?_⟩
  obtain ⟨_, _, _, same⟩ := Writes.firstRecord
    { s with quotes := s.quotes ++ [s.newQuote asid object record shape validity auto], nextQid := s.nextQid % 0xFFFFFFFF + 1,
             walkQueue := s.walkQueue ++ [s.nextQid] } asid record s.nextQid (if shape.elastic then 1 else 0)
  have same' : State.firstRecord _ asid record s.nextQid (if shape.elastic then 1 else 0) = _ := same
  refine ⟨(congrArg State.dev same' :), (congrArg State.quotes same' :), (congrArg State.walkQueue same' :)⟩

/-- The shape that a QUOTE packet asks for. -/
def Packet.askedShape (p : Packet) : Shape :=
  { ext := [p.u 24 4 % 256, p.u 24 4 / 256 % 256, p.u 32 4, p.u 36 4, p.u 40 4, p.u 44 4], elastic := (p.u 24 4).testBit 16,
    neighbour := (p.u 24 4).testBit 17 }

theorem quote_act (starts : Claims.Starts s q 1 p) : exec (.quote q) s = .next
    (if !s.entryFree then s
     else match (s.openPacket p).request (s.qOwner q) (p.u 8 8) (p.u 16 8) p.askedShape (p.u 28 4) ((p.u 24 4).testBit 18) true with
       | (n, t) => if n < 0 then t.finish p 0x8001 else t.waitOn n.toNat p) :=
  starts_arm (i := .quote q) starts (execQuote.eq_1 q s) (decide_eq_true rfl)

theorem bodyOk_quote (starts : Claims.Starts s q 1 p) : p.u 8 8 % 64 = 0 := by
  have body := starts.body
  rw [Packet.bodyOk, starts.kind] at body
  simp only [Bool.and_eq_true, decide_eq_true_iff] at body
  exact body.1.1.1

theorem quote_full (starts : Claims.Starts s q 1 p) (full : 4096 ≤ (s.quotes.filter fun x => x.state ≤ 4).length) :
    exec (.quote q) s = .next s := by
  have busy : (!s.entryFree) = true := by
    rw [State.entryFree, Bool.not_eq_true', decide_eq_false_iff_not]
    exact Nat.not_lt.mpr full
  rw [quote_act starts, if_pos busy]

/-- A packet that waits on the newest quotation. -/
theorem State.waitOn_last (quotes : u.quotes = t.quotes ++ [x]) (new : ∀ y ∈ t.quotes, y.id ≠ x.id) :
    (u.waitOn x.id p).dev = u.dev ∧ (u.waitOn x.id p).walkQueue = u.walkQueue ∧
      (u.waitOn x.id p).quotes = t.quotes ++ [{ x with packets := x.packets ++ [(p.queue, p.index, p.kind)] }] := by
  have found : u.quote? x.id = some x := by
    rw [State.quote?, quotes, List.find?_append, List.find?_eq_none.mpr fun y mem => by simpa using new y mem]
    simp
  simp only [State.waitOn, found, State.setQuote, quotes, List.map_append, true_and]
  congr 1
  · exact (List.map_congr_left fun y mem => if_neg (new y mem)).trans (List.map_id' _)
  · simp

section
variable (starts : Claims.Starts s q 1 p) (free : (s.quotes.filter fun x => x.state ≤ 4).length < 4096)
include starts free

theorem quote_free : exec (.quote q) s = .next
    (match (s.openPacket p).request (s.qOwner q) (p.u 8 8) (p.u 16 8) p.askedShape (p.u 28 4) ((p.u 24 4).testBit 18) true with
      | (n, t) => if n < 0 then t.finish p 0x8001 else t.waitOn n.toNat p) := by
  have busy : ¬ (!s.entryFree) = true := by
    rw [State.entryFree, decide_eq_true free]
    decide
  rw [quote_act starts, if_neg busy]

theorem quote_turnedAway (bad : p.u 16 8 % 64 ≠ 0 ∨ s.writableUnder (s.qOwner q) (p.u 16 8) true = false) :
    Claims.Finishes (.quote q) s q p 0x8001 (Claims.Opened s p) := by
  have act := quote_free starts free
  rw [State.request_refused (s := s.openPacket p) (bodyOk_quote starts) bad] at act
  exact finishes_of act (slot_packet starts.slot).1 rfl

theorem quote_asks (place : p.u 16 8 % 64 = 0) (writable : s.writableUnder (s.qOwner q) (p.u 16 8) true = true)
    (new : ∀ x ∈ s.quotes, x.id ≠ s.nextQid) : ∃ t, exec (.quote q) s = .next t ∧ p ∈ t.dev.packets ∧
      t.walkQueue = s.walkQueue ++ [s.nextQid] ∧ ∃ x, t.quotes = s.quotes ++ [x] ∧ x.id = s.nextQid ∧ x.state = 0 ∧
        x.asid = s.qOwner q ∧ x.object = p.u 8 8 ∧ x.record = p.u 16 8 ∧ x.packets = [(q, p.index, 1)] ∧
        x.auto = (p.u 24 4).testBit 18 ∧
        x.shape.ext = [p.u 24 4 % 256, p.u 24 4 / 256 % 256, p.u 32 4, p.u 36 4, p.u 40 4, p.u 44 4] := by
  obtain ⟨u, taken, dev, quotes, walk⟩ :=
    State.request_taken (s := s.openPacket p) (asid := s.qOwner q) (shape := p.askedShape) (validity := p.u 28 4)
      (auto := (p.u 24 4).testBit 18) (user := true) (bodyOk_quote starts) place writable (decide_eq_true free)
  have act := quote_free starts free
  rw [taken] at act
  have nonneg : ¬ ((s.openPacket p).nextQid : Int) < 0 := by omega
  simp only [if_neg nonneg, Int.toNat_natCast] at act
  obtain ⟨devW, walkW, quotesW⟩ := State.waitOn_last (p := p) (t := s) quotes new
  refine ⟨_, act, ?_, walkW.trans walk, _, quotesW, rfl, rfl, rfl, rfl, rfl, ?_, rfl, rfl⟩
  · refine Eq.mpr (congrArg (fun d : Dev => p ∈ d.packets) devW) ?_
    rw [dev]
    exact mem_openPacket s p
  · show [] ++ [(p.queue, p.index, p.kind)] = _
    rw [(slot_packet starts.slot).1, starts.kind]
    rfl

end
end

section
variable {s : State} {q : Nat} {p : Packet} {x : Quote}

/-! ## LAUNCH (R66) -/

/-- A LAUNCH expires a late quotation of its owner first (R90). -/
def State.timed (s : State) (asid id : Nat) : State :=
  match s.quote? id with
  | some x => if x.asid = asid && x.lapsed s.tick then s.expire x else s
  | none => s

theorem State.timed_eq {asid id : Nat} (timely : ∀ x, s.quote? id = some x → (x.asid = asid && x.lapsed s.tick) = false) :
    s.timed asid id = s := by
  unfold State.timed
  split
  · next x found => exact if_neg (Bool.eq_false_iff.mp (timely x found))
  · rfl

/-- What a LAUNCH does with the quotation that its record names. -/
def State.launchOn (s : State) (asid id : Nat) (p : Packet) (x : Quote) : State :=
  let ceilings := p.u 24 8 ≠ 0 || p.u 32 8 ≠ 0
  if x.kernel.isNone then s.finish p 0x8004
  else if ceilings && !x.passes (p.u 24 8) (p.u 32 8) then (s.decline asid id).2.finish p 0x8003
  else if x.pendingLaunch.isSome then s.finish p 0x8004
  else if x.state = 3 then s.awaitStart id p
  else if ceilings && x.state = 1 then
    let (n, u) := s.accept asid id
    if n < 0 || x.cls = 2 then u.finish p 0x8004 else u.awaitStart id p
  else s.finish p 0x8004

theorem launch_act (starts : Claims.Starts s q 4 p)
    (timely : ∀ x, s.quote? (recordId s q p) = some x → (x.asid = s.qOwner q && x.lapsed s.tick) = false) :
    exec (.launch q) s = .next
      (match s.quotes.find? fun x => x.id = recordId s q p && x.asid = s.qOwner q with
       | none => (s.openPacket p).finish p 0x8004
       | some x => (s.openPacket p).launchOn (s.qOwner q) (recordId s q p) p x) := by
  have run : exec (.launch q) s = .next
      (let u := (s.openPacket p).timed (s.qOwner q) ((s.openPacket p).namedId p)
       match u.quotes.find? fun x => x.id = (s.openPacket p).namedId p && x.asid = s.qOwner q with
       | none => u.finish p 0x8004
       | some x => u.launchOn (s.qOwner q) ((s.openPacket p).namedId p) p x) :=
    starts_arm (i := .launch q) starts (execLaunch.eq_1 q s) (decide_eq_true rfl)
  rw [namedId_open (slot_packet starts.slot).1, State.timed_eq (s := s.openPacket p) timely] at run
  exact run

/-- LAUNCH of a record that names no quotation of the queue's owner. -/
theorem launch_unnamed (starts : Claims.Starts s q 4 p) (none : ∀ x, ¬ Claims.Named s (s.qOwner q) (recordId s q p) x) :
    exec (.launch q) s = .next ((s.openPacket p).finish p 0x8004) := by
  have other := unnamed none
  have timely : ∀ x, s.quote? (recordId s q p) = some x → (x.asid = s.qOwner q && x.lapsed s.tick) = false := by
    intro x found
    rw [Bool.and_eq_false_iff]
    refine .inl (decide_eq_false fun owner => ?_)
    have foreign := List.find?_eq_none.mp other x (List.mem_of_find?_eq_some found)
    rw [State.quote?_id found, decide_eq_true rfl, decide_eq_true owner] at foreign
    exact foreign rfl
  rw [launch_act starts timely, other]

section
variable (starts : Claims.Starts s q 4 p) (named : Claims.Named s (s.qOwner q) (recordId s q p) x)
  (found : s.quote? (recordId s q p) = some x) (timely : ¬ Claims.Late s x)
include starts named found timely

theorem launch_named : exec (.launch q) s = .next ((s.openPacket p).launchOn (s.qOwner q) (recordId s q p) p x) := by
  have still : ∀ y, s.quote? (recordId s q p) = some y → (y.asid = s.qOwner q && y.lapsed s.tick) = false := by
    intro y other
    rw [Option.some.inj (other.symm.trans found), lapsed_false timely, Bool.and_false]
  rw [launch_act starts still, show s.quotes.find? _ = some x from named]

end

/-- A LAUNCH's ceilings are broken by the quotation's figures. -/
def Packet.below (p : Packet) (x : Quote) : Prop :=
  (p.u 24 8 ≠ 0 ∧ p.u 24 8 < x.tmax) ∨ (p.u 32 8 ≠ 0 ∧ p.u 32 8 < x.emax)

theorem below_iff : p.below x ↔
    ((decide (p.u 24 8 ≠ 0) || decide (p.u 32 8 ≠ 0)) && !x.passes (p.u 24 8) (p.u 32 8)) = true := by
  unfold Packet.below Quote.passes
  simp only [Bool.and_eq_true, Bool.or_eq_true, Bool.not_eq_true', Bool.and_eq_false_iff, Bool.or_eq_false_iff, decide_eq_true_iff,
    decide_eq_false_iff_not]
  omega

section
variable {asid id : Nat} {k : Kernel} (kernel : x.kernel = some k)
include kernel

theorem State.launchOn_below (low : p.below x) : s.launchOn asid id p x = (s.decline asid id).2.finish p 0x8003 := by
  unfold State.launchOn
  simp only [kernel, Option.isNone_some, Bool.false_eq_true, if_false, if_pos (below_iff.mp low)]

theorem State.launchOn_pending (high : ¬ p.below x) (pending : x.pendingLaunch ≠ none) : s.launchOn asid id p x = s.finish p 0x8004 := by
  unfold State.launchOn
  simp only [kernel, Option.isNone_some, Bool.false_eq_true, if_false, if_neg (mt below_iff.mpr high),
    if_pos (Option.isSome_iff_ne_none.mpr pending)]

theorem State.launchOn_accepted (high : ¬ p.below x) (free : x.pendingLaunch = none) (state : x.state = 3) :
    s.launchOn asid id p x = s.awaitStart id p := by
  unfold State.launchOn
  simp only [kernel, Option.isNone_some, Bool.false_eq_true, if_false, if_neg (mt below_iff.mpr high), free, Option.isSome_none, if_pos state]

theorem State.launchOn_refused (high : ¬ p.below x) (free : x.pendingLaunch = none) (state : x.state ≠ 3) (unquoted : x.state ≠ 1) :
    s.launchOn asid id p x = s.finish p 0x8004 := by
  unfold State.launchOn
  simp only [kernel, Option.isNone_some, Bool.false_eq_true, if_false, if_neg (mt below_iff.mpr high), free, Option.isSome_none, if_neg state,
    decide_eq_false unquoted, Bool.and_false]

end

/-- A decline of a quotation that a LAUNCH's ceilings refuse. -/
theorem State.decline_stands {asid id : Nat} (named : Claims.Named s asid id x) (found : s.quote? id = some x) (quiet : x.packets = [])
    (timely : ¬ Claims.Late s x) (low : 1 ≤ x.state) (high : x.state ≤ 3) : Claims.StandsIn (s.decline asid id).2 id 6 := by
  rw [State.decline_bound named timely low high]
  exact State.moveQuote_standsIn found rfl quiet 6

/-- A LAUNCH that waits for its start. -/
theorem State.awaitStart_waits {id : Nat} (found : s.quote? id = some x) : (s.awaitStart id p).dev = s.dev ∧ (s.awaitStart id p).mem = s.mem ∧
    (s.awaitStart id p).quote? id =
      some { x with pendingLaunch := some (n64 (p.u 16 8)), packets := x.packets ++ [(p.queue, p.index, 4)] } := by
  simp only [State.awaitStart, found]
  exact ⟨rfl, rfl, State.quote?_setQuote found rfl⟩

/-- QUOTE, ACCEPT, DECLINE and LAUNCH packets (R66, R96, R97). -/
theorem quotePacketsRun : Claims.QuotePacketsRun := by
  intro s q p asid id waits
  refine ⟨fun starts => ⟨quote_full starts, fun free => ⟨quote_turnedAway starts free, quote_asks starts free⟩⟩, fun none n i mem starts => ?_,
    fun x named found quiet timely => ⟨fun starts => ⟨accept_turnedAway named timely starts, ?_⟩, fun starts =>
      ⟨decline_frees named timely found quiet starts, decline_turnedAway named timely starts⟩, ?_⟩⟩
  · simp only [List.mem_cons, List.not_mem_nil, or_false, Prod.mk.injEq] at mem
    have queue := (slot_packet starts.slot).1
    obtain ⟨rfl, rfl⟩ | ⟨rfl, rfl⟩ | ⟨rfl, rfl⟩ := mem
    · have act := accept_act starts (State.accept_unnamed (s := s.openPacket p) none)
      rw [if_pos (by decide)] at act
      exact finishes_of act queue rfl
    · have act := decline_act starts (State.decline_unnamed (s := s.openPacket p) none)
      rw [if_pos (by decide)] at act
      exact finishes_of act queue rfl
    · exact finishes_of (launch_unnamed starts none) queue rfl
  · intro quoted vector tables k kernel
    exact ⟨fun pinned plain => accept_firm named timely found quiet starts quoted vector tables kernel pinned plain,
      accept_pins named timely found quiet starts quoted vector tables kernel⟩
  · intro starts k kernel above
    have act := launch_named starts named found timely
    obtain ⟨queue, _, _⟩ := slot_packet starts.slot
    refine ⟨fun low => ?_, fun high pending => ?_, fun high free state => ?_, fun high free state unquoted => ?_⟩
    · rw [State.launchOn_below kernel low] at act
      exact finishes_of act queue fun low high => State.decline_stands (s := s.openPacket p) named found quiet timely low high
    · rw [State.launchOn_pending kernel high pending] at act
      exact finishes_of act queue rfl
    · rw [State.launchOn_accepted kernel high free state] at act
      obtain ⟨dev, mem, stands⟩ := State.awaitStart_waits (s := s.openPacket p) (p := p) found
      rw [quiet, queue] at stands
      exact ⟨_, act, dev ▸ mem_openPacket s p, mem, stands⟩
    · rw [State.launchOn_refused kernel high free state unquoted] at act
      exact finishes_of act queue rfl

end
end Sys2Proof.Machine

namespace Sys2Proof.Machine

section
variable {s t u : State} {q n id asid va pa : Nat} {p : Packet}

/-! ## SIGNAL (R66, R75) -/

theorem State.postSignalEvent_rest (s : State) (pa : Nat) (queue : Option Nat) :
    (s.postSignalEvent pa queue).mem = s.mem ∧ (s.postSignalEvent pa queue).dev.msis = s.dev.msis := by
  unfold State.postSignalEvent
  simp only
  split <;> exact ⟨rfl, rfl⟩

/-- The vector that a changed signal asks for. -/
def signalVector (d new : W64) (tick : Nat) : List (Nat × Nat × Nat) :=
  if b64 d 0 = true ∧ (b64 d 16 = false ∨ new.toInt ≤ 0) then [(f64 d 1 3, f64 d 8 8, tick)] else []

theorem State.signalChange_leaves (s : State) (pa : Nat) (new : W64) :
    (s.signalChange pa new).mem = s.mem ∧
      (s.signalChange pa new).dev.msis = s.dev.msis ++ signalVector (n64 (readLE s.mem (pa + 8) 8)) new s.tick := by
  have asks : ∀ d : W64, (b64 d 0 && (!b64 d 16 || decide (new.toInt ≤ 0))) = true ↔ b64 d 0 = true ∧ (b64 d 16 = false ∨ new.toInt ≤ 0) := by
    intro d
    rw [Bool.and_eq_true, Bool.or_eq_true, decide_eq_true_iff, Bool.not_eq_true']
  have posted : ∀ t : State, t.mem = s.mem →
      let u := if b64 (n64 (readLE s.mem (pa + 8) 8)) 17 then t.postSignalEvent pa (t.barrierQueues pa).head? else t
      u.mem = s.mem ∧ u.dev.msis = t.dev.msis := by
    intro t mem
    simp only
    split
    · exact ⟨(t.postSignalEvent_rest pa _).1.trans mem, (t.postSignalEvent_rest pa _).2⟩
    · exact ⟨mem, rfl⟩
  unfold State.signalChange signalVector
  simp only [asks]
  by_cases due : b64 (n64 (readLE s.mem (pa + 8) 8)) 0 = true ∧ (b64 (n64 (readLE s.mem (pa + 8) 8)) 16 = false ∨ new.toInt ≤ 0)
  · simp only [if_pos due]
    exact posted (s.postVector _ _) rfl
  · simp only [if_neg due, List.append_nil]
    exact posted s rfl

theorem State.dirtyVa_led {k : Nat} (leads : Claims.LeadsTo s asid va k) : s.dirtyVa asid va = s := by
  obtain ⟨pte, level, at_, walk, accessed, dirty, _⟩ := leads
  rw [State.dirtyVa, walk]
  simp only [accessed, dirty, Bool.and_self, if_true]

/-- A signal's value updated by the pool (R75). -/
theorem State.signalUpdate_leaves (wf : Memory.wf s.mem = true) (writable : Claims.Writable s (.dev pa) 8) (f : W64 → W64) :
    let old := n64 (readLE s.mem pa 8)
    let d := n64 (readLE s.mem (pa + 8) 8)
    Claims.Outside s (s.signalUpdate pa f) pa 8 ∧ n64 (readLE (s.signalUpdate pa f).mem pa 8) = f old ∧
      (s.signalUpdate pa f).dev.msis = s.dev.msis ++ if f old ≠ old then signalVector d (f old) s.tick else [] := by
  intro old d
  obtain ⟨outside, value⟩ := pokeLE_outside (addr := pa) (n := 8) wf (f old)
  have word : n64 (readLE (s.pokeLE pa 8 (f old).toNat).mem pa 8) = f old := by
    rw [value, Nat.mod_eq_of_lt (show (f old).toNat < 256 ^ 8 from (f old).isLt)]
    exact BitVec.ofNat_toNat ..
  have store : s.storeBytes (.dev pa) (leBytes 8 (f old).toNat) 1 = s.pokeLE pa 8 (f old).toNat :=
    State.storeBytes_writable (by rwa [leBytes_length])
  have stored : s.signalUpdate pa f =
      if f old = old then s.pokeLE pa 8 (f old).toNat else (s.pokeLE pa 8 (f old).toNat).signalChange pa (f old) := by
    rw [← store]
    rfl
  rw [stored]
  by_cases same : f old = old
  · rw [if_pos same, if_neg (not_not.mpr same), List.append_nil]
    exact ⟨outside, word, rfl⟩
  · obtain ⟨mem, msis⟩ := (s.pokeLE pa 8 (f old).toNat).signalChange_leaves pa (f old)
    have descriptor : readLE (s.pokeLE pa 8 (f old).toNat).mem (pa + 8) 8 = readLE s.mem (pa + 8) 8 :=
      readLE_writeLE_apart s.mem _ (by omega)
    rw [if_neg same, if_pos same, msis, descriptor]
    refine ⟨fun a out => (congrArg (readByte · a) mem).trans (outside a out), ?_, rfl⟩
    rw [mem, word]

theorem bodyOk_signal (starts : Claims.Starts s q 6 p) : p.u 24 4 < 2 := by
  have body := starts.body
  rw [Packet.bodyOk, starts.kind] at body
  simp only [Bool.and_eq_true, decide_eq_true_iff] at body
  omega

theorem signal_act (starts : Claims.Starts s q 6 p) : exec (.signal q) s = .next
    (match s.signalPlace (s.qOwner q) (p.u 8 8) with
     | none => (s.openPacket p).finish p 0x8001
     | some pa =>
       if s.signalBad (.dev pa) then (s.openPacket p).finish p 0x8001
       else (((s.openPacket p).dirtyVa (s.qOwner q) (p.u 8 8)).signalUpdate pa
         fun old => if p.u 24 4 % 2 = 0 then n64 (p.u 16 8) else old + n64 (p.u 16 8)).finish p 0x0001) :=
  starts_arm (i := .signal q) starts (execSignal.eq_1 q s) (decide_eq_true rfl)

/-- SIGNAL packets (R66, R75). -/
theorem signal_runs (starts : Claims.Starts s q 6 p) (wf : Memory.wf s.mem = true) :
    (s.signalPlace (s.qOwner q) (p.u 8 8) = none → Claims.Finishes (.signal q) s q p 0x8001 (Claims.Opened s p)) ∧
    ∀ pa, s.signalPlace (s.qOwner q) (p.u 8 8) = some pa →
      (2 ^ 18 ≤ readLE s.mem (pa + 8) 8 → Claims.Finishes (.signal q) s q p 0x8001 (Claims.Opened s p)) ∧
      (readLE s.mem (pa + 8) 8 < 2 ^ 18 → Claims.LeadsTo s (s.qOwner q) (p.u 8 8) pa → Claims.Writable s (.dev pa) 8 →
        let old := n64 (readLE s.mem pa 8)
        let new := if p.u 24 4 = 0 then n64 (p.u 16 8) else old + n64 (p.u 16 8)
        let d := n64 (readLE s.mem (pa + 8) 8)
        Claims.Finishes (.signal q) s q p 0x0001 fun u => Claims.Outside s u pa 8 ∧ n64 (readLE u.mem pa 8) = new ∧
          u.dev.msis = s.dev.msis ++
            if new ≠ old ∧ b64 d 0 = true ∧ (b64 d 16 = false ∨ new.toInt ≤ 0) then [(f64 d 1 3, f64 d 8 8, s.tick)] else []) := by
  have act := signal_act starts
  have queue := (slot_packet starts.slot).1
  refine ⟨fun none => ?_, fun pa place => ⟨fun high => ?_, ?_⟩⟩
  · rw [none] at act
    exact finishes_of act queue rfl
  · rw [place] at act
    have bad : s.signalBad (.dev pa) = true := signalBad_eq_true.mpr ⟨pa, rfl, high⟩
    simp only [if_pos bad] at act
    exact finishes_of act queue rfl
  · intro low leads writable old new d
    have fine : ¬ s.signalBad (.dev pa) = true := fun bad => by
      obtain ⟨_, same, high⟩ := signalBad_eq_true.mp bad
      rw [Loc.dev.inj same] at low
      exact absurd high (Nat.not_le.mpr low)
    have bit : (p.u 24 4 % 2 = 0) ↔ p.u 24 4 = 0 := by
      have := bodyOk_signal starts
      omega
    have led : Claims.LeadsTo (s.openPacket p) (s.qOwner q) (p.u 8 8) pa := leads
    rw [place] at act
    simp only [if_neg fine, State.dirtyVa_led led] at act
    obtain ⟨outside, value, msis⟩ := State.signalUpdate_leaves (s := s.openPacket p) wf writable
      fun old => if p.u 24 4 % 2 = 0 then n64 (p.u 16 8) else old + n64 (p.u 16 8)
    refine finishes_of act queue ⟨outside, value.trans ?_, msis.trans ?_⟩
    · simp only [bit]
      rfl
    · refine congrArg (s.dev.msis ++ ·) ?_
      simp only [bit, signalVector]
      rw [← ite_and]
      rfl

end
end Sys2Proof.Machine

namespace Sys2Proof.Machine

section
variable {s t u : State} {q n asid k : Nat} {p : Packet} {b : List W64}

/-! ## WATCH (R260) -/

/-- The block of registers that a WATCH packet holds. -/
def Packet.armBlock (p : Packet) : List W64 := (List.range 4).map fun k => n64 (p.u (8 + 8 * k) 8)

/-- A WATCH packet's word holds a code, where the device writes it to the byte that its address leads to. -/
def Told (s : State) (asid va : Nat) (u : State) (v : Int) : Prop :=
  ∀ k, Claims.LeadsTo s asid va k → Claims.Reached s k 8 → n64 (readLE u.mem k 8) = w64 v

/-- The code told, by a unit that sees the tables and the device as `s` does. -/
theorem told_writeVa (wf : Memory.wf s.mem = true) {va : Nat} (v : Int) :
    Told s asid va (s.writeVa asid va 8 (w64 v).toNat) v ∧ (s.writeVa asid va 8 (w64 v).toNat).cores = s.cores := by
  constructor
  · intro k leads reached
    rw [(State.writeVa_reached leads reached _).mem, readLE_writeLE _ _ _ wf, Nat.mod_eq_of_lt (show (w64 v).toNat < 2 ^ (8 * 8) from (w64 v).isLt)]
    exact BitVec.ofNat_toNat ..
  · obtain ⟨_, _, _, same⟩ := Writes.writeVa s asid va 8 (w64 v).toNat
    rw [same]

/-- What arming an entry leaves (R255, R257). -/
theorem State.armEntry_leaves (s : State) (n : Nat) (b : List W64) (asid : Nat) (launch : Option Nat) :
    (s.armEntry n b asid launch).mem = s.mem ∧ (s.armEntry n b asid launch).dev = s.dev ∧
      ((s.armEntry n b asid launch).core (armCore b)).watches = aput n (s.armed b asid launch) (s.core (armCore b)).watches :=
  ⟨rfl, rfl, congrArg CoreSt.watches (State.core_setCore ..)⟩

theorem watch_act (starts : Claims.Starts s q 8 p) : exec (.watch q) s = .next
    (let tell (u : State) (v : Int) : State := u.writeVa (s.qOwner q) (p.u 40 8) 8 (w64 v).toNat
     let t := s.openPacket p
     match s.armFault p.armBlock .u (s.qOwner q) with
     | some (c, _) => (tell t (if c = 0x02 then -2 else -5)).finish p 0x8001
     | none =>
       match s.armCode p.armBlock (s.qOwner q) with
       | .error e => (tell t e).finish p 0x8006
       | .ok i => (tell (t.armEntry i p.armBlock (s.qOwner q) none) i).finish p 0x0001) :=
  starts_arm (i := .watch q) starts (execWatch.eq_1 q s) (decide_eq_true rfl)

/-- WATCH packets (R260). -/
theorem watch_runs (starts : Claims.Starts s q 8 p) (wf : Memory.wf s.mem = true) :
    (∀ c v, s.armFault p.armBlock .u (s.qOwner q) = some (c, v) → Claims.Finishes (.watch q) s q p 0x8001 fun u =>
      Told s (s.qOwner q) (p.u 40 8) u (if c = 0x02 then -2 else -5) ∧ u.cores = s.cores) ∧
    (s.armFault p.armBlock .u (s.qOwner q) = none →
      (∀ e, s.armCode p.armBlock (s.qOwner q) = .error e → Claims.Finishes (.watch q) s q p 0x8006 fun u =>
        Told s (s.qOwner q) (p.u 40 8) u e ∧ u.cores = s.cores) ∧
      ∀ n, s.armCode p.armBlock (s.qOwner q) = .ok n → Claims.Finishes (.watch q) s q p 0x0001 fun u =>
        Told s (s.qOwner q) (p.u 40 8) u n ∧ ∃ x, (u.core (armCore p.armBlock)).watches =
          aput n x (s.core (armCore p.armBlock)).watches ∧ x.state = 1 ∧ x.asid = s.qOwner q ∧
            x.base = armOffset p.armBlock ∧ x.len = armLength p.armBlock ∧ x.qid = armQid p.armBlock) := by
  have act := watch_act starts
  have queue := (slot_packet starts.slot).1
  refine ⟨fun c v fault => ?_, fun fine => ⟨fun e code => ?_, fun n code => ?_⟩⟩
  · rw [fault] at act
    exact finishes_of act queue (told_writeVa (s := s.openPacket p) wf _)
  · rw [fine, code] at act
    exact finishes_of act queue (told_writeVa (s := s.openPacket p) wf e)
  · rw [fine, code] at act
    obtain ⟨mem, dev, watches⟩ := (s.openPacket p).armEntry_leaves n p.armBlock (s.qOwner q) none
    obtain ⟨told, cores⟩ := told_writeVa (s := (s.openPacket p).armEntry n p.armBlock (s.qOwner q) none) (asid := s.qOwner q) (va := p.u 40 8) wf n
    refine finishes_of act queue ⟨told, (s.openPacket p).armed p.armBlock (s.qOwner q) none, ?_, rfl, rfl, rfl, rfl, rfl⟩
    rw [State.core, cores]
    exact watches

end
end Sys2Proof.Machine

namespace Sys2Proof.Machine

section
variable {s t u : State} {q i status n asid va pa k : Nat} {p : Packet}

/-! ## What the pool has open and is told of (R66, R71) -/

/-- The packets stand, and no event that is queued or held back is lost. -/
def KeepsWork (s t : State) : Prop :=
  t.dev.packets = s.dev.packets ∧ s.dev.events ++ s.dev.heldEvents ⊆ t.dev.events ++ t.dev.heldEvents

theorem KeepsWork.refl (s : State) : KeepsWork s s := ⟨rfl, fun _ h => h⟩

theorem KeepsWork.trans (h : KeepsWork s t) (k : KeepsWork t u) : KeepsWork s u := ⟨k.1.trans h.1, fun _ e => k.2 (h.2 e)⟩

theorem Noted.keepsWork : Noted s t → KeepsWork s t := by
  rintro ⟨_, _, _, _, _, _, rfl⟩
  exact .refl s

theorem Writes.keepsWork (h : Writes s t) : KeepsWork s t := h.noted.keepsWork

theorem KeepsWork.foldl {α : Type} {f : State → α → State} (h : ∀ s x, KeepsWork s (f s x)) (l : List α) (s : State) :
    KeepsWork s (l.foldl f s) := by
  induction l generalizing s with
  | nil => exact .refl s
  | cons x l ih => exact (h s x).trans (ih (f s x))

theorem KeepsWork.storeDev (s : State) (pa : Nat) (bs : List Byte) (gen : Nat) : KeepsWork s (s.storeBytes (.dev pa) bs gen) := by
  unfold State.storeBytes State.storeFrom
  simp only
  split
  · exact (Writes.pokeDev s pa bs).keepsWork.trans (Noted.noteObject _ false pa bs.length).keepsWork
  · exact .refl s

theorem KeepsWork.dirtyVa (s : State) (asid va : Nat) : KeepsWork s (s.dirtyVa asid va) := by
  unfold State.dirtyVa
  split
  · split
    · exact .refl s
    · exact (Writes.writeDev s _ _).keepsWork
  · exact .refl s

theorem KeepsWork.nameSignal (s : State) (asid va : Nat) (on : Bool) : KeepsWork s (s.nameSignal asid va on) := by
  unfold State.nameSignal
  split
  · exact .refl s
  · exact (KeepsWork.dirtyVa s asid va).trans (.storeDev _ _ _ _)

/-- An event more. -/
theorem KeepsWork.setEvents (s : State) (es : List W64) : KeepsWork s (s.setEvents (s.dev.events ++ es)) := by
  refine ⟨rfl, fun e mem => ?_⟩
  show e ∈ s.dev.events ++ es ++ s.dev.heldEvents
  simp only [List.mem_append] at mem ⊢
  exact mem.imp_left .inl

theorem KeepsWork.postSignalEvent (s : State) (pa : Nat) (queue : Option Nat) : KeepsWork s (s.postSignalEvent pa queue) := by
  unfold State.postSignalEvent
  simp only
  split
  · exact .refl s
  · exact .setEvents s _

theorem KeepsWork.signalChange (s : State) (pa : Nat) (new : W64) : KeepsWork s (s.signalChange pa new) := by
  have posted : ∀ t : State, KeepsWork s t → ∀ on : Bool, KeepsWork s (if on then t.postSignalEvent pa (t.barrierQueues pa).head? else t) := by
    intro t kept on
    cases on
    · exact kept
    · exact kept.trans (.postSignalEvent t pa _)
  unfold State.signalChange
  simp only
  refine posted _ ?_ _
  split
  · exact ⟨rfl, fun _ h => h⟩
  · exact .refl s

theorem KeepsWork.signalUpdate (s : State) (pa : Nat) (f : W64 → W64) : KeepsWork s (s.signalUpdate pa f) := by
  unfold State.signalUpdate
  simp only
  split
  · exact .storeDev s _ _ _
  · exact (KeepsWork.storeDev s _ _ _).trans (.signalChange _ _ _)

theorem KeepsWork.poolSignal (s : State) (asid va : Nat) (f : W64 → W64) : KeepsWork s (s.poolSignal asid va f) := by
  unfold State.poolSignal
  split
  · exact (KeepsWork.dirtyVa s asid va).trans (.signalUpdate _ _ _)
  · exact .refl s

theorem KeepsWork.setDir (s : State) (q off n v : Nat) : KeepsWork s (s.setDir q off n v) := (Writes.writeDev s _ _).keepsWork

theorem KeepsWork.setFlag (s : State) (q bit : Nat) (on : Bool) : KeepsWork s (s.setFlag q bit on) := .setDir s _ _ _ _

theorem KeepsWork.takeSlot (s : State) (q : Nat) : KeepsWork s (s.takeSlot q) :=
  ((KeepsWork.setFlag { s with dev := { s.dev with mapped := s.dev.mapped.filter (· ≠ q) ++ [q] } } q 1 true).trans (.setFlag _ q 2 false) :)

theorem KeepsWork.unmap (s : State) (q : Nat) : KeepsWork s (s.unmap q) := by
  have off : KeepsWork s (({ s with dev := { s.dev with mapped := s.dev.mapped.filter (· ≠ q) } } : State).setFlag q 1 false) :=
    KeepsWork.setFlag { s with dev := { s.dev with mapped := s.dev.mapped.filter (· ≠ q) } } q 1 false
  unfold State.unmap
  simp only
  split
  · exact off.trans (.setFlag _ q 2 true)
  · exact off

theorem KeepsWork.remap (s : State) : KeepsWork s s.remap := by
  unfold State.remap
  repeat' split
  · exact .refl s
  · exact .refl s
  · exact (KeepsWork.unmap s _).trans (.takeSlot _ _)
  · exact .refl s

/-- What is posted is queued or held back. -/
theorem KeepsWork.postEvent (s : State) (kind arg : Nat) (queue : Option Nat) : KeepsWork s (s.postEvent kind arg queue) ∧
    eventWord kind arg queue ∈ (s.postEvent kind arg queue).dev.events ++ (s.postEvent kind arg queue).dev.heldEvents := by
  unfold State.postEvent
  simp only
  split
  · refine ⟨.setEvents s _, ?_⟩
    show _ ∈ s.dev.events ++ [_] ++ s.dev.heldEvents
    simp
  · refine ⟨⟨rfl, fun e mem => ?_⟩, ?_⟩
    · show e ∈ s.dev.events ++ (s.dev.heldEvents ++ [_])
      rw [← List.append_assoc]
      exact List.mem_append_left _ mem
    · show _ ∈ s.dev.events ++ (s.dev.heldEvents ++ [_])
      simp

/-- The completion of a packet without an error: it leaves the packets, and the event is posted. -/
theorem complete_work (found : s.packet? q i = some p) (fine : status < 0x8001) :
    (s.complete q i status).dev.packets = s.dev.packets.filter (fun x => !(x.queue = q && x.index = i)) ∧
      eventWord 3 i (some q) ∈ (s.complete q i status).dev.events ++ (s.complete q i status).dev.heldEvents := by
  have told : KeepsWork s (if p.signals then
      (s.writeVa (s.qOwner q) (s.slotVa q i + 2) 2 status).poolSignal (s.qOwner q) (p.u 48 8) fun v => v + n64 (p.u 56 8)
      else s.writeVa (s.qOwner q) (s.slotVa q i + 2) 2 status) := by
    have wrote := (Writes.writeVa s (s.qOwner q) (s.slotVa q i + 2) 2 status).keepsWork
    split
    · exact wrote.trans (.poolSignal _ _ _ _)
    · exact wrote
  unfold State.complete
  simp only [found, if_neg (Nat.not_le.mpr fine)]
  generalize (if p.signals = true then _ else _ : State) = x at told ⊢
  have passed := (Writes.startPacket { x with dev := { x.dev with packets := x.dev.packets.filter fun y => !(y.queue = q && y.index = i) } } q i).keepsWork
  generalize State.startPacket _ q i = y at passed ⊢
  have closed : (y.retirePackets q).dev.packets = x.dev.packets.filter fun y => !(y.queue = q && y.index = i) :=
    (KeepsWork.setDir y q 32 8 _).1.trans passed.1
  obtain ⟨kept, posted⟩ := KeepsWork.postEvent (y.retirePackets q) 3 i (some q)
  have remapped := KeepsWork.remap ((y.retirePackets q).postEvent 3 i (some q))
  refine ⟨?_, remapped.2 posted⟩
  rw [remapped.1, kept.1, closed, told.1]

end
end Sys2Proof.Machine

namespace Sys2Proof.Machine

section
variable {s t u : State} {q i status n asid va pa k : Nat} {p x : Packet}

/-! ## BARRIER (R66, R75) -/

/-- A signal is met: it can be read, and stands at 0 or below. -/
def Met (s : State) (asid va : Nat) : Prop := ∃ n, s.readVa asid va 8 = some n ∧ (n64 n).toInt ≤ 0

theorem satisfied_iff : s.satisfied asid va = true ↔ Met s asid va := by
  unfold State.satisfied State.signalValue Met
  cases s.readVa asid va 8 with
  | none => simp
  | some n => simp

/-- A BARRIER's condition, over the bit that asks for any signal (R66). -/
theorem barrierHolds_iff : s.barrierHolds p = true ↔
    if (p.u 8 1).testBit 0 then ∃ a ∈ p.barrierAddrs, Met s (s.qOwner p.queue) a else ∀ a ∈ p.barrierAddrs, Met s (s.qOwner p.queue) a := by
  unfold State.barrierHolds
  simp only
  split
  · simp only [List.any_eq_true, satisfied_iff]
  · simp only [List.all_eq_true, satisfied_iff]

theorem testBit_u (p : Packet) (off n : Nat) : (p.u off (n + 1)).testBit 0 = (p.u off 1).testBit 0 := by
  unfold Packet.u
  cases p.bytes.drop off with
  | nil => rfl
  | cons b bs =>
    simp only [List.take_succ_cons, List.take_zero, leNat, Nat.testBit_zero, Nat.mul_zero, Nat.add_zero]
    congr 1
    simp only [eq_iff_iff]
    omega

/-- A BARRIER completed: the packet has left, and the event is posted. -/
theorem barrierDone_work (found : s.packet? p.queue p.index = some x) :
    (s.barrierDone p).dev.packets = s.dev.packets.filter (fun y => !(y.queue = p.queue && y.index = p.index)) ∧
      eventWord 3 p.index (some p.queue) ∈ (s.barrierDone p).dev.events ++ (s.barrierDone p).dev.heldEvents := by
  obtain ⟨left, posted⟩ := complete_work (status := 0x0001) found (by decide)
  have unnames : ∀ (t : State) (a : Nat), KeepsWork t
      (match t.signalPlace (s.qOwner p.queue) a with
       | some pa => if t.barrierQueues pa = [] then t.nameSignal (s.qOwner p.queue) a false else t
       | none => t) := by
    intro t a
    split
    · split
      · exact .nameSignal t _ _ _
      · exact .refl t
    · exact .refl t
  have kept := KeepsWork.foldl unnames p.barrierAddrs (s.complete p.queue p.index 0x0001)
  exact ⟨kept.1.trans left, kept.2 posted⟩

/-- The signals that a BARRIER names, each with its bit set. -/
def State.nameSignals (s : State) (asid : Nat) (addrs : List Nat) : State := addrs.foldl (fun s a => s.nameSignal asid a true) s

theorem KeepsWork.nameSignals (s : State) (asid : Nat) (addrs : List Nat) : KeepsWork s (s.nameSignals asid addrs) :=
  .foldl (fun s a => .nameSignal s asid a true) addrs s

theorem barrier_act (starts : Claims.Starts s q 7 p) : exec (.barrier q) s = .next
    (let v := ((s.openPacket p).startPacket q p.index).nameSignals (s.qOwner q) p.barrierAddrs
     if v.barrierHolds p then v.barrierDone p else v) :=
  starts_arm (i := .barrier q) starts (execBarrier.eq_1 q s) (decide_eq_true rfl)

theorem packet?_of_mem (mem : p ∈ s.dev.packets) : ∃ x, s.packet? p.queue p.index = some x := by
  refine Option.isSome_iff_exists.mp (List.find?_isSome.mpr ⟨p, mem, ?_⟩)
  rw [decide_eq_true rfl, decide_eq_true rfl]
  rfl

/-- BARRIER packets (R66, R75). -/
theorem barrier_runs (starts : Claims.Starts s q 7 p) :
    let v := ((s.openPacket p).startPacket q p.index).nameSignals (s.qOwner q) p.barrierAddrs
    let holds := if (p.u 8 4).testBit 0 then ∃ a ∈ p.barrierAddrs, Met v (v.qOwner q) a else ∀ a ∈ p.barrierAddrs, Met v (v.qOwner q) a
    (¬ holds → ∃ t, exec (.barrier q) s = .next t ∧ p ∈ t.dev.packets) ∧
      (holds → ∃ t, exec (.barrier q) s = .next t ∧ (∀ x ∈ t.dev.packets, ¬(x.queue = q ∧ x.index = p.index)) ∧
        eventWord 3 p.index (some q) ∈ t.dev.events ++ t.dev.heldEvents) := by
  intro v holds
  have act := barrier_act starts
  have queue := (slot_packet starts.slot).1
  have condition : v.barrierHolds p = true ↔ holds := by
    rw [barrierHolds_iff, queue, ← testBit_u p 8 3]
  have opened : p ∈ v.dev.packets := by
    rw [((Writes.startPacket (s.openPacket p) q p.index).keepsWork.trans (.nameSignals _ _ _)).1]
    exact mem_openPacket s p
  constructor
  · intro unmet
    exact ⟨v, act.trans (congrArg _ (if_neg (mt condition.mp unmet))), opened⟩
  · intro met
    obtain ⟨x, found⟩ := packet?_of_mem opened
    obtain ⟨left, posted⟩ := barrierDone_work found
    rw [queue] at left posted
    refine ⟨v.barrierDone p, act.trans (congrArg _ (if_pos (condition.mpr met))), fun y mem => ?_, posted⟩
    rw [left, List.mem_filter] at mem
    rintro ⟨same, place⟩
    simp [same, place] at mem

end
end Sys2Proof.Machine

namespace Sys2Proof.Machine

section
variable {s t u : State} {q core off asid va k gen : Nat} {c p : Packet} {bs : List Byte} {acc : Acc}

/-! ## A granule between slices (R199, R203, R223) -/

/-- A `.b` address from no thread's place: the slice, if the range passes (R203). -/
theorem State.reach_basin (s : State) (unit asid : Nat) (root : Option W64) (level : Level) (va z : Nat) (acc : Acc) :
    s.reach unit asid root level none .b va z acc =
      if s.basinOk level asid va z acc then
        (s, .ok { loc := .slice (va / 2 ^ 24) (va % 2 ^ 24), uncached := false, via := none, va := n64 va })
      else (s, .error 0x0A) := by
  have bounded : s.basinOk level asid va z acc = true → va < 2 ^ 32 := by
    intro ok
    simp only [State.basinOk, Bool.and_eq_true, decide_eq_true_eq] at ok
    exact ok.1.1.1.1.1
  simp only [State.reach, State.slicePlace]
  by_cases ok : s.basinOk level asid va z acc = true
  · simp only [if_pos ok, if_neg (Nat.not_le.mpr (bounded ok))]
  · simp only [if_neg ok]
    split <;> rfl

theorem State.flawedAt_none (sound : s.flawed = []) (k n : Nat) : s.flawedAt k n = false := by rw [State.flawedAt, sound]; rfl

theorem State.flawedLoc_none (sound : s.flawed = []) (l : Loc) (n : Nat) : s.flawedLoc l n = false := by
  unfold State.flawedLoc
  cases l.key with
  | none => rfl
  | some k => exact State.flawedAt_none sound k n

theorem State.flawedSpan_none (sound : s.flawed = []) (addr : Nat) (ps : List (Loc × Nat)) : s.flawedSpan addr ps = none := by
  induction ps generalizing addr with
  | nil => rfl
  | cons x ps ih =>
    have none : (List.range x.2).find? (fun k => s.flawedLoc (x.1.plus k) 1) = none :=
      List.find?_eq_none.mpr fun k _ => Bool.eq_false_iff.mp (State.flawedLoc_none sound _ 1)
    simp only [State.flawedSpan, none, ih]

/-- The pieces of a granule in a slice. -/
theorem State.poolSpan_basin (sound : s.flawed = []) (asid addr : Nat) (acc : Acc) : s.poolSpan asid .b addr 64 acc =
    if s.basinOk .u asid addr 64 acc then (s, .ok [(.slice (addr / 2 ^ 24) (addr % 2 ^ 24), 64)])
    else (s, .error (0x0A, n64 addr)) := by
  unfold State.poolSpan
  simp only [reduceCtorEq, if_false, if_true, State.reach_basin]
  by_cases ok : s.basinOk .u asid addr 64 acc = true
  · simp only [if_pos ok, State.flawedSpan_none sound]
  · simp only [if_neg ok]

/-- What passes at U level lies below the grant table. -/
theorem basinOk_below (ok : s.basinOk .u asid va 64 acc = true) : va % 2 ^ 24 + 64 ≤ 0xFF0000 := by
  simp only [State.basinOk, Bool.and_eq_true, decide_eq_true_eq, Bool.or_eq_true, ne_eq, not_true_eq_false, decide_false,
    Bool.false_eq_true, false_or] at ok
  exact ok.2.1

/-- The bytes of a granule that memory holds. -/
theorem State.readSpan_slice (below : off + 64 ≤ 0xFF0000) :
    s.readSpan [(.slice core off, 64)] = (s, readBytes s.mem (sliceKey core off) 64) := by
  have held : ∀ k ∈ List.range 64, (if s.holds ((Loc.slice core off).plus k) then
      ((((Loc.slice core off).plus k).key).map (readByte s.mem)).getD 0 else 0) = readByte s.mem (sliceKey core off + k) := by
    intro k mem
    have lt := List.mem_range.mp mem
    have key : readByte s.mem (sliceKey core off + k) = readByte s.mem (sliceKey core (off + k)) := by rw [sliceKey, sliceKey, Nat.add_assoc]
    rw [key]
    refine (if_pos ?_ :)
    simp only [State.holds, Loc.plus, sliceHeld, Bool.not_eq_true', Bool.or_eq_false_iff, Bool.and_eq_false_iff, decide_eq_false_iff_not]
    omega
  simp only [State.readSpan, List.foldl_cons, List.foldl_nil, State.loadBytes, List.nil_append, readBytes_eq_map]
  rw [List.map_congr_left held]

theorem mem_of_afind {α : Type} {l : List (Nat × α)} {k : Nat} {v : α} (h : afind k l = some v) : (k, v) ∈ l := by
  induction l with
  | nil => exact nomatch h
  | cons x l ih =>
    obtain ⟨j, w⟩ := x
    rw [afind] at h
    split at h
    · next same =>
      rw [same, Option.some.inj h]
      exact List.mem_cons_self ..
    · exact List.mem_cons_of_mem _ (ih h)

/-! ## A slice that no watch guards (R261) -/

theorem State.recordChange_unwatched (quiet : Claims.Unwatched s core) (id line : Nat) (mask value : W64) (gen : Nat) :
    s.recordChange core id line mask value gen = s := by
  unfold State.recordChange
  simp only
  split
  · rfl
  · next w found =>
    have idle : w.state ≠ 1 := quiet _ (mem_of_afind found)
    rw [decide_eq_true idle, Bool.true_or]
    rfl

theorem State.noteChange_unwatched (quiet : Claims.Unwatched s core) (offs : List Nat) (gen : Nat) : s.noteChange core offs gen = s := by
  unfold State.noteChange
  refine List.foldl_fixed' (fun x => ?_) _
  simp only
  split
  · rfl
  · split
    · exact State.recordChange_unwatched quiet ..
    · exact List.foldl_fixed' (fun y => State.recordChange_unwatched quiet ..) _

/-- A granule stored below the grant table, in a slice that no watch guards. -/
theorem State.storeSlice_plain (quiet : Claims.Unwatched s core) (len : bs.length = 64) (below : off + 64 ≤ 0xFF0000) (gen : Nat) :
    s.storeSlice core off bs gen = s.pokeBytes (sliceKey core off) bs := by
  have kept : sliceKept core off bs = bs := by
    refine List.take_of_length_le ?_
    split <;> omega
  have outside : ∀ old, (s.pokeBytes (sliceKey core off) bs).noteGrants old core off 64 = s.pokeBytes (sliceKey core off) bs := by
    intro old
    refine if_pos ?_
    rw [inGrants, decide_eq_false (show ¬ grantBase < off + 64 from Nat.not_lt.mpr below), Bool.and_false]
    rfl
  unfold State.storeSlice
  simp only [kept, len, outside]
  split
  · rfl
  · exact State.noteChange_unwatched (s := s.pokeBytes (sliceKey core off) bs) quiet _ gen

theorem State.storeBytes_slice (quiet : Claims.Unwatched s core) (len : bs.length = 64) (below : off + 64 ≤ 0xFF0000) (gen : Nat) :
    s.storeBytes (.slice core off) bs gen = s.pokeBytes (sliceKey core off) bs := State.storeSlice_plain quiet len below gen

/-! ## A granule of a COPY packet (R66, R223) -/

/-- Where a granule of a COPY lies, from an end's base. -/
def Packet.granule (c : Packet) (base : Nat) : Nat := (base + 64 * c.done) % 2 ^ 64

/-- The packet put in place of the one with its queue and index. -/
theorem State.setPacket_packets (s : State) (p : Packet) : (s.setPacket p).dev.packets =
    s.dev.packets.map fun x => if x.queue = p.queue ∧ x.index = p.index then p else x := by
  refine List.map_congr_left fun x _ => ?_
  simp only [Bool.and_eq_true, decide_eq_true_eq]

/-- Where memory holds a granule of a COPY between slices, from an end's base. -/
def Packet.spot (c : Packet) (base : Nat) : Nat := sliceKey (c.granule base / 2 ^ 24) (c.granule base % 2 ^ 24)

/-- Bytes moved, and a packet that has come on. -/
theorem moved_leaves (wf : Memory.wf s.mem = true) {n : Nat} (len : bs.length = n) (k : Nat) (p : Packet) :
    let u := (s.pokeBytes k bs).setPacket p
    readBytes u.mem k n = bs ∧ Claims.Outside s u k n ∧
      u.dev.packets = s.dev.packets.map fun x => if x.queue = p.queue ∧ x.index = p.index then p else x := by
  subst len
  exact ⟨readBytes_writeBytes bs k wf, fun a out => readByte_writeBytes_other bs k s.mem out, State.setPacket_packets (s.pokeBytes k bs) p⟩

/-- What moving a granule between slices leaves. -/
def State.granuleMoved (s : State) (c : Packet) : State :=
  (s.pokeBytes (c.spot (c.u 16 8)) (readBytes s.mem (c.spot (c.u 8 8)) 64)).setPacket { c with done := c.done + 1 }

section
variable (sound : s.flawed = []) (spaces : c.u 32 4 = 9) (left : 64 * c.done + 64 ≤ c.u 24 8)
include sound spaces left

theorem State.poolGranule_unreadable (bad : s.basinOk .u (s.qOwner c.queue) (c.granule (c.u 8 8)) 64 .load = false) :
    s.poolGranule c = s.poolHalt c (0x0A, n64 (c.granule (c.u 8 8))) := by
  have more : ¬ c.u 24 8 / 64 ≤ c.done := by omega
  have source := State.poolSpan_basin sound (s.qOwner c.queue) (c.granule (c.u 8 8)) .load
  rw [if_neg (Bool.eq_false_iff.mp bad)] at source
  unfold State.poolGranule
  simp only [if_neg more, spaces, ← Packet.granule.eq_1]
  rw [show poolSpace (9 % 8) = .b from rfl, source]

theorem State.poolGranule_moves (quiet : Claims.Unwatched s (c.granule (c.u 16 8) / 2 ^ 24))
    (load : s.basinOk .u (s.qOwner c.queue) (c.granule (c.u 8 8)) 64 .load = true)
    (store : s.basinOk .u (s.qOwner c.queue) (c.granule (c.u 16 8)) 64 .store = true) :
    s.poolGranule c =
      if c.u 24 8 / 64 ≤ c.done + 1 then (s.granuleMoved c).complete c.queue c.index 0x0001 else s.granuleMoved c := by
  have more : ¬ c.u 24 8 / 64 ≤ c.done := by omega
  have source := State.poolSpan_basin sound (s.qOwner c.queue) (c.granule (c.u 8 8)) .load
  have target := State.poolSpan_basin sound (s.qOwner c.queue) (c.granule (c.u 16 8)) .store
  rw [if_pos load] at source
  rw [if_pos store] at target
  have stored := State.storeBytes_slice quiet (readBytes_length s.mem (c.spot (c.u 8 8)) 64)
    (basinOk_below store) 1
  unfold State.poolGranule
  simp only [if_neg more, spaces, ← Packet.granule.eq_1]
  rw [show poolSpace (9 % 8) = .b from rfl, source]
  simp only [target, State.readSpan_slice (basinOk_below load), State.writeSpan, State.engineStore,
    ← Packet.spot.eq_1,
    List.take_of_length_le (Nat.le_of_eq (readBytes_length s.mem _ 64)), stored]
  rfl

end

end
end Sys2Proof.Machine

namespace Sys2Proof.Machine

section
variable {s : State} {q : Nat} {c p : Packet}

/-! ## COPY (R66, R67) -/

theorem copyOpen_queue (opened : s.copyOpen q = some c) : c.queue = q := by
  have chosen := List.find?_some opened
  simp only [Bool.and_eq_true, decide_eq_true_eq] at chosen
  exact chosen.1.1.1

/-- A COPY that starts: the read index passes it. -/
theorem copy_opens (starts : Claims.Starts s q 5 p) (closed : s.copyOpen q = none) :
    exec (.copy q) s = .next ((s.openPacket p).startPacket q p.index) := by
  have kind : decide (p.kind = 5) = true := decide_eq_true starts.kind
  rw [copy_starts closed, packetArm_sound starts.slot kind starts.head starts.body]

/-- With no COPY to start, the open one moves. -/
theorem copy_moves (opened : s.copyOpen q = some c) (idle : ∀ p, s.slot q = .packet p → p.kind ≠ 5) :
    exec (.copy q) s = .next (s.poolGranule c) := by
  show execCopy q s = _
  unfold execCopy
  simp only [opened]
  cases slot : s.slot q with
  | none => rfl
  | unreadable => rfl
  | packet p => simp only [decide_eq_false (idle p slot)]

/-- A granule moved: its bytes are in place, and the packet has come on. -/
theorem copy_granule (wf : Memory.wf s.mem = true) (sound : s.flawed = []) (opened : s.copyOpen q = some c)
    (idle : ∀ p, s.slot q = .packet p → p.kind ≠ 5) (spaces : c.u 32 4 = 9) (left : 64 * c.done + 64 ≤ c.u 24 8)
    (quiet : Claims.Unwatched s (c.granule (c.u 16 8) / 2 ^ 24)) (load : s.basinOk .u (s.qOwner q) (c.granule (c.u 8 8)) 64 .load = true)
    (store : s.basinOk .u (s.qOwner q) (c.granule (c.u 16 8)) 64 .store = true) :
    ∃ u, readBytes u.mem (c.spot (c.u 16 8)) 64 = readBytes s.mem (c.spot (c.u 8 8)) 64 ∧ Claims.Outside s u (c.spot (c.u 16 8)) 64 ∧
      u.dev.packets = s.dev.packets.map (fun x => if x.queue = q ∧ x.index = c.index then { c with done := c.done + 1 } else x) ∧
      exec (.copy q) s = .next (if c.u 24 8 / 64 ≤ c.done + 1 then u.complete q c.index 0x0001 else u) := by
  obtain rfl := copyOpen_queue opened
  have moved := State.poolGranule_moves sound spaces left quiet load store
  obtain ⟨bytes, outside, packets⟩ := moved_leaves wf (readBytes_length s.mem (c.spot (c.u 8 8)) 64) (c.spot (c.u 16 8)) { c with done := c.done + 1 }
  exact ⟨s.granuleMoved c, bytes, outside, packets, (copy_moves opened idle).trans (congrArg _ moved)⟩

/-- A granule that the owner may not read: the packet stops with a record. -/
theorem copy_stops (sound : s.flawed = []) (opened : s.copyOpen q = some c) (idle : ∀ p, s.slot q = .packet p → p.kind ≠ 5)
    (spaces : c.u 32 4 = 9) (left : 64 * c.done + 64 ≤ c.u 24 8) (bad : s.basinOk .u (s.qOwner q) (c.granule (c.u 8 8)) 64 .load = false) :
    ∃ t r, exec (.copy q) s = .next t ∧ t.mem = s.mem ∧ t.dev.records = s.dev.records ++ [r] ∧ r.kind = 1 ∧
      r.cause = 0x0A ∧ r.core = 0xFFFF ∧ r.stval = n64 (c.granule (c.u 8 8)) ∧ r.info = n64 c.done ∧ r.pc = n64 c.index ∧
      t.dev.packets = s.dev.packets.map (fun x => if x.queue = q ∧ x.index = c.index then { c with stopped := true } else x) := by
  obtain rfl := copyOpen_queue opened
  have halted := State.poolGranule_unreadable sound spaces left bad
  have packets := State.setPacket_packets s { c with stopped := true }
  exact ⟨_, _, (copy_moves opened idle).trans (congrArg _ halted), rfl, rfl, rfl, rfl, rfl, rfl, rfl, rfl, packets⟩

end

/-- COPY, SIGNAL, BARRIER and WATCH packets (R66, R75, R223, R260). -/
theorem otherPacketsRun : Claims.OtherPacketsRun := by
  constructor
  · intro s q c wf sound opened idle spaces left asid src dst at_ same
    exact ⟨fun load store quiet => copy_granule wf sound opened idle spaces left quiet load store,
      fun bad => copy_stops sound opened idle spaces left bad⟩
  · intro s q p wf asid w
    exact ⟨fun starts closed => copy_opens starts closed, fun starts => signal_runs starts wf,
      fun starts => barrier_runs starts, fun starts => watch_runs starts wf⟩

end Sys2Proof.Machine

namespace Sys2Proof.Machine

section
variable {s t u : State} {q idx core pa kind arg k : Nat} {e : W64} {p : Packet}

/-! ## Wake registers (R70) -/

theorem State.unhalt_admits (s : State) (announced : s.qFlag q 3 = false) : q ∉ (s.unhalt q).dev.halted := by
  rw [State.unhalt, announced]
  simp

/-- A store to a wake register in normal service is dropped with an entry. -/
theorem wakeStore_drops (normal : s.dev.fslot.extractLsb' 5 2 = 0) (v : W64) :
    s.wakeStore q v = s.log 0x05 0xFF 0xFFFF 0 0 (n64 q) := if_pos normal

theorem wakeStore_posts (serves : s.dev.fslot.extractLsb' 5 2 ≠ 0) (small : q < 4096) (v : W64) :
    s.wakeStore q v = s.postWake q (f64 v 0 48) := by
  rw [State.wakeStore, if_neg serves, Nat.mod_eq_of_lt small]

theorem wakeRegister_stores (small : q < 4096) (lit : s.dev.dark = false) (v : W64) :
    exec (.wakeRegisterStore q v) s = .next (s.wakeStore q v) := if_pos (by rw [lit, decide_eq_true small]; rfl)

/-- Wake registers (R68, R70). -/
theorem wakeRegisters_serve (small : q < 4096) (lit : s.dev.dark = false) (v : W64) :
    (s.dev.fslot.extractLsb' 5 2 = 0 → ∃ t, exec (.wakeRegisterStore q v) s = .next t ∧ t.mem = s.mem ∧
      t.dev.events = s.dev.events ∧ Claims.Logged s t 0x05 0xFF 0xFFFF 0 0 (n64 q)) ∧
    (s.dev.fslot.extractLsb' 5 2 ≠ 0 → ∃ t, exec (.wakeRegisterStore q v) s = .next t ∧ t.mem = s.mem ∧
      ((readLE s.mem (s.dev.qdir + 64 * q + 14) 2).testBit 3 = false → q ∉ t.dev.halted) ∧
      ((∀ e ∈ s.dev.events, ¬ (f64 e 13 3 = 1 ∧ b64 e 12 = true ∧ f64 e 0 12 = q)) →
        t.dev.events = s.dev.events ++ [Claims.eventOf 1 (f64 v 0 48) (some q)]) ∧
      ((∃ e ∈ s.dev.events, f64 e 13 3 = 1 ∧ b64 e 12 = true ∧ f64 e 0 12 = q) →
        t.dev.events = s.dev.events.map fun e =>
          if f64 e 13 3 = 1 ∧ b64 e 12 = true ∧ f64 e 0 12 = q then Claims.eventOf 1 (max (f64 e 16 48) (f64 v 0 48)) (some q)
          else e)) := by
  have act := wakeRegister_stores small lit v
  refine ⟨fun normal => ?_, fun serves => ?_⟩
  · rw [wakeStore_drops normal] at act
    have rest := s.log_box 0x05 0xFF 0xFFFF 0 0 (n64 q)
    exact ⟨_, act, by rw [rest], by rw [rest], logged_of (t := s) rfl rfl rfl rfl⟩
  · rw [wakeStore_posts serves small] at act
    refine ⟨_, act, State.postWake_mem .., fun announced => ?_, State.postWake_new, fun pending => State.postWake_merged pending (f64_lt v 0 48)⟩
    rw [State.postWake_rest]
    exact s.unhalt_admits announced

/-! ## The service of an event (R71, R72) -/

theorem eventWord_fields (kind_ : kind < 8) (arg_ : arg < 2 ^ 48) :
    evKind (eventWord kind arg (some q)) = kind ∧ evArg (eventWord kind arg (some q)) = arg ∧
      evQueue (eventWord kind arg (some q)) = some (q % 4096) := by
  have lt : arg % 2 ^ 48 * 65536 + kind * 8192 + (4096 + q % 4096) < 2 ^ 64 := by omega
  refine ⟨?_, ?_, evQueue_eq_some.mpr ⟨?_, ?_⟩⟩
  · rw [evKind, eventWord, f64_n64 lt]
    omega
  · rw [evArg, eventWord, f64_n64 lt]
    omega
  · rw [b64, eventWord, n64, BitVec.getLsbD_ofNat, Nat.testBit_eq_decide_div_mod_eq]
    simp
    omega
  · rw [eventWord, f64_n64 lt]
    omega

theorem eventWord_unqueued (kind_ : kind < 8) (arg_ : arg < 2 ^ 48) :
    evKind (eventWord kind arg none) = kind ∧ evArg (eventWord kind arg none) = arg ∧ evQueue (eventWord kind arg none) = none := by
  have lt : arg % 2 ^ 48 * 65536 + kind * 8192 + 0 < 2 ^ 64 := by omega
  refine ⟨?_, ?_, ?_⟩
  · rw [evKind, eventWord, f64_n64 lt]
    omega
  · rw [evArg, eventWord, f64_n64 lt]
    omega
  · have clear : b64 (eventWord kind arg none) 12 = false := by
      rw [b64, eventWord, n64, BitVec.getLsbD_ofNat, Nat.testBit_eq_decide_div_mod_eq]
      simp
      omega
    rw [evQueue, clear]
    rfl

/-- The event queue left empty. -/
def State.quieted (s : State) : State := { s with dev := { s.dev with events := [], heldEvents := [] } }

/-- The only event, of a kind and free to be delivered, is the next of its kind; taken, it leaves none. -/
theorem State.nextEvent_only (events : s.dev.events = [e]) (held : s.dev.heldEvents = []) (deliverable : s.deliverable e = true) :
    s.nextEvent (evKind e) = some e ∧ s.takeWith e = s.quieted := by
  have before : eventsBefore e [e] = [] := by simp [eventsBefore]
  constructor
  · unfold State.nextEvent
    rw [events]
    simp [deliverable, before]
  · have left : [e].erase e = [] := by simp
    unfold State.takeWith
    rw [events, before, List.foldl_nil]
    unfold State.takeEvent
    simp only [events, held, left]
    rfl

/-! ## A queue mapped (R73) -/

/-- Memory after a queue has taken a slot: flag 1 set, flag 2 clear. -/
def mappedMem (s : State) (q : Nat) : List Host.Cell :=
  writeLE (writeLE s.mem (s.dirKey q + 14) 2 (withFlag (s.qFlags q) 1 true)) (s.dirKey q + 14) 2
    (withFlag (withFlag (s.qFlags q) 1 true) 2 false)

/-- Flag 1 set, then flag 2 cleared. -/
theorem State.flagMapped_writes (wf : Memory.wf s.mem = true) (entry : Claims.Reached s (s.dirKey q) 64) :
    WritesTo s ((s.setFlag q 1 true).setFlag q 2 false) (mappedMem s q) := by
  have mapped := State.setFlag_writes entry 1 true
  have served := State.setFlag_writes (s := s.setFlag q 1 true) (q := q) (by rw [mapped.dirKey]; exact mapped.reached entry) 2 false
  have flags : (s.setFlag q 1 true).qFlags q = withFlag (s.qFlags q) 1 true := by
    rw [State.qFlags, State.dirU, mapped.mem, mapped.dirKey, readLE_writeLE _ _ _ wf]
    exact Nat.mod_eq_of_lt (withFlag_mapped (s.qFlags_lt q)).1
  rw [flags, mapped.mem, mapped.dirKey] at served
  exact mapped.trans served

theorem mappedMem_fields (wf : Memory.wf s.mem = true) (q : Nat) :
    let m := mappedMem s q
    (readLE m (s.dirKey q + 14) 2).testBit 1 = true ∧ (readLE m (s.dirKey q + 14) 2).testBit 2 = false ∧
      (readLE m (s.dirKey q + 14) 2).testBit 3 = (s.qFlags q).testBit 3 ∧
      (∀ k n, (k + n ≤ s.dirKey q + 14 ∨ s.dirKey q + 16 ≤ k) → readLE m k n = readLE s.mem k n) ∧
      ∀ a, (a < s.dirKey q ∨ s.dirKey q + 64 ≤ a) → readByte m a = readByte s.mem a := by
  intro m
  obtain ⟨small, one, three⟩ := withFlag_mapped (s.qFlags_lt q)
  obtain ⟨small', two, one', three'⟩ := withFlag_served small
  have flags : readLE m (s.dirKey q + 14) 2 = withFlag (withFlag (s.qFlags q) 1 true) 2 false :=
    (readLE_writeLE _ _ _ (wf_writeLE _ _ _ wf)).trans (Nat.mod_eq_of_lt small')
  rw [flags]
  refine ⟨one'.trans one, two, three'.trans three, fun k n out => ?_, fun a out => ?_⟩
  · exact (readLE_writeLE_apart _ _ (by omega)).trans (readLE_writeLE_apart _ _ (by omega))
  · exact (readByte_writeLE_other _ _ (by omega)).trans (readByte_writeLE_other _ _ (by omega))

theorem State.mapQueue_room (room : s.dev.mapped.length < 1024) (q : Nat) : s.mapQueue q = s.takeSlot q := by
  refine if_pos ?_
  rw [decide_eq_true room, Bool.or_true]

/-- A queue mapped while there is room: its flags in the entry, and its place. -/
theorem State.mapQueue_leaves (wf : Memory.wf s.mem = true) (entry : Claims.Reached s (s.dirKey q) 64) (room : s.dev.mapped.length < 1024) :
    let t := s.mapQueue q
    t.mem = mappedMem s q ∧ t.dev = { s.dev with mapped := s.dev.mapped.filter (· ≠ q) ++ [q] } := by
  intro t
  have same : t = s.takeSlot q := State.mapQueue_room room q
  have writes := State.flagMapped_writes (s := { s with dev := { s.dev with mapped := s.dev.mapped.filter (· ≠ q) ++ [q] } }) wf entry
  rw [same]
  exact ⟨writes.mem, writes.dev⟩

end
end Sys2Proof.Machine

namespace Sys2Proof.Machine

section
variable {s t u : State} {q idx core pa kind arg k : Nat} {e : W64} {p : Packet}

/-! ## A wake served (R69, R73) -/

/-- A wake that is the only event, free to be delivered, is served. -/
theorem wakeEvent_act (core_ : core < 12) (small : q < 4096) (fits : idx < 2 ^ 48) (events : s.dev.events = [Claims.eventOf 1 idx (some q)])
    (held : s.dev.heldEvents = []) (delivers : s.dev.suspended = false) (free : afind (q % 256) s.dev.locks = none) :
    exec (.wakeEvent core) s = .next (s.quieted.serveWake q idx) := by
  rw [← eventWord_eq_eventOf] at events
  obtain ⟨kind, arg, queue⟩ := eventWord_fields (q := q) (kind := 1) (by decide) fits
  rw [Nat.mod_eq_of_lt small] at queue
  have deliverable : s.deliverable (eventWord 1 idx (some q)) = true := by
    refine State.deliverable_iff.mpr ⟨delivers, fun _ => ?_⟩
    rw [(evQueue_eq_some.mp queue).2]
    exact free
  obtain ⟨next, taken⟩ := State.nextEvent_only events held deliverable
  rw [kind] at next
  show execWakeEvent core s = _
  unfold execWakeEvent
  simp only [next, decide_eq_true core_, taken, queue, arg]

theorem State.serveWake_unregistered (unregistered : s.qFlag q 0 = false) (idx : Nat) : s.serveWake q idx = s :=
  if_neg (Bool.eq_false_iff.mp unregistered)

theorem State.serveWake_registered (registered : s.qFlag q 0 = true) (idx : Nat) :
    s.serveWake q idx = (s.serveIndex q idx).mapQueue q := if_pos registered

/-- An index within the queue's size is taken, where it is the larger. -/
theorem State.serveIndex_takes (entry : Claims.Reached s (s.dirKey q) 64) (fits : idx ≤ s.qRetire q + s.qSize q ∨ idx ≤ s.qWrite q) :
    WritesTo s (s.serveIndex q idx) (if idx ≤ s.qWrite q then s.mem else writeLE s.mem (s.dirKey q + 16) 8 idx) := by
  unfold State.serveIndex
  by_cases old : idx ≤ s.qWrite q
  · simp only [if_pos old]
    exact .refl s
  · have within : ¬ s.qRetire q + s.qSize q < idx := by omega
    simp only [if_neg old, if_neg within]
    exact State.setDir_writes entry (by decide) idx

/-- An index beyond the queue's size: a status in the slot at the read index, and the queue stops. -/
theorem State.serveIndex_stops (new : s.qWrite q < idx) (beyond : s.qRetire q + s.qSize q < idx) :
    s.serveIndex q idx = (s.writeVa (s.qOwner q) (s.slotVa q (s.qRead q) + 2) 2 0x8007).stopQueue q (s.qRead q) :=
  (if_neg (Nat.not_le.mpr new)).trans (if_pos beyond)

theorem Writes.writesTo (h : Writes s t) : WritesTo s t t.mem := by
  obtain ⟨_, _, _, rfl⟩ := h
  exact ⟨_, _, rfl⟩

section
variable (entry : Claims.Reached s (s.dirKey q) 64) (room : s.dev.mapped.length < 1024)
include entry room

/-- A queue mapped after its entry or a slot has been written. -/
theorem mapped_after {m : List Host.Cell} (writes : WritesTo s u m) (wfm : Memory.wf m = true) (apart : readLE m (s.dirKey q + 14) 2 = n) :
    let t := u.mapQueue q
    t.dev = { s.dev with mapped := s.dev.mapped.filter (· ≠ q) ++ [q] } ∧
      (readLE t.mem (s.dirKey q + 14) 2).testBit 1 = true ∧ (readLE t.mem (s.dirKey q + 14) 2).testBit 2 = false ∧
      (readLE t.mem (s.dirKey q + 14) 2).testBit 3 = n.testBit 3 ∧
      (∀ k n, (k + n ≤ s.dirKey q + 14 ∨ s.dirKey q + 16 ≤ k) → readLE t.mem k n = readLE m k n) ∧
      ∀ a, (a < s.dirKey q ∨ s.dirKey q + 64 ≤ a) → readByte t.mem a = readByte m a := by
  intro t
  obtain ⟨mem, dev⟩ := State.mapQueue_leaves (s := u) (q := q) (by rw [writes.mem]; exact wfm)
    (by rw [writes.dirKey]; exact writes.reached entry) (by rw [writes.dev]; exact room)
  have fields := mappedMem_fields (s := u) (by rw [writes.mem]; exact wfm) q
  rw [State.qFlags, State.dirU, writes.dirKey, writes.mem, apart, ← mem] at fields
  obtain ⟨one, two, three, kept, outside⟩ := fields
  refine ⟨?_, one, two, three, kept, outside⟩
  rw [dev, writes.dev]

/-- A wake within the queue's size (R69). -/
theorem wake_takes (wf : Memory.wf s.mem = true) (lt : idx < 2 ^ 64) (fits : idx ≤ s.qRetire q + s.qSize q ∨ idx ≤ s.qWrite q) :
    let t := (s.serveIndex q idx).mapQueue q
    t.dev = { s.dev with mapped := s.dev.mapped.filter (· ≠ q) ++ [q] } ∧
      readLE t.mem (s.dirKey q + 16) 8 = max (s.qWrite q) idx ∧ Claims.Outside s t (s.dirKey q) 64 ∧
      (readLE t.mem (s.dirKey q + 14) 2).testBit 1 = true ∧ (readLE t.mem (s.dirKey q + 14) 2).testBit 2 = false ∧
      (readLE t.mem (s.dirKey q + 14) 2).testBit 3 = (s.qFlags q).testBit 3 := by
  intro t
  have writes := State.serveIndex_takes entry fits
  have memory : ∀ m, m = (if idx ≤ s.qWrite q then s.mem else writeLE s.mem (s.dirKey q + 16) 8 idx) →
      Memory.wf m = true ∧ readLE m (s.dirKey q + 14) 2 = s.qFlags q ∧ readLE m (s.dirKey q + 16) 8 = max (s.qWrite q) idx ∧
        ∀ a, (a < s.dirKey q ∨ s.dirKey q + 64 ≤ a) → readByte m a = readByte s.mem a := by
    rintro m rfl
    by_cases old : idx ≤ s.qWrite q
    · rw [if_pos old]
      exact ⟨wf, rfl, (Nat.max_eq_left old).symm, fun a out => rfl⟩
    · rw [if_neg old]
      refine ⟨wf_writeLE _ _ _ wf, readLE_writeLE_apart _ _ (by omega), ?_, fun a out => readByte_writeLE_other _ _ (by omega)⟩
      rw [readLE_writeLE _ _ _ wf, Nat.mod_eq_of_lt (show idx < 2 ^ (8 * 8) from lt), Nat.max_eq_right (by omega)]
  generalize (if idx ≤ s.qWrite q then s.mem else writeLE s.mem (s.dirKey q + 16) 8 idx) = m at writes memory
  obtain ⟨wfm, flags, index, outside⟩ := memory m rfl
  obtain ⟨dev, one, two, three, kept, outside'⟩ := mapped_after entry room writes wfm flags
  refine ⟨dev, ?_, fun a out => (outside' a out).trans (outside a out), one, two, three⟩
  rw [kept _ _ (by omega), index]

/-- A wake beyond the queue's size maps it all the same. -/
theorem wake_stops_dev {w : State} {m : List Host.Cell} (writes : WritesTo s w m) (wfm : Memory.wf m = true) (i : Nat) :
    ((w.stopQueue q i).mapQueue q).dev = { s.dev with mapped := s.dev.mapped.filter (· ≠ q) ++ [q] } := by
  have stop := State.stopQueue_writes (s := w) (q := q) (by rw [writes.dirKey]; exact writes.reached entry) i
  have wfs := wf_stoppedMem (s := w) (by rw [writes.mem]; exact wfm) q i
  exact (mapped_after entry room (writes.trans stop) wfs rfl).1

/-- A wake beyond the queue's size, its status written or not (R69). -/
theorem wake_stops {w : State} {m : List Host.Cell} (writes : WritesTo s w m) (wfm : Memory.wf m = true)
    (apart : ∀ off n, off + n ≤ 64 → readLE m (s.dirKey q + off) n = readLE s.mem (s.dirKey q + off) n) :
    let t := (w.stopQueue q (s.qRead q)).mapQueue q
    (readLE t.mem (s.dirKey q + 14) 2).testBit 3 = true ∧ readLE t.mem (s.dirKey q + 40) 8 = s.qRead q ∧
      readLE t.mem (s.dirKey q + 16) 8 = s.qWrite q ∧ readLE t.mem (s.dirKey q + 24) 8 = s.qRead q ∧
      (∀ k n, (k + n ≤ s.dirKey q ∨ s.dirKey q + 64 ≤ k) → readLE t.mem k n = readLE m k n) ∧
      ∀ a, (a < s.dirKey q ∨ s.dirKey q + 64 ≤ a) → readByte t.mem a = readByte m a := by
  intro t
  have key : w.dirKey q = s.dirKey q := writes.dirKey q
  have stop := State.stopQueue_writes (s := w) (q := q) (by rw [key]; exact writes.reached entry) (s.qRead q)
  have fields := stoppedMem_fields (s := w) (by rw [writes.mem]; exact wfm) q (s.qRead q)
  have wfs := wf_stoppedMem (s := w) (by rw [writes.mem]; exact wfm) q (s.qRead q)
  generalize stoppedMem w q (s.qRead q) = m' at stop fields wfs
  rw [key, writes.mem] at fields
  obtain ⟨stopped, index, kept, outside⟩ := fields
  obtain ⟨_, _, _, three, kept', outside'⟩ := mapped_after entry room (writes.trans stop) wfs rfl
  refine ⟨three.trans stopped, ?_, ?_, ?_, fun k n out => ?_, fun a out => (outside' a out).trans (outside a out)⟩
  · rw [kept' _ _ (by omega), index]
    exact Nat.mod_eq_of_lt (s.dirU_lt q 24 8)
  · rw [kept' _ _ (by omega), kept _ _ (by omega) (by omega)]
    exact apart 16 8 (by decide)
  · rw [kept' _ _ (by omega), kept _ _ (by omega) (by omega)]
    exact apart 24 8 (by decide)
  · rw [kept' _ _ (by omega), kept _ _ (by omega) (by omega)]

/-- The queue has stopped at its read index, and its indices stand. -/
def StoppedThere (s t : State) (q : Nat) : Prop :=
  (readLE t.mem (s.dirKey q + 14) 2).testBit 3 = true ∧ readLE t.mem (s.dirKey q + 40) 8 = s.qRead q ∧
    readLE t.mem (s.dirKey q + 16) 8 = s.qWrite q ∧ readLE t.mem (s.dirKey q + 24) 8 = s.qRead q

/-- A wake beyond the queue's size (R69): the slot at the read index takes the status where it has a place. -/
theorem wake_overruns (wf : Memory.wf s.mem = true) :
    let slot := s.slotVa q (s.qRead q) + 2
    let t := ((s.writeVa (s.qOwner q) slot 2 0x8007).stopQueue q (s.qRead q)).mapQueue q
    t.dev = { s.dev with mapped := s.dev.mapped.filter (· ≠ q) ++ [q] } ∧
      (s.place (s.qOwner q) slot = none → StoppedThere s t q ∧ Claims.Outside s t (s.dirKey q) 64) ∧
      ∀ k, Claims.LeadsTo s (s.qOwner q) slot k → Claims.Reached s k 2 → (k + 2 ≤ s.dirKey q ∨ s.dirKey q + 64 ≤ k) →
        StoppedThere s t q ∧ readLE t.mem k 2 = 0x8007 ∧
          ∀ a, (a < k ∨ k + 2 ≤ a) → (a < s.dirKey q ∨ s.dirKey q + 64 ≤ a) → readByte t.mem a = readByte s.mem a := by
  intro slot t
  have wrote := (Writes.writeVa s (s.qOwner q) slot 2 0x8007).writesTo
  have wfw := (Keeps.writeVa s (s.qOwner q) slot 2 0x8007).mem wf
  refine ⟨wake_stops_dev entry room wrote wfw (s.qRead q), fun unmapped => ?_, fun k leads reached apart => ?_⟩
  · have same : t = (s.stopQueue q (s.qRead q)).mapQueue q :=
      congrArg (fun w : State => (w.stopQueue q (s.qRead q)).mapQueue q) (State.writeVa_unmapped unmapped)
    obtain ⟨stopped, at_, write, read, _, outside⟩ := wake_stops entry room (.refl s) wf fun off n fits => rfl
    rw [StoppedThere, same]
    exact ⟨⟨stopped, at_, write, read⟩, outside⟩
  · obtain ⟨stopped, at_, write, read, kept, outside⟩ :=
      wake_stops entry room (State.writeVa_reached leads reached 0x8007) (wf_writeLE _ _ _ wf)
        fun off n fits => readLE_writeLE_apart s.mem 0x8007 (by omega)
    refine ⟨⟨stopped, at_, write, read⟩, ?_, fun a status entry => ?_⟩
    · exact (kept k 2 apart).trans (readLE_writeLE k 2 0x8007 wf)
    · exact (outside a entry).trans (readByte_writeLE_other 0x8007 s.mem status)

end

/-- The last of the mapped queues. -/
theorem mapped_last {d d' : Dev} (h : d' = { d with mapped := d.mapped.filter (· ≠ q) ++ [q] }) : d'.mapped.getLast? = some q := by
  rw [h]
  simp

/-- The service of a wake (R69, R73). -/
theorem wakes_serve (core_ : core < 12) (small : q < 4096) (fits : idx < 2 ^ 48) (events : s.dev.events = [Claims.eventOf 1 idx (some q)])
    (held : s.dev.heldEvents = []) (delivers : s.dev.suspended = false) (free : afind (q % 256) s.dev.locks = none)
    (wf : Memory.wf s.mem = true) (entry : Claims.Reached s (s.dev.qdir + 64 * q) 64) :
    let dir := s.dev.qdir + 64 * q
    let word (off n : Nat) := readLE s.mem (dir + off) n
    ((word 14 2).testBit 0 = false → ∃ t, exec (.wakeEvent core) s = .next t ∧ t.mem = s.mem ∧ t.dev.events = [] ∧
      t.dev.mapped = s.dev.mapped) ∧
    ((word 14 2).testBit 0 = true → s.dev.mapped.length < 1024 →
      (idx ≤ word 32 8 + max 1 (word 8 4) ∨ idx ≤ word 16 8 →
        ∃ t, exec (.wakeEvent core) s = .next t ∧ t.dev.events = [] ∧ t.dev.mapped.getLast? = some q ∧
          readLE t.mem (dir + 16) 8 = max (word 16 8) idx ∧ Claims.Outside s t dir 64 ∧
          (readLE t.mem (dir + 14) 2).testBit 1 = true ∧ (readLE t.mem (dir + 14) 2).testBit 2 = false ∧
          (readLE t.mem (dir + 14) 2).testBit 3 = (word 14 2).testBit 3) ∧
      (word 16 8 < idx → word 32 8 + max 1 (word 8 4) < idx →
        ∃ t, exec (.wakeEvent core) s = .next t ∧ t.dev.events = [] ∧ t.dev.packets = s.dev.packets ∧
          t.dev.mapped.getLast? = some q ∧
          let stopped := (readLE t.mem (dir + 14) 2).testBit 3 = true ∧ readLE t.mem (dir + 40) 8 = word 24 8 ∧
            readLE t.mem (dir + 16) 8 = word 16 8 ∧ readLE t.mem (dir + 24) 8 = word 24 8
          (s.place (word 12 2) (s.slotVa q (word 24 8) + 2) = none → stopped ∧ Claims.Outside s t dir 64) ∧
          ∀ k, Claims.LeadsTo s (word 12 2) (s.slotVa q (word 24 8) + 2) k → Claims.Reached s k 2 → (k + 2 ≤ dir ∨ dir + 64 ≤ k) →
            stopped ∧ readLE t.mem k 2 = 0x8007 ∧
            ∀ a, (a < k ∨ k + 2 ≤ a) → (a < dir ∨ dir + 64 ≤ a) → readByte t.mem a = readByte s.mem a)) := by
  intro dir word
  have act := wakeEvent_act core_ small fits events held delivers free
  refine ⟨fun unregistered => ?_, fun registered room => ?_⟩
  · rw [State.serveWake_unregistered (s := s.quieted) unregistered] at act
    exact ⟨_, act, rfl, rfl, rfl⟩
  · rw [State.serveWake_registered (s := s.quieted) registered] at act
    refine ⟨fun within => ?_, fun new beyond => ?_⟩
    · obtain ⟨dev, index, outside, one, two, three⟩ := wake_takes (s := s.quieted) entry room wf (by omega) within
      exact ⟨_, act, by rw [dev]; rfl, mapped_last dev, index, outside, one, two, three⟩
    · rw [State.serveIndex_stops (s := s.quieted) new beyond] at act
      obtain ⟨dev, unmapped, mapped⟩ := wake_overruns (s := s.quieted) (q := q) entry room wf
      exact ⟨_, act, by rw [dev]; rfl, by rw [dev]; rfl, mapped_last dev, unmapped, mapped⟩

end
end Sys2Proof.Machine

namespace Sys2Proof.Machine

section
variable {s t u : State} {q idx core pa a : Nat} {e : W64} {p : Packet}

/-! ## A changed signal served (R71, R75) -/

/-- The open packets that name the signal of an event, at its address. -/
def State.namers (s : State) (e : W64) : List Packet :=
  s.dev.packets.filter fun p => p.kind = 7 && !s.unstarted p &&
    p.barrierAddrs.any fun a => (s.signalPlace (s.qOwner p.queue) a).map (· % 2 ^ 48) = some (evArg e)

/-- A BARRIER evaluated again. -/
def State.reevaluate (s : State) (p : Packet) : State := if s.barrierHolds p then s.barrierDone p else s

theorem signalChanged_act (core_ : core < 12) (fits : pa < 2 ^ 48) (events : s.dev.events = [Claims.eventOf 2 pa none])
    (held : s.dev.heldEvents = []) (delivers : s.dev.suspended = false) :
    exec (.signalChanged core) s = .next ((s.namers (eventWord 2 pa none)).foldl State.reevaluate s.quieted) := by
  rw [← eventWord_eq_eventOf] at events
  obtain ⟨kind, _, queue⟩ := eventWord_unqueued (kind := 2) (by decide) fits
  have deliverable : s.deliverable (eventWord 2 pa none) = true := by
    rw [State.deliverable, queue, delivers]
    rfl
  obtain ⟨next, taken⟩ := State.nextEvent_only events held deliverable
  rw [kind] at next
  show execSignalChanged core s = _
  unfold execSignalChanged
  simp only [next, decide_eq_true core_, taken, queue]
  rfl

/-- The one open packet, a started BARRIER, names the signal. -/
theorem State.namers_only (fits : pa < 2 ^ 48) (open_ : s.dev.packets = [p]) (kind : p.kind = 7) (mem : a ∈ p.barrierAddrs)
    (place : s.signalPlace (s.qOwner p.queue) a = some pa) (started : p.index < s.qRead p.queue) :
    s.namers (eventWord 2 pa none) = [p] := by
  obtain ⟨_, arg, _⟩ := eventWord_unqueued (kind := 2) (by decide) fits
  have unstarted : s.unstarted p = false := decide_eq_false (Nat.not_le.mpr started)
  have named : (p.barrierAddrs.any fun a => (s.signalPlace (s.qOwner p.queue) a).map (· % 2 ^ 48) = some (evArg (eventWord 2 pa none))) = true := by
    refine List.any_eq_true.mpr ⟨a, mem, decide_eq_true ?_⟩
    rw [place, arg, Option.map_some, Nat.mod_eq_of_lt fits]
  rw [State.namers, open_]
  refine List.filter_eq_self.mpr fun x member => ?_
  rw [List.mem_singleton.mp member, decide_eq_true kind, unstarted, named]
  rfl

/-- The service of a changed signal that one BARRIER names (R66, R71). -/
theorem signals_serve (core_ : core < 12) (fits : pa < 2 ^ 48) (events : s.dev.events = [Claims.eventOf 2 pa none])
    (held : s.dev.heldEvents = []) (delivers : s.dev.suspended = false) (open_ : s.dev.packets = [p]) (kind : p.kind = 7)
    (mem : a ∈ p.barrierAddrs) (place : s.signalPlace (s.qOwner p.queue) a = some pa) (started : p.index < s.qRead p.queue) :
    let holds := if (p.u 8 1).testBit 0 then ∃ a ∈ p.barrierAddrs, Met s (s.qOwner p.queue) a else ∀ a ∈ p.barrierAddrs, Met s (s.qOwner p.queue) a
    (holds → ∃ t, exec (.signalChanged core) s = .next t ∧ t.dev.packets = []) ∧
    (¬ holds → ∃ t, exec (.signalChanged core) s = .next t ∧ t.dev.packets = [p] ∧ t.mem = s.mem ∧ t.dev.events = []) := by
  intro holds
  have act := signalChanged_act core_ fits events held delivers
  rw [State.namers_only fits open_ kind mem place started, List.foldl_cons, List.foldl_nil, State.reevaluate] at act
  have condition : s.quieted.barrierHolds p = true ↔ holds := barrierHolds_iff (s := s)
  refine ⟨fun met => ?_, fun unmet => ?_⟩
  · rw [if_pos (condition.mpr met)] at act
    obtain ⟨x, found⟩ := packet?_of_mem (s := s.quieted) (p := p) (open_ ▸ List.mem_singleton.mpr rfl)
    refine ⟨_, act, (barrierDone_work found).1.trans ?_⟩
    show s.dev.packets.filter _ = []
    rw [open_]
    simp
  · rw [if_neg (mt condition.mp unmet)] at act
    exact ⟨_, act, open_, rfl, rfl⟩

/-! ## The device's own events (R71) -/

/-- When the next periodic tick falls due. -/
def State.tickDue (s : State) : Nat := s.dev.tickBase + if s.dev.fwdt = 0 then 1100000 else (s.dev.fwdt.toNat + 3) / 4

theorem periodicTick_early (early : s.tick < s.tickDue) : exec .periodicTick s = .next s := if_pos early

theorem periodicTick_due (due : s.tickDue ≤ s.tick) (room : s.dev.events.length < 8192) :
    ∃ t, exec .periodicTick s = .next t ∧ t.mem = s.mem ∧ t.dev.tickBase = s.tickDue ∧ t.dev.events = s.dev.events ++
      if ∃ e ∈ s.dev.events ++ s.dev.heldEvents, f64 e 13 3 = 4 then [] else [Claims.eventOf 4 s.tick none] := by
  have waits : ((s.dev.events ++ s.dev.heldEvents).any fun e => evKind e = 4) = true ↔
      ∃ e ∈ s.dev.events ++ s.dev.heldEvents, f64 e 13 3 = 4 := by
    exact List.any_eq_true.trans (exists_congr fun e => and_congr_right fun _ => decide_eq_true_iff)
  have act : exec .periodicTick s = .next
      (let u := { s with dev := { s.dev with tickBase := s.tickDue } }
       if (s.dev.events ++ s.dev.heldEvents).any fun e => evKind e = 4 then u else u.postEvent 4 s.tick none) :=
    if_neg (Nat.not_lt.mpr due)
  simp only [waits, State.postEvent_room (s := { s with dev := { s.dev with tickBase := s.tickDue } }) room] at act
  by_cases pending : ∃ e ∈ s.dev.events ++ s.dev.heldEvents, f64 e 13 3 = 4
  · rw [if_pos pending] at act
    rw [if_pos pending, List.append_nil]
    exact ⟨_, act, rfl, rfl, rfl⟩
  · rw [if_neg pending] at act
    rw [if_neg pending]
    exact ⟨_, act, rfl, rfl, rfl⟩

theorem managementRequest_enters (arg : BitVec 48) (room : s.dev.events.length < 8192) :
    ∃ t, exec (.managementRequest arg) s = .next t ∧
      t = { s with dev := { s.dev with events := s.dev.events ++ [Claims.eventOf 5 arg.toNat none] } } :=
  ⟨_, rfl, State.postEvent_room room⟩

end

/-- What the pool does with wakes, changed signals and the device's own events (R68–R73, R75). -/
theorem poolServes : Claims.PoolServes :=
  ⟨fun _ _ v small lit => wakeRegisters_serve small lit v,
    fun _ _ _ _ core small fits events held delivers free wf entry => wakes_serve core small fits events held delivers free wf entry,
    fun _ _ _ _ _ core fits events held delivers open_ kind mem place started =>
      signals_serve core fits events held delivers open_ kind mem place started,
    fun _ => ⟨⟨periodicTick_early, periodicTick_due⟩, managementRequest_enters⟩⟩

/-- Settles O52, from the packets of the queues and the events of the pool. -/
theorem packetsAndPool : Obligations.PacketsAndPool := ⟨⟨packetsComplete, quotePacketsRun, otherPacketsRun⟩, poolServes⟩

end Sys2Proof.Machine

namespace Sys2Proof.Machine

section
variable {s s1 t u : State} {a : Agent} {d : GDst} {p : Fin 192} {n id asid object record : Nat} {x y : Quote}

/-! ## What the instructions of quotations leave of threads (R88, R90, R95) -/

theorem State.groupResult_quotes (s : State) (a : Agent) (n : Nat) (d : Dst) (v : W64) (latency : Nat) :
    (s.groupResult a n d v latency).quotes = s.quotes := by simp [State.groupResult]

theorem State.groupResult_walkQueue (s : State) (a : Agent) (n : Nat) (d : Dst) (v : W64) (latency : Nat) :
    (s.groupResult a n d v latency).walkQueue = s.walkQueue := by simp [State.groupResult]

theorem standsIn_groupResult {state : Nat} (h : Claims.StandsIn t id state) (a : Agent) (n : Nat) (d : Dst) (v : W64) (latency : Nat) :
    Claims.StandsIn (t.groupResult a n d v latency) id state := by
  unfold Claims.StandsIn State.quote? at h ⊢
  rwa [State.groupResult_quotes]

theorem ThreadsStand.request (s : State) (asid object record : Nat) (shape : Shape) (validity : Nat) (auto user : Bool) :
    ThreadsStand s (s.request asid object record shape validity auto user).2 := by
  unfold State.request
  simp only
  split
  · exact .refl s
  · split
    · exact .refl s
    · split
      · exact .refl s
      · have queued : ThreadsStand s { s with
            quotes := s.quotes ++ [s.newQuote asid object record shape validity auto], nextQid := s.nextQid % 0xFFFFFFFF + 1,
            walkQueue := s.walkQueue ++ [s.nextQid] } := ⟨rfl, rfl, rfl, rfl⟩
        exact queued.trans (Writes.firstRecord _ _ _ _ _).noted.threads

/-- A quotation on which nothing waits moves: it is replaced, and no packet is answered. -/
theorem State.moveQuote_quiet (found : s.quote? id = some x) (same : y.id = x.id) (quiet : y.packets = []) (n : Nat) :
    ∃ z, s.moveQuote y n = (s.putQuote (y.moved n)).setQuote z := by
  obtain ⟨named, packets, _⟩ := y.moved_fields n
  have put : (s.putQuote (y.moved n)).quote? (y.moved n).id = some (y.moved n) := by
    rw [named, same, State.quote?_id found]
    exact State.quote?_putQuote found (named.trans same)
  rw [State.moveQuote_eq, State.answer_quiet put (packets.trans quiet)]
  exact ⟨_, rfl⟩

/-- Memory, quotations and what is noted of them alone change. -/
theorem Noted.moveQuote (found : s.quote? id = some x) (same : y.id = x.id) (quiet : y.packets = []) (n : Nat) :
    Noted s (s.moveQuote y n) := by
  obtain ⟨z, moved⟩ := State.moveQuote_quiet found same quiet n
  rw [moved]
  exact (Noted.putQuote s _).trans ⟨_, _, _, _, _, _, rfl⟩

theorem ThreadsStand.accepted {k : Kernel} (found : s.quote? id = some x) (quiet : x.packets = []) (kernel : x.kernel = some k)
    (plain : x.cls ≤ 1) : ThreadsStand s (s.accepted x) := by
  rw [State.accepted_eq kernel plain]
  split
  · have preempted : ThreadsStand s (s.preemptFor x) := ⟨rfl, rfl, rfl, rfl⟩
    exact preempted.trans (Noted.moveQuote (s := s.preemptFor x) (y := { x with accepted := s.tick }) found rfl quiet 3).threads
  · exact (Noted.moveQuote (y := { x with accepted := s.tick }) found rfl quiet 3).threads

/-! ## `quote.req` (R94, R95) -/

/-- The shape that `quote.req` asks for. -/
def regShape (w extents : W64) : Shape :=
  { ext := [f64 w 0 8, f64 w 8 8, f64 extents 0 32, f64 extents 32 32], elastic := b64 w 16, neighbour := b64 w 17 }

/-- What `quote.req` requests with the registers from `p` on. -/
def State.regRequest (s : State) (a : Agent) (p : Nat) : Int × State :=
  let r (j : Nat) : W64 := (s.ctx a).reg (p + j)
  s.request (s.asidOf a) (r 0).toNat (r 1).toNat (regShape (r 2) (r 3)) (f64 (r 2) 32 32) false (s.levelOf a = .u)

theorem quoteReq_act (turn : Claims.GroupTurn (.quoteReq d p) s a s1) : exec (.quoteReq d p) s = .next
    (let w := (s1.ctx a).reg (p.val + 2)
     if f64 w 18 14 ≠ 0 || 5500000 < f64 w 32 32 then s1.groupFault a 0x02 w
     else (s1.regRequest a p.val).2.groupResult a 1 (dstG d) (w64 (s1.regRequest a p.val).1) 24) :=
  (groupInstr_of_turn turn _ : execQuoteReq d p s = _)

theorem quoteReq_faults (turn : Claims.GroupTurn (.quoteReq d p) s a s1)
    (bad : f64 ((s1.ctx a).reg (p.val + 2)) 18 14 ≠ 0 ∨ 5500000 < f64 ((s1.ctx a).reg (p.val + 2)) 32 32) :
    exec (.quoteReq d p) s = .next (s1.groupFault a 0x02 ((s1.ctx a).reg (p.val + 2))) := by
  rw [quoteReq_act turn]
  simp only
  rw [if_pos (by simpa using bad)]

section
variable (turn : Claims.GroupTurn (.quoteReq d p) s a s1) (zero : f64 ((s1.ctx a).reg (p.val + 2)) 18 14 = 0)
  (short : f64 ((s1.ctx a).reg (p.val + 2)) 32 32 ≤ 5500000)
include turn zero short

theorem quoteReq_asks {k : Int} (asked : s1.regRequest a p.val = (k, u)) :
    exec (.quoteReq d p) s = .next (u.groupResult a 1 (dstG d) (w64 k) 24) := by
  rw [quoteReq_act turn]
  simp only
  rw [if_neg (by simpa using ⟨zero, short⟩), asked]

/-- A request turned away gives its code, and nothing else has changed. -/
theorem quoteReq_refused (unwaiting : Claims.Unwaiting s1 a) {k : Int} (asked : s1.regRequest a p.val = (k, s1)) :
    ∃ t, exec (.quoteReq d p) s = .next t ∧ t.mem = s1.mem ∧ t.quotes = s1.quotes ∧ Claims.Completes s1 t a 1 (dstG d) (w64 k) :=
  ⟨_, quoteReq_asks turn zero short asked, State.groupResult_mem .., State.groupResult_quotes ..,
    s1.groupResult_completes (groupTurn_other turn) unwaiting.1⟩

end

theorem State.request_misaligned {shape : Shape} {validity : Nat} {auto user : Bool} (off : object % 64 ≠ 0) :
    s.request asid object record shape validity auto user = (-6, s) := if_pos off

theorem State.request_full {shape : Shape} {validity : Nat} {auto user : Bool} (aligned : object % 64 = 0) (place : record % 64 = 0)
    (writable : s.writableUnder asid record user = true) (full : 4096 ≤ (s.quotes.filter fun q => q.state ≤ 4).length) :
    s.request asid object record shape validity auto user = (-1, s) := by
  have accepts : ¬ (decide (record % 64 ≠ 0) || !s.writableUnder asid record user) = true := by
    rw [writable, decide_eq_false (not_not.mpr place)]
    decide
  have busy : (!s.entryFree) = true := by
    rw [State.entryFree, Bool.not_eq_true', decide_eq_false_iff_not]
    exact Nat.not_lt.mpr full
  unfold State.request
  simp only
  rw [if_neg (not_not.mpr aligned), if_neg accepts, if_pos busy]

end

/-- Settles O33, check by check in their order. -/
theorem quoteRequests : Obligations.QuoteRequests := by
  intro d p s s1 a turn unwaiting r w asid gives
  refine ⟨quoteReq_faults turn, fun zero short => ⟨fun off => ?_, fun aligned => ⟨fun bad => ?_, fun place writable =>
    ⟨fun full => ?_, fun free => ?_⟩⟩⟩⟩
  · exact quoteReq_refused turn zero short unwaiting (State.request_misaligned off)
  · exact quoteReq_refused turn zero short unwaiting (State.request_refused aligned bad)
  · exact quoteReq_refused turn zero short unwaiting (State.request_full aligned place writable full)
  · obtain ⟨u, asked, _, quotes, queue⟩ := State.request_taken (shape := regShape w (r 3)) (validity := f64 w 32 32)
      (auto := false) aligned place writable (decide_eq_true free)
    have stand : ThreadsStand s1 u := by
      have request := ThreadsStand.request s1 asid (r 0).toNat (r 1).toNat (regShape w (r 3)) (f64 w 32 32) false (s1.levelOf a = .u)
      rwa [asked] at request
    have result := stand.groupResult_completes (n := 1) (d := dstG d) (v := w64 s1.nextQid) (latency := 24) (groupTurn_other turn)
      unwaiting.1
    refine ⟨_, _, quoteReq_asks turn zero short asked, ?_, (State.groupResult_quotes ..).trans quotes,
      (State.groupResult_walkQueue ..).trans queue, rfl, rfl, rfl, rfl, rfl, rfl, rfl, rfl⟩
    rwa [show w64 (s1.nextQid : Int) = n64 s1.nextQid from BitVec.ofInt_natCast ..] at result ⊢

section
variable {s s1 t : State} {a : Agent} {i : Instr} {d : GDst} {r : GSrc} {v : W64} {id asid : Nat} {x : Quote}

/-! ## `quote.acc` and `quote.dec` (R94, R96, R97) -/

/-- What an instruction on an id does: a fault, or an answer. -/
structure AnswersId (i : Instr) (s s1 : State) (a : Agent) (d : GDst) (v : W64) (go : Int × State) : Prop where
  faults : f64 v 32 32 ≠ 0 → exec i s = .next (s1.groupFault a 0x02 (firstWord i))
  answers : f64 v 32 32 = 0 → exec i s = .next (go.2.groupResult a 1 (dstG d) (w64 go.1) 24)

theorem quoteId_answers {go : State → Agent → Nat → Int × State} (turn : Claims.GroupTurn i s a s1)
    (arm : exec i s = quoteId i s d r go) :
    AnswersId i s s1 a d (readG s1 a r) (go s1 a (readG s1 a r).toNat) := by
  have runs := arm.trans (groupInstr_of_turn turn _)
  simp only at runs
  refine ⟨fun high => ?_, fun low => ?_⟩
  · rw [runs, if_pos high]
  · rw [runs, if_neg (not_not.mpr low)]

theorem quoteAcc_answers (turn : Claims.GroupTurn (.quoteAcc d r) s a s1) :
    AnswersId (.quoteAcc d r) s s1 a d (readG s1 a r) (s1.accept (s1.asidOf a) (readG s1 a r).toNat) :=
  quoteId_answers (go := fun s a id => s.accept (s.asidOf a) id) turn rfl

theorem quoteDec_answers (turn : Claims.GroupTurn (.quoteDec d r) s a s1) :
    AnswersId (.quoteDec d r) s s1 a d (readG s1 a r) (s1.decline (s1.asidOf a) (readG s1 a r).toNat) :=
  quoteId_answers (go := fun s a id => s.decline (s.asidOf a) id) turn rfl

theorem lapsed_true (h : Claims.Late s x) : x.lapsed s.tick = true := by
  obtain ⟨low, high, late⟩ := h
  rw [Quote.lapsed, decide_eq_true low, decide_eq_true high, decide_eq_true late]
  rfl

theorem State.accept_late (named : Claims.Named s asid id x) (late : Claims.Late s x) : s.accept asid id = (-5, s.expire x) := by
  rw [State.accept, show s.quotes.find? _ = some x from named]
  simp only [lapsed_true late, if_true]

theorem State.decline_late (named : Claims.Named s asid id x) (late : Claims.Late s x) : s.decline asid id = (-4, s.expire x) := by
  rw [State.decline, show s.quotes.find? _ = some x from named]
  simp only [lapsed_true late, if_true]

/-- A quotation that expires: a lapse from state 3 names the caller (R90). -/
def Quote.lapsing (x : Quote) : Quote := { x with party := if x.state = 3 ∧ x.party = 0 then 1 else x.party }

theorem Noted.expire (found : s.quote? id = some x) (quiet : x.packets = []) : Noted s (s.expire x) :=
  .moveQuote (y := x.lapsing) found rfl quiet 7

theorem State.expire_stands (found : s.quote? id = some x) (quiet : x.packets = []) :
    (s.expire x).quote? id = some (x.lapsing.moved 7) :=
  (State.moveQuote_stands (y := x.lapsing) found rfl quiet 7).1

theorem State.expire_standsIn (found : s.quote? id = some x) (quiet : x.packets = []) : Claims.StandsIn (s.expire x) id 7 :=
  ⟨_, State.expire_stands found quiet, (x.lapsing.moved_fields 7).2.2⟩

end

section
variable {s s1 t : State} {a : Agent} {i : Instr} {d : GDst} {v : W64} {id n : Nat} {go : Int × State}
variable (other : ∀ g n, a ≠ .lane g n) (idle : (s1.ctx a).wait = none) (does : AnswersId i s s1 a d v go) (low : f64 v 32 32 = 0)
include other idle does low

/-- An answer that leaves every quotation and memory as they are. -/
theorem answers_unchanged {k : Int} (result : go = (k, s1)) : ∃ t, exec i s = .next t ∧
    Claims.Completes s1 t a 1 (dstG d) (w64 k) ∧ t.quotes = s1.quotes ∧ t.mem = s1.mem := by
  subst result
  exact ⟨_, does.answers low, s1.groupResult_completes other idle, State.groupResult_quotes .., State.groupResult_mem ..⟩

/-- An answer that leaves a quotation in another state. -/
theorem answers_moved {k : Int} (result : go = (k, t)) (stand : ThreadsStand s1 t) (stands : Claims.StandsIn t id n) :
    ∃ u, exec i s = .next u ∧ Claims.Completes s1 u a 1 (dstG d) (w64 k) ∧ Claims.StandsIn u id n := by
  subst result
  exact ⟨_, does.answers low, stand.groupResult_completes other idle, standsIn_groupResult stands ..⟩

end

/-- Settles O34, case by case of the quotation's state. -/
theorem quotesAcceptAndDecline : Obligations.QuotesAcceptAndDecline := by
  intro i d r s s1 a turn unwaiting v id asid gives which
  have other := groupTurn_other turn
  have idle := unwaiting.1
  have tick := groupTurn_tick turn
  refine ⟨fun high => ?_, fun low => ⟨fun none => ?_, fun q named quiet found => ?_⟩⟩
  · rcases which with rfl | rfl
    · exact (quoteAcc_answers turn).faults high
    · exact (quoteDec_answers turn).faults high
  · rcases which with rfl | rfl
    · exact answers_unchanged other idle (quoteAcc_answers turn) low (State.accept_unnamed none)
    · exact answers_unchanged other idle (quoteDec_answers turn) low (State.decline_unnamed none)
  intro late becomes
  have now : Claims.Late s1 q ↔ late := by
    unfold Claims.Late
    rw [tick]
  constructor
  · rintro rfl
    have does := quoteAcc_answers turn
    refine ⟨fun h => ?_, fun h unquoted current => ?_, fun h quoted vector tables k kernel =>
      ⟨fun pinned plain => ?_, fun unpinned => ?_⟩⟩
    · exact answers_moved other idle does low (State.accept_late named (now.mpr h)) (Noted.expire found quiet).threads
        (State.expire_standsIn found quiet)
    · exact answers_unchanged other idle does low (State.accept_refused named (mt now.mp h) unquoted current)
    · exact answers_moved other idle does low (State.accept_pinned named (mt now.mp h) quoted vector tables kernel pinned)
        (.accepted found quiet kernel plain) (State.accepted_stands found quiet kernel plain)
    · exact answers_moved other idle does low (State.accept_unpinned named (mt now.mp h) quoted vector tables kernel unpinned)
        (Noted.moveQuote found rfl quiet 2).threads (State.moveQuote_standsIn found rfl quiet 2)
  · rintro rfl
    have does := quoteDec_answers turn
    refine ⟨fun h => ?_, fun h first last => ?_, fun h ended => ?_⟩
    · exact answers_moved other idle does low (State.decline_late named (now.mpr h)) (Noted.expire found quiet).threads
        (State.expire_standsIn found quiet)
    · exact answers_moved other idle does low (State.decline_bound named (mt now.mp h) first last)
        (Noted.moveQuote found rfl quiet 6).threads (State.moveQuote_standsIn found rfl quiet 6)
    · exact answers_unchanged other idle does low (State.decline_ended named (mt now.mp h) ended)

section
variable {s s1 t : State} {a : Agent} {d : GDst} {r : GSrc} {n id asid k : Nat} {q : Quote} {l : Launch} {lo hi : W64}

/-! ## `quote.actual` (R98, R100) -/

theorem aput_aput {α : Type} (k : Nat) (u v : α) (l : List (Nat × α)) : aput k v (aput k u l) = aput k v l := by
  induction l with
  | nil => simp [aput]
  | cons e l ih =>
    obtain ⟨j, x⟩ := e
    simp only [aput]
    split
    · simp [aput]
    · next apart =>
      split
      · simp [aput]
      · next above => simp [aput, apart, above, ih]

theorem State.setCtx_setCtx (s : State) (a : Agent) (x y : Ctx) : (s.setCtx a x).setCtx a y = s.setCtx a y := by
  cases a with
  | lane g n => rfl
  | cond g => simp [State.setCtx, State.setGang, State.gang, aput_aput]
  | steppe c n => simp [State.setCtx, aput_aput]
  | saddle c => simp [State.setCtx, aput_aput]

/-- The state after an instruction that writes two registers, neighbours, 24 clocks on. -/
def State.quotePair (s : State) (a : Agent) (d : GDst) (x : W64 × W64) : State :=
  let t := s.groupResult a 1 (dstG d) x.1 24
  t.setCtx a { t.ctx a with pend := (t.ctx a).pend ++ [result (nextDst d) (BitVec.allOnes 64) x.2 (t.tick + 24)] }

theorem quoteActual_reads (turn : Claims.GroupTurn (.quoteActual d r) s a s1) (low : f64 (readG s1 a r) 32 32 = 0) :
    exec (.quoteActual d r) s = .next (s1.quotePair a d (s1.actual (s1.asidOf a) (readG s1 a r).toNat)) := by
  refine (groupInstr_of_turn turn _ : execQuoteActual d r s = _).trans ?_
  simp only
  rw [if_neg (not_not.mpr low)]
  rfl

theorem State.quotePair_rest (s : State) (other : ∀ g n, a ≠ .lane g n) (d : GDst) (x : W64 × W64) :
    s.quotePair a d x = s.setCtx a ((s.quotePair a d x).ctx a) := by
  unfold State.quotePair
  simp only
  rw [State.ctx_setCtx _ a _ other]
  unfold State.groupResult State.advance
  simp only [State.setCtx_setCtx]

theorem State.quotePair_ctx (s : State) (other : ∀ g n, a ≠ .lane g n) (dst : dstG d = .reg n) (x : W64 × W64) :
    ∃ due due', (s.quotePair a d x).ctx a = { (s.advance a 1).ctx a with
      pend := (s.ctx a).pend ++ [result (.reg n) (BitVec.allOnes 64) x.1 due] ++
        [result (.reg (n + 1)) (BitVec.allOnes 64) x.2 due'] } := by
  have next : nextDst d = .reg (n + 1) := by
    cases d with
    | g m => rw [← Dst.reg.inj dst]; rfl
    | gz => exact nomatch dst
  unfold State.quotePair
  simp only
  rw [State.ctx_setCtx _ a _ other, State.groupResult_ctx s other, dst, next]
  exact ⟨_, _, rfl⟩

/-- Two registers end with the values given, and no other ends otherwise than before. -/
theorem State.quotePair_finals (s : State) (other : ∀ g n, a ≠ .lane g n) (dst : dstG d = .reg n) (lt : n + 1 < 192) (x : W64 × W64) :
    let c := (s.quotePair a d x).ctx a
    c.final n = x.1 ∧ c.final (n + 1) = x.2 ∧ ∀ k, k < 192 → k ≠ n → k ≠ n + 1 → c.final k = (s.ctx a).final k := by
  intro c
  obtain ⟨due, due', ctx⟩ := s.quotePair_ctx other dst x
  have final : ∀ k (lt : k < 192), c.final k =
      (withResult (withResult ((s.ctx a).pend.foldl withResult (s.ctx a).g) (result (.reg n) (BitVec.allOnes 64) x.1 due))
        (result (.reg (n + 1)) (BitVec.allOnes 64) x.2 due'))[k] := by
    intro k lt
    rw [Ctx.final_eq _ lt, show c = _ from ctx, s.advance_ctx other]
    simp only [List.foldl_append, List.foldl_cons, List.foldl_nil]
  refine ⟨?_, ?_, fun k lt low high => ?_⟩
  · rw [final n (by omega), withResult_other _ (by simp), withResult_same]
  · rw [final (n + 1) lt, withResult_same]
  · rw [final k lt, withResult_other _ (by simpa using Ne.symm high), withResult_other _ (by simpa using Ne.symm low),
      Ctx.final_eq _ lt]

theorem State.actual_unnamed (h : ∀ q, ¬ Claims.Named s asid id q) : s.actual asid id = (w64 (-3), 0) := by
  rw [State.actual, unnamed h]

section
variable (named : Claims.Named s asid id q)
include named

theorem State.actual_running (state : q.state = 4) (runs : s.launchOf id = some (k, l)) :
    s.actual asid id = (n64 (clkToNs (s.tick - l.start)), n64 (s.countedNJ q l)) := by
  have unsettled : ¬ q.state = 5 := by omega
  rw [State.actual, show s.quotes.find? _ = some q from named]
  simp only [if_neg unsettled, if_pos state, runs]

theorem State.actual_settled {x y : Nat} (state : q.state = 5) (time : s.readVa q.asid (q.record + 48) 8 = some x)
    (energy : s.readVa q.asid (q.record + 56) 8 = some y) : s.actual asid id = (n64 x, n64 y) := by
  rw [State.actual, show s.quotes.find? _ = some q from named]
  simp only [if_pos state, time, energy, Option.getD_some]

theorem State.actual_other (waits : q.state ≠ 4) (unsettled : q.state ≠ 5) : s.actual asid id = (0, 0) := by
  rw [State.actual, show s.quotes.find? _ = some q from named]
  simp only [if_neg unsettled, if_neg waits]

end

theorem clkToNs_eq (c : Nat) : clkToNs c = (c * 10 + 10) / 11 := rfl

theorem State.countedNJ_eq (s : State) (q : Quote) (l : Launch) : s.countedNJ q l =
    ((if q.cls = 2 then 0 else 2000000) + l.pJ + 455 * q.cores.length * (s.tick - l.start) + 999) / 1000 := by
  unfold State.countedNJ pJToNJ ceilDiv
  rw [Nat.add_sub_assoc (by decide)]

end

/-- Settles O35: the pair of registers ends with what the quotation's state gives. -/
theorem quoteActualReads : Obligations.QuoteActualReads := by
  intro d r s s1 a n turn dst lt v asid gives low
  have other := groupTurn_other turn
  have tick := groupTurn_tick turn
  have reads : ∀ x, s1.actual asid v.toNat = x → gives x.1 x.2 := by
    rintro x rfl
    have only : Claims.CtxOnly s s1 (s1.quotePair a d (s1.actual asid v.toNat)) a := by
      refine ⟨fun k => ?_, s1.quotePair_rest other d _⟩
      rw [s1.quotePair_rest other d, State.setCtx_mem, turn.now]
      simp [Claims.turn]
    exact ⟨_, quoteActual_reads turn low, only, s1.quotePair_finals other dst lt _⟩
  refine ⟨fun none => reads _ (State.actual_unnamed none), fun q named => ⟨fun state k l runs => ?_, fun state x y time energy => ?_,
    fun waits unsettled => ?_⟩⟩
  · have counted := reads _ (State.actual_running named state runs)
    rwa [clkToNs_eq, State.countedNJ_eq, tick] at counted
  · exact reads _ (State.actual_settled named state time energy)
  · exact reads _ (State.actual_other named waits unsettled)

end Sys2Proof.Machine

namespace Sys2Proof.Machine

section
variable {s t : State} {id : Nat} {ids : List Nat} {q : Quote}

/-! ## A walk starts (R33, R34, R81) -/

theorem walkStart_busy (busy : 4 ≤ s.walking.length) : exec .quoteWalkStart s = .next s := by
  have taken : decide (s.walking.length < 4) = false := decide_eq_false (by omega)
  show execQuoteWalkStart s = _
  unfold execQuoteWalkStart
  rw [taken]
  split
  · contradiction
  · rfl

theorem State.mayWalk_quiet (found : s.quote? id = some q) (quiet : q.packets = []) : s.mayWalk id = true := by
  simp only [State.mayWalk, found, quiet, List.all_nil]

/-- What a walk reads of an object depends on memory and the device's registers alone. -/
theorem State.readUnder_congr (mem : t.mem = s.mem) (dev : t.dev = s.dev) (asid va fuel : Nat) :
    ∀ done n, t.readUnder asid va fuel done n = s.readUnder asid va fuel done n := by
  have readable : ∀ va, t.readable asid va = s.readable asid va := fun va => by
    unfold State.readable State.asidRoot
    rw [mem, dev]
  induction fuel with
  | zero => exact fun _ _ => rfl
  | succ fuel ih =>
    intro done n
    simp only [State.readUnder, readable, mem, ih]

theorem State.readSpace_congr (mem : t.mem = s.mem) (dev : t.dev = s.dev) (asid va n : Nat) :
    t.readSpace asid va n = s.readSpace asid va n := State.readUnder_congr mem dev ..

theorem State.examine_congr (mem : t.mem = s.mem) (dev : t.dev = s.dev) (q : Quote) : t.examine q = s.examine q := by
  unfold State.examine State.readObject
  simp only [State.readSpace_congr mem dev]

theorem State.objectSeen_congr (mem : t.mem = s.mem) (dev : t.dev = s.dev) (q : Quote) : t.objectSeen q = s.objectSeen q := by
  unfold State.objectSeen
  simp only [State.readSpace_congr mem dev]

/-- The oldest request taken by an engine, with the clock by which its walk is due. -/
def State.walkTaken (s : State) (id : Nat) (ids : List Nat) (q : Quote) : State :=
  { s with walkQueue := ids,
           walking := s.walking ++ [(id, s.tick + 2200 + if (s.cachedWalk q).isSome then 0 else s.objectWords q)] }

theorem walk_first (queue : s.walkQueue = id :: ids) (found : s.quote? id = some q) (quiet : q.packets = []) :
    s.walkQueue.find? s.mayWalk = some id ∧ s.walkQueue.erase id = ids ∧ ∀ p, q.packets.filter p = [] := by
  refine ⟨?_, by rw [queue, List.erase_cons_head], fun p => by rw [quiet]; rfl⟩
  rw [queue]
  exact List.find?_cons_of_pos (State.mayWalk_quiet found quiet)

section
variable (queue : s.walkQueue = id :: ids) (free : s.walking.length < 4) (found : s.quote? id = some q) (quiet : q.packets = [])
include queue free found quiet

/-- A walk whose bytes are in the cache, or whose object is found sound. -/
theorem walkStart_plain (sound : s.cachedWalk q ≠ none ∨ ∃ v, s.examine q = .ok v) :
    exec .quoteWalkStart s = .next (s.walkTaken id ids q) := by
  obtain ⟨first, left, unasked⟩ := walk_first queue found quiet
  have act : exec .quoteWalkStart s = execQuoteWalkStart s := rfl
  rw [act, execQuoteWalkStart, first, decide_eq_true free]
  simp only [found, unasked, List.foldl_nil, left]
  generalize hu : ({ s with walkQueue := ids, walking := _ } : State) = u
  rw [State.examine_congr (t := u) (s := s) (hu ▸ rfl) (hu ▸ rfl)]
  split
  · next fresh rejected =>
    cases sound with
    | inl cached => exact absurd ((Option.isSome_iff_ne_none.mpr cached).symm.trans fresh) (by decide)
    | inr ok =>
      obtain ⟨v, ok⟩ := ok
      exact nomatch ok.symm.trans rejected
  · exact congrArg _ hu.symm

theorem walkStart_rejects {off code : Nat} (fresh : s.cachedWalk q = none) (rejected : s.examine q = .error (off, code)) :
    exec .quoteWalkStart s = .next ({ s.walkTaken id ids q with
      refused := s.refused ++ [(id, s.objectSeen q)] }.setQuote { q with diag := code, tmax := off }) := by
  obtain ⟨first, left, unasked⟩ := walk_first queue found quiet
  have act : exec .quoteWalkStart s = execQuoteWalkStart s := rfl
  rw [act, execQuoteWalkStart, first, decide_eq_true free]
  simp only [found, unasked, List.foldl_nil, left]
  generalize hu : ({ s with walkQueue := ids, walking := _ } : State) = u
  rw [State.examine_congr (t := u) (s := s) (hu ▸ rfl) (hu ▸ rfl), State.objectSeen_congr (t := u) (s := s) (hu ▸ rfl) (hu ▸ rfl),
    fresh, rejected]
  subst hu
  rw [State.walkTaken, fresh]
  rfl

/-- What a free engine does with the oldest request. -/
theorem walkStart_takes : ∃ t, exec .quoteWalkStart s = .next t ∧ t.mem = s.mem ∧ t.walkQueue = ids ∧
    t.walking = s.walking ++ [(id, s.tick + 2200 + if (s.cachedWalk q).isSome then 0 else s.objectWords q)] ∧
    (s.cachedWalk q ≠ none → t.quotes = s.quotes) ∧
    (s.cachedWalk q = none →
      (∀ off code, s.examine q = .error (off, code) → t.quote? id = some { q with diag := code, tmax := off }) ∧
      ∀ v, s.examine q = .ok v → t.quotes = s.quotes) := by
  by_cases cached : s.cachedWalk q = none
  · cases result : s.examine q with
    | error f =>
      refine ⟨_, walkStart_rejects queue free found quiet cached result, rfl, rfl, rfl, fun other => absurd cached other,
        fun _ => ⟨fun off code same => ?_, fun v ok => nomatch ok⟩⟩
      obtain rfl := Except.error.inj same
      exact State.quote?_setQuote (s := { s.walkTaken id ids q with refused := _ }) found rfl
    | ok v =>
      exact ⟨_, walkStart_plain queue free found quiet (.inr ⟨v, result⟩), rfl, rfl, rfl, fun _ => rfl,
        fun _ => ⟨fun off code bad => (nomatch bad), fun _ _ => rfl⟩⟩
  · exact ⟨_, walkStart_plain queue free found quiet (.inl cached), rfl, rfl, rfl, fun _ => rfl, fun none => absurd none cached⟩

end

/-! ## A walk ends (R81, R88–R92, R304) -/

/-- What a reservation makes of a request: the figures found, the deadline, and one of the states in which a walk ends. -/
structure Reserved (s : State) (q : Quote) (f : WalkFound) (r : Quote) : Prop where
  id : r.id = q.id
  packets : r.packets = q.packets
  auto : r.auto = q.auto
  deadline : r.deadline = s.tick + q.validity
  diag : r.diag = f.diag
  tmax : r.tmax = f.tmax
  emax : r.emax = f.emax
  ends : r.state ∈ [1, 8, 9, 10, 11]
  rejected : f.kernel = none → r.state = 8
  hot : s.dev.hot = true → r.state = 8 ∨ r.state = 11
  placed : r.state = 1 → r.slots ≠ [] ∧ r.kernel ≠ none

theorem State.reserve_reserved (s : State) (q : Quote) (f : WalkFound) : Reserved s q f (s.reserve q f).1 := by
  unfold State.reserve
  extract_lets q1
  split
  · exact ⟨rfl, rfl, rfl, rfl, rfl, rfl, rfl, by simp, fun _ => rfl, fun _ => .inl rfl, fun quoted => by simp at quoted⟩
  · next k kernel =>
    extract_lets w q2 p n q3 stream
    have sound : f.kernel ≠ none := by simp [kernel]
    have refuses : ∀ m, m ∈ [9, 10, 11] → (s.dev.hot = true → m = 11) → Reserved s q f { q3 with state := m } := by
      intro m mem hot
      refine ⟨rfl, rfl, rfl, rfl, rfl, rfl, rfl, ?_, fun none => absurd none sound, fun is => .inr (hot is), fun quoted => ?_⟩
      · exact List.mem_cons_of_mem _ (List.mem_cons_of_mem _ mem)
      · have one : m = 1 := quoted
        subst one
        exact absurd mem (by decide)
    split
    · exact refuses 11 (by decide) fun _ => rfl
    · next cool =>
      split
      · exact refuses 9 (by decide) fun hot => absurd hot cool
      · next room =>
        split
        · exact refuses 10 (by decide) fun hot => absurd hot cool
        · split
          · exact refuses 11 (by decide) fun _ => rfl
          · refine ⟨rfl, rfl, rfl, rfl, rfl, rfl, rfl, List.mem_cons_self .., fun none => absurd none sound,
              fun hot => absurd hot cool, fun _ => ⟨fun none => room ?_, Option.some_ne_none k⟩⟩
            have none' : p.slots = [] := none
            rw [none']
            rfl

/-- The class of a watch kernel has no part in a reservation's figures. -/
theorem Reserved.watch {f : WalkFound} {r : Quote} (h : Reserved s q f r) (c : Nat) : Reserved s q f { r with cls := c } :=
  ⟨h.id, h.packets, h.auto, h.deadline, h.diag, h.tmax, h.emax, h.ends, h.rejected, h.hot, h.placed⟩

/-- What a walk of a request finds: what the cache keeps of it, or what a fresh walk does. -/
def State.walkFinds (s : State) (q : Quote) : WalkFound := ((s.cachedWalk q).map (·.found)).getD (s.freshWalk q)

theorem State.walked_reserved (s : State) (q : Quote) : Reserved s q (s.walkFinds q) (s.walked q).1 ∧
    (s.walked q).2.2.object = q.object ∧ (s.walked q).2.2.asid = q.asid ∧ (s.walked q).2.2.shape = q.shape ∧
    (s.walked q).2.2.found = s.walkFinds q := by
  unfold State.walked State.walkFinds
  cases s.cachedWalk q with
  | none =>
    refine ⟨?_, rfl, rfl, rfl, rfl⟩
    simp only [Option.map_none, Option.getD_none]
    split
    · exact (s.reserve_reserved q _).watch 2
    · exact s.reserve_reserved q _
  | some w =>
    refine ⟨?_, rfl, rfl, rfl, rfl⟩
    simp only [Option.map_some, Option.getD_some]
    split
    · exact (s.reserve_reserved q _).watch 2
    · exact s.reserve_reserved q _

theorem State.freshWalk_kept (kept : q.diag ≠ 0) : s.freshWalk q = .reject (q.tmax, q.diag) := if_pos kept

theorem State.freshWalk_rejected {off code : Nat} (clear : q.diag = 0) (rejected : s.examine q = .error (off, code)) :
    s.freshWalk q = .reject (off, code) := by
  unfold State.freshWalk
  rw [if_neg (not_not.mpr clear), rejected]

theorem Writes.writeRecord (s : State) (q : Quote) : Writes s (s.writeRecord q) := by
  have field : ∀ {t u : State} (off n x : Nat), Writes t u → Writes t (u.writeVa q.asid (q.record + off) n x) :=
    fun off n x h => h.trans (.writeVa _ _ _ _ _)
  unfold State.writeRecord
  exact field 4 2 _ <| field 32 8 _ <| field 40 8 _ <| field 48 8 _ <| field 56 8 _ <|
    field 6 1 _ <| field 7 1 _ <| field 8 8 _ <| field 16 8 _ <| field 24 8 _ <| .refl s

/-- A walk that no packet asked for ends: its quotation stands as walked, and the cache keeps what it found. -/
theorem walkEnd_ends (found : s.quote? id = some q) (walks : ∃ w ∈ s.walking, w.1 = id) (asked : q.state = 0)
    (quiet : q.packets = []) (manual : q.auto = false) :
    ∃ t, exec (.quoteWalkEnd id) s = .next t ∧ t.walking = s.walking.filter (fun w => decide (w.1 ≠ id)) ∧
      t.quote? id = some (s.walked q).1 ∧ (s.walked q).2.2 ∈ t.walks := by
  have under : ¬ (!s.walking.any (fun w => w.1 = id) || decide (q.state ≠ 0)) = true := by
    obtain ⟨w, mem, same⟩ := walks
    have any : s.walking.any (fun w => w.1 = id) = true := List.any_eq_true.mpr ⟨w, mem, decide_eq_true same⟩
    rw [any, asked]
    decide
  obtain ⟨reserved, _⟩ := s.walked_reserved q
  have act : exec (.quoteWalkEnd id) s = execQuoteWalkEnd id s := rfl
  rw [act]
  unfold execQuoteWalkEnd
  simp only [found, if_neg under]
  generalize s.walked q = w at reserved ⊢
  obtain ⟨r, cores, mine⟩ := w
  simp only at reserved ⊢
  simp only [reserved.auto, manual, reserved.packets, quiet, Bool.false_and, Bool.false_eq_true, if_false, List.filter_nil,
    List.foldl_nil]
  generalize hk : s.walks.filter _ ++ [mine] = kept
  have cached : mine ∈ kept := hk ▸ List.mem_append_right _ (List.mem_singleton.mpr rfl)
  generalize hb : { s with walking := _, refused := _, walks := kept } = b
  have found' : b.quote? id = some q := hb ▸ found
  have set_ : (b.setQuote r).quote? id = some r := State.quote?_setQuote found' reserved.id
  obtain ⟨_, _, _, wrote⟩ := (Writes.writeRecord (b.setQuote r) r).trans
    (Writes.writeVa ((b.setQuote r).writeRecord r) r.asid (r.record + 24) 2 cores)
  have wrote' : ((b.setQuote r).writeRecord r).writeCores r cores = _ := wrote
  have same : { r with packets := [], auto := false } = r := by rw [← manual, ← quiet, ← reserved.packets, ← reserved.auto]
  rw [wrote', same]
  refine ⟨_, rfl, hb ▸ rfl, State.quote?_setQuote (q := r) set_ rfl, ?_⟩
  subst hb
  exact cached

end

/-- Walks run (R34, R81, R88, R90, R304). -/
theorem walksRun : Claims.WalksRun := by
  refine ⟨fun s => ⟨walkStart_busy, fun id ids q queue free found quiet => walkStart_takes queue free found quiet⟩,
    fun s id q found walks asked quiet manual => ?_⟩
  obtain ⟨t, act, walking, stands, cached⟩ := walkEnd_ends found walks asked quiet manual
  obtain ⟨reserved, object, asid, shape, finds⟩ := s.walked_reserved q
  have rejects : ∀ f, s.walkFinds q = .reject f → (s.walked q).1.state = 8 ∧ (s.walked q).1.diag = f.2 ∧
      (s.walked q).1.tmax = f.1 ∧ (s.walked q).1.emax = 0 := by
    intro f is
    rw [reserved.diag, reserved.tmax, reserved.emax, is]
    exact ⟨reserved.rejected (is ▸ rfl), rfl, rfl, rfl⟩
  have fresh : s.cachedWalk q = none → s.walkFinds q = s.freshWalk q := fun none => by rw [State.walkFinds, none]; rfl
  refine ⟨t, _, act, walking, stands, reserved.ends, reserved.deadline, fun w hit => ?_, fun none kept => ?_,
    fun none clear off code rejected => ?_, ⟨_, cached, object, asid, shape, ?_, ?_⟩, reserved.hot, reserved.placed⟩
  · have is : s.walkFinds q = w.found := by rw [State.walkFinds, hit]; rfl
    rw [← is]
    exact ⟨reserved.diag, reserved.tmax, reserved.emax⟩
  · exact rejects _ ((fresh none).trans (State.freshWalk_kept kept))
  · exact rejects _ ((fresh none).trans (State.freshWalk_rejected clear rejected))
  · rw [finds, reserved.tmax]
  · rw [finds, reserved.emax]

section
variable {s t : State} {id : Nat} {q : Quote} {k : Kernel}

/-! ## Pinning and deadlines (R90, R96) -/

/-- A quotation accepted keeps every page pinned. -/
theorem State.accepted_pins (found : s.quote? id = some q) (quiet : q.packets = []) (kernel : q.kernel = some k)
    (plain : q.cls ≤ 1) : (s.accepted q).pins = s.pins := by
  have moved : ∀ u : State, u.quote? id = some q → (u.moveQuote { q with accepted := s.tick } 3).pins = u.pins := fun u here => by
    obtain ⟨_, _, _, _, _, _, same⟩ := Noted.moveQuote (y := { q with accepted := s.tick }) here rfl quiet 3
    rw [same]
  rw [State.accepted_eq kernel plain]
  split
  · exact moved (s.preemptFor q) found
  · exact moved s found

/-- The pages of a pin set that are not pinned yet, pinned. -/
def State.pinning (s : State) (q : Quote) (k : Kernel) : State :=
  { s with pins := s.pins ++ (k.pinSet.filter fun p => !s.isPinned q.asid p).map fun p => (q.asid, p.1, p.2) }

theorem State.pinning_pins (s : State) (q : Quote) (k : Kernel) {p : Nat × Bool} (mem : p ∈ k.pinSet) :
    (s.pinning q k).isPinned q.asid p = true := by
  have pins : (s.pinning q k).pins = s.pins ++ (k.pinSet.filter fun p => !s.isPinned q.asid p).map fun p => (q.asid, p.1, p.2) := rfl
  rw [State.isPinned, pins, List.any_append, Bool.or_eq_true]
  by_cases pinned : s.isPinned q.asid p = true
  · exact .inl pinned
  · refine .inr (List.any_eq_true.mpr ⟨(q.asid, p.1, p.2), List.mem_map.mpr ⟨p, List.mem_filter.mpr ⟨mem, ?_⟩, rfl⟩, ?_⟩)
    · simpa using pinned
    · simp

section
variable (found : s.quote? id = some q) (pins : q.state = 2)
include found pins

theorem pinDone_late (late : Claims.Late s q) (ok : Bool) : exec (.pinDone id ok) s = .next (s.expire q) := by
  show execPinDone id ok s = _
  unfold execPinDone
  simp only [found, if_neg (not_not.mpr pins), lapsed_true late, if_true]

variable (timely : ¬ Claims.Late s q) (kernel : q.kernel = some k)
include timely kernel

theorem pinDone_act (ok : Bool) : exec (.pinDone id ok) s = .next
    (if ok && (k.pinSet.filter fun p => !s.isPinned q.asid p).all (fun p => s.pinnable q.asid p) then (s.pinning q k).accepted q
     else s.moveQuote q 1) := by
  show execPinDone id ok s = _
  unfold execPinDone
  simp only [found, if_neg (not_not.mpr pins), lapsed_false timely, Bool.false_eq_true, if_false, kernel]
  split <;> rfl

theorem pinDone_refused (quiet : q.packets = []) : ∃ t, exec (.pinDone id false) s = .next t ∧ Claims.StandsIn t id 1 :=
  ⟨_, pinDone_act found pins timely kernel false, State.moveQuote_standsIn found rfl quiet 1⟩

theorem pinDone_pinned (quiet : q.packets = []) (plain : q.cls ≤ 1)
    (able : ∀ p ∈ k.pinSet, s.isPinned q.asid p = true ∨ s.pinnable q.asid p = true) :
    ∃ t, exec (.pinDone id true) s = .next t ∧ Claims.StandsIn t id 3 ∧ ∀ p ∈ k.pinSet, t.isPinned q.asid p = true := by
  have all : (k.pinSet.filter fun p => !s.isPinned q.asid p).all (fun p => s.pinnable q.asid p) = true := by
    refine List.all_eq_true.mpr fun p mem => ?_
    obtain ⟨mem, unpinned⟩ := List.mem_filter.mp mem
    exact (able p mem).resolve_left (by simpa using unpinned)
  refine ⟨_, (pinDone_act found pins timely kernel true).trans (congrArg _ (if_pos all)),
    State.accepted_stands (s := s.pinning q k) found quiet kernel plain, fun p mem => ?_⟩
  rw [State.isPinned, State.accepted_pins (s := s.pinning q k) found quiet kernel plain]
  exact s.pinning_pins q k mem

end

theorem validityDeadline_act (found : s.quote? id = some q) :
    exec (.validityDeadline id) s = .next (if q.lapsed s.tick then s.expire q else s) := by
  show execValidityDeadline id s = _
  simp only [execValidityDeadline, found]

end

/-- Pinning and deadlines end a binding (R90, R96). -/
theorem bindingsEnd : Claims.BindingsEnd := by
  intro s id q found quiet
  refine ⟨fun pins => ⟨fun ok late => ⟨_, pinDone_late found pins late ok, State.expire_standsIn found quiet⟩,
    fun timely k kernel => ⟨pinDone_refused found pins timely kernel quiet, pinDone_pinned found pins timely kernel quiet⟩⟩,
    fun late => ⟨_, _, (validityDeadline_act found).trans (congrArg _ (if_pos (lapsed_true late))), State.expire_stands found quiet,
      rfl, rfl⟩, fun timely => ?_⟩
  rw [validityDeadline_act found, lapsed_false timely]
  rfl

end Sys2Proof.Machine

namespace Sys2Proof.Machine

section
variable {α : Type} {f : α → α} {l : List α} {i v k : Nat}

/-! ## Lists by index and by key -/

theorem length_modAt (f : α → α) (i : Nat) (l : List α) : (modAt f i l).length = l.length := by
  induction l generalizing i with
  | nil => cases i <;> rfl
  | cons x l ih =>
    cases i with
    | zero => rfl
    | succ i => exact congrArg (· + 1) (ih i)

theorem getElem?_modAt (f : α → α) (i v : Nat) (l : List α) : (modAt f i l)[v]? = if v = i then l[v]?.map f else l[v]? := by
  induction l generalizing i v with
  | nil => cases i <;> simp [modAt]
  | cons x l ih =>
    cases i with
    | zero => cases v <;> simp [modAt]
    | succ i =>
      cases v with
      | zero => simp [modAt]
      | succ v => simpa [modAt] using ih i v

theorem afind_append_new {l : List (Nat × α)} (new : afind k l = none) (x : α) : afind k (l ++ [(k, x)]) = some x := by
  induction l with
  | nil => simp [afind]
  | cons e l ih =>
    simp only [afind] at new
    split at new
    · contradiction
    · next apart => simpa [afind, apart] using ih new

/-- What an association list gives for a key is its default or is listed under that key. -/
theorem aget_mem_key (d : α) (k : Nat) (l : List (Nat × α)) : aget d k l = d ∨ (k, aget d k l) ∈ l := by
  induction l with
  | nil => exact .inl rfl
  | cons e l ih =>
    obtain ⟨j, x⟩ := e
    simp only [aget]
    split
    · next same => exact .inr (same ▸ List.mem_cons_self ..)
    · exact ih.imp id (List.mem_cons_of_mem _)

/-- In a list in the order of its keys, each entry is the one found under its key. -/
theorem aget_of_mem {d : α} {l : List (Nat × α)} (order : l.Pairwise fun x y => x.1 < y.1) {e : Nat × α} (mem : e ∈ l) :
    aget d e.1 l = e.2 := by
  induction l with
  | nil => contradiction
  | cons x l ih =>
    obtain ⟨below, order⟩ := List.pairwise_cons.mp order
    simp only [aget]
    rcases List.mem_cons.mp mem with rfl | mem
    · simp
    · rw [if_neg (Nat.ne_of_lt (below e mem)), ih order mem]

theorem afind_map {β : Type} (g : Nat → α → β) (k : Nat) (l : List (Nat × α)) :
    afind k (l.map fun e => (e.1, g e.1 e.2)) = (afind k l).map (g k) := by
  induction l with
  | nil => rfl
  | cons e l ih =>
    simp only [List.map_cons, afind]
    split
    · next same => rw [same]; rfl
    · exact ih

/-- An entry that a filter keeps is still found. -/
theorem afind_filter {p : Nat × α → Bool} {l : List (Nat × α)} {x : α} (found : afind k l = some x) (kept : p (k, x) = true) :
    afind k (l.filter p) = some x := by
  induction l with
  | nil => contradiction
  | cons e l ih =>
    obtain ⟨j, y⟩ := e
    simp only [afind] at found
    split at found
    · next same =>
      obtain rfl := Option.some.inj found
      subst same
      rw [List.filter_cons_of_pos kept]
      simp [afind]
    · next apart =>
      by_cases keep : p (j, y) = true
      · rw [List.filter_cons_of_pos keep]
        simpa [afind, apart] using ih found
      · rw [List.filter_cons_of_neg keep]
        exact ih found

theorem afind_adel (k : Nat) (l : List (Nat × α)) : afind k (adel k l) = none := by
  unfold adel
  induction l with
  | nil => rfl
  | cons e l ih =>
    by_cases same : e.1 = k
    · simpa [List.filter_cons, same] using ih
    · simpa [List.filter_cons, same, afind] using ih

end

section
variable {s t u : State} {n core part slot block : Nat} {slots : List Nat} {l : Launch} {x : Start}

/-! ## A gang starts (R106–R108, R149) -/

/-- Memory, gangs and cores alone have changed. -/
def Fitted (s t : State) : Prop := ∃ mem flawed voids gangs cores,
  t = { s with mem := mem, flawed := flawed, voids := voids, gangs := gangs, cores := cores }

theorem Fitted.refl (s : State) : Fitted s s := ⟨_, _, _, _, _, rfl⟩

theorem Fitted.trans : Fitted s t → Fitted t u → Fitted s u := by
  rintro ⟨_, _, _, _, _, rfl⟩ ⟨_, _, _, _, _, rfl⟩
  exact ⟨_, _, _, _, _, rfl⟩

theorem Writes.fitted : Writes s t → Fitted s t := by
  rintro ⟨_, _, _, rfl⟩
  exact ⟨_, _, _, _, _, rfl⟩

theorem Fitted.setGang (s : State) (g : Nat) (x : Gang) : Fitted s (s.setGang g x) := ⟨_, _, _, _, _, rfl⟩

theorem Fitted.setCore (s : State) (c : Nat) (x : CoreSt) : Fitted s (s.setCore c x) := ⟨_, _, _, _, _, rfl⟩

theorem Fitted.zeroSlice (s : State) (core off n : Nat) : Fitted s (s.zeroSlice core off n) := ⟨_, _, _, _, _, rfl⟩

theorem Fitted.foldl {α : Type} {f : State → α → State} (h : ∀ s y, Fitted s (f s y)) (l : List α) (s : State) :
    Fitted s (l.foldl f s) := by
  induction l generalizing s with
  | nil => exact .refl s
  | cons y l ih => exact (h s y).trans (ih (f s y))

theorem Writes.writeControl (s : State) (g : Nat) (up : Bool) : Writes s (s.writeControl g up) := by
  have poke : ∀ {u : State} (k n v : Nat), Writes s u → Writes s (u.pokeLE k n v) := fun k n v h => h.trans (.pokeBytes _ _ _)
  unfold State.writeControl
  exact poke _ 32 _ <| poke _ 8 _ <| poke _ 8 _ <| poke _ 8 _ <| poke _ 8 _ <| .refl s

theorem Writes.controlUnless (s : State) (p : Prop) [Decidable p] (g : Nat) (up : Bool) :
    Writes s (if p then s else s.writeControl g up) := by
  split
  · exact .refl s
  · exact .writeControl s g up

/-- The gang that starts in a slot of its partition (R108). -/
def Launch.startedGang (l : Launch) (n : Nat) (x : Start) (slot tick : Nat) : Gang :=
  { Gang.empty with
      launch := n, origin := x.origin, block := x.block, index := x.index, wid := x.wid, depth := x.depth
      lanes := Vector.ofFn fun t : Fin 32 => l.kernel.startLane x slot t.val, cond := l.kernel.startCond x slot tick
      dq := startQueue l.kernel.dqDecl x.store
      uq := startQueue l.kernel.uqDecl (x.store + queueStorage l.kernel.dqDecl)
      scratch := x.scratch, store := x.store, storeBytes := l.kernel.gangStore, bar := x.bar, begun := tick + 1 }

theorem State.startGang_full (full : s.freeSlots x.core x.part = []) : s.startGang n l x = s := by
  simp only [State.startGang, full]

section
variable (free : s.freeSlots x.core x.part = slot :: slots)
include free

theorem State.startGang_writes :
    Writes (s.setGang (gangKey x.core x.part slot) (l.startedGang n x slot s.tick)) (s.startGang n l x) := by
  simp only [State.startGang, free]
  exact (Writes.controlUnless _ _ _ false).trans (.controlUnless _ _ _ true)

/-- A gang of a kernel that declares no queue writes no control word. -/
theorem State.startGang_plain (dq : l.kernel.dqDecl = 0) (uq : l.kernel.uqDecl = 0) :
    s.startGang n l x = s.setGang (gangKey x.core x.part slot) (l.startedGang n x slot s.tick) := by
  have none : ∀ base, startQueue 0 base = Queue.none := fun _ => by simp [startQueue]
  have empty : Queue.none.depth = 0 := by decide
  simp only [State.startGang, free, dq, uq, none, empty, if_true]
  rw [Launch.startedGang, dq, uq, none, none]

end

theorem Fitted.startGang (s : State) (n : Nat) (l : Launch) (x : Start) : Fitted s (s.startGang n l x) := by
  cases free : s.freeSlots x.core x.part with
  | nil => rw [State.startGang_full free]; exact .refl s
  | cons slot slots => exact (Fitted.setGang s _ _).trans (State.startGang_writes free).fitted

theorem afind_of_freeSlots (free : s.freeSlots core part = slot :: slots) : afind (gangKey core part slot) s.gangs = none := by
  have mem : slot ∈ s.freeSlots core part := free ▸ List.mem_cons_self ..
  exact Option.isNone_iff_eq_none.mp (List.mem_filter.mp mem).2

theorem startQueue_entries (decl : W32) (base : Nat) : (startQueue decl base).entries = [] := by
  unfold startQueue
  simp only
  split <;> rfl

/-- Gangs of a block have started; those that stood stand as before. -/
structure GangsAdded (n block : Nat) (s t : State) : Prop where
  tick : t.tick = s.tick
  standing : ∀ g x, afind g s.gangs = some x → afind g t.gangs = some x
  added : ∀ g x, afind g s.gangs = none → afind g t.gangs = some x →
    x.launch = n ∧ x.block = block ∧ x.depth = 0 ∧ x.begun = s.tick + 1 ∧ x.dq.entries = [] ∧ x.uq.entries = []

theorem GangsAdded.of_same (tick : t.tick = s.tick) (gangs : t.gangs = s.gangs) : GangsAdded n block s t :=
  ⟨tick, fun _ _ here => gangs ▸ here, fun g x none here => by rw [gangs, none] at here; contradiction⟩

theorem GangsAdded.setLaunch (s : State) (m : Nat) (l : Launch) : GangsAdded n block s (s.setLaunch m l) := .of_same rfl rfl

theorem GangsAdded.trans (h : GangsAdded n block s t) (k : GangsAdded n block t u) : GangsAdded n block s u := by
  refine ⟨k.tick.trans h.tick, fun g x here => k.standing g x (h.standing g x here), fun g x none here => ?_⟩
  cases between : afind g t.gangs with
  | none =>
    rw [← h.tick]
    exact k.added g x between here
  | some y =>
    obtain rfl := Option.some.inj ((k.standing g y between).symm.trans here)
    exact h.added g _ none between

theorem GangsAdded.foldl {α : Type} {f : State → α → State} (h : ∀ s y, GangsAdded n block s (f s y)) (l : List α) (s : State) :
    GangsAdded n block s (l.foldl f s) := by
  induction l generalizing s with
  | nil => exact .of_same rfl rfl
  | cons y l ih => exact (h s y).trans (ih (f s y))

theorem GangsAdded.startGang (s : State) (n : Nat) (l : Launch) (top : x.depth = 0) : GangsAdded n x.block s (s.startGang n l x) := by
  cases free : s.freeSlots x.core x.part with
  | nil => rw [State.startGang_full free]; exact .of_same rfl rfl
  | cons slot slots =>
    obtain ⟨_, _, _, wrote⟩ := State.startGang_writes (n := n) (l := l) free
    have gangs : (s.startGang n l x).gangs = aput (gangKey x.core x.part slot) (l.startedGang n x slot s.tick) s.gangs :=
      congrArg State.gangs wrote
    have absent := afind_of_freeSlots free
    have tick : (s.startGang n l x).tick = s.tick := (congrArg State.tick wrote :)
    refine ⟨tick, fun g y here => ?_, fun g y none here => ?_⟩
    · rw [gangs, afind_aput_other]
      · exact here
      · rintro rfl
        exact nomatch absent.symm.trans here
    · rw [gangs] at here
      by_cases same : g = gangKey x.core x.part slot
      · rw [same, afind_aput_same] at here
        obtain rfl := Option.some.inj here
        exact ⟨rfl, rfl, top, rfl, startQueue_entries _ _, startQueue_entries _ _⟩
      · rw [afind_aput_other _ _ same] at here
        exact nomatch none.symm.trans here

/-! ## A block starts (R106, R107) -/

/-- What the gang `j` of a block starts with, in its partition. -/
def Launch.blockGang (l : Launch) (b : BlockSlot) (block j : Nat) (place : Nat × Nat) : Start :=
  let k := l.kernel
  let per := k.perPart (k.blockGangs l.shape)
  let data : W64 := if k.dataBytes = 0 then 0 else n64 (k.object + k.data)
  let base := aget 0 place.1 b.bases
  let before := ((List.range j).filter fun i => (b.places[i / max 1 per]?.map (·.1)) = some place.1).length
  { origin := .launched, block := block, index := j, wid := k.blockWid l.shape block j, depth := 0,
    core := place.1, part := place.2, pos := j / max 1 per, scratch := base, store := k.storeAt base before,
    regs := List.replicate (l.shape.extent 0) [l.arg, data], gregs := [l.arg, data],
    laneEntry := k.laneEntry, condEntry := k.condEntry, bar := none, gens := [], cgen := 1, after := [] }

/-- The gang `j` of a block started, if its slot has a partition for it. -/
def State.placeGang (s : State) (n : Nat) (l : Launch) (b : BlockSlot) (block j : Nat) : State :=
  match b.places[j / max 1 (l.kernel.perPart (l.kernel.blockGangs l.shape))]? with
  | none => s
  | some place => s.startGang n l (l.blockGang b block j place)

/-- A launch with a block in one of its slots. -/
def Launch.holding (l : Launch) (slot block : Nat) : Launch :=
  { l with slots := modAt (fun b => { b with block := some block }) slot l.slots }

/-- The scratch of a slot reads zero. -/
def State.scratchCleared (s : State) (k : Kernel) (b : BlockSlot) : State :=
  b.bases.foldl (fun s (c, base) => s.zeroSlice c base k.scratch) s

theorem State.startBlock_eq {b : BlockSlot} (found : s.launch? n = some l) (at_ : l.slots[slot]? = some b) :
    s.startBlock n slot block = (List.range (l.kernel.blockGangs l.shape)).foldl
      (fun s j => s.placeGang n (l.holding slot block) b block j)
      ((s.setLaunch n (l.holding slot block)).scratchCleared l.kernel b) := by
  have step : (fun (s : State) j => s.placeGang n (l.holding slot block) b block j) = fun s j =>
      match b.places[j / max 1 (l.kernel.perPart (l.kernel.blockGangs l.shape))]? with
      | none => s
      | some (core, part) => s.startGang n (l.holding slot block) (l.blockGang b block j (core, part)) := by
    funext s j
    unfold State.placeGang
    split
    · next none => rw [show b.places[j / max 1 (l.kernel.perPart (l.kernel.blockGangs l.shape))]? = _ from none]
    · next place here =>
      rw [show b.places[j / max 1 (l.kernel.perPart (l.kernel.blockGangs l.shape))]? = _ from here]
      rfl
  simp only [State.startBlock, found, at_]
  rw [step]
  rfl

theorem Fitted.placeGang (s : State) (n : Nat) (l : Launch) (b : BlockSlot) (block j : Nat) :
    Fitted s (s.placeGang n l b block j) := by
  unfold State.placeGang
  split
  · exact .refl s
  · exact .startGang s n l _

theorem GangsAdded.placeGang (s : State) (n : Nat) (l : Launch) (b : BlockSlot) (block j : Nat) :
    GangsAdded n block s (s.placeGang n l b block j) := by
  unfold State.placeGang
  split
  · exact .of_same rfl rfl
  · next place _ => exact GangsAdded.startGang (x := l.blockGang b block j place) s n l rfl

theorem Fitted.scratchCleared (s : State) (k : Kernel) (b : BlockSlot) : Fitted s (s.scratchCleared k b) :=
  .foldl (fun _ _ => .zeroSlice _ _ _ _) _ s

theorem State.scratchCleared_gangs (s : State) (k : Kernel) (b : BlockSlot) :
    (s.scratchCleared k b).gangs = s.gangs ∧ (s.scratchCleared k b).tick = s.tick := by
  unfold State.scratchCleared
  generalize b.bases = bases
  induction bases generalizing s with
  | nil => exact ⟨rfl, rfl⟩
  | cons e bases ih => exact ih (s.zeroSlice e.1 e.2 k.scratch)

section
variable {b : BlockSlot} (found : s.launch? n = some l) (at_ : l.slots[slot]? = some b)
include found at_

theorem Fitted.startBlock (block : Nat) : Fitted (s.setLaunch n (l.holding slot block)) (s.startBlock n slot block) := by
  rw [State.startBlock_eq found at_]
  exact (Fitted.scratchCleared _ _ _).trans (.foldl (fun _ _ => .placeGang _ _ _ _ _ _) _ _)

theorem GangsAdded.startBlock (block : Nat) : GangsAdded n block s (s.startBlock n slot block) := by
  rw [State.startBlock_eq found at_]
  obtain ⟨gangs, tick⟩ := (s.setLaunch n (l.holding slot block)).scratchCleared_gangs l.kernel b
  exact ((GangsAdded.setLaunch s n _).trans (.of_same tick gangs)).trans (.foldl (fun _ _ => .placeGang _ _ _ _ _ _) _ _)

end

/-! ## The next block (R107) -/

/-- A launch whose next block takes a slot. -/
def Launch.taken (l : Launch) (u : Nat) : Launch :=
  { l with started := l.started + 1, slots := modAt (fun y => { y with block := some l.started }) u l.slots }

theorem State.setLaunch_setLaunch (s : State) (n : Nat) (x y : Launch) : (s.setLaunch n x).setLaunch n y = s.setLaunch n y := by
  simp [State.setLaunch, aput_aput]

/-- The lowest slot without a block is the free one, where blocks start one by one. -/
theorem Launch.freeUnit_eq {u : Nat} {b : BlockSlot} (single : l.shape.neighbour = false) (at_ : l.slots[u]? = some b)
    (free : b.block = none) (lower : ∀ v, v < u → ∀ y, l.slots[v]? = some y → y.block ≠ none) : l.freeUnit = some u := by
  have unit : l.unit = 1 := by rw [Launch.unit, single]; rfl
  have lt : u < l.slots.length := (List.getElem?_eq_some_iff.mp at_).1
  have one : ∀ v (h : v < l.slots.length), (l.slots.drop (v * 1)).take 1 = [l.slots[v]] := fun v h => by
    rw [Nat.mul_one, List.drop_eq_getElem_cons h, List.take_succ_cons, List.take_zero]
  have last : l.slots[u] = b := (List.getElem?_eq_some_iff.mp at_).2
  unfold Launch.freeUnit
  rw [unit, List.find?_range_eq_some]
  refine ⟨?_, by simpa using lt, fun v below => ?_⟩
  · rw [one u lt, last, List.all_cons, free]
    rfl
  · have full := lower v below _ (List.getElem?_eq_getElem (Nat.lt_trans below lt))
    rw [one v (Nat.lt_trans below lt), List.all_cons]
    simpa using Option.isSome_iff_ne_none.mpr full

theorem State.startNext_done (found : s.launch? n = some l) (done : l.shape.blocks ≤ l.started) : s.startNext n = s := by
  unfold State.startNext
  simp only [found]
  split
  · rfl
  · rw [if_pos (by simp [done])]

section
variable {u : Nat} {b : BlockSlot} (found : s.launch? n = some l) (running : l.phase = .running) (plain : l.kernel.watch = false)
  (single : l.shape.neighbour = false) (more : l.started < l.shape.blocks) (at_ : l.slots[u]? = some b) (free : b.block = none)
  (lower : ∀ v, v < u → ∀ y, l.slots[v]? = some y → y.block ≠ none)
include found running plain single more at_ free lower

theorem State.startNext_eq : s.startNext n = (s.setLaunch n { l with started := l.started + 1 }).startBlock n u l.started := by
  have unit : l.unit = 1 := by rw [Launch.unit, single]; rfl
  have one : min 1 (l.shape.blocks - l.started) = 1 := by omega
  have go : ¬ (l.kernel.watch || decide (l.phase ≠ .running) || decide (l.shape.blocks ≤ l.started)) = true := by
    rw [plain, running, decide_eq_false (Nat.not_le.mpr more)]
    decide
  unfold State.startNext
  simp only [found, Launch.freeUnit_eq single at_ free lower, unit, one, if_neg go]
  rw [show List.range 1 = [0] from rfl, List.foldl_cons, List.foldl_nil, Nat.mul_one]
  rfl

/-- The next block in its slot: nothing but memory and gangs has changed beside its launch, and the new gangs are the block's. -/
theorem State.startNext_starts : Fitted (s.setLaunch n (l.taken u)) (s.startNext n) ∧ GangsAdded n l.started s (s.startNext n) := by
  have found' : (s.setLaunch n { l with started := l.started + 1 }).launch? n = some { l with started := l.started + 1 } :=
    afind_aput_same ..
  rw [State.startNext_eq found running plain single more at_ free lower]
  constructor
  · have fitted := Fitted.startBlock found' at_ l.started
    rwa [State.setLaunch_setLaunch] at fitted
  · exact (GangsAdded.setLaunch s n _).trans (GangsAdded.startBlock found' at_ l.started)

theorem State.startNext_launch : (s.startNext n).launch? n = some (l.taken u) ∧ (s.startNext n).quotes = s.quotes := by
  obtain ⟨⟨_, _, _, _, _, same⟩, _⟩ := State.startNext_starts found running plain single more at_ free lower
  rw [same]
  exact ⟨afind_aput_same .., rfl⟩

end

theorem State.zeroSlice_byte (s : State) (core off n k : Nat) : readByte (s.zeroSlice core off n).mem k =
    if k < sliceKey core off ∨ sliceKey core off + n ≤ k then readByte s.mem k else 0 := by
  refine (readByte_filter (fun k => decide (k < sliceKey core off) || decide (sliceKey core off + n ≤ k)) s.mem k).trans ?_
  simp only [Bool.or_eq_true, decide_eq_true_eq]

/-! ## A thread at its first issue (R108, R130) -/

theorem firstRegs_get {m : Nat} (count : Nat) (vs : List W64) {r : Nat} (lt : r < m) :
    (firstRegs count vs : Vector W64 m)[r] = if r < count then vs.getD r 0 else 0 := by
  simp only [firstRegs, Vector.getElem_ofFn]

theorem startedGang_lane (l : Launch) (n : Nat) (x : Start) (slot tick : Nat) (v : Fin 32) :
    (l.startedGang n x slot tick).lane v.val = l.kernel.startLane x slot v.val := by
  simp only [Gang.lane, dif_pos v.isLt, Launch.startedGang, Vector.getElem_ofFn]

theorem startLane_live {k : Kernel} {e : W32} {vs : List W64} (entry : x.laneEntry = some e) {t : Nat} (regs : x.regs[t]? = some vs) :
    let y := k.startLane x slot t
    (∀ r, r < 96 → y.reg r = if r < k.laneRegs then vs.getD r 0 else 0) ∧ y.tsp = k.spillStart x.pos slot t ∧
      y = { Lane.empty with st := .live, pc := Claims.laneAddress e, v := y.v, tsp := y.tsp, gen := y.gen, after := y.after } := by
  intro y
  have shape : y = { Lane.empty with
      st := .live, pc := Claims.laneAddress e, v := firstRegs k.laneRegs vs, tsp := k.spillStart x.pos slot t,
      gen := x.gens.getD t 1, after := x.after } := by
    simp only [y, Kernel.startLane, entry, regs]
    rfl
  refine ⟨fun r lt => ?_, congrArg Lane.tsp shape, ?_⟩
  · rw [shape, Lane.reg, dif_pos lt, firstRegs_get]
  · rw [shape]

theorem startLane_absent {k : Kernel} {t : Nat} (absent : x.laneEntry = none ∨ x.regs[t]? = none) :
    k.startLane x slot t = Lane.empty := by
  unfold Kernel.startLane
  split
  · next e vs entry regs =>
    cases absent with
    | inl none => exact nomatch none.symm.trans entry
    | inr none => exact nomatch none.symm.trans regs
  · rfl

end
end Sys2Proof.Machine

namespace Sys2Proof.Machine

section
variable {s : State} {n u c p base slot : Nat} {slots : List Nat} {l : Launch} {b : BlockSlot} {x : Start}

/-! ## A block of one gang (R106–R108) -/

/-- What the one gang of a block starts with. -/
def Launch.onlyGang (l : Launch) (b : BlockSlot) (u : Nat) (place : Nat × Nat) : Start :=
  (l.taken u).blockGang b l.started 0 place

section
variable (found : s.launch? n = some l) (running : l.phase = .running) (plain : l.kernel.watch = false)
  (single : l.shape.neighbour = false) (more : l.started < l.shape.blocks) (at_ : l.slots[u]? = some b) (free : b.block = none)
  (lower : ∀ v, v < u → ∀ y, l.slots[v]? = some y → y.block ≠ none)
  (cores : b.cores = [(c, [p])]) (bases : b.bases = [(c, base)]) (alone : l.shape.extent 1 = 1) (dq : l.kernel.dqDecl = 0)
  (uq : l.kernel.uqDecl = 0) (slot_ : s.freeSlots c p = slot :: slots)
include found running plain single more at_ free lower cores bases alone dq uq slot_

theorem State.startNext_one : s.startNext n =
    ((s.setLaunch n (l.taken u)).zeroSlice c base l.kernel.scratch).setGang (gangKey c p slot)
      ((l.taken u).startedGang n (l.onlyGang b u (c, p)) slot s.tick) := by
  have found' : (s.setLaunch n { l with started := l.started + 1 }).launch? n = some { l with started := l.started + 1 } :=
    afind_aput_same ..
  have gangs : l.kernel.blockGangs l.shape = 1 := by rw [Kernel.blockGangs, plain]; exact alone
  have places : b.places = [(c, p)] := by rw [BlockSlot.places, cores]; rfl
  have place : ∀ (v : State) (m : Launch),
      v.placeGang n m b l.started 0 = v.startGang n m (m.blockGang b l.started 0 (c, p)) := fun v m => by
    rw [State.placeGang, places, Nat.zero_div]
    rfl
  rw [State.startNext_eq found running plain single more at_ free lower, State.startBlock_eq found' at_, State.setLaunch_setLaunch]
  rw [show ({ l with started := l.started + 1 } : Launch).kernel.blockGangs _ = 1 from gangs, show List.range 1 = [0] from rfl,
    List.foldl_cons, List.foldl_nil, place, State.scratchCleared, bases, List.foldl_cons, List.foldl_nil]
  exact State.startGang_plain (s := (s.setLaunch n (l.taken u)).zeroSlice c base l.kernel.scratch) (l := l.taken u)
    (x := l.onlyGang b u (c, p)) slot_ dq uq

end

/-- A gang's conductor at its first issue. -/
theorem startCond_fields (k : Kernel) (x : Start) (slot tick : Nat) :
    (k.startCond x slot tick).st = (if x.condEntry = none then .exited else .live) ∧
      ∀ r, r < 192 → (k.startCond x slot tick).reg r = if r < k.groupRegs then x.gregs.getD r 0 else 0 := by
  constructor
  · show (if x.condEntry.isSome then CtxSt.live else .exited) = _
    cases x.condEntry <;> rfl
  · intro r lt
    rw [Ctx.reg, dif_pos lt]
    exact firstRegs_get _ _ lt

theorem startedGang_started {e : W32} {vs : List W64} {t : Nat} (entry : x.laneEntry = some e) (v : Fin 32)
    (regs : x.regs[v.val]? = some vs) (first : x.pos = 0) :
    Claims.Started l.kernel ((l.startedGang n x slot t).lane v.val) (Claims.laneAddress e) vs slot v.val := by
  obtain ⟨values, tsp, rest⟩ := startLane_live (slot := slot) (k := l.kernel) entry regs
  rw [startedGang_lane]
  refine ⟨values, tsp.trans ?_, rest⟩
  rw [Kernel.spillStart, first]
  simp

end

/-- Blocks start one by one (R106–R108). -/
theorem blocksStart : Claims.BlocksStart := by
  constructor
  · intro s n u l b found running plain single more at_ free lower
    obtain ⟨_, added⟩ := State.startNext_starts found running plain single more at_ free lower
    exact ⟨_, rfl, (State.startNext_launch found running plain single more at_ free lower).1, added.standing, added.added⟩
  · intro s n u c p base slot slots l b found running plain single more at_ free lower cores bases _ _ alone dq uq slot_ k data g
    have one := State.startNext_one found running plain single more at_ free lower cores bases alone dq uq slot_
    have launch := (State.startNext_launch found running plain single more at_ free lower).1
    obtain ⟨_, regs⟩ := startCond_fields k (l.onlyGang b u (c, p)) slot s.tick
    have gang : (s.startNext n).gang g = (l.taken u).startedGang n (l.onlyGang b u (c, p)) slot s.tick := by
      rw [one]
      exact State.gang_setGang _ _ _
    have lane : ∀ v : Fin 32, Claims.laneOf (s.startNext n) g v = k.startLane (l.onlyGang b u (c, p)) slot v.val := fun v => by
      rw [Claims.laneOf, gang]
      exact startedGang_lane _ _ _ _ _ v
    have bytes : ∀ a, readByte (s.startNext n).mem a =
        if a < sliceKey c base ∨ sliceKey c base + k.scratch ≤ a then readByte s.mem a else 0 := fun a => by
      rw [one]
      exact State.zeroSlice_byte (s.setLaunch n (l.taken u)) c base k.scratch a
    have depth : k.blockGangs l.shape = 1 := by rw [Kernel.blockGangs, plain]; exact alone
    refine ⟨_, rfl, launch, ?_⟩
    rw [gang]
    refine ⟨rfl, rfl, rfl, rfl, rfl, ?_, rfl, fun v e entry lt => ?_, fun v absent => ?_, ?_, regs, fun h apart => ?_, fun j lt => ?_,
      fun a out => (bytes a).trans (if_pos out)⟩
    · show aget 0 c b.bases = base
      rw [bases]
      simp [aget]
    · rw [Claims.laneOf, gang]
      exact startedGang_started (l := l.taken u) entry v ((List.getElem?_replicate).trans (if_pos lt)) (Nat.zero_div _)
    · rw [lane]
      exact startLane_absent (absent.imp id fun le => (List.getElem?_replicate).trans (if_neg (Nat.not_lt.mpr le)))
    · exact (startCond_fields k (l.onlyGang b u (c, p)) slot s.tick).1
    · rw [one]
      exact State.gang_setGang_other _ _ apart
    · rw [bytes, if_neg (by omega)]

section
variable {s t : State} {n i u id j : Nat} {l l0 : Launch} {q : Quote} {k : Kernel} {arg : W64} {packet : Option (Nat × Nat)}

/-! ## A launch opens (R89, R100, R107, R202) -/

/-- The launch that an accepted quotation opens. -/
def Quote.opened (q : Quote) (k : Kernel) (arg : W64) (packet : Option (Nat × Nat)) (tick : Nat) : Launch :=
  { qid := q.id, asid := q.asid, kernel := k, shape := q.shape, arg := arg, slots := q.slots, started := 0,
    rect := q.rect, groups := [], joining := [], stream := q.stream.getD 31, step := 0, stepStart := tick,
    stepEnded := none, pJ := if k.watch then 0 else k.farLines * 2560, start := tick, phase := .running, gone := 0, halt := 0,
    lost := 0, moved := 0, saved := [], savedTasks := [], savedMx := [], savedOps := [], copySeq := [], retries := 0,
    packet := packet }

theorem Fitted.writeGrant (s : State) (core base n asid : Nat) : Fitted s (s.writeGrant core base n asid) := by
  unfold State.writeGrant
  simp only
  split
  · exact .refl s
  · exact (Writes.pokeBytes s _ _).fitted

theorem Fitted.markParts (s : State) (cores : List (Nat × List Nat)) (qid : Option Nat) : Fitted s (s.markParts cores qid) :=
  .foldl (fun _ _ => .setCore _ _ _) cores s

/-- Opening a launch lists it under the next number; beside, memory and cores alone change. -/
theorem State.openLaunch_opens (s : State) (q : Quote) (k : Kernel) (arg : W64) (packet : Option (Nat × Nat)) :
    (s.openLaunch q k arg packet).1 = s.nextLaunch ∧
      Fitted { s with launches := s.launches ++ [(s.nextLaunch, q.opened k arg packet s.tick)], nextLaunch := s.nextLaunch + 1 }
        (s.openLaunch q k arg packet).2 := by
  refine ⟨rfl, ?_⟩
  have keep : ∀ {v w : State} (p : Prop) [Decidable p], Fitted v w → Fitted v (if p then v else w) := fun p _ h => by
    split
    · exact .refl _
    · exact h
  have make : ∀ {v w : State} (p : Prop) [Decidable p], Fitted v w → Fitted v (if p then w else v) := fun p _ h => by
    split
    · exact h
    · exact .refl _
  exact ((keep _ (.foldl (fun _ _ => .writeGrant _ _ _ _ _) _ _)).trans (.markParts _ _ _)).trans
    (make _ (.foldl (fun _ _ => .setCore _ _ _) _ _))

/-- A launch whose first blocks have taken `j` of its slots, or all its blocks have. -/
structure Opening (l0 : Launch) (j : Nat) (l : Launch) : Prop where
  rest : l = { l0 with started := l.started, slots := l.slots }
  started : l.started = min j l0.shape.blocks
  size : l.slots.length = l0.slots.length
  full : ∀ v y, l.slots[v]? = some y → (v < l.started ↔ y.block ≠ none)

theorem Opening.begins (started : l0.started = 0) (empty : ∀ b ∈ l0.slots, b.block = none) : Opening l0 0 l0 := by
  refine ⟨rfl, by rw [started, Nat.zero_min], rfl, fun v y here => ?_⟩
  have none := empty y (List.mem_of_getElem? here)
  rw [started, none]
  simp

theorem Opening.taken (h : Opening l0 j l) (more : j < l0.shape.blocks) : Opening l0 (j + 1) (l.taken l.started) := by
  obtain ⟨rest, started, size, full⟩ := h
  have now : l.started = j := started.trans (Nat.min_eq_left (Nat.le_of_lt more))
  refine ⟨?_, ?_, (length_modAt _ _ _).trans size, fun v y here => ?_⟩
  · rw [Launch.taken, rest]
  · show l.started + 1 = _
    rw [now, Nat.min_eq_left more]
  · show v < l.started + 1 ↔ _
    have here' : (modAt (fun y => { y with block := some l.started }) l.started l.slots)[v]? = some y := here
    rw [getElem?_modAt] at here'
    split at here'
    · next same =>
      obtain ⟨z, _, rfl⟩ := Option.map_eq_some_iff.mp here'
      simp [same]
    · next apart =>
      rw [← full v y here']
      omega

/-- One more step of a launch's start. -/
theorem Opening.step (h : Opening l0 j l) (found : s.launch? n = some l) (running : l0.phase = .running)
    (plain : l0.kernel.watch = false) (single : l0.shape.neighbour = false) (room : j < l0.slots.length) :
    ∃ l', (s.startNext n).launch? n = some l' ∧ Opening l0 (j + 1) l' ∧ (s.startNext n).quotes = s.quotes := by
  have same : l.phase = l0.phase ∧ l.kernel = l0.kernel ∧ l.shape = l0.shape := by
    rw [h.rest]
    exact ⟨rfl, rfl, rfl⟩
  obtain ⟨phase, kernel, shape⟩ := same
  have size := h.size
  have started := h.started
  by_cases more : j < l0.shape.blocks
  · have now : l.started = j := h.started.trans (Nat.min_eq_left (Nat.le_of_lt more))
    have at_ : l.slots[l.started]? = some (l.slots[l.started]'(by omega)) := List.getElem?_eq_getElem (by omega)
    have free : (l.slots[l.started]'(by omega)).block = none := by
      by_contra busy
      exact absurd ((h.full _ _ at_).mpr busy) (Nat.lt_irrefl _)
    obtain ⟨launch, quotes⟩ := State.startNext_launch found (phase.trans running) (kernel ▸ plain) (shape ▸ single)
      (by rw [shape]; omega) at_ free fun v below y here => (h.full v y here).mp below
    exact ⟨_, launch, h.taken more, quotes⟩
  · have done : l.shape.blocks ≤ l.started := by rw [shape, h.started]; omega
    rw [State.startNext_done found done]
    exact ⟨l, found, ⟨h.rest, by rw [h.started]; omega, h.size, h.full⟩, rfl⟩

/-- The first blocks of a launch, as many as it has slots and blocks. -/
theorem Opening.steps (running : l0.phase = .running) (plain : l0.kernel.watch = false) (single : l0.shape.neighbour = false)
    (h : Opening l0 0 l) (found : s.launch? n = some l) : ∀ j, j ≤ l0.slots.length →
    ∃ l', ((List.range j).foldl (fun s _ => s.startNext n) s).launch? n = some l' ∧ Opening l0 j l' ∧
      ((List.range j).foldl (fun s _ => s.startNext n) s).quotes = s.quotes := by
  intro j
  induction j with
  | zero => exact fun _ => ⟨l, found, h, rfl⟩
  | succ j ih =>
    intro room
    obtain ⟨m, launch, opening, quotes⟩ := ih (Nat.le_of_succ_le room)
    rw [List.range_succ, List.foldl_append, List.foldl_cons, List.foldl_nil]
    obtain ⟨m', launch', opening', quotes'⟩ := opening.step launch running plain single room
    exact ⟨m', launch', opening', quotes'.trans quotes⟩

section
variable (found : s.quote? id = some q) (accepted : q.state = 3) (timely : s.tick < q.deadline) (waits : q.pendingLaunch = some arg)
  (kernel : q.kernel = some k) (asked : q.packets = [(n, i, 4)]) (may : s.mayStart n = true) (clear : s.partsClear q.cores = true)
  (single : q.shape.neighbour = false)
include found accepted timely waits kernel asked may clear single

/-- The state in which a LAUNCH has opened its launch, with no block started yet. -/
theorem launchStart_act :
    let v := (s.startPacket n i).openLaunch q k arg (some (n, i))
    exec (.launchStart id) s = .next ((List.range q.slots.length).foldl (fun s _ => s.startNext v.1)
      (v.2.moveQuote { q with packets := [] } 4)) := by
  have current : q.lapsed s.tick = false := lapsed_false fun late => absurd late.2.2 (Nat.not_le.mpr timely)
  obtain ⟨⟩ := q
  dsimp only at accepted waits kernel asked clear single
  subst accepted waits kernel asked
  show execLaunchStart id s = _
  unfold execLaunchStart
  rw [found]
  simp only [current, Bool.false_eq_true, if_false, List.find?, Option.map_some, may, clear, decide_true, Bool.and_self, single]
  rw [Nat.max_self, Nat.div_one]
  rfl

end

/-- The launch that a LAUNCH lists, before its first block. -/
theorem openLaunch_launch (writes : Writes s t) (new : afind s.nextLaunch s.launches = none) :
    (t.openLaunch q k arg packet).1 = s.nextLaunch ∧
      (t.openLaunch q k arg packet).2.launch? s.nextLaunch = some (q.opened k arg packet s.tick) ∧
      (t.openLaunch q k arg packet).2.quotes = s.quotes := by
  obtain ⟨_, _, _, rfl⟩ := writes
  obtain ⟨number, _, _, _, _, _, opened⟩ := State.openLaunch_opens _ q k arg packet
  rw [opened]
  exact ⟨number, afind_append_new new _, rfl⟩

end

/-- A LAUNCH starts on an accepted quotation (R89, R100, R107). -/
theorem launchesStart : Claims.LaunchesStart := by
  intro s id n i q k arg found accepted timely waits kernel asked may clear new plain single free
  have act := launchStart_act found accepted timely waits kernel asked may clear single
  dsimp only at act
  obtain ⟨number, launch, quotes⟩ := openLaunch_launch (q := q) (k := k) (arg := arg) (packet := some (n, i))
    (Writes.startPacket s n i) new
  rw [number] at act
  generalize (s.startPacket n i).openLaunch q k arg (some (n, i)) = v at act launch quotes
  have stands : v.2.quote? id = some q := by rw [← found, State.quote?, quotes]; rfl
  have moved := Noted.moveQuote stands (y := { q with packets := [] }) rfl rfl 4
  have kept : (v.2.moveQuote { q with packets := [] } 4).launch? s.nextLaunch = some (q.opened k arg (some (n, i)) s.tick) := by
    obtain ⟨_, _, _, _, _, _, moved⟩ := moved
    rw [moved]
    exact launch
  have in4 : Claims.StandsIn (v.2.moveQuote { q with packets := [] } 4) id 4 :=
    State.moveQuote_standsIn stands (y := { q with packets := [] }) rfl rfl 4
  obtain ⟨l, starts, opening, same⟩ := Opening.steps rfl plain single (.begins rfl free) kept q.slots.length (Nat.le_refl _)
  refine ⟨_, l, act, starts, ?_⟩
  have ends : Claims.StandsIn ((List.range q.slots.length).foldl (fun t _ => t.startNext s.nextLaunch)
      (v.2.moveQuote { q with packets := [] } 4)) id 4 := by
    obtain ⟨x, here, state⟩ := in4
    exact ⟨x, by rw [← here, State.quote?, same]; rfl, state⟩
  rw [opening.rest]
  exact ⟨rfl, rfl, rfl, rfl, rfl, rfl, rfl, rfl, opening.started, ends⟩

end Sys2Proof.Machine

namespace Sys2Proof.Machine

section
variable {s : State} {core part slot : Nat} {slots : List Nat} {y : Task} {l : Launch}

/-! ## A ready task starts (R115) -/

/-- What the gang of a child starts with. -/
def Launch.childStart (l : Launch) (y : Task) (core part : Nat) : Start :=
  { origin := y.origin, block := y.block, index := y.index, wid := y.wid, depth := y.depth, core := core, part := part,
    pos := l.partPos y.block core part, scratch := ((l.slotOf y.block).map fun b => aget 0 core b.bases).getD 0, store := 0,
    regs := y.regs.take y.threads, gregs := y.gregs, laneEntry := y.laneEntry, condEntry := y.condEntry, bar := y.bar,
    gens := y.gens, cgen := y.cgen, after := y.after }

theorem State.startAcquire_cores (s : State) (core : Nat) (y : Task) : ∃ cores, s.startAcquire core y = { s with cores := cores } := by
  unfold State.startAcquire
  split
  · exact ⟨_, rfl⟩
  · exact ⟨_, rfl⟩

section
variable (origin : y.origin = .spawned) (found : s.launch? y.launch = some l) (dq : l.kernel.dqDecl = 0) (uq : l.kernel.uqDecl = 0)
  (free : s.freeSlots core part = slot :: slots)
include origin found dq uq free

/-- A child of a kernel without declared queues takes the free slot; its core's lines alone change beside. -/
theorem State.startTask_spawned : ∃ cores, s.startTask core part y =
    some (({ s with cores := cores } : State).setGang (gangKey core part slot)
      (l.startedGang y.launch (l.childStart y core part) slot s.tick)) := by
  obtain ⟨cores, acquired⟩ := s.startAcquire_cores core y
  have none : l.kernel.gangStore = 0 := by rw [Kernel.gangStore, dq, uq]; rfl
  have found' : ({ s with cores := cores } : State).launch? y.launch = some l := found
  have plain : ({ s with cores := cores } : State).startGang y.launch l (l.childStart y core part) = _ :=
    State.startGang_plain (s := { s with cores := cores }) (x := l.childStart y core part) free dq uq
  refine ⟨cores, Eq.trans ?_ (congrArg some plain)⟩
  simp only [State.startTask, acquired, found', origin, none, if_true, Option.map_some]
  rw [Launch.childStart, origin]

/-- The only ready task of a partition starts, and leaves it. -/
theorem readyTask_starts (lt : part < 16) (one : ((s.core core).part part).tasks = [y]) (running : l.phase = .running)
    (fits : 12 - (slots.length + 1) < l.kernel.fit) : ∃ cores,
    let t := ({ s with cores := cores } : State).setGang (gangKey core part slot)
      (l.startedGang y.launch (l.childStart y core part) slot s.tick)
    exec (.readyTaskDispatch core part) s = .next (t.setCore core
      { t.core core with parts := (t.core core).parts.set part { (t.core core).parts[part] with tasks := [] } }) := by
  obtain ⟨cores, starts⟩ := State.startTask_spawned origin found dq uq free
  have first : firstTask [y] = some (0, y) := rfl
  have act : exec (.readyTaskDispatch core part) s = execReadyTaskDispatch core part s := rfl
  refine ⟨cores, act.trans ?_⟩
  unfold execReadyTaskDispatch
  simp only [one, first, free, found, running, List.length_cons, fits, starts, lt, dite_true, decide_true, Bool.not_true, Bool.or_self,
    Bool.false_eq_true, if_false, List.eraseIdx]

end

end

/-- A free gang slot takes the ready task of its partition (R115). -/
theorem tasksStart : Claims.TasksStart := by
  intro s core part slot slots y l lt one origin found running dq uq free fits g
  obtain ⟨cores, act⟩ := readyTask_starts origin found dq uq free lt one running fits
  have gang : ∀ (u : State) (x : Gang) (z : CoreSt), ((u.setGang g x).setCore core z).gang g = x := fun u x z => State.gang_setGang u g x
  refine ⟨_, act, rfl, ?_, ?_⟩
  · rw [State.core_setCore, CoreSt.part, dif_pos lt]
    simp
  · rw [gang]
    refine ⟨rfl, origin, rfl, rfl, rfl, rfl, fun v e vs entry low regs => ?_, fun h apart => State.gang_setGang_other _ _ apart⟩
    have taken : (y.regs.take y.threads)[v.val]? = some vs := by rw [List.getElem?_take_of_lt low, regs]
    obtain ⟨values, _, shape⟩ := startLane_live (x := l.childStart y core part) (slot := slot) (k := l.kernel) entry taken
    rw [Claims.laneOf, gang, startedGang_lane]
    exact ⟨values, by rw [shape], by rw [shape]⟩

end Sys2Proof.Machine

namespace Sys2Proof.Machine

section
variable {s t u : State} {n id kind actual bound : Nat} {l : Launch} {q x : Quote}

/-! ## What a device write leaves of the slices (R205) -/

/-- No byte of a slice changes: device memory ends below the slices. -/
def SlicesStand (s t : State) : Prop :=
  t.dev.memBytes = s.dev.memBytes ∧ (s.dev.memBytes ≤ 2 ^ 60 → ∀ a, 2 ^ 60 ≤ a → readByte t.mem a = readByte s.mem a)

theorem SlicesStand.of_same (dev : t.dev.memBytes = s.dev.memBytes) (mem : t.mem = s.mem) : SlicesStand s t :=
  ⟨dev, fun _ _ _ => by rw [mem]⟩

theorem SlicesStand.trans (h : SlicesStand s t) (k : SlicesStand t u) : SlicesStand s u :=
  ⟨k.1.trans h.1, fun ends a high => (k.2 (h.1 ▸ ends) a high).trans (h.2 ends a high)⟩

theorem SlicesStand.writeDev (s : State) (pa : Nat) (bs : List Byte) : SlicesStand s (s.writeDev pa bs) := by
  have poke : SlicesStand s (s.pokeDev pa bs) := by
    simp only [State.pokeDev]
    split
    · next fits =>
      refine ⟨rfl, fun ends a high => readByte_writeBytes_other _ _ _ ?_⟩
      rw [List.length_drop]
      omega
    · exact .of_same rfl rfl
  exact poke.trans (.of_same rfl rfl)

theorem SlicesStand.writeVa (s : State) (asid va n v : Nat) : SlicesStand s (s.writeVa asid va n v) := by
  unfold State.writeVa
  split
  · split
    · refine SlicesStand.trans ?_ (.writeDev _ _ _)
      split
      · exact .of_same rfl rfl
      · exact .writeDev _ _ _
    · exact .of_same rfl rfl
  · exact .of_same rfl rfl

theorem SlicesStand.putQuote (s : State) (q : Quote) : SlicesStand s (s.putQuote q) :=
  SlicesStand.trans (.of_same rfl rfl) (.writeVa _ _ _ _ _)

theorem SlicesStand.moveQuote (found : s.quote? id = some q) (same : x.id = q.id) (quiet : x.packets = []) (n : Nat) :
    SlicesStand s (s.moveQuote x n) := by
  obtain ⟨z, moved⟩ := State.moveQuote_quiet found same quiet n
  rw [moved]
  exact (SlicesStand.putQuote s _).trans (.of_same rfl rfl)

theorem SlicesStand.breach (s : State) (qid asid kind : Nat) (val : W64) : SlicesStand s (s.breach qid asid kind val) := by
  obtain ⟨_, _, rest⟩ := s.breach_rest qid asid kind val
  rw [rest]
  exact .of_same rfl rfl

/-! ## The settlement (R100, R101, R295) -/

/-- Breaches have been noted against a quotation: its party alone changes, records are added. -/
structure Breached (id : Nat) (q : Quote) (s t : State) : Prop where
  stands : ∃ party, t.quote? id = some { q with party := party }
  records : ∃ more, t.dev.records = s.dev.records ++ more
  slices : SlicesStand s t
  noted : Noted s t

theorem Breached.refl (found : s.quote? id = some q) : Breached id q s s :=
  ⟨⟨q.party, found⟩, ⟨[], (List.append_nil _).symm⟩, .of_same rfl rfl, .refl s⟩

theorem Breached.trans (h : Breached id q s t) (k : ∀ party, t.quote? id = some { q with party := party } →
    Breached id { q with party := party } t u) : Breached id q s u := by
  obtain ⟨party, stands⟩ := h.stands
  obtain ⟨more, records⟩ := h.records
  obtain ⟨⟨party', stands'⟩, ⟨more', records'⟩, slices, noted⟩ := k party stands
  exact ⟨⟨party', stands'⟩, ⟨more ++ more', by rw [records', records, List.append_assoc]⟩, h.slices.trans slices, h.noted.trans noted⟩

theorem State.charge_device (found : s.quote? id = some q) (val : W64) : s.charge id 3 kind val =
    (if q.party = 0 then s.putQuote { q with party := 3 } else s).breach id q.asid kind val := by
  have unvoided : { q with party := 3, voided := q.voided || decide (3 = 1) || decide (3 = 2) } = { q with party := 3 } := by simp
  simp only [State.charge, found, if_true]
  rw [unvoided]

theorem Breached.charge (found : s.quote? id = some q) (val : W64) : Breached id q s (s.charge id 3 kind val) := by
  refine ⟨?_, ⟨_, State.charge_records found⟩, ?_, .charge s _ _ _ _⟩
  · by_cases first : q.party = 0
    · exact ⟨3, State.charge_quote found first⟩
    · obtain ⟨_, _, rest⟩ := s.breach_rest id q.asid kind val
      rw [State.charge_device found, if_neg first, rest]
      exact ⟨q.party, found⟩
  · rw [State.charge_device found]
    split
    · exact (SlicesStand.putQuote s _).trans (.breach _ _ _ _ _)
    · exact .breach _ _ _ _ _

section
variable (found : s.quote? id = some q)
include found

theorem State.settleBound_within (within : actual ≤ bound) : s.settleBound id kind actual bound = s := by
  simp [State.settleBound, found, Nat.not_lt.mpr within]

theorem State.settleBound_breach (beyond : bound < actual) (caller : q.party ≠ 1) (system : q.party ≠ 2) :
    s.settleBound id kind actual bound = s.charge id 3 kind (n64 (actual - bound)) := by
  simp [State.settleBound, found, beyond, caller, system]

theorem Breached.settleBound (kind actual bound : Nat) : Breached id q s (s.settleBound id kind actual bound) := by
  simp only [State.settleBound, found]
  split
  · exact .charge found _
  · exact .refl found

end

/-- The breaches of a settlement, the time's before the energy's. -/
def State.settleBounds (s : State) (q : Quote) (l : Launch) : State :=
  (s.settleBound q.id 1 (clkToNs (s.tick - l.start)) (q.tmax + (q.grown l).1)).settleBound q.id 2 (s.countedNJ q l)
    (q.emax + (q.grown l).2)

section
variable (found : s.quote? id = some q)
include found

theorem Breached.settleBounds (l : Launch) : Breached id q s (s.settleBounds q l) := by
  obtain rfl := State.quote?_id found
  exact (Breached.settleBound found _ _ _).trans fun _ stands => .settleBound stands _ _ _

theorem State.settleQuote_eq (l : Launch) : ∃ x y, (s.settleBounds q l).quote? id = some x ∧ y.id = x.id ∧ y.packets = q.packets ∧
    y.actT = clkToNs (s.tick - l.start) ∧ y.actE = s.countedNJ q l ∧
    s.settleQuote q l =
      (((s.settleBounds q l).writeVa q.asid (q.record + 48) 8 (clkToNs (s.tick - l.start))).writeVa q.asid (q.record + 56) 8
        (s.countedNJ q l)).moveQuote y 5 := by
  obtain ⟨party, stands⟩ := (Breached.settleBounds found l).stands
  obtain rfl := State.quote?_id found
  refine ⟨_, { q with party := party, actT := clkToNs (s.tick - l.start), actE := s.countedNJ q l }, stands, rfl, rfl, rfl, rfl, ?_⟩
  unfold State.settleBounds at stands
  simp only [State.settleQuote, stands]
  rfl

/-- A settlement without waiting packets: state 5, what was counted, and the breaches; no slice changes. -/
theorem State.settleQuote_settles (quiet : q.packets = []) (l : Launch) :
    let t := s.settleQuote q l
    (∃ x, t.quote? id = some x ∧ x.state = 5 ∧ x.actT = clkToNs (s.tick - l.start) ∧ x.actE = s.countedNJ q l) ∧
      t.dev.records = (s.settleBounds q l).dev.records ∧ SlicesStand s t ∧ Noted s t := by
  intro t
  obtain ⟨x, y, stands, same, packets, time, energy, eq⟩ := State.settleQuote_eq found l
  have breached := Breached.settleBounds found l
  have wrote := (Writes.writeVa (s.settleBounds q l) q.asid (q.record + 48) 8 (clkToNs (s.tick - l.start))).trans
    (.writeVa _ q.asid (q.record + 56) 8 (s.countedNJ q l))
  have slices := (SlicesStand.writeVa (s.settleBounds q l) q.asid (q.record + 48) 8 (clkToNs (s.tick - l.start))).trans
    (.writeVa _ q.asid (q.record + 56) 8 (s.countedNJ q l))
  generalize ((s.settleBounds q l).writeVa _ _ _ _).writeVa _ _ _ _ = v at eq wrote slices
  have kept : v.quote? id = some x ∧ v.dev = (s.settleBounds q l).dev := by
    obtain ⟨_, _, _, wrote⟩ := wrote
    rw [wrote]
    exact ⟨stands, rfl⟩
  obtain ⟨stands', dev'⟩ := kept
  have quiet' := packets.trans quiet
  obtain ⟨moved, dev⟩ := State.moveQuote_stands stands' same quiet' 5
  simp only [t, eq]
  exact ⟨⟨_, moved, rfl, time, energy⟩, by rw [dev, dev'], (breached.slices.trans slices).trans (.moveQuote stands' same quiet' 5),
    (breached.noted.trans wrote.noted).trans (.moveQuote stands' same quiet' 5)⟩

theorem State.settleBounds_within (time : clkToNs (s.tick - l.start) ≤ q.tmax + (q.grown l).1)
    (energy : s.countedNJ q l ≤ q.emax + (q.grown l).2) : s.settleBounds q l = s := by
  obtain rfl := State.quote?_id found
  rw [State.settleBounds, State.settleBound_within found time, State.settleBound_within found energy]

/-- A time above its bound is in a breach record (R101). -/
theorem State.settleBounds_late (late : q.tmax + (q.grown l).1 < clkToNs (s.tick - l.start)) (caller : q.party ≠ 1)
    (system : q.party ≠ 2) : { Record.blank 6 0x17 with
        asid := q.asid, stval := n64 (clkToNs (s.tick - l.start) - (q.tmax + (q.grown l).1)), info := n64 1, qid := id } ∈
      (s.settleBounds q l).dev.records := by
  obtain ⟨_, stands⟩ := (Breached.settleBound found 1 (clkToNs (s.tick - l.start)) (q.tmax + (q.grown l).1)).stands
  obtain rfl := State.quote?_id found
  obtain ⟨_, more⟩ := (Breached.settleBound stands 2 (s.countedNJ q l) (q.emax + (q.grown l).2)).records
  rw [State.settleBounds, more, State.settleBound_breach found late caller system, State.charge_records found]
  simp

end

/-! ## What a launch held is given back (R250, R293) -/

theorem readLE_zero {m : List Host.Cell} {k : Nat} (zero : ∀ i, i < n → readByte m (k + i) = 0) : readLE m k n = 0 := by
  have zeros : ∀ n, leNat (List.replicate n (0 : Byte)) = 0 := fun n => by
    induction n with
    | zero => rfl
    | succ n ih => rw [List.replicate_succ, leNat, ih]; rfl
  rw [readLE, readBytes_eq_map, List.map_congr_left fun i mem => zero i (List.mem_range.mp mem), List.map_const',
    List.length_range, zeros]

theorem barKey_high (c b : Nat) : 2 ^ 60 ≤ barKey c b := by
  unfold barKey sliceKey
  omega

/-- Barrier words are zero once their cells have been zeroed. -/
theorem readByte_barsZeroed (c b i : Nat) (lt : i < 16) : ∀ (l : List (Nat × Nat)) (s : State),
    (readByte s.mem (barKey c b + i) = 0 ∨ (c, b) ∈ l) →
    readByte (l.foldl (fun s e => s.zeroSlice e.1 (barArea + 16 * e.2) 16) s).mem (barKey c b + i) = 0
  | [], _, zero => zero.resolve_right List.not_mem_nil
  | e :: l, s, zero => by
    refine readByte_barsZeroed c b i lt l _ ?_
    rw [State.zeroSlice_byte]
    rcases zero with zero | listed
    · left
      split
      · exact zero
      · rfl
    · rcases List.mem_cons.mp listed with rfl | listed
      · left
        exact if_neg (show ¬ (barKey c b + i < barKey c b ∨ barKey c b + 16 ≤ barKey c b + i) by omega)
      · exact .inr listed

theorem mem_barsOf {c b : Nat} (owned : (s.bar c b).owner = some n) : (c, b) ∈ s.barsOf n := by
  have core := (aget_mem_key CoreSt.empty c s.cores).resolve_left fun empty => by
    rw [State.bar, State.core, empty] at owned
    exact nomatch owned
  have bar := (aget_mem_key Bar.free b (s.core c).bars).resolve_left fun free => by
    rw [State.bar, free] at owned
    exact nomatch owned
  exact List.mem_flatMap.mpr ⟨_, core, List.mem_map.mpr ⟨_, List.mem_filter.mpr ⟨bar, decide_eq_true owned⟩, rfl⟩⟩

/-- A core without the barriers of a launch. -/
def CoreSt.closed (x : CoreSt) (n : Nat) : CoreSt :=
  { x with bars := x.bars.map fun e => (e.1, if e.2.owner = some n then { e.2 with owner := none } else e.2)
           xfers := x.xfers.filter fun t => t.launch ≠ n }

theorem Writes.foldl {α : Type} {f : State → α → State} (h : ∀ s y, Writes s (f s y)) (l : List α) (s : State) :
    Writes s (l.foldl f s) := by
  induction l generalizing s with
  | nil => exact .refl s
  | cons y l ih => exact (h s y).trans (ih (f s y))

theorem Writes.clearGrant (s : State) (core base asid : Nat) : Writes s (s.clearGrant core base asid) := by
  refine .foldl (fun s i => ?_) _ _
  dsimp only
  split
  · exact .pokeBytes _ _ _
  · exact .refl s

theorem Writes.barsZeroed (bars : List (Nat × Nat)) (s : State) :
    Writes s (bars.foldl (fun s e => s.zeroSlice e.1 (barArea + 16 * e.2) 16) s) := .foldl (fun _ _ => ⟨_, _, _, rfl⟩) _ _

theorem Writes.cores (h : Writes s t) : t.cores = s.cores := by
  obtain ⟨_, _, _, rfl⟩ := h
  rfl

theorem State.closeLaunch_eq (s : State) (n : Nat) (l : Launch) : ∃ u, Writes s u ∧
    s.closeLaunch n l = { (s.barsOf n).foldl (fun s e => s.zeroSlice e.1 (barArea + 16 * e.2) 16) u with
      cores := s.cores.map fun e => (e.1, e.2.closed n) } := by
  have cleared : Writes s (if l.kernel.scratch = 0 then s
      else (slotBases l.slots).foldl (fun s (c, base) => s.clearGrant c base l.asid) s) := by
    split
    · exact .refl s
    · exact .foldl (fun s _ => .clearGrant s _ _ _) _ _
  refine ⟨_, cleared, ?_⟩
  have zeroed := Writes.barsZeroed (s.barsOf n) (if l.kernel.scratch = 0 then s
      else (slotBases l.slots).foldl (fun s (c, base) => s.clearGrant c base l.asid) s)
  have bars : State.barsOf (if l.kernel.scratch = 0 then s
      else (slotBases l.slots).foldl (fun s (c, base) => s.clearGrant c base l.asid) s) n = s.barsOf n := by
    obtain ⟨_, _, _, cleared⟩ := cleared
    rw [cleared]
    rfl
  have cores := (cleared.trans zeroed).cores
  rw [← bars] at cores ⊢
  rw [← cores]
  rfl

theorem Fitted.closeLaunch (s : State) (n : Nat) (l : Launch) : Fitted s (s.closeLaunch n l) := by
  obtain ⟨u, wrote, eq⟩ := s.closeLaunch_eq n l
  rw [eq]
  exact (wrote.trans (.barsZeroed (s.barsOf n) u)).fitted.trans ⟨_, _, _, _, _, rfl⟩

/-- A barrier of a launch that closes is unowned, its word and status zero. -/
theorem State.closeLaunch_bar {c b : Nat} (owned : (s.bar c b).owner = some n) (l : Launch) :
    ((s.closeLaunch n l).bar c b).owner = none ∧ ∀ i, i < 16 → readByte (s.closeLaunch n l).mem (barKey c b + i) = 0 := by
  obtain ⟨u, _, eq⟩ := s.closeLaunch_eq n l
  have core : (s.closeLaunch n l).core c = (s.core c).closed n := by
    rw [eq]
    exact aget_map (CoreSt.closed · n) rfl c s.cores
  have bar : (s.closeLaunch n l).bar c b = if (s.bar c b).owner = some n then { s.bar c b with owner := none } else s.bar c b := by
    rw [State.bar, core]
    exact aget_map (fun x : Bar => if x.owner = some n then { x with owner := none } else x) (d := Bar.free) rfl b (s.core c).bars
  refine ⟨by rw [bar, if_pos owned], fun i lt => ?_⟩
  rw [eq]
  exact readByte_barsZeroed c b i lt _ u (.inr (mem_barsOf owned))

/-! ## A launch retires (R67, R293) -/

theorem State.allDone_iff : s.allDone n l = true ↔ Claims.NothingLeft s n l := by
  unfold State.allDone
  simp only [Bool.and_eq_true, decide_eq_true_eq, Bool.not_eq_true', List.any_eq_false, List.all_eq_true,
    List.any_eq_true, not_exists, not_and]
  constructor
  · rintro ⟨⟨⟨⟨⟨started, plain⟩, saved⟩, tasks⟩, gangs⟩, cores⟩
    refine ⟨started, plain, saved, tasks, gangs, fun e mem => ?_⟩
    obtain ⟨⟨parts, copies⟩, mx⟩ := cores e mem
    exact ⟨parts, copies, mx⟩
  · rintro ⟨started, plain, saved, tasks, gangs, cores⟩
    refine ⟨⟨⟨⟨⟨started, plain⟩, saved⟩, tasks⟩, gangs⟩, fun e mem => ?_⟩
    obtain ⟨parts, copies, mx⟩ := cores e mem
    exact ⟨⟨parts, copies⟩, mx⟩

section
variable (found : s.launch? n = some l)
include found

theorem retirement_waits (standing : l.phase ≠ .retired) (left : s.allDone n l = false) : exec (.retirement n) s = .next s := by
  show execRetirement n s = _
  unfold execRetirement
  simp only [found]
  split
  · next retired _ => exact absurd retired standing
  · next retired _ => exact absurd retired standing
  · rw [left]
    rfl

theorem retirement_completes {a b : Nat} (ended : l.phase = .retired) (asked : l.packet = some (a, b)) :
    exec (.retirement n) s = .next ((s.dropLaunch n).complete a b 0x0001) := by
  show execRetirement n s = _
  unfold execRetirement
  simp only [found, ended, asked]

theorem retirement_settles (standing : l.phase ≠ .retired) (done : s.allDone n l = true) (quoted : s.quote? l.qid = some q) :
    exec (.retirement n) s = .next (
      let t := (s.closeLaunch n l).settleQuote q l
      if l.packet = none then t.dropLaunch n else t.setLaunch n { l with phase := .retired, slots := [], groups := [] }) := by
  show execRetirement n s = _
  unfold execRetirement
  simp only [found]
  split
  · next retired _ => exact absurd retired standing
  · next retired _ => exact absurd retired standing
  · simp only [done, quoted, Bool.not_true, Bool.false_eq_true, if_false, Option.isNone_iff_eq_none]

end

theorem Quote.grown_eq (q : Quote) (l : Launch) :
    q.grown l = (if q.cls = 1 then clkToNs l.lost else 0, if q.cls = 1 then 40 * l.moved else 0) := by
  unfold Quote.grown
  split <;> rfl

/-- What the close and the settlement of a launch leave, before its entry leaves. -/
structure Retired (s : State) (n : Nat) (l : Launch) (q : Quote) (t : State) : Prop where
  stands : ∃ x, t.quote? l.qid = some x ∧ x.state = 5 ∧ x.actT = clkToNs (s.tick - l.start) ∧ x.actE = s.countedNJ q l
  bars : s.dev.memBytes ≤ 2 ^ 60 → ∀ c b, (s.bar c b).owner = some n →
    (t.bar c b).owner = none ∧ readLE t.mem (barKey c b) 16 = 0
  within : clkToNs (s.tick - l.start) ≤ q.tmax + (q.grown l).1 → s.countedNJ q l ≤ q.emax + (q.grown l).2 →
    t.dev.records = s.dev.records
  late : q.tmax + (q.grown l).1 < clkToNs (s.tick - l.start) → q.party ≠ 1 → q.party ≠ 2 →
    ∃ r ∈ t.dev.records, r.kind = 6 ∧ r.cause = 0x17 ∧ r.info = 1 ∧ r.qid = l.qid ∧
      r.stval = n64 (clkToNs (s.tick - l.start) - (q.tmax + (q.grown l).1))

theorem State.retire_retired (quoted : s.quote? l.qid = some q) (quiet : q.packets = []) (n : Nat) :
    Retired s n l q ((s.closeLaunch n l).settleQuote q l) := by
  have barriers : ∀ {c b}, _ := @State.closeLaunch_bar s n
  obtain ⟨_, _, _, _, _, closed⟩ := Fitted.closeLaunch s n l
  have kept : (s.closeLaunch n l).quote? l.qid = some q ∧ (s.closeLaunch n l).dev = s.dev ∧ (s.closeLaunch n l).tick = s.tick := by
    rw [closed]
    exact ⟨quoted, rfl, rfl⟩
  obtain ⟨found, dev, tick⟩ := kept
  have counted : (s.closeLaunch n l).countedNJ q l = s.countedNJ q l := by rw [State.countedNJ, tick]; rfl
  obtain ⟨stands, records, slices, noted⟩ := State.settleQuote_settles found quiet l
  have within := State.settleBounds_within (l := l) found
  have late := State.settleBounds_late (l := l) found
  rw [tick, counted] at stands within
  rw [tick] at late
  refine ⟨stands, fun ends c b owned => ?_, fun time energy => ?_, fun long caller system => ?_⟩
  · obtain ⟨free, zero⟩ := barriers owned l
    have cores : ((s.closeLaunch n l).settleQuote q l).cores = (s.closeLaunch n l).cores := by
      obtain ⟨_, _, _, _, _, _, noted⟩ := noted
      rw [noted]
    refine ⟨by rw [State.bar, State.core, cores]; exact free, ?_⟩
    exact readLE_zero fun i lt => (slices.2 (dev ▸ ends) _ (Nat.le_add_right_of_le (barKey_high c b))).trans (zero i lt)
  · rw [records, within time energy, dev]
  · exact ⟨_, records ▸ late long caller system, rfl, rfl, rfl, rfl, rfl⟩

end

/-- A launch with nothing left retires (R67, R100, R250, R293, R295). -/
theorem launchesRetire : Claims.LaunchesRetire := by
  intro s n l found
  refine ⟨fun standing left => ?_, fun ended a b asked => retirement_completes found ended asked, ?_⟩
  · exact retirement_waits found standing (Bool.eq_false_iff.mpr fun done => left (State.allDone_iff.mp done))
  · intro q standing nothing quoted quiet ends time energy longest most
    obtain ⟨⟨x, here, state, actT, actE⟩, bars, within, late⟩ := State.retire_retired quoted quiet n
    have act := retirement_settles found standing (State.allDone_iff.mpr nothing) quoted
    rw [State.countedNJ_eq, Quote.grown_eq] at within
    rw [Quote.grown_eq] at late
    rw [State.countedNJ_eq] at actE
    generalize (s.closeLaunch n l).settleQuote q l = v at act here bars within late
    have rest : ∃ launches, (if l.packet = none then v.dropLaunch n
        else v.setLaunch n { l with phase := .retired, slots := [], groups := [] }) = { v with launches := launches } := by
      split
      · exact ⟨_, rfl⟩
      · exact ⟨_, rfl⟩
    obtain ⟨launches, rest⟩ := rest
    refine ⟨_, x, act, by rw [rest]; exact here, state, fun none => ?_, fun asked => ?_, actT, actE, ?_, ?_, ?_⟩
    · rw [if_pos none]
      exact afind_adel n v.launches
    · rw [if_neg asked]
      exact afind_aput_same ..
    · rw [rest]
      exact bars ends
    · rw [rest]
      exact within
    · rw [rest]
      exact late

end Sys2Proof.Machine

namespace Sys2Proof.Machine

section
variable {s : State} {n : Nat} {l : Launch}

/-! ## A launch stops and is set aside (R290, R291) -/

theorem foldl_keeps {α β : Type} (π : State → β) {f : State → α → State} (keeps : ∀ s y, π (f s y) = π s) (es : List α)
    (s : State) : π (es.foldl f s) = π s := by
  induction es generalizing s with
  | nil => rfl
  | cons y es ih => exact (ih (f s y)).trans (keeps s y)

theorem Writes.saveControls (s : State) (g : Nat) : Writes s (s.saveControls g) := by
  exact (Writes.controlUnless _ _ g false).trans (.controlUnless _ _ g true)

/-- The control words of a launch's gangs have been written. -/
def State.controlsSaved (s : State) (n : Nat) : State := (s.gangsOf n).foldl (fun s e => s.saveControls e.1) s

theorem Writes.controlsSaved (s : State) (n : Nat) : Writes s (s.controlsSaved n) := .foldl (fun _ _ => .saveControls _ _) _ _

theorem State.saveControls_plain {g : Nat} (dq : (s.gang g).dq.depth = 0) (uq : (s.gang g).uq.depth = 0) : s.saveControls g = s := by
  simp only [State.saveControls, dq, uq, if_true]

/-- A launch whose gangs have no queues writes no control word. -/
theorem State.controlsSaved_plain (order : Claims.Ordered s)
    (plain : ∀ e ∈ s.gangs, e.2.launch = n → e.2.dq.depth = 0 ∧ e.2.uq.depth = 0) : s.controlsSaved n = s := by
  have each : ∀ es : List (Nat × Gang), (∀ e ∈ es, s.saveControls e.1 = s) → es.foldl (fun s e => s.saveControls e.1) s = s := by
    intro es
    induction es with
    | nil => exact fun _ => rfl
    | cons e es ih =>
      intro none
      rw [List.foldl_cons, none e (List.mem_cons_self ..), ih fun e mem => none e (List.mem_cons_of_mem _ mem)]
  refine each _ fun e mem => ?_
  obtain ⟨listed, owned⟩ := List.mem_filter.mp mem
  obtain ⟨dq, uq⟩ := plain e listed (of_decide_eq_true owned)
  have gang : s.gang e.1 = e.2 := aget_of_mem order listed
  exact State.saveControls_plain (by rw [gang, dq]) (by rw [gang, uq])

theorem State.saveLaunch_mem (s : State) (n : Nat) (l : Launch) : (s.saveLaunch n l).mem = (s.controlsSaved n).mem := by
  unfold State.saveLaunch
  refine foldl_keeps State.mem (fun _ _ => ?_) _ _
  rfl

theorem State.saveLaunch_gangs (s : State) (n : Nat) (l : Launch) :
    (s.saveLaunch n l).gangs = s.gangs.filter fun e => decide (e.2.launch ≠ n) := by
  obtain ⟨_, _, _, wrote⟩ := Writes.controlsSaved s n
  have gangs : (s.controlsSaved n).gangs = s.gangs := (congrArg State.gangs wrote :)
  rw [← gangs]
  unfold State.saveLaunch
  refine foldl_keeps State.gangs (fun _ _ => ?_) _ _
  rfl

theorem State.saveLaunch_launch (s : State) (n : Nat) (l : Launch) : ∃ m, (s.saveLaunch n l).launch? n = some m ∧ m.phase = .saved ∧
    m.saved.map (·.1) = (s.gangsOf n).map (·.1) := by
  obtain ⟨_, _, _, wrote⟩ := Writes.controlsSaved s n
  have gangs : (s.controlsSaved n).gangsOf n = s.gangsOf n := by rw [State.gangsOf, wrote]; rfl
  refine ⟨_, afind_aput_same .., rfl, ?_⟩
  show (((s.controlsSaved n).gangsOf n).map fun e => (e.1, e.2.save l.kernel)).map (·.1) = _
  rw [List.map_map, gangs]
  rfl

section
variable (found : s.launch? n = some l)
include found

theorem preemptionSave_act (stopping : l.phase = .stopping) : exec (.preemptionSave n) s =
    if l.halt = 0 then (if s.launchStopped n l then .next (s.freeze n l) else .next s)
    else if s.tick + 1 < l.halt + s.saveClocks n l then .next s
    else .next (s.saveLaunch n l) := by
  have act : exec (.preemptionSave n) s = execPreemptionSave n s := rfl
  rw [act, execPreemptionSave, found]
  exact if_neg (fun running => running stopping)

theorem preemptionResume_waits (away : l.phase = .saved) (full : s.newParts l = none) : exec (.preemptionResume n) s = .next s := by
  have act : exec (.preemptionResume n) s = execPreemptionResume n s := rfl
  rw [act]
  simp [execPreemptionResume, found, away, full]

theorem preemptionResume_resumes {m : List (Nat × List (Nat × Nat))} (away : l.phase = .saved) (parts : s.newParts l = some m) :
    exec (.preemptionResume n) s = .next (s.resumeLaunch n l m) := by
  have act : exec (.preemptionResume n) s = execPreemptionResume n s := rfl
  rw [act]
  simp [execPreemptionResume, found, away, parts]

end

/-! ## A launch resumes (R292) -/

theorem Gang.restore_lane (x : Gang) (k : Nat) (u : Fin 32) : (x.restore k).lane u.val = (x.lane u.val).restore k := by
  simp [Gang.lane, Gang.restore]

theorem Gang.restore_sameThreads (x : Gang) (k : Nat) : Claims.SameThreads x (x.restore k) := by
  intro u
  rw [Gang.restore_lane]
  exact ⟨rfl, rfl, rfl, rfl, rfl, rfl⟩

theorem State.resumeCores_cores (n : Nat) (l : Launch) (m es : List (Nat × List (Nat × Nat))) (s : State) :
    ∃ cores, es.foldl (fun s e => s.resumeCore n l m e) s = { s with cores := cores } := by
  induction es generalizing s with
  | nil => exact ⟨_, rfl⟩
  | cons e es ih =>
    obtain ⟨cores, eq⟩ := ih (s.resumeCore n l m e)
    exact ⟨cores, eq⟩

/-- A launch of one gang resumes: its gang is set as it was saved; cores, quotations and launches alone change beside. -/
theorem State.resumeLaunch_one {g : Nat} {x : Gang} (saved : l.saved = [(g, x)]) (m : List (Nat × List (Nat × Nat))) :
    ∃ cores quotes launches, s.resumeLaunch n l m =
      { s.setGang (newGang m g) (x.restore (s.tick + 1 - l.halt)) with cores := cores, quotes := quotes, launches := launches } := by
  obtain ⟨cores, eq⟩ := State.resumeCores_cores n l m m s
  simp only [State.resumeLaunch, eq, saved, List.foldl_cons, List.foldl_nil]
  split
  · exact ⟨_, _, _, rfl⟩
  · exact ⟨_, _, _, rfl⟩

theorem State.resumeLaunch_launch (s : State) (n : Nat) (l : Launch) (m : List (Nat × List (Nat × Nat))) :
    ∃ y, (s.resumeLaunch n l m).launch? n = some y ∧ y.phase = .running ∧ y.lost = l.lost + (s.tick + 1 - l.gone) ∧
      y.moved = l.moved + l.saved.length ∧ y.saved = [] := ⟨_, afind_aput_same .., rfl, rfl, rfl, rfl⟩

end

/-- A launch is pre-empted and resumes (R290–R292). -/
theorem launchesPreempted : Claims.LaunchesPreempted := by
  intro s n l found
  refine ⟨fun stopping early => ?_, fun stopping halted => ?_, fun away => ⟨preemptionResume_waits found away, ?_⟩⟩
  · rw [preemptionSave_act found stopping, if_pos early]
    refine ⟨fun running => by rw [running]; rfl, fun stopped => ⟨_, if_pos stopped, rfl, afind_aput_same .., fun g x here => ?_⟩⟩
    exact (afind_map (fun _ (x : Gang) => if x.launch = n then { x with frozen := true } else x) g s.gangs).trans (by rw [here])
  · rw [preemptionSave_act found stopping, if_neg halted]
    refine ⟨fun early => if_pos early, fun due => ?_⟩
    obtain ⟨m, launch, phase, saved⟩ := s.saveLaunch_launch n l
    have gangs := s.saveLaunch_gangs n l
    refine ⟨_, m, if_neg (Nat.not_lt.mpr due), fun order plain => ?_, launch, phase, fun e mem => ?_, saved, fun g x here apart => ?_⟩
    · rw [State.saveLaunch_mem, State.controlsSaved_plain order plain]
    · rw [gangs] at mem
      exact of_decide_eq_true (List.mem_filter.mp mem).2
    · rw [gangs]
      exact afind_filter here (decide_eq_true apart)
  · intro m g x parts one
    obtain ⟨_, _, _, resumed⟩ := State.resumeLaunch_one (s := s) (n := n) one m
    have gang : (s.resumeLaunch n l m).gang (newGang m g) = x.restore (s.tick + 1 - l.halt) := by
      rw [resumed]
      exact State.gang_setGang s _ _
    obtain ⟨y, launch, phase, lost, moved, saved⟩ := s.resumeLaunch_launch n l m
    rw [one] at moved
    refine ⟨_, y, preemptionResume_resumes found away parts, by rw [resumed]; rfl, launch, phase, lost, moved, saved, ?_⟩
    rw [gang]
    exact ⟨x.restore_sameThreads _, rfl⟩

/-- Settles O53: each part of a quotation's and of a launch's life by itself. -/
theorem quotesAndLaunchesLive : Obligations.QuotesAndLaunchesLive :=
  ⟨⟨walksRun, bindingsEnd⟩, launchesStart, blocksStart, tasksStart, launchesRetire, launchesPreempted⟩

end Sys2Proof.Machine

namespace Sys2Proof.Machine

section
variable {s s1 : State} {i : Instr} {g : Nat} {l : Launch}

/-! ## Instructions of a conductor (R35, R112, R114) -/

theorem conductor_other (g : Nat) : ∀ h n, Agent.cond g ≠ .lane h n := fun _ _ => Agent.noConfusion

theorem condInstr_of_turn (turn : Claims.GroupTurn i s (.cond g) s1) (body : Nat → State → State) :
    condInstr i s body = .next (body g s1) := groupInstr_of_turn turn _

theorem State.groupResult_cores (s : State) (a : Agent) (n : Nat) (d : Dst) (v : W64) (latency : Nat) :
    (s.groupResult a n d v latency).cores = s.cores := by simp [State.groupResult]

theorem State.groupResult_launches (s : State) (a : Agent) (n : Nat) (d : Dst) (v : W64) (latency : Nat) :
    (s.groupResult a n d v latency).launches = s.launches := by simp [State.groupResult]

theorem State.launchOfGang_eq (found : s.launch? (s.gang g).launch = some l) : s.launchOfGang g = some ((s.gang g).launch, l) := by
  rw [State.launchOfGang, found]
  rfl

/-- A code that a command gives as a signed number, where it is none below zero. -/
theorem w64_natCast (n : Nat) : w64 (n : Int) = n64 n := BitVec.ofInt_natCast ..

theorem ThreadsStand.setLaunch (s : State) (n : Nat) (x : Launch) : ThreadsStand s (s.setLaunch n x) := ⟨rfl, rfl, rfl, rfl⟩

end

section
variable {s s1 : State} {g cl k : Nat} {l : Launch} {d : GDst} {r : GSrc}

/-! ## `share.join` (R112) -/

/-- A launch once a block has joined a group through a free slot: its members, and the block still to be mapped. -/
def Launch.withMember (l : Launch) (cl id k block : Nat) : Launch :=
  { l.setMembers cl id (aput k block (l.members cl id)) with joining := l.joining ++ [block] }

theorem freeSlot_absent {ms : List (Nat × Nat)} (free : freeSlot ms = some k) : afind k ms = none :=
  Option.isNone_iff_eq_none.mp (List.find?_some free :)

theorem shareJoin_faults (turn : Claims.GroupTurn (.shareJoin d r) s (.cond g) s1) (bad : f64 (readG s1 (.cond g) r) 8 56 ≠ 0) :
    exec (.shareJoin d r) s = .next (s1.groupFault (.cond g) 0x02 (readG s1 (.cond g) r)) :=
  (condInstr_of_turn turn _ : execShareJoin d r s = _).trans (congrArg _ (if_pos bad))

section
variable (turn : Claims.GroupTurn (.shareJoin d r) s (.cond g) s1) (found : s1.launch? (s1.gang g).launch = some l)
  (zero : f64 (readG s1 (.cond g) r) 8 56 = 0)
include turn found zero

theorem shareJoin_apart (apart : l.blockCluster (s1.gang g).block = none) :
    exec (.shareJoin d r) s = .next (s1.groupResult (.cond g) 1 (dstG d) (w64 (-1)) 1) := by
  refine (condInstr_of_turn turn _ : execShareJoin d r s = _).trans (congrArg _ ?_)
  simp only [if_neg (not_not.mpr zero), State.launchOfGang_eq found, apart]

variable (one : l.blockCluster (s1.gang g).block = some cl)
include one

theorem shareJoin_member (member : l.groupOf (s1.gang g).block ≠ none) :
    exec (.shareJoin d r) s = .next (s1.groupResult (.cond g) 1 (dstG d) (w64 (-3)) 1) := by
  refine (condInstr_of_turn turn _ : execShareJoin d r s = _).trans (congrArg _ ?_)
  simp only [if_neg (not_not.mpr zero), State.launchOfGang_eq found, one, if_pos (Option.isSome_iff_ne_none.mpr member)]

variable (alone : l.groupOf (s1.gang g).block = none)
include alone

theorem shareJoin_full (full : freeSlot (l.members cl (readG s1 (.cond g) r).toNat) = none) :
    exec (.shareJoin d r) s = .next (s1.groupResult (.cond g) 1 (dstG d) (w64 (-2)) 1) := by
  refine (condInstr_of_turn turn _ : execShareJoin d r s = _).trans (congrArg _ ?_)
  simp only [if_neg (not_not.mpr zero), State.launchOfGang_eq found, one, alone, Option.isSome_none, Bool.false_eq_true,
    if_false, full]

theorem shareJoin_joins (free : freeSlot (l.members cl (readG s1 (.cond g) r).toNat) = some k) :
    exec (.shareJoin d r) s = .next
      ((s1.setLaunch (s1.gang g).launch (l.withMember cl (readG s1 (.cond g) r).toNat k (s1.gang g).block)).groupResult (.cond g) 1
        (dstG d) (n64 k) 1) := by
  refine (condInstr_of_turn turn _ : execShareJoin d r s = _).trans (congrArg _ ?_)
  simp only [if_neg (not_not.mpr zero), State.launchOfGang_eq found, one, alone, Option.isSome_none, Bool.false_eq_true,
    if_false, free, w64_natCast, Launch.withMember]

end

/-- A code of a command on sharing groups: it changes no group. -/
theorem State.code_completes (unwaiting : Claims.Unwaiting s1 (.cond g)) (v : W64) :
    let t := s1.groupResult (.cond g) 1 (dstG d) v 1
    Claims.Completes s1 t (.cond g) 1 (dstG d) v ∧ t.launches = s1.launches :=
  ⟨s1.groupResult_completes (conductor_other g) unwaiting.1, State.groupResult_launches ..⟩

/-! ## `share.leave` and `share.query` (R112) -/

theorem shareLeave_alone (turn : Claims.GroupTurn (.shareLeave d) s (.cond g) s1)
    (found : s1.launch? (s1.gang g).launch = some l) (alone : l.groupOf (s1.gang g).block = none) :
    exec (.shareLeave d) s = .next (s1.groupResult (.cond g) 1 (dstG d) (w64 (-3)) 1) := by
  refine (condInstr_of_turn turn _ : execShareLeave d s = _).trans (congrArg _ ?_)
  simp only [State.launchOfGang_eq found, Option.bind_some, alone]

theorem shareLeave_waits (turn : Claims.GroupTurn (.shareLeave d) s (.cond g) s1)
    (found : s1.launch? (s1.gang g).launch = some l) (member : l.groupOf (s1.gang g).block ≠ none) :
    exec (.shareLeave d) s = .next (s1.startWait (.cond g) (.leave (dstG d)) 0) := by
  obtain ⟨x, named⟩ := Option.ne_none_iff_exists'.mp member
  refine (condInstr_of_turn turn _ : execShareLeave d s = _).trans (congrArg _ ?_)
  simp only [State.launchOfGang_eq found, Option.bind_some, named]

theorem shareQuery_faults (turn : Claims.GroupTurn (.shareQuery d r) s (.cond g) s1) (bad : f64 (readG s1 (.cond g) r) 8 56 ≠ 0) :
    exec (.shareQuery d r) s = .next (s1.groupFault (.cond g) 0x02 (readG s1 (.cond g) r)) :=
  (condInstr_of_turn turn _ : execShareQuery d r s = _).trans (congrArg _ (if_pos bad))

/-- The bits of a group's slots add up. -/
theorem slotMask_eq_sum (ms : List (Nat × Nat)) : ms.foldl (fun n m => n + 2 ^ m.1) 0 = (ms.map fun m => 2 ^ m.1).sum := by
  rw [List.sum_eq_foldl, List.foldl_map]

theorem shareQuery_reads (turn : Claims.GroupTurn (.shareQuery d r) s (.cond g) s1)
    (found : s1.launch? (s1.gang g).launch = some l) (zero : f64 (readG s1 (.cond g) r) 8 56 = 0) {ms : List (Nat × Nat)}
    (members : ((l.blockCluster (s1.gang g).block).map fun cl => l.members cl (readG s1 (.cond g) r).toNat).getD [] = ms)
    {own : Nat} (slot : ((ms.find? fun m => m.2 = (s1.gang g).block).map (·.1)).getD 31 = own) :
    exec (.shareQuery d r) s = .next
      (s1.groupResult (.cond g) 1 (dstG d) (n64 ((ms.map fun m => 2 ^ m.1).sum + own * 2 ^ 16)) 1) := by
  refine (condInstr_of_turn turn _ : execShareQuery d r s = _).trans (congrArg _ ?_)
  simp only [if_neg (not_not.mpr zero), State.launchOfGang_eq found, members, slot, slotMask_eq_sum]

end

/-- Settles O31: each word's cases in the order of their checks. -/
theorem shareGroups : Obligations.ShareGroups := by
  intro i s s1 g l turn unwaiting found id block
  have code {d : GDst} (v : W64) := State.code_completes (d := d) unwaiting v
  obtain ⟨idle, resumed, _⟩ := unwaiting
  refine ⟨?_, ?_, ?_⟩
  · rintro d r rfl v
    refine ⟨shareJoin_faults turn, fun zero => ⟨fun apart => ⟨_, shareJoin_apart turn found zero apart, code _⟩, fun cl one =>
      ⟨fun member => ⟨_, shareJoin_member turn found zero one member, code _⟩, fun alone =>
        ⟨fun k free => ?_, fun full => ⟨_, shareJoin_full turn found zero one alone full, code _⟩⟩⟩⟩⟩
    refine ⟨_, l.withMember cl v.toNat k block, shareJoin_joins turn found zero one alone free, State.groupResult_mem ..,
      (ThreadsStand.setLaunch s1 _ _).groupResult_completes (conductor_other g) idle, ?_,
      List.mem_append_right _ (List.mem_singleton_self _), freeSlot_absent free, rfl⟩
    rw [State.launch?, State.groupResult_launches]
    exact afind_aput_same ..
  · rintro d rfl
    refine ⟨fun alone => ⟨_, shareLeave_alone turn found alone, (code _).1⟩, fun member => ?_⟩
    have waits := State.startWait_waits (conductor_other g) resumed (.leave (dstG d))
    rw [groupTurn_tick turn] at waits
    refine ⟨_, shareLeave_waits turn found member, (State.startWait_rest resumed _).1, ?_, waits⟩
    rw [State.startWait_eq resumed, State.setCtx_launches]
  · rintro d r rfl v ms
    refine ⟨shareQuery_faults turn, fun zero => ?_⟩
    have members : ((l.blockCluster block).map fun cl => l.members cl v.toNat).getD [] = ms := by
      unfold ms
      cases l.blockCluster block <;> rfl
    have reads {own : Nat} := shareQuery_reads (own := own) turn found zero members
    cases slot : ms.find? fun m => m.2 = block with
    | none => exact ⟨_, reads (by rw [slot]; rfl), (code _).2, (code _).1⟩
    | some m => exact ⟨_, reads (by rw [slot]; rfl), (code _).2, (code _).1⟩

end Sys2Proof.Machine

namespace Sys2Proof.Machine

section
variable {s : State} {core part : Nat} {f : State → Nat → Task}

/-! ## Tasks added to a partition (R114, R115) -/

/-- The ready tasks of a partition. -/
def State.tasksAt (s : State) (core part : Nat) : List Task := ((s.core core).parts.toList.getD part Part.empty).tasks

/-- A task joins the ready tasks of its partition behind the others, and cores alone change. -/
theorem State.addTask_tasksAt (lt : part < 16) (x : Task) :
    s.addTask core part x = { s with cores := (s.addTask core part x).cores } ∧
      (s.addTask core part x).tasksAt core part = s.tasksAt core part ++ [x] := by
  rw [State.addTask, dif_pos lt]
  exact ⟨rfl, by simp [State.tasksAt, lt]⟩

/-- Tasks that do not depend on the cores, added one after another, stand in that order. -/
theorem State.foldl_addTask (lt : part < 16) (own : ∀ cores c, f { s with cores := cores } c = f s c) (cs : List Nat) :
    let t := cs.foldl (fun s c => s.addTask core part (f s c)) s
    t = { s with cores := t.cores } ∧ t.tasksAt core part = s.tasksAt core part ++ cs.map (f s) := by
  induction cs generalizing s with
  | nil => exact ⟨rfl, (List.append_nil _).symm⟩
  | cons c cs ih =>
    obtain ⟨rest, tasks⟩ := State.addTask_tasksAt (s := s) (core := core) lt (f s c)
    have same (cores : List (Nat × CoreSt)) (c' : Nat) : f { s.addTask core part (f s c) with cores := cores } c' = f s c' := by
      rw [rest]
      exact own cores c'
    obtain ⟨later, all⟩ := ih (s := s.addTask core part (f s c)) fun cores c' => (same cores c').trans (same _ c').symm
    refine ⟨?_, ?_⟩
    · rw [List.foldl_cons, later, rest]
    · rw [List.foldl_cons, all, tasks, List.map_congr_left fun c' _ => same _ c', List.append_assoc]
      rfl

end

section
variable {s s1 t u : State} {g n : Nat} {p : Fin 192} {d : GDst} {v : W64} {lane cond : Option W32} {b : List W64}

/-! ## A spawn block and its children (R114) -/

theorem spawnOk_iff (b : List W64) : spawnOk b = true ↔
    f64 (b.getD 0 0) 32 32 = 0 ∧ f64 (b.getD 1 0) 16 48 = 0 ∧ f64 (b.getD 3 0) 8 56 = 0 ∧ 1 ≤ f64 (b.getD 1 0) 0 8 ∧
      f64 (b.getD 1 0) 0 8 ≤ 12 ∧ 1 ≤ f64 (b.getD 1 0) 8 8 ∧ f64 (b.getD 1 0) 8 8 ≤ 32 ∧
      (f64 (b.getD 3 0) 0 8 ≤ 95 ∨ f64 (b.getD 3 0) 0 8 = 255) := by
  simp only [spawnOk, Bool.and_eq_true, Bool.or_eq_true, decide_eq_true_eq, and_assoc]
  rfl

/-- A conductor that has recorded a phase: its other fields, and every core, stand. -/
theorem State.recordPhase_gang (s : State) (g b : Nat) :
    ∃ phases, (s.recordPhase g b).gang g = { s.gang g with cond := { (s.gang g).cond with phases := phases } } :=
  ⟨_, s.gang_setGang g _⟩

/-- The state in which a spawn's children are made: the barrier's phase recorded where a barrier is named. -/
def State.spawning (s : State) (g : Nat) (b : List W64) : State := if spawnBar b < 96 then s.recordPhase g (spawnBar b) else s

theorem State.spawning_rest (s : State) (g : Nat) (b : List W64) :
    (s.spawning g b).mem = s.mem ∧ (s.spawning g b).cores = s.cores ∧ (s.spawning g b).tick = s.tick ∧
      ∃ phases, (s.spawning g b).gang g = { s.gang g with cond := { (s.gang g).cond with phases := phases } } := by
  unfold State.spawning
  split
  · exact ⟨rfl, rfl, rfl, s.recordPhase_gang g _⟩
  · exact ⟨rfl, rfl, rfl, _, rfl⟩

/-- Phases recorded on the way have no part in how an instruction completes but to be kept. -/
theorem completes_of_phases {a : Agent} {phases : List (Nat × Bool)} {d : Dst} (other : ∀ g n, a ≠ .lane g n)
    (ctx : u.ctx a = { s.ctx a with phases := phases }) (tick : u.tick = s.tick) (h : Claims.Completes u t a n d v) :
    Claims.Completes s t a n d v := by
  obtain ⟨rest, idle, value, others⟩ := h
  have step : u.wordStep a = s.wordStep a := by
    cases a with
    | cond g => simp only [State.wordStep, ctx]; rfl
    | _ => rfl
  have final (r : Nat) (lt : r < 192) : (u.ctx a).final r = (s.ctx a).final r := by
    rw [Ctx.final_eq _ lt, Ctx.final_eq _ lt, ctx]
  refine ⟨?_, idle, value, fun r lt ne => (others r lt ne).trans (final r lt)⟩
  rw [s.advance_ctx other, ← tick, ← step]
  rw [u.advance_ctx other, ctx] at rest
  exact rest

/-- The state with a spawn's children made, in their order. -/
def State.addChildren (s : State) (g : Nat) (b : List W64) (lane cond : Option W32) (n : Nat) : State :=
  (List.range n).foldl (fun s c => s.addTask (gangCore g) (gangPart g) (s.childTask g b lane cond c)) s

/-- The children of a spawn stand behind the tasks of its partition, and cores alone have changed. -/
theorem State.addChildren_tasks (s : State) (g : Nat) (b : List W64) (lane cond : Option W32) (n : Nat) :
    s.addChildren g b lane cond n = { s with cores := (s.addChildren g b lane cond n).cores } ∧
      (s.addChildren g b lane cond n).tasksAt (gangCore g) (gangPart g) =
        s.tasksAt (gangCore g) (gangPart g) ++ (List.range n).map (s.childTask g b lane cond) :=
  State.foldl_addTask (Nat.div_lt_of_lt_mul (Nat.mod_lt g (show 0 < 12 * 16 by decide))) (fun _ _ => rfl) _

/-- The state with every child of a spawn block made. -/
def State.spawned (s : State) (g : Nat) (b : List W64) (lane cond : Option W32) : State :=
  (s.spawning g b).addChildren g b lane cond (spawnCount b)

theorem State.spawned_rest (s : State) (g : Nat) (b : List W64) (lane cond : Option W32) :
    (s.spawned g b lane cond).mem = s.mem ∧ (s.spawned g b lane cond).tick = s.tick ∧
      (∃ phases, (s.spawned g b lane cond).ctx (.cond g) = { s.ctx (.cond g) with phases := phases }) ∧
      (s.spawned g b lane cond).tasksAt (gangCore g) (gangPart g) =
        s.tasksAt (gangCore g) (gangPart g) ++ (List.range (spawnCount b)).map ((s.spawning g b).childTask g b lane cond) := by
  obtain ⟨mem, cores, tick, phases, gang⟩ := s.spawning_rest g b
  obtain ⟨rest, tasks⟩ := (s.spawning g b).addChildren_tasks g b lane cond (spawnCount b)
  have before : (s.spawning g b).tasksAt = s.tasksAt := by
    funext core part
    rw [State.tasksAt, State.core, cores]
    rfl
  refine ⟨?_, ?_, ⟨phases, ?_⟩, by rw [← before]; exact tasks⟩
  all_goals rw [State.spawned, rest]
  · exact mem
  · exact tick
  · exact congrArg Gang.cond gang

/-! ## `spawn` (R114) -/

section
variable (turn : Claims.GroupTurn (.spawn p d) s (.cond g) s1) (block : s1.block g p.val 4 = b)
include turn block

theorem spawn_faults (bad : spawnOk b = false) :
    exec (.spawn p d) s = .next (s1.groupFault (.cond g) 0x02 (b.getD 1 0)) := by
  refine (condInstr_of_turn turn _ : execSpawn p d s = _).trans (congrArg _ ?_)
  simp only [block, bad, Bool.not_false, if_true]
  rfl

variable (ok : spawnOk b = true)
include ok

theorem spawn_deep (deep : (s1.kernel g).spawnDepth < (s1.gang g).depth + 1) :
    exec (.spawn p d) s = .next (s1.groupFault (.cond g) 0x0E (n64 ((s1.gang g).depth + 1))) := by
  refine (condInstr_of_turn turn _ : execSpawn p d s = _).trans (congrArg _ ?_)
  simp only [block, ok, Bool.not_true, Bool.false_eq_true, if_false, if_pos deep]

variable (within : (s1.gang g).depth + 1 ≤ (s1.kernel g).spawnDepth)
  (laneEntry : (s1.kernel g).spawnEntry false (spawnLane b) = some lane)
  (condEntry : (s1.kernel g).spawnEntry true (spawnCond b) = some cond)
include within laneEntry condEntry

/-- What a spawn within its depth gives, by its entries. -/
theorem spawn_act : exec (.spawn p d) s = .next
    (if lane.isNone && cond.isNone then s1.groupResult (.cond g) 1 (dstG d) (w64 (-1)) groupMemoryLatency
    else if 16 < (s1.tasksAt (gangCore g) (gangPart g)).length + spawnCount b then
      s1.groupResult (.cond g) 1 (dstG d) (w64 (-2)) groupMemoryLatency
    else (s1.spawned g b lane cond).groupResult (.cond g) 1 (dstG d) (n64 (spawnCount b)) groupMemoryLatency) := by
  refine (condInstr_of_turn turn _ : execSpawn p d s = _).trans (congrArg _ ?_)
  simp only [block, ok, Bool.not_true, Bool.false_eq_true, if_false, if_neg (Nat.not_lt.mpr within), laneEntry, condEntry, w64_natCast]
  rfl

theorem spawn_noEntry (none_ : (lane.isNone && cond.isNone) = true) :
    exec (.spawn p d) s = .next (s1.groupResult (.cond g) 1 (dstG d) (w64 (-1)) groupMemoryLatency) :=
  (spawn_act turn block ok within laneEntry condEntry).trans (congrArg _ (if_pos none_))

variable (named : ¬ (lane.isNone && cond.isNone) = true)
include named

theorem spawn_full (full : 16 < (s1.tasksAt (gangCore g) (gangPart g)).length + spawnCount b) :
    exec (.spawn p d) s = .next (s1.groupResult (.cond g) 1 (dstG d) (w64 (-2)) groupMemoryLatency) :=
  (spawn_act turn block ok within laneEntry condEntry).trans (congrArg _ ((if_neg named).trans (if_pos full)))

theorem spawn_adds (room : (s1.tasksAt (gangCore g) (gangPart g)).length + spawnCount b ≤ 16) :
    exec (.spawn p d) s = .next
      ((s1.spawned g b lane cond).groupResult (.cond g) 1 (dstG d) (n64 (spawnCount b)) groupMemoryLatency) :=
  (spawn_act turn block ok within laneEntry condEntry).trans
    (congrArg _ ((if_neg named).trans (if_neg (Nat.not_lt.mpr room))))

end

end

/-- Settles O30: the checks in their order, then the children made one after another. -/
theorem spawnAddsChildren : Obligations.SpawnAddsChildren := by
  intro p d s s1 g turn unwaiting b r0 r1 r3 legal core part depth
  have other := conductor_other g
  have ok : spawnOk b = true ↔ legal := spawnOk_iff b
  have code (v : W64) : Claims.Completes s1 (s1.groupResult (.cond g) 1 (dstG d) v groupMemoryLatency) (.cond g) 1 (dstG d) v :=
    s1.groupResult_completes other unwaiting.1
  refine ⟨fun bad => spawn_faults turn rfl (Bool.eq_false_iff.mpr (mt ok.mp bad)),
    fun good deep => spawn_deep turn rfl (ok.mpr good) deep, fun good within lane cond laneEntry condEntry => ⟨?_, fun named => ?_⟩⟩
  · rintro rfl rfl
    exact ⟨_, spawn_noEntry turn rfl (ok.mpr good) within laneEntry condEntry rfl, State.groupResult_cores .., code _⟩
  have entry : ¬ (lane.isNone && cond.isNone) = true := by
    rw [Bool.and_eq_true, Option.isNone_iff_eq_none, Option.isNone_iff_eq_none, not_and_or]
    exact named
  refine ⟨fun full => ?_, fun room => ?_⟩
  · exact ⟨_, spawn_full turn rfl (ok.mpr good) within laneEntry condEntry entry full, State.groupResult_cores .., code _⟩
  obtain ⟨mem, now, ⟨phases, ctx⟩, tasks⟩ := s1.spawned_rest g b lane cond
  have idle := (congrArg Ctx.wait ctx).trans unwaiting.1
  refine ⟨_, (List.range (spawnCount b)).map ((s1.spawning g b).childTask g b lane cond),
    spawn_adds turn rfl (ok.mpr good) within laneEntry condEntry entry room, (State.groupResult_mem ..).trans mem,
    completes_of_phases other ctx now (State.groupResult_completes _ other idle), ?_,
    List.length_map (as := List.range _) _ |>.trans List.length_range, fun c k child => ?_⟩
  · refine Eq.trans ?_ tasks
    simp only [part, State.tasksAt, State.core, State.groupResult_cores]
    rfl
  · obtain ⟨-, -, -, _, gang⟩ := s1.spawning_rest g b
    obtain ⟨lt, rfl⟩ := List.getElem?_eq_some_iff.mp child
    rw [List.getElem_map, List.getElem_range]
    refine ⟨(congrArg Gang.launch gang :), rfl, rfl, rfl, (congrArg (Gang.depth · + 1) gang :), (congrArg Gang.wid gang :), rfl, ?_⟩
    cases lane <;> rfl

end Sys2Proof.Machine

namespace Sys2Proof.Machine

section
variable {s t u : State} {a : Agent} {g n : Nat} {d : Dst} {v : W64}

/-! ## Waits that end (R137, R249, R251) -/

/-- A context whose wait is over: its register is written and the PC stands `n` words on; its instruction issued when
the wait began. -/
def State.waitOver (s : State) (a : Agent) (n : Nat) (d : Dst) (v : W64) : State :=
  let c := s.ctx a
  let s := (s.setCtx a { c with wait := none }).groupResult a n d v 1
  s.setCtx a { s.ctx a with lastIssue := c.lastIssue }

theorem State.endWait_eq (s : State) (a : Agent) (d : Dst) (v : W64) : s.endWait a d v = s.waitOver a 1 d v := rfl

theorem State.endAddrWait_eq (s : State) (other : ∀ g n, a ≠ .lane g n) (d : Dst) (v : W64) :
    s.endAddrWait a d v = s.waitOver a 2 d v := by
  cases a with
  | lane g n => exact absurd rfl (other g n)
  | _ => rfl

theorem State.waitOver_ctx (s : State) (other : ∀ g n, a ≠ .lane g n) (n : Nat) (d : Dst) (v : W64) :
    (s.waitOver a n d v).ctx a =
      { (s.advance a n).ctx a with
          pend := (s.ctx a).pend ++ if d = .none then [] else [result d (BitVec.allOnes 64) v (s.tick + 1)]
          wait := none, lastIssue := (s.ctx a).lastIssue } := by
  have still := s.ctx_setCtx a { s.ctx a with wait := none } other
  have step : (s.setCtx a { s.ctx a with wait := none }).wordStep a = s.wordStep a := by
    cases a with
    | cond g => simp only [State.wordStep, still]; rfl
    | _ => rfl
  refine (State.ctx_setCtx _ a _ other).trans ?_
  rw [State.groupResult_ctx _ other, State.advance_ctx _ other, s.advance_ctx other, step, still, State.setCtx_tick]

theorem State.waitOver_mem (s : State) (a : Agent) (n : Nat) (d : Dst) (v : W64) : (s.waitOver a n d v).mem = s.mem := by
  simp [State.waitOver, State.groupResult]

theorem State.waitOver_tick (s : State) (a : Agent) (n : Nat) (d : Dst) (v : W64) : (s.waitOver a n d v).tick = s.tick := by
  simp [State.waitOver, State.groupResult]

theorem State.waitOver_launches (s : State) (a : Agent) (n : Nat) (d : Dst) (v : W64) :
    (s.waitOver a n d v).launches = s.launches := by
  simp [State.waitOver, State.groupResult]

theorem State.waitOver_cores (s : State) (a : Agent) (n : Nat) (d : Dst) (v : W64) : (s.waitOver a n d v).cores = s.cores := by
  simp [State.waitOver, State.groupResult]

/-- The wait of one conductor ends: every other gang stands. -/
theorem State.waitOver_gang_other {h : Nat} (apart : h ≠ g) (s : State) (n : Nat) (d : Dst) (v : W64) :
    (s.waitOver (.cond g) n d v).gang h = s.gang h := by
  have set (s : State) (c : Ctx) : (s.setCtx (.cond g) c).gang h = s.gang h := s.gang_setGang_other _ apart
  simp only [State.waitOver, State.groupResult, State.advance, set]

/-- What a wait's end makes of a context depends on the threads and the clock alone. -/
theorem ThreadsStand.waitOver_ended (h : ThreadsStand s t) (other : ∀ g n, a ≠ .lane g n) :
    Claims.Ended s (t.waitOver a n d v) a n d v := by
  have ctx := t.waitOver_ctx other n d v
  have adv := s.advance_ctx other n
  rw [h.advance other, h.ctx, h.tick] at ctx
  refine ⟨by rw [ctx], fun r dst lt => ?_, fun r lt ne => ?_⟩
  · subst dst
    rw [Ctx.final_eq _ lt, ctx]
    simp only [reduceCtorEq, if_false, List.foldl_append, List.foldl_cons, List.foldl_nil]
    exact withResult_same lt
  · rw [Ctx.final_eq _ lt, Ctx.final_eq _ lt, ctx, adv]
    simp only [List.foldl_append]
    split
    · rfl
    · exact withResult_other lt ne

theorem ThreadsStand.endWait_ended (h : ThreadsStand s t) (other : ∀ g n, a ≠ .lane g n) :
    Claims.Ended s (t.endWait a d v) a 1 d v := h.waitOver_ended other

theorem ended_of_ctx (ctx : u.ctx a = t.ctx a) (h : Claims.Ended s t a n d v) : Claims.Ended s u a n d v := by
  obtain ⟨rest, value, others⟩ := h
  exact ⟨by rw [ctx]; exact rest, by rw [ctx]; exact value, by rw [ctx]; exact others⟩

theorem ended_from (other : ∀ g n, a ≠ .lane g n) (ctx : u.ctx a = s.ctx a) (tick : u.tick = s.tick)
    (h : Claims.Ended u t a n d v) : Claims.Ended s t a n d v := by
  obtain ⟨rest, value, others⟩ := h
  rw [State.advance_ctx_congr other ctx tick, ctx] at rest
  rw [ctx] at others
  exact ⟨rest, value, others⟩

/-! ## A wait on an address (R249) -/

theorem ThreadsStand.laneOf (h : ThreadsStand s t) (g : Nat) (u : Fin 32) : Claims.laneOf t g u = Claims.laneOf s g u :=
  congrArg (fun l => (aget Gang.empty g l).lane u.val) h.gangs

theorem ThreadsStand.acquired (s : State) (a : Agent) (scope : Scope) : ThreadsStand s (s.acquired a scope) := by
  unfold State.acquired
  split
  · exact ⟨rfl, rfl, rfl, rfl⟩
  · exact .refl s

theorem ThreadsStand.sync (s : State) (a : Agent) : ThreadsStand s (s.sync a) := ⟨rfl, rfl, rfl, rfl⟩

theorem State.acquired_mem (s : State) (a : Agent) (scope : Scope) : (s.acquired a scope).mem = s.mem := by
  unfold State.acquired
  split <;> rfl

theorem addressEnded_of_threads (h : ThreadsStand t u) (k : Claims.AddressEnded s t a d v) : Claims.AddressEnded s u a d v := by
  cases a with
  | lane g n =>
    intro flags index lt
    rw [h.laneOf]
    exact k flags index lt
  | _ => exact ended_of_ctx (h.ctx _) k

theorem State.endAddrWait_mem (s : State) (a : Agent) (d : Dst) (v : W64) : (s.endAddrWait a d v).mem = s.mem := by
  cases a with
  | lane g n => rfl
  | _ => exact State.waitOver_mem ..

/-- A lane thread's wait on an address ends as an instruction of two words does that writes one register. -/
theorem laneEnded_finish {l : Lane} {due : Nat} (flags : d ≠ .ffl) (index : ∀ k, d ≠ .x k) :
    Claims.LaneEnded l ({ l with wait := none }.finish 2 [result d (BitVec.allOnes 64) v due]) d v := by
  have shape : d = .none ∨ ∃ r, d = .reg r := by
    cases d with
    | none => exact .inl rfl
    | reg r => exact .inr ⟨r, rfl⟩
    | ffl => exact absurd rfl flags
    | x k => exact absurd rfl (index k)
  refine ⟨oneRegister_finish shape, ?_⟩
  rintro r rfl lt
  exact final_finish_reg lt

theorem ThreadsStand.endAddrWait_ended (h : ThreadsStand s t) : Claims.AddressEnded s (t.endAddrWait a d v) a d v := by
  cases a with
  | lane g n =>
    intro flags index lt
    have ends : Claims.laneOf (t.endAddrWait (.lane g n) d v) g ⟨n, lt⟩ =
        { Claims.laneOf s g ⟨n, lt⟩ with wait := none }.finish 2 [result d (BitVec.allOnes 64) v (t.tick + 1)] := by
      rw [← h.laneOf, Claims.laneOf, State.endAddrWait, State.gang_setGang, Gang.lane_setLane _ _ lt]
      rfl
    rw [ends]
    exact laneEnded_finish flags index
  | _ => exact h.waitOver_ended (fun _ _ => Agent.noConfusion)

/-- Bytes that memory holds are read from it, and reading them changes nothing. -/
theorem State.loadBytes_of_reads {loc : Loc} {v : Nat} (reads : Claims.Reads s loc n v) :
    ∃ bs, s.loadBytes loc n = (s, bs) ∧ leNat bs = v := by
  cases loc with
  | dev pa =>
    obtain ⟨fits, rfl⟩ := reads
    exact ⟨_, if_pos fits, rfl⟩
  | slice c o =>
    obtain ⟨held, rfl⟩ := reads
    refine ⟨_, rfl, ?_⟩
    rw [readLE, readBytes_eq_map]
    refine congrArg leNat (List.map_congr_left fun k mem => ?_)
    exact (if_pos (held k (List.mem_range.mp mem))).trans (congrArg (readByte s.mem) (Nat.add_assoc _ o k).symm)
  | host _ => exact reads.elim
  | peer _ _ => exact reads.elim

theorem ThreadsStand.waitPlace {s2 : State} {loc place : Loc} {dotD : Bool} {va : W64}
    (placed : s.waitPlace a loc dotD va = (s2, .ok place)) : ThreadsStand s s2 := by
  unfold State.waitPlace at placed
  split at placed
  · have walked := ThreadsStand.translate s (agentUnit a) (s.asidOf a) (s.rootOf a) va.toNat .load (s.levelOf a = .u)
    rwa [(congrArg Prod.fst placed : _ = s2)] at walked
  · cases placed
    exact .refl s

section
variable {s2 : State} {w : Wait} {loc place : Loc} {dotD eq : Bool} {expected va : W64} {scope : Scope} {v : Nat}
  (kind : w.kind = .addr loc dotD expected d eq scope va) (may : s.mayRead a loc = true)
  (placed : s.waitPlace a loc dotD va = (s2, .ok place)) (sound : s2.flawedLoc place 8 = false) (reads : Claims.Reads s2 place 8 v)
include kind may placed sound reads

/-- One observation of a word that can be read: by its test, and by whether it is the last. -/
theorem State.observe_eq (final : Bool) : s.observe a w final =
    if (decide (n64 v = expected) == eq) = true then ((s2.endAddrWait a d (n64 v)).acquired a scope).sync a
    else if final = true then s2.endAddrWait a d (n64 v) else s2 := by
  obtain ⟨bs, load, value⟩ := State.loadBytes_of_reads reads
  unfold State.observe
  simp only [kind, may, Bool.not_true, Bool.false_eq_true, if_false, placed, sound, load, value]

/-- The observation that ends the wait. -/
theorem State.observe_ends {final : Bool} (ends : decide (n64 v = expected) = eq ∨ final = true) :
    (s.observe a w final).mem = s2.mem ∧ Claims.AddressEnded s (s.observe a w final) a d (n64 v) := by
  have stand := ThreadsStand.waitPlace placed
  have ended := stand.endAddrWait_ended (a := a) (d := d) (v := n64 v)
  have mem := s2.endAddrWait_mem a d (n64 v)
  rw [State.observe_eq kind may placed sound reads]
  split
  · exact ⟨(State.acquired_mem ..).trans mem, addressEnded_of_threads ((ThreadsStand.acquired _ a scope).trans (.sync _ a)) ended⟩
  · next fails =>
    rw [if_pos (ends.resolve_left fun met => fails (beq_iff_eq.mpr met))]
    exact ⟨mem, ended⟩

theorem State.observe_waits (fails : decide (n64 v = expected) ≠ eq) : s.observe a w false = s2 := by
  rw [State.observe_eq kind may placed sound reads, if_neg (mt beq_iff_eq.mp fails)]
  rfl

end

end

end Sys2Proof.Machine

namespace Sys2Proof.Machine

section
variable {s : State} {g core : Nat} {x : Gang} {w : Wait}

/-! ## A barrier's deadline (R251) -/

theorem barWaitTimeout_act {b : Fin 96} {phase : Bool} {d : Dst} (waits : (s.gang g).cond.wait = some w)
    (kind : w.kind = .bar b phase d ∨ w.kind = .take b d) (runs : s.frozen g = false) :
    exec (.barWaitTimeout g) s = .next (if w.deadline ≤ s.tick then s.endWait (.cond g) d 1 else s) := by
  have act : exec (.barWaitTimeout g) s = if w.deadline ≤ s.tick && !s.frozen g then .next (s.endWait (.cond g) d 1) else .next s := by
    show execBarWaitTimeout g s = _
    rcases kind with kind | kind <;> simp only [execBarWaitTimeout, waits, kind]
  rw [act, runs, Bool.not_false, Bool.and_true, apply_ite Host.Outcome.next]
  simp only [decide_eq_true_eq]

/-! ## The conductors of a core that wait (R182, R251) -/

theorem filterMap_single {α β : Type} {l : List (Nat × α)} (order : l.Pairwise fun x y => x.1 < y.1) {e : Nat × α} (mem : e ∈ l)
    {f : Nat × α → Option β} {b : β} (hit : f e = some b) (miss : ∀ x ∈ l, x.1 ≠ e.1 → f x = none) : l.filterMap f = [b] := by
  induction l with
  | nil => contradiction
  | cons x l ih =>
    obtain ⟨below, order⟩ := List.pairwise_cons.mp order
    rcases List.mem_cons.mp mem with rfl | later
    · have rest : l.filterMap f = [] :=
        List.filterMap_eq_nil_iff.mpr fun y there => miss y (.tail _ there) (Nat.ne_of_gt (below y there))
      rw [List.filterMap_cons_some hit, rest]
    · rw [List.filterMap_cons_none (miss x (.head _) (Nat.ne_of_lt (below e later))),
        ih order later fun y there => miss y (.tail _ there)]

/-- One conductor alone of a core waits as a test asks. -/
theorem State.waiters_single {p : WaitKind → Bool} (order : Claims.Ordered s) (found : afind g s.gangs = some x)
    (here : gangCore g = core) (waits : x.cond.wait = some w) (asks : p w.kind = true)
    (alone : ∀ h y v, (h, y) ∈ s.gangs → gangCore h = core → y.cond.wait = some v → p v.kind = true → h = g) :
    s.waiters core p = [(g, w)] := by
  unfold State.waiters
  rw [filterMap_single order (mem_of_afind found) (b := (g, w)) (by simp [waits, here, asks]) ?_]
  · rfl
  · rintro ⟨h, y⟩ mem apart
    simp only
    split
    · next v wait =>
      refine if_neg fun both => apart ?_
      obtain ⟨same, asks⟩ := Bool.and_eq_true_iff.mp both
      exact alone h y v mem (of_decide_eq_true same) wait asks
    · rfl

/-! ## The baton passes on (R182, R197) -/

/-- The baton as a request takes it. -/
def Baton.taken (b : Baton) (g : Nat) (level : Level) : Baton :=
  if level = .u then { b with holder := some g, super := false } else { holder := some g, super := true, aside := b.holder }

/-- The baton handed on; to a handler, from this clock on. -/
def State.handBaton (s : State) (core : Nat) (b : Baton) : State :=
  let s := s.setBaton core b
  if b.super then s.setCore core { s.core core with handed := s.tick } else s

theorem State.handBaton_rest (s : State) (core : Nat) (b : Baton) :
    ThreadsStand s (s.handBaton core b) ∧ (s.handBaton core b).mem = s.mem ∧ ((s.handBaton core b).core core).baton = b := by
  unfold State.handBaton
  simp only
  split
  all_goals exact ⟨⟨rfl, rfl, rfl, rfl⟩, rfl, by simp [State.setBaton]⟩

theorem State.grantBaton_next {before : Nat} (next : s.batonNext core before = some g) : s.grantBaton core before =
    (s.handBaton core ((s.core core).baton.taken g (s.ctx (.cond g)).level)).endWait (.cond g) .none 0 := by
  simp only [State.grantBaton, next]
  rfl

section
variable (waiting : s.waiters core (· = .baton) = [(g, w)]) (early : w.since < s.tick)
include waiting early

/-- A single request of an earlier clock at U level: it gets the free baton. -/
theorem State.batonNext_user (level : (s.ctx (.cond g)).level = .u) (free : (s.core core).baton.holder = none) :
    s.batonNext core s.tick = some g := by
  simp [State.batonNext, waiting, early, level, free]

/-- A handler's single request of an earlier clock: it gets the baton that no handler holds. -/
theorem State.batonNext_handler (level : (s.ctx (.cond g)).level ≠ .u)
    (free : (s.core core).baton.holder = none ∨ (s.core core).baton.super = false) : s.batonNext core s.tick = some g := by
  have gives : ((s.core core).baton.super && (s.core core).baton.holder.isSome) = false := by
    rcases free with free | free <;> simp [free]
  simp [State.batonNext, waiting, early, level, gives]

end

theorem batonGrant_grants (next : s.batonNext core s.tick = some g) :
    ∃ t, exec (.batonGrant core) s = .next t ∧ t.mem = s.mem ∧ Claims.Ended s t (.cond g) 1 .none 0 ∧
      (t.core core).baton = (s.core core).baton.taken g (s.ctx (.cond g)).level := by
  obtain ⟨stand, mem, baton⟩ := s.handBaton_rest core ((s.core core).baton.taken g (s.ctx (.cond g)).level)
  refine ⟨_, congrArg Host.Outcome.next (State.grantBaton_next next),
    (State.endWait_mem ..).trans mem, stand.endWait_ended (conductor_other g), ?_⟩
  rw [State.endWait_eq, State.core, State.waitOver_cores]
  exact baton

end

/-! ## `share.leave` ends (R112) -/

section
variable {s : State} {l : Launch} {b : List W64} {n cl id slot block g : Nat} {ms : List (Nat × Nat)}

theorem Launch.touches_space {r : Range} (h : l.touches block cl id slot r = true) : r.1 = .g := by
  obtain ⟨sp, a, k⟩ := r
  exact of_decide_eq_true (Bool.and_eq_true_iff.mp h).1

/-- Where a copy reaches `.g`, a space of its block says so. -/
theorem State.copyRest_space {k : CopyCmd} {r : Range} (mem : r ∈ s.copyRest k) (reaches : r.1 = .g) :
    copySrcSpace k.block = .g ∨ copyDstSpace k.block = .g ∨ copyCompletes k.block = true ∧ copyDoneSpace k.block = .g := by
  have side {sp : Space} {n : Nat} {rs : List Range} (mem : r ∈ if (decide (n = 0) || decide (sp ≠ .g)) = true then [] else rs) :
      sp = .g := by
    by_contra apart
    simp [apart] at mem
  unfold State.copyRest at mem
  rcases List.mem_append.mp mem with sides | done
  · rcases List.mem_append.mp sides with source | target
    · split at source
      · contradiction
      · exact .inl (side source)
    · split at target
      · contradiction
      · exact .inr (.inl (side target))
  · split at done
    · next completes =>
      rw [List.mem_singleton.mp done] at reaches
      exact .inr (.inr ⟨completes, reaches⟩)
    · contradiction

theorem Stream.rest_space {d : Stream} {r : Range} (mem : r ∈ d.rest) : d.running = true ∧ d.space = .g := by
  unfold Stream.rest at mem
  split at mem
  · contradiction
  · next apart => simpa using apart

/-- No work of an engine that a launch has issued reaches `.g`: none is still to go through a slot. -/
theorem State.copyThrough_none (none_ : Claims.NoneShared s n) : s.copyThrough n l cl id slot = false := by
  obtain ⟨engines, streams⟩ := none_
  simp only [State.copyThrough, Bool.or_eq_false_iff, List.any_eq_false, Bool.or_eq_true, List.any_eq_true, Bool.and_eq_true,
    decide_eq_true_eq, not_or, not_exists, not_and]
  refine ⟨?_, ?_⟩
  · rintro ⟨c, x⟩ core
    obtain ⟨copies, ops⟩ := engines c x core
    refine ⟨fun k mem named r rest through => ?_, fun y mem named r lock through => ?_⟩
    · obtain ⟨source, target, done⟩ := copies k mem named
      rcases State.copyRest_space rest (Launch.touches_space through) with h | h | ⟨completes, h⟩
      · exact source h
      · exact target h
      · exact done completes h
    · exact ops y mem named r lock (Launch.touches_space through)
  · rintro ⟨h, x⟩ gang named d mem r rest -
    obtain ⟨k, lt, rfl⟩ := List.getElem_of_mem mem
    obtain ⟨running, space⟩ := Stream.rest_space rest
    exact streams h x gang named ⟨k, by simpa using lt⟩ (by simpa using running) (by simpa using space)

/-- A slot is busy exactly while an access through it is in flight, where no engine's work reaches `.g`. -/
theorem State.slotBusy_eq (none_ : Claims.NoneShared s n) :
    s.slotBusy n l cl id slot = s.flight.any fun f => f.pending && f.via = some (n, cl, id, slot) := by
  rw [State.slotBusy, State.copyThrough_none none_, Bool.or_false]

theorem Launch.mem_setMembers {c i : Nat} {ns : List (Nat × Nat)} : (c, i, ns) ∈ (l.setMembers cl id ms).groups ↔
    (c, i, ns) ∈ l.groups ∧ ¬ (c = cl ∧ i = id) ∨ ms ≠ [] ∧ c = cl ∧ i = id ∧ ns = ms := by
  unfold Launch.setMembers
  by_cases empty : ms = []
  · simp [empty, imp_iff_not_or]
  · simp [empty, imp_iff_not_or]

section
variable {w : Wait} {d : Dst} (waits : (s.gang g).cond.wait = some w) (kind : w.kind = .leave d)
  (found : afind (s.gang g).launch s.launches = some l) (member : l.groupOf (s.gang g).block = some (cl, id, slot, ms))
include waits kind found member

theorem shareLeaveRevoke_act : exec (.shareLeaveRevoke g) s = .next
    (if s.slotBusy (s.gang g).launch l cl id slot = true then s
    else (s.setLaunch (s.gang g).launch (l.setMembers cl id (adel slot ms))).endWait (.cond g) d (n64 slot)) := by
  show execShareLeaveRevoke g s = _
  have leaves : l.leaveGroup (s.gang g).block = l.setMembers cl id (adel slot ms) := by
    simp only [Launch.leaveGroup, member]
  simp only [execShareLeaveRevoke, waits, Option.map_some, kind, State.launchOfGang_eq found, member, leaves]
  split <;> rfl

/-- An access through the slot is still to be performed: the wait goes on. -/
theorem shareLeaveRevoke_waits {f : Flight} (mem : f ∈ s.flight) (pending : f.reply = none)
    (through : f.via = some ((s.gang g).launch, cl, id, slot)) : exec (.shareLeaveRevoke g) s = .next s := by
  have busy : s.slotBusy (s.gang g).launch l cl id slot = true := by
    rw [State.slotBusy, Bool.or_eq_true]
    exact .inl (List.any_eq_true.mpr ⟨f, mem, by simp [Flight.pending, pending, through]⟩)
  rw [shareLeaveRevoke_act waits kind found member, if_pos busy]

/-- Nothing moves through the slot: the block leaves it, and the wait ends. -/
theorem shareLeaveRevoke_leaves (quiet : ∀ f ∈ s.flight, f.reply = none → f.via ≠ some ((s.gang g).launch, cl, id, slot))
    (none_ : Claims.NoneShared s (s.gang g).launch) : exec (.shareLeaveRevoke g) s = .next
      ((s.setLaunch (s.gang g).launch (l.setMembers cl id (adel slot ms))).endWait (.cond g) d (n64 slot)) := by
  have free : ¬ s.slotBusy (s.gang g).launch l cl id slot = true := by
    simpa [State.slotBusy_eq none_, Flight.pending] using quiet
  rw [shareLeaveRevoke_act waits kind found member, if_neg free]

end

end

end Sys2Proof.Machine

namespace Sys2Proof.Machine

section
variable {s : State} {a : Agent} {n ended : Nat} {l : Launch}

/-! ## `idle` ends (R136) -/

theorem idleWake_act (waits : (s.ctx a).wait.map Wait.kind = some .idle) :
    exec (.idleWake a) s = .next (if s.wakes a = true then s.endWait a .none 0 else s) := by
  show execIdleWake a s = _
  rw [execIdleWake, State.wakeIdle, waits]
  split <;> rfl

/-! ## The next step (R252) -/

/-- The waits of some conductors, each listed once, end one after another: each of them as it stood, and every other gang
stands. -/
theorem State.foldl_endWait {es : List (Nat × Gang)} (order : es.Pairwise fun x y => x.1 < y.1) (s : State) :
    let t := es.foldl (fun s e => s.endWait (.cond e.1) .none 0) s
    t.mem = s.mem ∧ t.launches = s.launches ∧ (∀ e ∈ es, Claims.Ended s t (.cond e.1) 1 .none 0) ∧
      ∀ g, (∀ e ∈ es, e.1 ≠ g) → t.gang g = s.gang g := by
  induction es generalizing s with
  | nil => exact ⟨rfl, rfl, fun _ mem => absurd mem List.not_mem_nil, fun _ _ => rfl⟩
  | cons e es ih =>
    obtain ⟨below, order⟩ := List.pairwise_cons.mp order
    obtain ⟨mem, launches, ended, others⟩ := ih order (s.endWait (.cond e.1) .none 0)
    refine ⟨mem.trans (State.endWait_mem ..), launches.trans (State.waitOver_launches ..), fun x there => ?_, fun g apart => ?_⟩
    · rcases List.mem_cons.mp there with rfl | later
      · have still := others x.1 fun y later => Nat.ne_of_gt (below y later)
        exact ended_of_ctx (congrArg Gang.cond still) ((ThreadsStand.refl s).endWait_ended (conductor_other x.1))
      · have still := State.waitOver_gang_other (Nat.ne_of_gt (below x later)) s 1 .none 0
        exact ended_from (conductor_other x.1) (congrArg Gang.cond still) (State.waitOver_tick ..) (ended x later)
    · have still := State.waitOver_gang_other (apart e (.head _)).symm s 1 .none 0
      exact (others g fun y later => apart y (.tail _ later)).trans still

/-- The launch at the start of its next step. -/
def Launch.nextStep (l : Launch) (now : Nat) : Launch := { l with step := l.step + 1, stepStart := now, stepEnded := none }

/-- The gangs of a launch whose conductors wait for its next step. -/
def State.awaiting (s : State) (n : Nat) : List (Nat × Gang) :=
  s.gangs.filter fun e => decide (e.2.launch = n) && decide (e.2.cond.wait.map Wait.kind = some .phase)

theorem State.mem_awaiting {e : Nat × Gang} :
    e ∈ s.awaiting n ↔ e ∈ s.gangs ∧ e.2.launch = n ∧ e.2.cond.wait.map Wait.kind = some .phase := by
  rw [State.awaiting, List.mem_filter, Bool.and_eq_true, decide_eq_true_eq, decide_eq_true_eq]

section
variable (found : afind n s.launches = some l) (ends : l.stepEnded = some ended)
include found ends

theorem phaseStepStart_early (early : s.tick < ended + 32) : exec (.phaseStepStart n) s = .next s := by
  show execPhaseStepStart n s = _
  simp only [execPhaseStepStart, State.launch?, found, ends, decide_eq_true early, Bool.true_or, if_true]

variable (done : s.stepOver n l = true) (runs : l.phase = .running) (due : ended + 32 ≤ s.tick)
include done runs due

theorem phaseStepStart_act : exec (.phaseStepStart n) s = .next
    ((s.awaiting n).foldl (fun s e => s.endWait (.cond e.1) .none 0) (s.setLaunch n (l.nextStep s.tick))) := by
  show execPhaseStepStart n s = _
  have starts : (decide (s.tick < ended + 32) || !s.stepOver n l || decide (l.phase ≠ .running)) = false := by
    simp [done, runs, due]
  simp only [execPhaseStepStart, State.launch?, found, ends, starts, Bool.false_eq_true, if_false]
  rfl

/-- The launch steps, each conductor that waits for it goes on, and every other gang stands. -/
theorem phaseStepStart_starts (order : Claims.Ordered s) : ∃ t, exec (.phaseStepStart n) s = .next t ∧ t.mem = s.mem ∧
    afind n t.launches = some (l.nextStep s.tick) ∧ ∀ g x, afind g s.gangs = some x →
      (x.launch = n ∧ x.cond.wait.map Wait.kind = some .phase → Claims.Ended s t (.cond g) 1 .none 0) ∧
      (¬ (x.launch = n ∧ x.cond.wait.map Wait.kind = some .phase) → t.gang g = x) := by
  obtain ⟨mem, launches, ended, others⟩ := State.foldl_endWait (es := s.awaiting n) (order.filter _) (s.setLaunch n (l.nextStep s.tick))
  refine ⟨_, phaseStepStart_act found ends done runs due, mem, ?_, fun g x here => ⟨fun waits => ?_, fun stays => ?_⟩⟩
  · rw [launches]
    exact afind_aput_same ..
  · exact ended_from (u := s.setLaunch n (l.nextStep s.tick)) (conductor_other g) rfl rfl
      (ended (g, x) (State.mem_awaiting.mpr ⟨mem_of_afind here, waits⟩))
  · have gang : s.gang g = x := aget_of_afind here
    refine (others g ?_).trans gang
    rintro ⟨h, y⟩ there rfl
    obtain ⟨listed, waits⟩ := State.mem_awaiting.mp there
    obtain rfl : x = y := gang.symm.trans (aget_of_mem order listed)
    exact stays waits

end

/-! ## The reads of a wait on an address (R249) -/

theorem Wait.rereads_iff {w : Wait} {loc : Loc} {dotD eq : Bool} {expected va : W64} {d : Dst} {scope : Scope}
    (kind : w.kind = .addr loc dotD expected d eq scope va) (now : Nat) :
    w.rereads now = true ↔ dotD = false ∨ (now - w.since) % 64 = 0 := by
  rw [Wait.rereads, kind]
  simp

section
variable {w : Wait} (waits : s.waitOf a = some w)
include waits

theorem waitaReread_act : exec (.waitaReread a) s = .next (if w.rereads s.tick = true then s.observe a w false else s) := by
  show execWaitaReread a s = _
  rw [execWaitaReread, waits]

theorem waitaTimeout_act : exec (.waitaTimeout a) s = .next (if w.deadline < s.tick then s.observe a w true else s) := by
  show execWaitaTimeout a s = _
  rw [execWaitaTimeout, waits]

theorem State.finalRead_due (due : w.deadline ≤ s.tick) : s.finalRead a = s.observe a w true := by
  rw [State.finalRead, waits]
  exact if_pos due

end

end

/-- Settles O43: each wait by itself. -/
theorem waitsEnd : Obligations.WaitsEnd := by
  refine ⟨?_, ?_, ?_, ?_, ?_, ?_⟩
  · intro s s2 a w loc place dotD expected va d eq scope v waits kind may placed sound reads
    have ends {final : Bool} := State.observe_ends (w := w) (final := final) kind may placed sound reads
    refine ⟨fun rereads => ?_, fun due => ?_, fun past => ?_, fun early => ?_⟩
    · rw [waitaReread_act waits, if_pos ((Wait.rereads_iff kind _).mpr rereads)]
      exact ⟨fun met => ⟨_, rfl, ends (.inl met)⟩,
        fun fails => congrArg _ (State.observe_waits kind may placed sound reads fails)⟩
    · rw [State.finalRead_due waits due]
      exact ends (.inr rfl)
    · rw [waitaTimeout_act waits, if_pos past]
      exact ⟨_, rfl, ends (.inr rfl)⟩
    · rw [waitaTimeout_act waits, if_neg (Nat.not_lt.mpr early)]
  · intro s g w b phase d waits kind runs
    rw [barWaitTimeout_act waits kind runs]
    refine ⟨fun due => ?_, fun early => congrArg _ (if_neg (Nat.not_le.mpr early))⟩
    rw [if_pos due]
    exact ⟨_, rfl, State.endWait_mem .., (ThreadsStand.refl s).endWait_ended (conductor_other g)⟩
  · intro s core g x order found here waits early alone b
    obtain ⟨w, wait, kind⟩ := Option.map_eq_some_iff.mp waits
    have single := State.waiters_single (p := (· = .baton)) order found here wait (decide_eq_true kind)
      fun h y v mem at_ wait asks => alone h y mem at_ (Option.map_eq_some_iff.mpr ⟨v, wait, of_decide_eq_true asks⟩)
    have cond : s.ctx (.cond g) = x.cond := congrArg Gang.cond (aget_of_afind found)
    refine ⟨fun user free => ?_, fun handler free => ?_⟩
    · have grants := batonGrant_grants (State.batonNext_user single (early w wait) (cond ▸ user) free)
      rwa [cond, user] at grants
    · have grants := batonGrant_grants (State.batonNext_handler single (early w wait) (cond ▸ handler) free)
      rwa [cond, Baton.taken, if_neg handler] at grants
  · intro s g cl grp slot l ms w d waits kind found member
    refine ⟨fun ⟨f, mem, pending, through⟩ => shareLeaveRevoke_waits waits kind found member mem pending through,
      fun quiet none_ => ⟨_, l.setMembers cl grp (adel slot ms), shareLeaveRevoke_leaves waits kind found member quiet none_,
        State.endWait_mem .., (ThreadsStand.setLaunch s _ _).endWait_ended (conductor_other g), ?_,
        fun ns mem => ?_, fun c i ns apart => ?_⟩⟩
    · rw [State.endWait_eq, State.waitOver_launches]
      exact afind_aput_same ..
    · rcases Launch.mem_setMembers.mp mem with ⟨-, other⟩ | ⟨-, -, -, same⟩
      · exact absurd ⟨rfl, rfl⟩ other
      · exact same
    · rw [Launch.mem_setMembers]
      exact ⟨fun h => h.elim And.left fun ⟨_, c', i', _⟩ => absurd ⟨c', i'⟩ apart, fun mem => .inl ⟨mem, apart⟩⟩
  · intro s a waits conductor
    rw [idleWake_act waits]
    refine ⟨fun wakes => ?_, fun sleeps => congrArg _ (if_neg (Bool.eq_false_iff.mp sleeps))⟩
    rw [if_pos wakes]
    exact ⟨_, rfl, State.endWait_mem .., (ThreadsStand.refl s).endWait_ended (other_of_kind conductor)⟩
  · intro s n ended l order found ends done runs
    refine ⟨phaseStepStart_early found ends, fun due => ?_⟩
    obtain ⟨t, act, mem, launch, gangs⟩ := phaseStepStart_starts found ends done runs due order
    refine ⟨t, act, mem, launch, fun g x here => ?_⟩
    split
    · next waits => exact (gangs g x here).1 waits
    · next stays => exact (gangs g x here).2 stays

end Sys2Proof.Machine
